-- ==== Sys2Proof/Word.lean ====
section
/-! DEFINITION. The machine's words: a byte, a 64-bit dword, a 128-bit mask, a 1,024-bit vector register and a
64-byte memory line, with the plainest conversions between a number and a word (R4, R11, R12). -/

namespace Sys2Proof

/-- One byte of memory (R4). -/
abbrev Byte := BitVec 8

/-- A scalar register, a dword of a queue, a system register (R76). -/
abbrev Word := BitVec 64

/-- A mask register (R76, R80). -/
abbrev Mask := BitVec 128

/-- A vector register (R76). -/
abbrev Vec := BitVec 1024

/-- A 64-byte block of memory (R265). -/
abbrev Line := BitVec 512

/-- The dword that holds a number, kept to its low 64 bits (R12). -/
abbrev w64 (n : Nat) : Word := BitVec.ofNat 64 n

/-- The dword that holds an integer, kept to its low 64 bits (R12). -/
abbrev wInt (n : Int) : Word := BitVec.ofInt 64 n

end Sys2Proof
end

