-- ==== Sys2Proof/Syntax.lean ====
section
/-! DEFINITION. The whole instruction set as syntax: one constructor for each row of the opcode table, its 235
instructions (R115 to R124) and its 90 events (the steps the device takes between instructions). Register, mask,
barrier, table and queue numbers are natural numbers whose ranges WellFormed.lean states; an immediate is the
integer of R98 before scaling. -/

namespace Sys2Proof

/-- The ORDER values of an ORD prefix (R95). -/
inductive Order where
  | plain | acquire | release | acqRel
deriving DecidableEq, Repr

/-- The SCOPE values of an ORD prefix (R95, R288). -/
inductive Scope where
  | core | partition | device | system
deriving DecidableEq, Repr

/-- The cache hints of an ORD prefix (R95, R216). -/
inductive Hint where
  | normal | keep | stream
deriving DecidableEq, Repr

/-- The ordering an instruction carries (R95, R109). -/
structure OrdFld where
  order : Order
  scope : Scope
  hint : Hint
deriving DecidableEq, Repr

/-- The ordering of an instruction without an ORD prefix (R109). -/
def OrdFld.plain : OrdFld := ⟨.plain, .core, .normal⟩

/-- The ordering of a FENCE without an ORD prefix (R110, R299). -/
def OrdFld.fence : OrdFld := ⟨.acqRel, .partition, .normal⟩

/-- The second operand of a skip: a register, or the immediate that an IMMX prefix brings (R101, R452). -/
inductive SkSrc where
  | reg (b : Nat)
  | imm (i : Int)
deriving DecidableEq, Repr

/-- The instruction set. In the instructions `d`, `a` and `b` are the register fields of R101, `imm` and `off` the
immediates of R98, `w` a width code, `t` a float type code, `m` a mask, `ord` the ordering, `far` the far form,
`dbl` the doubleword or FP64 form. In the events the arguments name the agent or the item the event concerns. -/
inductive Instr where
  -- page 0 (R115, R116)
  | add (d a b : Nat) | sub (d a b : Nat) | and (d a b : Nat) | or (d a b : Nat) | xor (d a b : Nat)
  | addi (d a : Nat) (imm : Int) | li (d : Nat) (imm : Int)
  | ld (d a : Nat) (imm : Int) (ord : OrdFld) | st (d a : Nat) (imm : Int) (ord : OrdFld)
  | skeq (k a : Nat) (b : SkSrc) | skne (k a : Nat) (b : SkSrc) | sklt (k a : Nat) (b : SkSrc)
  | skge (k a : Nat) (b : SkSrc) | skltu (k a : Nat) (b : SkSrc) | skgeu (k a : Nat) (b : SkSrc)
  | skbs (k a : Nat) (b : SkSrc) | skbc (k a : Nat) (b : SkSrc)
  | br (off : Int) | call (off : Int)
  | jr (a : Nat) | callr (d a : Nat) | ret
  | not (d a : Nat) | neg (d a : Nat) | abs (d a : Nat)
  | sextB (d a : Nat) | sextH (d a : Nat) | sextW (d a : Nat)
  | zextB (d a : Nat) | zextH (d a : Nat) | zextW (d a : Nat)
  | nop | endTask | yield
  | shli (d n : Nat) | shri (d n : Nat) | srai (d n : Nat) | rori (d n : Nat)
  -- page 1 (R117)
  | mul (d a b : Nat) | mulh (d a b : Nat) | mulhu (d a b : Nat)
  | div (d a b : Nat) | divu (d a b : Nat) | rem (d a b : Nat) | remu (d a b : Nat)
  | min (d a b : Nat) | minu (d a b : Nat) | max (d a b : Nat) | maxu (d a b : Nat)
  | shl (d a b : Nat) | shr (d a b : Nat) | sra (d a b : Nat) | ror (d a b : Nat)
  | lea (d a b s : Nat)
  | clz (d a : Nat) | ctz (d a : Nat) | popc (d a : Nat) | brev (d a : Nat) | bswap (d a : Nat)
  | extu (d a pos len : Nat) | exts (d a pos len : Nat) | ins (d a pos len : Nat)
  | addw (d a b : Nat) | subw (d a b : Nat) | mulw (d a b : Nat)
  -- page 2 (R118)
  | ldb (d a : Nat) (imm : Int) (ord : OrdFld) | ldbu (d a : Nat) (imm : Int) (ord : OrdFld)
  | ldh (d a : Nat) (imm : Int) (ord : OrdFld) | ldhu (d a : Nat) (imm : Int) (ord : OrdFld)
  | ldw (d a : Nat) (imm : Int) (ord : OrdFld) | ldwu (d a : Nat) (imm : Int) (ord : OrdFld)
  | ldLong (d a : Nat) (imm : Int) (ord : OrdFld)
  | stb (d a : Nat) (imm : Int) (ord : OrdFld) | sth (d a : Nat) (imm : Int) (ord : OrdFld)
  | stw (d a : Nat) (imm : Int) (ord : OrdFld) | stLong (d a : Nat) (imm : Int) (ord : OrdFld)
  | ldxb (d a b s : Nat) (ord : OrdFld) | ldxbu (d a b s : Nat) (ord : OrdFld)
  | ldxh (d a b s : Nat) (ord : OrdFld) | ldxhu (d a b s : Nat) (ord : OrdFld)
  | ldxw (d a b s : Nat) (ord : OrdFld) | ldxwu (d a b s : Nat) (ord : OrdFld)
  | ldx (d a b s : Nat) (ord : OrdFld)
  | stxb (d a b s : Nat) (ord : OrdFld) | stxh (d a b s : Nat) (ord : OrdFld)
  | stxw (d a b s : Nat) (ord : OrdFld) | stx (d a b s : Nat) (ord : OrdFld)
  | vld (d a : Nat) (imm : Int) (w m : Nat) (ord : OrdFld) | vst (d a : Nat) (imm : Int) (w m : Nat) (ord : OrdFld)
  | vlds (d a b w m : Nat) (ord : OrdFld) | vsts (d a b w m : Nat) (ord : OrdFld)
  | vgth (d a b w m : Nat) (ord : OrdFld) | vsct (d a b w m : Nat) (ord : OrdFld)
  | prefr (a : Nat) (imm : Int) | prefw (a : Nat) (imm : Int) | prefk (a : Nat) (imm : Int)
  | prefrel (a : Nat) (imm : Int)
  | fence (ord : OrdFld) | fencem (ord : OrdFld) | fencee (ord : OrdFld) | fencer (ord : OrdFld)
  | tagq (d a : Nat)
  -- page 3 (R119)
  | amoadd (d a b : Nat) (dbl far : Bool) (ord : OrdFld) | amoand (d a b : Nat) (dbl far : Bool) (ord : OrdFld)
  | amoor (d a b : Nat) (dbl far : Bool) (ord : OrdFld) | amoxor (d a b : Nat) (dbl far : Bool) (ord : OrdFld)
  | amomin (d a b : Nat) (dbl far : Bool) (ord : OrdFld) | amomax (d a b : Nat) (dbl far : Bool) (ord : OrdFld)
  | amominu (d a b : Nat) (dbl far : Bool) (ord : OrdFld) | amomaxu (d a b : Nat) (dbl far : Bool) (ord : OrdFld)
  | amoswap (d a b : Nat) (dbl far : Bool) (ord : OrdFld)
  | cas (d a b : Nat) (dbl : Bool) (ord : OrdFld) | amof (d a b : Nat) (dbl far : Bool) (ord : OrdFld)
  | waitm (d a b : Nat) (ord : OrdFld)
  | bar (i a : Nat) | bcarm (i a : Nat) | bcwait (d i : Nat)
  -- page 4 (R120)
  | vadd (d a b w m : Nat) | vaddSat (d a b w m : Nat) | vsub (d a b w m : Nat) | vsubSat (d a b w m : Nat)
  | vmul (d a b w m : Nat) | vand (d a b w m : Nat) | vor (d a b w m : Nat) | vxor (d a b w m : Nat)
  | vshl (d a b w m : Nat) | vshr (d a b w m : Nat) | vsra (d a b w m : Nat)
  | vmin (d a b w m : Nat) | vminu (d a b w m : Nat) | vmax (d a b w m : Nat) | vmaxu (d a b w m : Nat)
  | vcmp (d a b c w : Nat) | vsel (d a b w m : Nat) | vperm (d a b w m : Nat)
  | vbcast (d a w m : Nat) | vidx (d w m : Nat) | vmov (d a w m : Nat)
  -- page 5 (R121)
  | vfadd (d a b t m : Nat) | vfsub (d a b t m : Nat) | vfmul (d a b t m : Nat) | vfma (d a b t m : Nat)
  | vfdiv (d a b t m : Nat) | vfsqrt (d a t m : Nat) | vfmin (d a b t m : Nat) | vfmax (d a b t m : Nat)
  | vfcmp (d a b c t : Nat) | vcvt (d a f t m : Nat)
  | vdec (d a tab : Nat) (four : Bool) (q : Nat) | venc (d a tab : Nat) (four : Bool) (q : Nat)
  | vredadd (d a t m : Nat) | vredmin (d a t m : Nat) | vredmax (d a t m : Nat)
  | vbsc (d a tab t m : Nat) | vfscl (d a b t m : Nat)
  -- page 6 (R122)
  | mma (d a b : Nat) (clear trans : Bool) | mzero (d : Nat) | mst (d a b fmt : Nat) | mld (d a : Nat)
  | mfmt (d a : Nat) | ttrn (d a : Nat) | dtld (i a : Nat)
  | rinja (d a b : Nat) | rinjb (d a b : Nat) | pset (a b : Nat) | pclr (b : Nat)
  | pmark (d a b : Nat) | rstat (d a : Nat) | rfetch (d a b : Nat)
  -- page 7 (R123)
  | btag (q : Nat) (off : Int) | qstat (d n : Nat) | vpop (d a : Nat) | vpush (d a : Nat)
  | cpy (d a b k : Nat) | cwait (d a : Nat)
  -- page 8
  | fork (off : Int) | forkh (a b : Nat) | join (a : Nat) (imm : Int) | tdec (a n : Nat) | tarm (d a b : Nat)
  | ship (d a : Nat) | ppt (mask : Nat) | tid (d f : Nat)
  -- page 9
  | fadd (d a b : Nat) (dbl : Bool) | fsub (d a b : Nat) (dbl : Bool) | fmul (d a b : Nat) (dbl : Bool)
  | fma (d a b : Nat) (dbl : Bool) | fdiv (d a b : Nat) (dbl : Bool) | fsqrt (d a : Nat) (dbl : Bool)
  | fmin (d a b : Nat) (dbl : Bool) | fmax (d a b : Nat) (dbl : Bool)
  | fskeq (k a b : Nat) (dbl : Bool) | fsklt (k a b : Nat) (dbl : Bool) | fskle (k a b : Nat) (dbl : Bool)
  | fskun (k a b : Nat) (dbl : Bool) | fskltq (k a b : Nat) (dbl : Bool) | fskleq (k a b : Nat) (dbl : Bool)
  | fcvt (d a f : Nat) (dbl rtz : Bool) | fclass (d a : Nat) (dbl : Bool)
  -- pages 10 and 11
  | lih (d : Nat) (imm : Int) | andi (d a : Nat) (imm : Int) | ori (d a : Nat) (imm : Int)
  | xori (d a : Nat) (imm : Int) | lpc (d : Nat) (off : Int)
  | mand (d a b : Nat) | mor (d a b : Nat) | mxor (d a b : Nat)
  | mnot (d a : Nat) | mpop (d a : Nat) | mfromx (d a : Nat) (hi : Bool) | mtox (d a : Nat) (hi : Bool)
  | vext (d a b w : Nat) | vins (d a b w : Nat)
  -- page 13 (R124, R277)
  | hsend (d a b : Nat) | hend | hdefer | dld (d a : Nat) (imm : Int) | dst (d a : Nat) (imm : Int)
  | bxf (d a b : Nat) | grant (d a b : Nat) | rgn (d a : Nat)
  -- page 14 (R124)
  | trap (imm : Nat) | brk (imm : Nat) | srd (d n : Nat) | swr (n a : Nat) | eret | rdc (d f : Nat)
  | wake (a : Nat) | waket (d a b : Nat) | tstart (d a : Nat) | xinv (a b : Nat) | sstop (d a : Nat)
  | conerd (d a : Nat) | cqsc (d a : Nat) | idle
  -- events at a thread's core
  | resultArrival (core slot : Nat) | poisonedResult (core slot : Nat) | threadWake (core slot : Nat)
  | taskDispatch (core : Nat) | stealSweep (core : Nat) | stealRequest (n : Nat) | stealReply (n : Nat)
  | placedPacketHop (n : Nat) | shipPacketArrival (n : Nat) | messageArrival (core slot : Nat)
  | decrementMessage (n : Nat) | q7RecordArrival (core : Nat) | sweep (part : Nat) | launchErrorEnd (part : Nat)
  -- events of the matrix array and the rings
  | arrayGrant (core : Nat) | matrixRetire (core : Nat) | q5RecordPush (hem station : Nat)
  | tileEntry (hem station fam : Nat) | tileArrival (hem station fam : Nat) | q6RecordPush (hem station : Nat)
  -- events of the mesh
  | meshFlitHop (n : Nat) | routerCombine (n k : Nat) | combinedReplySplit (n : Nat)
  -- events of translation and errors
  | translationWalk (core slot : Nat) | walkInvalidation (n : Nat) | walkStorePerformed (core slot : Nat)
  | joinReread (core slot : Nat) | uncorrectableError (space core addr : Nat)
  -- events of the copy engine
  | jobStart (hem : Nat) | elementDelivery (hem entry : Nat) | jobres (hem : Nat) (val : Word)
  | q2cfg (core : Nat) (val : Word)
  -- requests served at a home
  | readMiss (n : Nat) | writeMiss (n : Nat) | upgrade (n : Nat) | farAmo (n : Nat) | flush (n : Nat)
  | close (n : Nat) | evict (n : Nat) | engineRead (n : Nat) | engineWrite (n : Nat) | rcmd (n : Nat)
  | homecast (n : Nat) | reduceDone (part region : Nat) | handlerKill (pp slot : Nat)
  -- replies
  | grantRo (n : Nat) | grantRw (n : Nat) | data (n : Nat) | invalidate (n : Nat) | recall (n : Nat)
  | push (n : Nat) | fail (n : Nat) | ack (n : Nat)
  -- region commands
  | regionNone (part region : Nat) | regionBind (part region : Nat) | regionClose (part region : Nat)
  | regionClosed (part region : Nat) | regionReopen (part region : Nat)
  -- stops, saves and restores
  | stopTimeReached (core : Nat) | forcedStop (core slot : Nat) | cqscComplete (part : Nat)
  | saveComplete (part : Nat) | restoreComplete (part : Nat)
  -- partition commands and the Kiln
  | lock (part : Nat) | unlock (part : Nat) | clear (part : Nat) | kiln (part : Nat)
  | split (part : Nat) (ids : Word) | merge (part : Nat) (id : Word)
  -- kilnPhase: in phase 5, a mask of hems whose read-back failed and a mask of the rows that failed (R339)
  | frozenSettingWrite (part off : Nat) (val : Word) | kilnPhase (part hems rows : Nat) | kilnComplete (part : Nat)
  -- device registers and the host
  | registerWrite (off : Nat) (val : Word) | ovflog (val : Word) | extentRevoke (e : Nat) | revoked (e : Nat)
  | pageRequestAnswer (core : Nat) (d0 d1 d2 : Word)
  | queueMap (part q : Nat) | packetRead (part q : Nat) | launchPacket (part q : Nat)
  | fencePacket (part q : Nat) | signalPacket (part q : Nat) | queueRestart (part q : Nat)
  | reset | go | bringUp | hemRetire (hem : Nat) | throttleEvent (die : Nat)
  -- encodings and commands that nothing assigns
  | unassignedEncoding (eval : Word) | unknownOp (part : Nat) (cmd : Word)
deriving DecidableEq, Repr

end Sys2Proof
end

