-- ==== Sys2Proof/WellFormed.lean ====
section
/-! DEFINITION. Which instruction terms are well-formed: every operand lies in the range its kind has (R100), every
immediate fits beside the instruction's other prefixes (R94, R98, R132), every ordering is one the instruction accepts
(R110). An event has no encoding, so no event is well-formed as an encoding. -/

namespace Sys2Proof

/-- A scalar register field (R100). -/
def reg (r : Nat) : Bool := r < 128

/-- A vector register field (R100). -/
def vreg (r : Nat) : Bool := r < 32

/-- A mask register that is read (R100). -/
def mreg (r : Nat) : Bool := r < 8

/-- A mask register that is written: m0 is out of range (R80, R100). -/
def mregD (r : Nat) : Bool := 1 ≤ r && r < 8

/-- An accumulator field (R81, R100). -/
def acc (r : Nat) : Bool := r < 8

/-- How many REGX prefixes three register numbers need: one if any has a bit above [3:0] (R99). -/
def regxN (a b c : Nat) : Nat := if a < 16 && b < 16 && c < 16 then 0 else 1

/-- With ORDER plain, SCOPE must be core (R110). -/
def plainScope (o : OrdFld) : Bool := o.order != .plain || o.scope == .core

/-- The ORD values a load accepts (R110). -/
def ordLoad (o : OrdFld) : Bool := (o.order == .plain || o.order == .acquire) && plainScope o

/-- The ORD values a store accepts (R110). -/
def ordStore (o : OrdFld) : Bool := (o.order == .plain || o.order == .release) && plainScope o

/-- The ORD values an atomic accepts (R110). -/
def ordAtomic (o : OrdFld) : Bool := o.hint == .normal && plainScope o

/-- The ORD values a FENCE accepts (R110). -/
def ordFence (o : OrdFld) : Bool := o.hint == .normal && o.order != .plain

/-- How many ORD prefixes an access needs: none when it is plain with the normal hint (R109). -/
def ordN (o : OrdFld) : Nat := if o = OrdFld.plain then 0 else 1

/-- A signed immediate that a base field of `b` bits and at most `n` IMMX prefixes hold (R98). -/
def immS (b n : Nat) (v : Int) : Bool := -(2 : Int) ^ (b + 10 * n - 1) ≤ v && v < (2 : Int) ^ (b + 10 * n - 1)

/-- The second operand of a skip: a register, or an immediate of at least one IMMX prefix (R101, R452). -/
def skSrc (a : Nat) : SkSrc → Bool
  | .reg b => reg b
  | .imm i => immS 4 (4 - regxN a 0 0) i

/-- The well-formed instructions. -/
def Instr.wf : Instr → Bool
  | .add d a b => reg d && reg a && reg b
  | .sub d a b => reg d && reg a && reg b
  | .and d a b => reg d && reg a && reg b
  | .or d a b => reg d && reg a && reg b
  | .xor d a b => reg d && reg a && reg b
  | .addi d a imm => reg d && reg a && immS 4 (4 - regxN d a 0) imm
  | .li d imm => reg d && immS 8 (4 - regxN d 0 0) imm
  | .ld d a imm ord => reg d && reg a && ordLoad ord && immS 4 (4 - regxN d a 0 - ordN ord) imm
  | .st d a imm ord => reg d && reg a && ordStore ord && immS 4 (4 - regxN d a 0 - ordN ord) imm
  | .skeq k a b => reg a && 1 ≤ k && k < 4 && skSrc a b
  | .skne k a b => reg a && 1 ≤ k && k < 4 && skSrc a b
  | .sklt k a b => reg a && 1 ≤ k && k < 4 && skSrc a b
  | .skge k a b => reg a && 1 ≤ k && k < 4 && skSrc a b
  | .skltu k a b => reg a && 1 ≤ k && k < 4 && skSrc a b
  | .skgeu k a b => reg a && 1 ≤ k && k < 4 && skSrc a b
  | .skbs k a b => reg a && 1 ≤ k && k < 4 && skSrc a b
  | .skbc k a b => reg a && 1 ≤ k && k < 4 && skSrc a b
  | .br off => immS 12 4 off
  | .call off => immS 12 4 off
  | .jr a => reg a
  | .callr d a => reg d && reg a
  | .ret => true
  | .not d a => reg d && reg a
  | .neg d a => reg d && reg a
  | .abs d a => reg d && reg a
  | .sextB d a => reg d && reg a
  | .sextH d a => reg d && reg a
  | .sextW d a => reg d && reg a
  | .zextB d a => reg d && reg a
  | .zextH d a => reg d && reg a
  | .zextW d a => reg d && reg a
  | .nop => true
  | .endTask => true
  | .yield => true
  | .shli d n => reg d && n < 64
  | .shri d n => reg d && n < 64
  | .srai d n => reg d && n < 64
  | .rori d n => reg d && n < 64
  | .mul d a b => reg d && reg a && reg b
  | .mulh d a b => reg d && reg a && reg b
  | .mulhu d a b => reg d && reg a && reg b
  | .div d a b => reg d && reg a && reg b
  | .divu d a b => reg d && reg a && reg b
  | .rem d a b => reg d && reg a && reg b
  | .remu d a b => reg d && reg a && reg b
  | .min d a b => reg d && reg a && reg b
  | .minu d a b => reg d && reg a && reg b
  | .max d a b => reg d && reg a && reg b
  | .maxu d a b => reg d && reg a && reg b
  | .shl d a b => reg d && reg a && reg b
  | .shr d a b => reg d && reg a && reg b
  | .sra d a b => reg d && reg a && reg b
  | .ror d a b => reg d && reg a && reg b
  | .lea d a b s => reg d && reg a && reg b && s < 4
  | .clz d a => reg d && reg a
  | .ctz d a => reg d && reg a
  | .popc d a => reg d && reg a
  | .brev d a => reg d && reg a
  | .bswap d a => reg d && reg a
  | .extu d a pos len => reg d && reg a && pos < 64 && 1 ≤ len && len ≤ 64 && pos + len ≤ 64
  | .exts d a pos len => reg d && reg a && pos < 64 && 1 ≤ len && len ≤ 64 && pos + len ≤ 64
  | .ins d a pos len => reg d && reg a && pos < 64 && 1 ≤ len && len ≤ 64 && pos + len ≤ 64
  | .addw d a b => reg d && reg a && reg b
  | .subw d a b => reg d && reg a && reg b
  | .mulw d a b => reg d && reg a && reg b
  | .ldb d a imm ord => reg d && reg a && ordLoad ord && immS 4 (3 - regxN d a 0 - ordN ord) imm
  | .ldbu d a imm ord => reg d && reg a && ordLoad ord && immS 4 (3 - regxN d a 0 - ordN ord) imm
  | .ldh d a imm ord => reg d && reg a && ordLoad ord && immS 4 (3 - regxN d a 0 - ordN ord) imm
  | .ldhu d a imm ord => reg d && reg a && ordLoad ord && immS 4 (3 - regxN d a 0 - ordN ord) imm
  | .ldw d a imm ord => reg d && reg a && ordLoad ord && immS 4 (3 - regxN d a 0 - ordN ord) imm
  | .ldwu d a imm ord => reg d && reg a && ordLoad ord && immS 4 (3 - regxN d a 0 - ordN ord) imm
  | .ldLong d a imm ord => reg d && reg a && ordLoad ord && immS 4 (3 - regxN d a 0 - ordN ord) imm
  | .stb d a imm ord => reg d && reg a && ordStore ord && immS 4 (3 - regxN d a 0 - ordN ord) imm
  | .sth d a imm ord => reg d && reg a && ordStore ord && immS 4 (3 - regxN d a 0 - ordN ord) imm
  | .stw d a imm ord => reg d && reg a && ordStore ord && immS 4 (3 - regxN d a 0 - ordN ord) imm
  | .stLong d a imm ord => reg d && reg a && ordStore ord && immS 4 (3 - regxN d a 0 - ordN ord) imm
  | .ldxb d a b s ord => reg d && reg a && reg b && s < 4 && ordLoad ord
  | .ldxbu d a b s ord => reg d && reg a && reg b && s < 4 && ordLoad ord
  | .ldxh d a b s ord => reg d && reg a && reg b && s < 4 && ordLoad ord
  | .ldxhu d a b s ord => reg d && reg a && reg b && s < 4 && ordLoad ord
  | .ldxw d a b s ord => reg d && reg a && reg b && s < 4 && ordLoad ord
  | .ldxwu d a b s ord => reg d && reg a && reg b && s < 4 && ordLoad ord
  | .ldx d a b s ord => reg d && reg a && reg b && s < 4 && ordLoad ord
  | .stxb d a b s ord => reg d && reg a && reg b && s < 4 && ordStore ord
  | .stxh d a b s ord => reg d && reg a && reg b && s < 4 && ordStore ord
  | .stxw d a b s ord => reg d && reg a && reg b && s < 4 && ordStore ord
  | .stx d a b s ord => reg d && reg a && reg b && s < 4 && ordStore ord
  | .vld d a imm w m ord => vreg d && reg a && w < 4 && m < 8 && ordLoad ord && immS 4 (3 - regxN d a 0 - ordN ord) imm
  | .vst d a imm w m ord => vreg d && reg a && w < 4 && m < 8 && ordStore ord && immS 4 (3 - regxN d a 0 - ordN ord) imm
  | .vlds d a b w m ord => vreg d && reg a && reg b && w < 4 && m < 8 && ordLoad ord
  | .vsts d a b w m ord => vreg d && reg a && reg b && w < 4 && m < 8 && ordStore ord
  | .vgth d a b w m ord => vreg d && reg a && vreg b && w < 4 && m < 8 && ordLoad ord
  | .vsct d a b w m ord => vreg d && reg a && vreg b && w < 4 && m < 8 && ordStore ord
  | .prefr a imm => reg a && immS 4 (3 - regxN a 0 0) imm
  | .prefw a imm => reg a && immS 4 (3 - regxN a 0 0) imm
  | .prefk a imm => reg a && immS 4 (3 - regxN a 0 0) imm
  | .prefrel a imm => reg a && immS 4 (3 - regxN a 0 0) imm
  | .fence ord => ordFence ord
  | .fencem ord => ordFence ord
  | .fencee ord => ordFence ord
  | .fencer ord => ordFence ord
  | .tagq d a => reg d && reg a
  | .amoadd d a b _ _ ord => reg d && reg a && reg b && ordAtomic ord
  | .amoand d a b _ _ ord => reg d && reg a && reg b && ordAtomic ord
  | .amoor d a b _ _ ord => reg d && reg a && reg b && ordAtomic ord
  | .amoxor d a b _ _ ord => reg d && reg a && reg b && ordAtomic ord
  | .amomin d a b _ _ ord => reg d && reg a && reg b && ordAtomic ord
  | .amomax d a b _ _ ord => reg d && reg a && reg b && ordAtomic ord
  | .amominu d a b _ _ ord => reg d && reg a && reg b && ordAtomic ord
  | .amomaxu d a b _ _ ord => reg d && reg a && reg b && ordAtomic ord
  | .amoswap d a b _ _ ord => reg d && reg a && reg b && ordAtomic ord
  | .cas d a b _ ord => reg d && reg a && reg b && ordAtomic ord
  | .amof d a b _ _ ord => reg d && reg a && reg b && ordAtomic ord
  | .waitm d a b ord => reg d && reg a && reg b && ordLoad ord
  | .bar i a => reg a && i < 16
  | .bcarm i a => reg a && i < 8
  | .bcwait d i => reg d && i < 8
  | .vadd d a b w m => vreg d && vreg a && vreg b && w < 4 && m < 8
  | .vaddSat d a b w m => vreg d && vreg a && vreg b && w < 4 && m < 8
  | .vsub d a b w m => vreg d && vreg a && vreg b && w < 4 && m < 8
  | .vsubSat d a b w m => vreg d && vreg a && vreg b && w < 4 && m < 8
  | .vmul d a b w m => vreg d && vreg a && vreg b && w < 4 && m < 8
  | .vand d a b w m => vreg d && vreg a && vreg b && w < 4 && m < 8
  | .vor d a b w m => vreg d && vreg a && vreg b && w < 4 && m < 8
  | .vxor d a b w m => vreg d && vreg a && vreg b && w < 4 && m < 8
  | .vshl d a b w m => vreg d && vreg a && vreg b && w < 4 && m < 8
  | .vshr d a b w m => vreg d && vreg a && vreg b && w < 4 && m < 8
  | .vsra d a b w m => vreg d && vreg a && vreg b && w < 4 && m < 8
  | .vmin d a b w m => vreg d && vreg a && vreg b && w < 4 && m < 8
  | .vminu d a b w m => vreg d && vreg a && vreg b && w < 4 && m < 8
  | .vmax d a b w m => vreg d && vreg a && vreg b && w < 4 && m < 8
  | .vmaxu d a b w m => vreg d && vreg a && vreg b && w < 4 && m < 8
  | .vcmp d a b c w => mregD d && vreg a && vreg b && w < 4 && c < 6
  | .vsel d a b w m => vreg d && vreg a && vreg b && w < 4 && m < 8
  | .vperm d a b w m => vreg d && vreg a && vreg b && w < 4 && m < 8
  | .vbcast d a w m => vreg d && reg a && w < 4 && m < 8
  | .vidx d w m => vreg d && w < 4 && m < 8
  | .vmov d a w m => vreg d && vreg a && w < 4 && m < 8
  | .vfadd d a b t m => vreg d && vreg a && vreg b && t < 4 && m < 8
  | .vfsub d a b t m => vreg d && vreg a && vreg b && t < 4 && m < 8
  | .vfmul d a b t m => vreg d && vreg a && vreg b && t < 4 && m < 8
  | .vfma d a b t m => vreg d && vreg a && vreg b && t < 4 && m < 8
  | .vfdiv d a b t m => vreg d && vreg a && vreg b && t < 4 && m < 8
  | .vfsqrt d a t m => vreg d && vreg a && t < 4 && m < 8
  | .vfmin d a b t m => vreg d && vreg a && vreg b && t < 4 && m < 8
  | .vfmax d a b t m => vreg d && vreg a && vreg b && t < 4 && m < 8
  | .vfcmp d a b c t => mregD d && vreg a && vreg b && t < 4 && c < 6
  | .vcvt d a f t m => vreg d && vreg a && t < 4 && m < 8 && f < 12
  | .vdec d a tab _ q => vreg d && vreg a && tab < 8 && q < 4
  | .venc d a tab _ q => vreg d && vreg a && tab < 8 && q < 4
  | .vredadd d a t m => reg d && vreg a && t < 4 && m < 8
  | .vredmin d a t m => reg d && vreg a && t < 4 && m < 8
  | .vredmax d a t m => reg d && vreg a && t < 4 && m < 8
  | .vbsc d a tab t m => reg d && vreg a && tab < 8 && t < 4 && m < 8 && t != 3
  | .vfscl d a b t m => vreg d && vreg a && reg b && t < 4 && m < 8
  | .mma d a b _ _ => acc d && reg a && reg b
  | .mzero d => acc d
  | .mst d a b fmt => reg d && acc a && reg b && fmt < 4
  | .mld d a => acc d && reg a
  | .mfmt d a => reg d && reg a
  | .ttrn d a => reg d && reg a
  | .dtld i a => reg a && i < 8
  | .rinja d a b => reg d && reg a && reg b
  | .rinjb d a b => reg d && reg a && reg b
  | .pset a b => reg a && reg b
  | .pclr b => reg b
  | .pmark d a b => reg d && reg a && reg b
  | .rstat d a => reg d && reg a
  | .rfetch d a b => reg d && reg a && reg b
  | .btag q off => q < 8 && immS 8 3 off
  | .qstat d n => reg d && n < 8
  | .vpop d a => vreg d && (120 ≤ a && a < 128)
  | .vpush d a => d == 121 && vreg a
  | .cpy d a b k => reg d && reg a && reg b && k < 6
  | .cwait d a => reg d && reg a
  | .fork off => immS 4 3 off
  | .forkh a b => reg a && reg b
  | .join a imm => reg a && immS 4 (3 - regxN a 0 0) imm
  | .tdec a n => reg a && 1 ≤ n && n < 2 ^ (4 + 10 * (3 - regxN a 0 0))
  | .tarm d a b => reg d && reg a && reg b
  | .ship d a => reg d && reg a
  | .ppt mask => mask < 64
  | .tid d f => reg d && f < 4
  | .fadd d a b _ => reg d && reg a && reg b
  | .fsub d a b _ => reg d && reg a && reg b
  | .fmul d a b _ => reg d && reg a && reg b
  | .fma d a b _ => reg d && reg a && reg b
  | .fdiv d a b _ => reg d && reg a && reg b
  | .fsqrt d a _ => reg d && reg a
  | .fmin d a b _ => reg d && reg a && reg b
  | .fmax d a b _ => reg d && reg a && reg b
  | .fskeq k a b _ => reg a && reg b && 1 ≤ k && k < 4
  | .fsklt k a b _ => reg a && reg b && 1 ≤ k && k < 4
  | .fskle k a b _ => reg a && reg b && 1 ≤ k && k < 4
  | .fskun k a b _ => reg a && reg b && 1 ≤ k && k < 4
  | .fskltq k a b _ => reg a && reg b && 1 ≤ k && k < 4
  | .fskleq k a b _ => reg a && reg b && 1 ≤ k && k < 4
  | .fcvt d a f _ _ => reg d && reg a && f < 13
  | .fclass d a _ => reg d && reg a
  | .lih d imm => reg d && immS 8 (3 - regxN d 0 0) imm
  | .andi d a imm => reg d && reg a && immS 4 (3 - regxN d a 0) imm
  | .ori d a imm => reg d && reg a && immS 4 (3 - regxN d a 0) imm
  | .xori d a imm => reg d && reg a && immS 4 (3 - regxN d a 0) imm
  | .lpc d off => reg d && immS 8 (3 - regxN d 0 0) off
  | .mand d a b => mregD d && mreg a && mreg b
  | .mor d a b => mregD d && mreg a && mreg b
  | .mxor d a b => mregD d && mreg a && mreg b
  | .mnot d a => mregD d && mreg a
  | .mpop d a => reg d && mreg a
  | .mfromx d a _ => mregD d && reg a
  | .mtox d a _ => reg d && mreg a
  | .vext d a b w => reg d && vreg a && reg b && w < 4
  | .vins d a b w => vreg d && reg a && reg b && w < 4
  | .hsend d a b => reg d && reg a && reg b
  | .hend => true
  | .hdefer => true
  | .dld d a imm => reg d && reg a && immS 4 (3 - regxN d a 0) imm
  | .dst d a imm => reg d && reg a && immS 4 (3 - regxN d a 0) imm
  | .bxf d a b => reg d && reg a && reg b
  | .grant d a b => reg d && reg a && reg b
  | .rgn d a => reg d && reg a
  | .trap imm => imm < 2 ^ 38
  | .brk imm => imm < 256
  | .srd d n => reg d && n < 4096
  | .swr n a => reg a && n < 4096
  | .eret => true
  | .rdc d f => reg d && f < 2
  | .wake a => reg a
  | .waket d a b => reg d && reg a && reg b
  | .tstart d a => reg d && reg a
  | .xinv a b => reg a && reg b
  | .sstop d a => reg d && reg a
  | .conerd d a => reg d && reg a
  | .cqsc d a => reg d && reg a
  | .idle => true
  | .resultArrival _ _ => false
  | .poisonedResult _ _ => false
  | .threadWake _ _ => false
  | .taskDispatch _ => false
  | .stealSweep _ => false
  | .stealRequest _ => false
  | .stealReply _ => false
  | .placedPacketHop _ => false
  | .shipPacketArrival _ => false
  | .messageArrival _ _ => false
  | .decrementMessage _ => false
  | .q7RecordArrival _ => false
  | .sweep _ => false
  | .launchErrorEnd _ => false
  | .arrayGrant _ => false
  | .matrixRetire _ => false
  | .q5RecordPush _ _ => false
  | .tileEntry _ _ _ => false
  | .tileArrival _ _ _ => false
  | .q6RecordPush _ _ => false
  | .meshFlitHop _ => false
  | .routerCombine _ _ => false
  | .combinedReplySplit _ => false
  | .translationWalk _ _ => false
  | .walkInvalidation _ => false
  | .walkStorePerformed _ _ => false
  | .joinReread _ _ => false
  | .uncorrectableError _ _ _ => false
  | .jobStart _ => false
  | .elementDelivery _ _ => false
  | .jobres _ _ => false
  | .q2cfg _ _ => false
  | .readMiss _ => false
  | .writeMiss _ => false
  | .upgrade _ => false
  | .farAmo _ => false
  | .flush _ => false
  | .close _ => false
  | .evict _ => false
  | .engineRead _ => false
  | .engineWrite _ => false
  | .rcmd _ => false
  | .homecast _ => false
  | .reduceDone _ _ => false
  | .handlerKill _ _ => false
  | .grantRo _ => false
  | .grantRw _ => false
  | .data _ => false
  | .invalidate _ => false
  | .recall _ => false
  | .push _ => false
  | .fail _ => false
  | .ack _ => false
  | .regionNone _ _ => false
  | .regionBind _ _ => false
  | .regionClose _ _ => false
  | .regionClosed _ _ => false
  | .regionReopen _ _ => false
  | .stopTimeReached _ => false
  | .forcedStop _ _ => false
  | .cqscComplete _ => false
  | .saveComplete _ => false
  | .restoreComplete _ => false
  | .lock _ => false
  | .unlock _ => false
  | .clear _ => false
  | .kiln _ => false
  | .split _ _ => false
  | .merge _ _ => false
  | .frozenSettingWrite _ _ _ => false
  | .kilnPhase _ _ _ => false
  | .kilnComplete _ => false
  | .registerWrite _ _ => false
  | .ovflog _ => false
  | .extentRevoke _ => false
  | .revoked _ => false
  | .pageRequestAnswer _ _ _ _ => false
  | .queueMap _ _ => false
  | .packetRead _ _ => false
  | .launchPacket _ _ => false
  | .fencePacket _ _ => false
  | .signalPacket _ _ => false
  | .queueRestart _ _ => false
  | .reset => false
  | .go => false
  | .bringUp => false
  | .hemRetire _ => false
  | .throttleEvent _ => false
  | .unassignedEncoding _ => false
  | .unknownOp _ _ => false

end Sys2Proof
end

