-- ==== Sys2Proof/Decode.lean ====
section
/-! DEFINITION. The decoder, total on any halfwords and any bytes, which refuses by name in the order of R104, and
after it the encoder, which gives the shortest chain of a well-formed instruction (R132). A chain is first gathered
into a `Raw`: the page, the mod, the ordering, the nibbles of the base word and the REGX parts; then the page's table
says which instruction it is and what of it must be zero or in range. -/

namespace Sys2Proof

/-! ## What the decoder refuses -/

/-- The reasons of R105. -/
inductive Reason where
  | prefixNotAccepted | fifthPrefix | duplicated | reservedBits | unassignedPage | unassigned | pageOnTile | withheld
  | outOfRange | ordNotAccepted
deriving DecidableEq, Repr

/-- The code of a reason (R105). -/
def Reason.code : Reason → Nat
  | .prefixNotAccepted => 1 | .fifthPrefix => 2 | .duplicated => 3 | .reservedBits => 4 | .unassignedPage => 5
  | .unassigned => 6 | .pageOnTile => 7 | .withheld => 8 | .outOfRange => 9 | .ordNotAccepted => 10

/-- A refused chain: the reason and the halfword it names (R105). -/
structure Reject where
  reason : Reason
  index : Nat
  hword : Nat
deriving DecidableEq, Repr

/-- The EVAL of a decode-time ILLEGAL (R105). -/
def Reject.eval (r : Reject) : Word :=
  w64 (2 ^ 63 + r.hword % 65536 * 2 ^ 24 + r.index % 8 * 2 ^ 16 + r.reason.code)

/-- What decoding gives: an instruction with its length in halfwords, a refusal with the length of the chain, or
nothing yet because the bytes end before the base word. -/
inductive Decoded where
  | ok (i : Instr) (len : Nat)
  | illegal (r : Reject) (len : Nat)
  | short
deriving DecidableEq, Repr

/-! ## Halfwords (R94, R95) -/

/-- A halfword whose bits [15:12] are 0xF is a prefix (R94). -/
def isPrefix (h : Nat) : Bool := h / 4096 == 15

/-- The run of at most `n` prefixes that begins the list, and what follows it. -/
def takePrefixes : Nat → List Nat → List Nat × List Nat
  | 0, l => ([], l)
  | _ + 1, [] => ([], [])
  | n + 1, h :: t => if isPrefix h then (h :: (takePrefixes n t).1, (takePrefixes n t).2) else ([], h :: t)

/-- The prefixes seen so far: IMMX values with their positions, and REGX, PAGE and ORD payloads with theirs. -/
structure Seen where
  immx : List (Nat × Nat)
  regx : Option (Nat × Nat)
  page : Option (Nat × Nat)
  ord : Option (Nat × Nat)
deriving DecidableEq, Repr

/-- No prefix seen. -/
def Seen.none : Seen := ⟨[], Option.none, Option.none, Option.none⟩

/-- Takes the prefixes in address order: a second REGX, PAGE or ORD is duplicated; then reserved bits must be zero
(R104 step 3). -/
def collect (k : Nat) (s : Seen) : List Nat → Except Reject Seen
  | [] => .ok s
  | h :: t =>
    if h / 1024 % 4 = 0 then collect (k + 1) { s with immx := s.immx ++ [(k, h % 1024)] } t
    else if h / 1024 % 4 = 1 then
      if s.regx.isSome then .error ⟨.duplicated, k, h⟩
      else if h % 2 = 1 then .error ⟨.reservedBits, k, h⟩
      else collect (k + 1) { s with regx := some (k, h % 1024) } t
    else if h / 1024 % 4 = 2 then
      if s.page.isSome then .error ⟨.duplicated, k, h⟩
      else collect (k + 1) { s with page := some (k, h % 1024) } t
    else
      if s.ord.isSome then .error ⟨.duplicated, k, h⟩
      else if h % 16 ≠ 0 || h / 16 % 4 = 3 then .error ⟨.reservedBits, k, h⟩
      else collect (k + 1) { s with ord := some (k, h % 1024) } t

/-- A chain in pieces: page and mod; the ORD payload if there is one; the IMMX values; the REGX parts of the d, a and
b numbers; the four nibbles of the base word (R95, R97, R99). -/
structure Raw where
  page : Nat
  mod : Nat
  ord : Option Nat
  immx : List Nat
  dh : Nat
  ah : Nat
  bh : Nat
  major : Nat
  n2 : Nat
  n1 : Nat
  n0 : Nat
deriving DecidableEq, Repr

/-- The pieces of a chain (R95 to R99). -/
def Seen.raw (s : Seen) (base : Nat) : Raw :=
  let p := (s.page.map (·.2)).getD 0
  let x := (s.regx.map (·.2)).getD 0
  { page := p % 16, mod := p / 16 % 64, ord := s.ord.map (·.2), immx := s.immx.map (·.2),
    dh := x / 128 % 8, ah := x / 16 % 8, bh := x / 2 % 8,
    major := base / 4096 % 16, n2 := base / 256 % 16, n1 := base / 16 % 16, n0 := base % 16 }

/-- The d register number (R99). -/
def Raw.d (r : Raw) : Nat := r.dh * 16 + r.n2
/-- The a register number (R99). -/
def Raw.a (r : Raw) : Nat := r.ah * 16 + r.n1
/-- The b register number (R99). -/
def Raw.b (r : Raw) : Nat := r.bh * 16 + r.n0

/-- The ORDER field values (R95). -/
def orderOf (n : Nat) : Order := if n = 0 then .plain else if n = 1 then .acquire else if n = 2 then .release else .acqRel
/-- The SCOPE field values (R95). -/
def scopeOf (n : Nat) : Scope := if n = 0 then .core else if n = 1 then .partition else if n = 2 then .device else .system
/-- The HINT field values (R95). -/
def hintOf (n : Nat) : Hint := if n = 0 then .normal else if n = 1 then .keep else .stream

/-- The ordering an ORD payload names (R95). -/
def ordOf (p : Nat) : OrdFld := ⟨orderOf (p / 256 % 4), scopeOf (p / 64 % 4), hintOf (p / 16 % 4)⟩

/-- The ordering of an instruction other than FENCE (R109). -/
def Raw.ordFld (r : Raw) : OrdFld := (r.ord.map ordOf).getD OrdFld.plain
/-- The ordering of a FENCE (R110). -/
def Raw.ordFence (r : Raw) : OrdFld := (r.ord.map ordOf).getD OrdFld.fence

/-! ## Immediates (R98) -/

/-- The IMMX values as one number, the first most significant. -/
def immxVal (l : List Nat) : Nat := l.foldl (fun acc p => acc * 1024 + p) 0

/-- The unsigned immediate with a base field of `b` bits (R98). -/
def immU (b : Nat) (immx : List Nat) (base : Nat) : Nat := immxVal immx * 2 ^ b + base

/-- The signed immediate with a base field of `b` bits (R98). -/
def immSigned (b : Nat) (immx : List Nat) (base : Nat) : Int :=
  if immU b immx base < 2 ^ (b + 10 * immx.length - 1) then (immU b immx base : Int)
  else (immU b immx base : Int) - (2 : Int) ^ (b + 10 * immx.length)

/-- The signed immediate of an RRI instruction. -/
def Raw.imm4 (r : Raw) : Int := immSigned 4 r.immx r.n0
/-- The signed immediate of an RI or BT instruction. -/
def Raw.imm8 (r : Raw) : Int := immSigned 8 r.immx (r.n1 * 16 + r.n0)
/-- The signed immediate of a J instruction. -/
def Raw.imm12 (r : Raw) : Int := immSigned 12 r.immx (r.n2 * 256 + r.n1 * 16 + r.n0)

/-! ## Entries of the opcode map -/

/-- Where an unused bit that is not zero stands (R103, R105). -/
inductive Place where
  | page | regx | imm | base
deriving DecidableEq, Repr

/-- How many IMMX prefixes an entry takes (R114). -/
inductive ImmAcc where
  | none | any | one | atMostOne
deriving DecidableEq, Repr

/-- Which ORD prefixes an entry takes (R110, R114). -/
inductive OrdAcc where
  | none | load | store | atomic | fence
deriving DecidableEq, Repr

/-- One entry of the opcode map applied to a chain: what it accepts, whether its selectors are assigned, which bits
it does not use are set, whether its operands are in range, and the instruction. -/
structure Entry where
  imm : ImmAcc
  regx : Bool
  ord : OrdAcc
  assigned : Bool
  unused : List Place
  inRange : Bool
  instr : Instr
deriving DecidableEq, Repr

/-- The place named, when a part that must be zero is not. -/
def unusedAt (p : Place) (n : Nat) : List Place := if n = 0 then [] else [p]

/-- The mod bits above the ones an entry uses. -/
def Raw.modAbove (r : Raw) (k : Nat) : List Place := unusedAt .page (r.mod / k)
/-- A d field that is not used. -/
def Raw.noD (r : Raw) : List Place := unusedAt .regx r.dh ++ unusedAt .base r.n2
/-- An a field that is not used. -/
def Raw.noA (r : Raw) : List Place := unusedAt .regx r.ah ++ unusedAt .base r.n1
/-- A b field that is not used. -/
def Raw.noB (r : Raw) : List Place := unusedAt .regx r.bh ++ unusedAt .base r.n0
/-- REGX roles the format does not have (R99). -/
def Raw.noDH (r : Raw) : List Place := unusedAt .regx r.dh
def Raw.noAH (r : Raw) : List Place := unusedAt .regx r.ah
def Raw.noBH (r : Raw) : List Place := unusedAt .regx r.bh

/-- RRR with three registers, no immediate and no ordering; `k` bounds the mod. -/
def rrr (r : Raw) (k : Nat) (i : Instr) : Entry :=
  ⟨.none, true, .none, true, r.modAbove k, true, i⟩

/-- RF with two registers; the b role is not a register. -/
def rf (r : Raw) (k : Nat) (i : Instr) : Entry :=
  ⟨.none, true, .none, true, r.modAbove k ++ r.noBH, true, i⟩

/-- RF with f = 0: the entry has one function and does not use f, which must be zero (R103, R399). -/
def rf0 (r : Raw) (k : Nat) (unused : List Place) (i : Instr) : Entry :=
  ⟨.none, true, .none, true, r.modAbove k ++ r.noB ++ unused, true, i⟩

/-- RRI with two registers and a signed immediate. -/
def rri (r : Raw) (k : Nat) (ord : OrdAcc) (i : Instr) : Entry :=
  ⟨.any, true, ord, true, r.modAbove k ++ r.noBH, true, i⟩

/-- RI with one register and an immediate. -/
def ri (r : Raw) (i : Instr) : Entry :=
  ⟨.any, true, .none, true, r.modAbove 1 ++ r.noAH ++ r.noBH, true, i⟩

/-- The second operand of a skip (R101). -/
def Raw.skSrc (r : Raw) : SkSrc := if r.immx = [] then .reg r.b else .imm r.imm4

/-- SK: k in [11:10] must not be 0; with an immediate the b role is not a register (R101, R452). -/
def skip (r : Raw) (mk : Nat → Nat → SkSrc → Instr) : Entry :=
  ⟨.any, true, .none, true, r.modAbove 1 ++ r.noDH ++ (if r.immx = [] then [] else r.noBH), r.n2 / 4 != 0,
    mk (r.n2 / 4) r.a r.skSrc⟩

/-- Page 0 (R115, R116). -/
def page0 (r : Raw) : Option Entry :=
  match r.major with
  | 0 => some (rrr r 1 (.add r.d r.a r.b))
  | 1 => some (rrr r 1 (.sub r.d r.a r.b))
  | 2 => some (rrr r 1 (.and r.d r.a r.b))
  | 3 => some (rrr r 1 (.or r.d r.a r.b))
  | 4 => some (rrr r 1 (.xor r.d r.a r.b))
  | 5 => some (rri r 1 .none (.addi r.d r.a r.imm4))
  | 6 => some (ri r (.li r.d r.imm8))
  | 7 => some (rri r 1 .load (.ld r.d r.a r.imm4 r.ordFld))
  | 8 => some (rri r 1 .store (.st r.d r.a r.imm4 r.ordFld))
  | 9 => some (match r.n2 % 4 with
    | 0 => skip r .skeq | 1 => skip r .skne | 2 => skip r .sklt | _ => skip r .skge)
  | 10 => some (match r.n2 % 4 with
    | 0 => skip r .skltu | 1 => skip r .skgeu | 2 => skip r .skbs | _ => skip r .skbc)
  | 11 => some ⟨.any, false, .none, true, r.modAbove 1, true, .br r.imm12⟩
  | 12 => some ⟨.any, false, .none, true, r.modAbove 1, true, .call r.imm12⟩
  | 13 => some (match r.n0 with
    | 0 => { rf r 1 (.jr r.a) with unused := r.noBH ++ r.noD }
    | 1 => rf r 1 (.callr r.d r.a)
    | 2 => { rf r 1 .ret with unused := r.noBH ++ r.noD ++ r.noA }
    | 3 => rf r 1 (.not r.d r.a)
    | 4 => rf r 1 (.neg r.d r.a)
    | 5 => rf r 1 (.abs r.d r.a)
    | 6 => rf r 1 (.sextB r.d r.a)
    | 7 => rf r 1 (.sextH r.d r.a)
    | 8 => rf r 1 (.sextW r.d r.a)
    | 9 => rf r 1 (.zextB r.d r.a)
    | 10 => rf r 1 (.zextH r.d r.a)
    | 11 => rf r 1 (.zextW r.d r.a)
    | 12 => { rf r 1 .nop with unused := r.noBH ++ r.noD ++ r.noA }
    | 13 => { rf r 1 .endTask with unused := r.noBH ++ r.noD ++ r.noA }
    | 14 => { rf r 1 .yield with unused := r.noBH ++ r.noD ++ r.noA }
    | _ => { rf r 1 .nop with assigned := false })
  | 14 =>
    let n := r.n1 % 4 * 16 + r.n0
    let e (i : Instr) : Entry := ⟨.none, true, .none, true, r.modAbove 1 ++ r.noAH ++ r.noBH, true, i⟩
    some (match r.n1 / 4 with
    | 0 => e (.shli r.d n) | 1 => e (.shri r.d n) | 2 => e (.srai r.d n) | _ => e (.rori r.d n))
  | _ => none

/-- An entry whose selector has no such value. -/
def Entry.bad (e : Entry) : Entry := { e with assigned := false }

/-- BFX: pos and len of the 14-bit immediate; a len of 0 means 64 (R117, R380). -/
def bfx (r : Raw) (mk : Nat → Nat → Nat → Nat → Instr) : Entry :=
  let v := immU 4 r.immx r.n0
  let pos := v % 64
  let len := if v / 64 % 64 = 0 then 64 else v / 64 % 64
  ⟨.one, true, .none, true, r.modAbove 4 ++ r.noBH ++ unusedAt .imm (v / 4096), pos + len ≤ 64, mk r.d r.a pos len⟩

/-- Page 1, integer extended (R117). -/
def page1 (r : Raw) : Option Entry :=
  let two (x y : Nat → Nat → Nat → Instr) : Entry :=
    rrr r 2 (if r.mod % 2 = 0 then x r.d r.a r.b else y r.d r.a r.b)
  match r.major with
  | 0 => some (rrr r 1 (.mul r.d r.a r.b))
  | 1 => some (two .mulh .mulhu)
  | 2 => some (two .div .divu)
  | 3 => some (two .rem .remu)
  | 4 => some (two .min .minu)
  | 5 => some (two .max .maxu)
  | 6 => some (rrr r 1 (.shl r.d r.a r.b))
  | 7 => some (rrr r 1 (.shr r.d r.a r.b))
  | 8 => some (rrr r 1 (.sra r.d r.a r.b))
  | 9 => some (rrr r 1 (.ror r.d r.a r.b))
  | 10 => some (rrr r 4 (.lea r.d r.a r.b (r.mod % 4)))
  | 11 => some (match r.n0 with
    | 0 => rf r 1 (.clz r.d r.a)
    | 1 => rf r 1 (.ctz r.d r.a)
    | 2 => rf r 1 (.popc r.d r.a)
    | 3 => rf r 1 (.brev r.d r.a)
    | 4 => rf r 1 (.bswap r.d r.a)
    | _ => (rf r 1 .nop).bad)
  | 12 => some (match r.mod % 4 with
    | 0 => bfx r .extu | 1 => bfx r .exts | 2 => bfx r .ins | _ => (bfx r .extu).bad)
  | 13 => some (match r.mod % 4 with
    | 0 => rrr r 4 (.addw r.d r.a r.b)
    | 1 => rrr r 4 (.subw r.d r.a r.b)
    | 2 => rrr r 4 (.mulw r.d r.a r.b)
    | _ => (rrr r 4 .nop).bad)
  | _ => none

/-- The width code or the type code of a vector instruction: mod[4:3]. -/
def Raw.wt (r : Raw) : Nat := r.mod / 8 % 4
/-- The mask of a vector instruction: mod[2:0]. -/
def Raw.m (r : Raw) : Nat := r.mod % 8

/-- An indexed access: mod[4:3] is the scale, mod[5] and the bits named are not used (R118, R415, R461). -/
def indexed (r : Raw) (ord : OrdAcc) (unused : List Place) (i : Instr) : Entry :=
  ⟨.none, true, ord, true, unusedAt .page (r.mod / 32) ++ unused, true, i⟩

/-- A vector access; the registers that are vectors must be in range (R100, R118). -/
def vacc (imm : ImmAcc) (ord : OrdAcc) (unused : List Place) (ok : Bool) (i : Instr) : Entry :=
  ⟨imm, true, ord, true, unused, ok, i⟩

/-- A PREF form (R436). -/
def pref (r : Raw) (mk : Nat → Int → Instr) : Entry :=
  ⟨.any, true, .none, true, r.modAbove 4 ++ r.noBH ++ r.noD, true, mk r.a r.imm4⟩

/-- A FENCE form: the body is zero and it accepts only PAGE and ORD (R299, R403). -/
def fenceOf (r : Raw) (mk : OrdFld → Instr) : Entry :=
  ⟨.none, false, .fence, true, r.modAbove 4 ++ unusedAt .base (r.n2 + r.n1 + r.n0), true, mk r.ordFence⟩

/-- Page 2, memory (R118). -/
def page2 (r : Raw) : Option Entry :=
  let o := r.ordFld
  match r.major with
  | 0 => some (match r.mod % 8 with
    | 0 => rri r 8 .load (.ldb r.d r.a r.imm4 o)
    | 1 => rri r 8 .load (.ldbu r.d r.a r.imm4 o)
    | 2 => rri r 8 .load (.ldh r.d r.a r.imm4 o)
    | 3 => rri r 8 .load (.ldhu r.d r.a r.imm4 o)
    | 4 => rri r 8 .load (.ldw r.d r.a r.imm4 o)
    | 5 => rri r 8 .load (.ldwu r.d r.a r.imm4 o)
    | 6 => rri r 8 .load (.ldLong r.d r.a r.imm4 o)
    | _ => (rri r 8 .load .nop).bad)
  | 1 => some (match r.mod % 4 with
    | 0 => rri r 4 .store (.stb r.d r.a r.imm4 o)
    | 1 => rri r 4 .store (.sth r.d r.a r.imm4 o)
    | 2 => rri r 4 .store (.stw r.d r.a r.imm4 o)
    | _ => rri r 4 .store (.stLong r.d r.a r.imm4 o))
  | 2 => some (match r.mod % 8 with
    | 0 => indexed r .load [] (.ldxb r.d r.a r.b r.wt o)
    | 1 => indexed r .load [] (.ldxbu r.d r.a r.b r.wt o)
    | 2 => indexed r .load [] (.ldxh r.d r.a r.b r.wt o)
    | 3 => indexed r .load [] (.ldxhu r.d r.a r.b r.wt o)
    | 4 => indexed r .load [] (.ldxw r.d r.a r.b r.wt o)
    | 5 => indexed r .load [] (.ldxwu r.d r.a r.b r.wt o)
    | 6 => indexed r .load [] (.ldx r.d r.a r.b r.wt o)
    | _ => (indexed r .load [] .nop).bad)
  | 3 =>
    let u := unusedAt .page (r.mod / 4 % 2)
    some (match r.mod % 4 with
    | 0 => indexed r .store u (.stxb r.d r.a r.b r.wt o)
    | 1 => indexed r .store u (.stxh r.d r.a r.b r.wt o)
    | 2 => indexed r .store u (.stxw r.d r.a r.b r.wt o)
    | _ => indexed r .store u (.stx r.d r.a r.b r.wt o))
  | 4 => some (vacc .any .load (r.modAbove 32 ++ r.noBH) (vreg r.d) (.vld r.d r.a r.imm4 r.wt r.m o))
  | 5 => some (vacc .any .store (r.modAbove 32 ++ r.noBH) (vreg r.d) (.vst r.d r.a r.imm4 r.wt r.m o))
  | 6 => some (if r.mod / 32 = 0 then vacc .none .load [] (vreg r.d) (.vlds r.d r.a r.b r.wt r.m o)
      else vacc .none .store [] (vreg r.d) (.vsts r.d r.a r.b r.wt r.m o))
  | 7 => some (if r.mod / 32 = 0 then vacc .none .load [] (vreg r.d && vreg r.b) (.vgth r.d r.a r.b r.wt r.m o)
      else vacc .none .store [] (vreg r.d && vreg r.b) (.vsct r.d r.a r.b r.wt r.m o))
  | 8 => some (match r.mod % 4 with
    | 0 => pref r .prefr | 1 => pref r .prefw | 2 => pref r .prefk | _ => pref r .prefrel)
  | 9 => some (match r.mod % 4 with
    | 0 => fenceOf r .fence | 1 => fenceOf r .fencem | 2 => fenceOf r .fencee | _ => fenceOf r .fencer)
  | 10 => some (rf0 r 1 [] (.tagq r.d r.a))
  | _ => none

/-- An integer atomic: mod[4] doubleword, mod[5] far (R119, R372). -/
def amo (r : Raw) (mk : Nat → Nat → Nat → Bool → Bool → OrdFld → Instr) : Entry :=
  ⟨.none, true, .atomic, true, [], true, mk r.d r.a r.b (r.mod / 16 % 2 == 1) (r.mod / 32 == 1) r.ordFld⟩

/-- Page 3, atomics and synchronisation (R119). -/
def page3 (r : Raw) : Option Entry :=
  match r.major with
  | 0 => some (match r.mod % 16 with
    | 0 => amo r .amoadd | 1 => amo r .amoand | 2 => amo r .amoor | 3 => amo r .amoxor | 4 => amo r .amomin
    | 5 => amo r .amomax | 6 => amo r .amominu | 7 => amo r .amomaxu | 8 => amo r .amoswap
    | _ => (amo r .amoadd).bad)
  | 1 => some ⟨.none, true, .atomic, true, unusedAt .page (r.mod % 16 + r.mod / 32), true,
      .cas r.d r.a r.b (r.mod / 16 % 2 == 1) r.ordFld⟩
  | 2 => some ⟨.none, true, .atomic, true, unusedAt .page (r.mod / 2 % 16), true,
      .amof r.d r.a r.b (r.mod % 2 == 1) (r.mod / 32 == 1) r.ordFld⟩
  | 3 => some ⟨.none, true, .load, true, r.modAbove 1, true, .waitm r.d r.a r.b r.ordFld⟩
  | 4 => some ⟨.none, true, .none, true, r.modAbove 1 ++ r.noBH ++ r.noD, true, .bar r.n0 r.a⟩
  | 5 => some ⟨.none, true, .none, true, r.modAbove 1 ++ r.noBH ++ r.noD, r.n0 < 8, .bcarm r.n0 r.a⟩
  | 6 => some ⟨.none, true, .none, true, r.modAbove 1 ++ r.noBH ++ r.noA, r.n0 < 8, .bcwait r.d r.n0⟩
  | _ => none

/-- A vector instruction of three vector registers (R100, R120, R121). -/
def v3 (r : Raw) (k : Nat) (mk : Nat → Nat → Nat → Nat → Nat → Instr) : Entry :=
  ⟨.none, true, .none, true, r.modAbove k, vreg r.d && vreg r.a && vreg r.b, mk r.d r.a r.b r.wt r.m⟩

/-- One of two forms by mod[5] (R120). -/
def v3x (r : Raw) (x y : Nat → Nat → Nat → Nat → Nat → Instr) : Entry :=
  if r.mod / 32 = 0 then v3 r 64 x else v3 r 64 y

/-- Page 4, vector integer (R120). -/
def page4 (r : Raw) : Option Entry :=
  match r.major with
  | 0 => some (v3x r .vadd .vaddSat)
  | 1 => some (v3x r .vsub .vsubSat)
  | 2 => some (v3 r 32 .vmul)
  | 3 => some (v3 r 32 .vand)
  | 4 => some (v3 r 32 .vor)
  | 5 => some (v3 r 32 .vxor)
  | 6 => some (v3 r 32 .vshl)
  | 7 => some (v3 r 32 .vshr)
  | 8 => some (v3 r 32 .vsra)
  | 9 => some (v3x r .vmin .vminu)
  | 10 => some (v3x r .vmax .vmaxu)
  | 11 => some ⟨.none, true, .none, r.m < 6, r.modAbove 32, mregD r.d && vreg r.a && vreg r.b,
      .vcmp r.d r.a r.b r.m r.wt⟩
  | 12 => some (v3 r 32 .vsel)
  | 13 => some (v3 r 32 .vperm)
  | 14 => some (match r.n0 with
    | 0 => { rf r 32 (.vbcast r.d r.a r.wt r.m) with inRange := vreg r.d }
    | 1 => { rf r 32 (.vidx r.d r.wt r.m) with
        unused := r.modAbove 32 ++ r.noBH ++ r.noA, inRange := vreg r.d }
    | 2 => { rf r 32 (.vmov r.d r.a r.wt r.m) with inRange := vreg r.d && vreg r.a }
    | _ => (rf r 32 .nop).bad)
  | _ => none

/-- Page 5, vector float (R121). -/
def page5 (r : Raw) : Option Entry :=
  match r.major with
  | 0 => some (v3 r 32 .vfadd)
  | 1 => some (v3 r 32 .vfsub)
  | 2 => some (v3 r 32 .vfmul)
  | 3 => some (v3 r 32 .vfma)
  | 4 => some (v3 r 32 .vfdiv)
  | 5 => some { rf0 r 32 [] (.vfsqrt r.d r.a r.wt r.m) with inRange := vreg r.d && vreg r.a }
  | 6 => some (v3 r 32 .vfmin)
  | 7 => some (v3 r 32 .vfmax)
  | 8 => some ⟨.none, true, .none, r.m < 6, r.modAbove 32, mregD r.d && vreg r.a && vreg r.b,
      .vfcmp r.d r.a r.b r.m r.wt⟩
  | 9 => some { rf r 32 (.vcvt r.d r.a r.n0 r.wt r.m) with
      assigned := r.n0 < 12, inRange := vreg r.d && vreg r.a }
  | 10 => some ⟨.none, true, .none, true, r.modAbove 16 ++ r.noBH, vreg r.d && vreg r.a && r.n0 < 4,
      .vdec r.d r.a r.m (r.mod / 8 % 2 == 1) r.n0⟩
  | 11 => some ⟨.none, true, .none, true, r.modAbove 16 ++ r.noBH, vreg r.d && vreg r.a && r.n0 < 4,
      .venc r.d r.a r.m (r.mod / 8 % 2 == 1) r.n0⟩
  | 12 =>
    let e (i : Instr) : Entry := ⟨.none, true, .none, true, r.modAbove 32 ++ r.noBH, vreg r.a, i⟩
    some (match r.n0 with
    | 0 => e (.vredadd r.d r.a r.wt r.m)
    | 1 => e (.vredmin r.d r.a r.wt r.m)
    | 2 => e (.vredmax r.d r.a r.wt r.m)
    | _ => (e .nop).bad)
  | 13 => some ⟨.none, true, .none, r.wt != 3, r.modAbove 32 ++ r.noBH ++ unusedAt .base (r.n0 / 8), vreg r.a,
      .vbsc r.d r.a (r.n0 % 8) r.wt r.m⟩
  | 14 => some ⟨.none, true, .none, true, r.modAbove 32, vreg r.d && vreg r.a, .vfscl r.d r.a r.b r.wt r.m⟩
  | _ => none

/-- Page 6, matrix and encounters (R122). -/
def page6 (r : Raw) : Option Entry :=
  match r.major with
  | 0 => some { rrr r 4 (.mma r.d r.a r.b (r.mod % 2 == 1) (r.mod / 2 % 2 == 1)) with inRange := acc r.d }
  | 1 => some { rf0 r 1 r.noA (.mzero r.d) with inRange := acc r.d }
  | 2 => some { rrr r 8 (.mst r.d r.a r.b (r.mod % 8)) with assigned := r.mod % 8 < 4, inRange := acc r.a }
  | 3 => some { rrr r 1 (.mld r.d r.a) with unused := r.modAbove 1 ++ r.noB, inRange := acc r.d }
  | 4 => some (rf0 r 1 [] (.mfmt r.d r.a))
  | 5 => some { rrr r 1 (.ttrn r.d r.a) with unused := r.modAbove 1 ++ r.noB }
  | 6 => some ⟨.none, true, .none, true, r.modAbove 1 ++ r.noBH ++ r.noD, r.n0 < 8, .dtld r.n0 r.a⟩
  | 8 => some (if r.mod % 2 = 0 then rrr r 2 (.rinja r.d r.a r.b) else rrr r 2 (.rinjb r.d r.a r.b))
  | 9 => some (if r.mod % 2 = 0 then { rrr r 2 (.pset r.a r.b) with unused := r.modAbove 2 ++ r.noD }
      else { rrr r 2 (.pclr r.b) with unused := r.modAbove 2 ++ r.noD ++ r.noA })
  | 10 => some (rrr r 1 (.pmark r.d r.a r.b))
  | 11 => some (rf0 r 1 [] (.rstat r.d r.a))
  | 12 => some (rrr r 1 (.rfetch r.d r.a r.b))
  | _ => none

/-- Page 7, queues and copies (R123). -/
def page7 (r : Raw) : Option Entry :=
  match r.major with
  | 0 => some ⟨.any, false, .none, true, r.modAbove 1, r.n2 < 8, .btag r.n2 r.imm8⟩
  | 1 => some { rf r 1 (.qstat r.d r.n0) with unused := r.modAbove 1 ++ r.noBH ++ r.noA, inRange := r.n0 < 8 }
  | 2 => some { rf0 r 1 [] (.vpop r.d r.a) with inRange := vreg r.d && (120 ≤ r.a) }
  | 3 => some { rf0 r 1 [] (.vpush r.d r.a) with inRange := r.d == 121 && vreg r.a }
  | 4 => some { rrr r 8 (.cpy r.d r.a r.b (r.mod % 8)) with assigned := r.mod % 8 < 6 }
  | 5 => some (rf0 r 1 [] (.cwait r.d r.a))
  | _ => none

/-- Page 8, tasks (R123). -/
def page8 (r : Raw) : Option Entry :=
  match r.major with
  | 0 => some { rri r 1 .none (.fork r.imm4) with unused := r.modAbove 1 ++ r.noBH ++ r.noD ++ r.noA }
  | 1 => some { rrr r 1 (.forkh r.a r.b) with unused := r.modAbove 1 ++ r.noD }
  | 2 => some { rri r 1 .none (.join r.a r.imm4) with unused := r.modAbove 1 ++ r.noBH ++ r.noD }
  | 3 => some { rri r 1 .none (.tdec r.a (immU 4 r.immx r.n0)) with
      unused := r.modAbove 1 ++ r.noBH ++ r.noD, inRange := immU 4 r.immx r.n0 != 0 }
  | 4 => some (rrr r 1 (.tarm r.d r.a r.b))
  | 5 => some (rf0 r 1 [] (.ship r.d r.a))
  | 6 => some ⟨.none, false, .none, true, r.modAbove 1 ++ unusedAt .base (r.n2 + r.n1 / 4), true,
      .ppt (r.n1 % 4 * 16 + r.n0)⟩
  | 7 => some { rf r 1 (.tid r.d r.n0) with assigned := r.n0 < 4, unused := r.modAbove 1 ++ r.noBH ++ r.noA }
  | _ => none

/-- A scalar float instruction of three registers (R123). -/
def f3 (r : Raw) (mk : Nat → Nat → Nat → Bool → Instr) : Entry := rrr r 2 (mk r.d r.a r.b (r.mod % 2 == 1))

/-- A float skip; the quiet forms exist for LT and LE only (R406). -/
def fskip (r : Raw) (quiet : Bool) (mk : Nat → Nat → Nat → Bool → Instr) : Entry :=
  ⟨.none, true, .none, !(quiet && (r.n2 % 4 == 0 || r.n2 % 4 == 3)), r.modAbove 4 ++ r.noDH, r.n2 / 4 != 0,
    mk (r.n2 / 4) r.a r.b (r.mod % 2 == 1)⟩

/-- Page 9, scalar float (R123). -/
def page9 (r : Raw) : Option Entry :=
  match r.major with
  | 0 => some (f3 r .fadd)
  | 1 => some (f3 r .fsub)
  | 2 => some (f3 r .fmul)
  | 3 => some (f3 r .fma)
  | 4 => some (f3 r .fdiv)
  | 5 => some (rf0 r 2 [] (.fsqrt r.d r.a (r.mod % 2 == 1)))
  | 6 => some (f3 r .fmin)
  | 7 => some (f3 r .fmax)
  | 8 => some (if r.mod / 2 % 2 = 0 then
      match r.n2 % 4 with
      | 0 => fskip r false .fskeq | 1 => fskip r false .fsklt | 2 => fskip r false .fskle | _ => fskip r false .fskun
    else
      match r.n2 % 4 with
      | 0 => fskip r true .fskeq | 1 => fskip r true .fskltq | 2 => fskip r true .fskleq | _ => fskip r true .fskun)
  | 9 => some { rf r 4 (.fcvt r.d r.a r.n0 (r.mod % 2 == 1) (r.mod / 2 % 2 == 1)) with assigned := r.n0 < 13 }
  | 10 => some (rf0 r 2 [] (.fclass r.d r.a (r.mod % 2 == 1)))
  | _ => none

/-- Page 10, large immediates (R123). -/
def page10 (r : Raw) : Option Entry :=
  match r.major with
  | 0 => some (ri r (.lih r.d r.imm8))
  | 1 => some (rri r 1 .none (.andi r.d r.a r.imm4))
  | 2 => some (rri r 1 .none (.ori r.d r.a r.imm4))
  | 3 => some (rri r 1 .none (.xori r.d r.a r.imm4))
  | 4 => some (ri r (.lpc r.d r.imm8))
  | _ => none

/-- Page 11, masks and lanes (R123). -/
def page11 (r : Raw) : Option Entry :=
  match r.major with
  | 0 => some ⟨.none, false, .none, true, r.modAbove 1, mregD r.d && mreg r.a && mreg r.b, .mand r.d r.a r.b⟩
  | 1 => some ⟨.none, false, .none, true, r.modAbove 1, mregD r.d && mreg r.a && mreg r.b, .mor r.d r.a r.b⟩
  | 2 => some ⟨.none, false, .none, true, r.modAbove 1, mregD r.d && mreg r.a && mreg r.b, .mxor r.d r.a r.b⟩
  | 3 => some (match r.n0 with
    | 0 => { rf r 1 (.mnot r.d r.a) with inRange := mregD r.d && mreg r.a }
    | 1 => { rf r 1 (.mpop r.d r.a) with inRange := mreg r.a }
    | 2 => { rf r 2 (.mfromx r.d r.a (r.mod % 2 == 1)) with inRange := mregD r.d }
    | 3 => { rf r 2 (.mtox r.d r.a (r.mod % 2 == 1)) with inRange := mreg r.a }
    | _ => (rf r 1 .nop).bad)
  | 4 => some ⟨.none, true, .none, true, unusedAt .page (r.mod % 8 + r.mod / 32), vreg r.a, .vext r.d r.a r.b r.wt⟩
  | 5 => some ⟨.none, true, .none, true, unusedAt .page (r.mod % 8 + r.mod / 32), vreg r.d, .vins r.d r.a r.b r.wt⟩
  | _ => none

/-- Page 13, the protocol-processor instructions (R124, R277). -/
def page13 (r : Raw) : Option Entry :=
  match r.major with
  | 0 => some (rrr r 1 (.hsend r.d r.a r.b))
  | 1 => some (match r.n0 with
    | 0 => { rf r 1 .hend with unused := r.modAbove 1 ++ r.noBH ++ r.noD ++ r.noA }
    | 1 => { rf r 1 .hdefer with unused := r.modAbove 1 ++ r.noBH ++ r.noD ++ r.noA }
    | _ => (rf r 1 .nop).bad)
  | 2 => some (rri r 1 .none (.dld r.d r.a r.imm4))
  | 3 => some (rri r 1 .none (.dst r.d r.a r.imm4))
  | 4 => some (rrr r 1 (.bxf r.d r.a r.b))
  | 5 => some (rrr r 1 (.grant r.d r.a r.b))
  | 6 => some (rf0 r 1 [] (.rgn r.d r.a))
  | _ => none

/-- Page 14, system (R124). -/
def page14 (r : Raw) : Option Entry :=
  match r.major with
  | 0 => some { ri r (.trap (immU 8 r.immx (r.n1 * 16 + r.n0))) with
      unused := r.modAbove 1 ++ r.noAH ++ r.noBH ++ r.noD }
  | 1 => some ⟨.none, false, .none, true, r.modAbove 1 ++ unusedAt .base r.n2, true, .brk (r.n1 * 16 + r.n0)⟩
  | 2 => some ⟨.atMostOne, true, .none, true,
      r.modAbove 1 ++ r.noBH ++ r.noA ++ unusedAt .imm (immU 4 r.immx r.n0 / 4096), true,
      .srd r.d (immU 4 r.immx r.n0)⟩
  | 3 => some ⟨.atMostOne, true, .none, true,
      r.modAbove 1 ++ r.noBH ++ r.noD ++ unusedAt .imm (immU 4 r.immx r.n0 / 4096), true,
      .swr (immU 4 r.immx r.n0) r.a⟩
  | 4 => some ⟨.none, false, .none, true, r.modAbove 1 ++ unusedAt .base (r.n2 + r.n1 + r.n0), true, .eret⟩
  | 5 => some { rf r 1 (.rdc r.d r.n0) with assigned := r.n0 < 2, unused := r.modAbove 1 ++ r.noBH ++ r.noA }
  | 6 => some (if r.mod % 2 = 0 then { rrr r 2 (.wake r.a) with unused := r.modAbove 2 ++ r.noD ++ r.noB }
      else rrr r 2 (.waket r.d r.a r.b))
  | 7 => some { rrr r 1 (.tstart r.d r.a) with unused := r.modAbove 1 ++ r.noB }
  | 8 => some { rrr r 1 (.xinv r.a r.b) with unused := r.modAbove 1 ++ r.noD }
  | 9 => some { rrr r 1 (.sstop r.d r.a) with unused := r.modAbove 1 ++ r.noB }
  | 10 => some (rf0 r 1 [] (.conerd r.d r.a))
  | 11 => some (rf0 r 1 [] (.cqsc r.d r.a))
  | 12 => some ⟨.none, false, .none, true, r.modAbove 1 ++ unusedAt .base (r.n2 + r.n1 + r.n0), true, .idle⟩
  | _ => none

/-- The opcode map (R115 to R124); none where the page does not assign the major. -/
def entry (r : Raw) : Option Entry :=
  match r.page with
  | 0 => page0 r | 1 => page1 r | 2 => page2 r | 3 => page3 r | 4 => page4 r | 5 => page5 r | 6 => page6 r
  | 7 => page7 r | 8 => page8 r | 9 => page9 r | 10 => page10 r | 11 => page11 r | 13 => page13 r | 14 => page14 r
  | _ => none

/-- The encodings withheld from protocol processors (R125). -/
def withheld (page major : Nat) : Bool :=
  page == 4 || page == 5 || page == 6 || page == 8 || (page == 11 && (major == 4 || major == 5)) ||
  (page == 2 && ((4 ≤ major && major ≤ 7) || major == 10)) || (page == 3 && 4 ≤ major && major ≤ 6) ||
  (page == 7 && 2 ≤ major && major ≤ 5) || (page == 14 && (major == 7 || (9 ≤ major && major ≤ 12)))

/-- The ORD fields an entry accepts (R110). -/
def OrdAcc.ok (c : OrdAcc) (o : OrdFld) : Bool :=
  match c with
  | .none => true
  | .load => ordLoad o
  | .store => ordStore o
  | .atomic => ordAtomic o
  | .fence => ordFence o

/-- The position and value of the first IMMX prefix beyond the first `n`. -/
def immxAfter (n : Nat) (l : List (Nat × Nat)) : Option Nat := (l.drop n).head?.map (·.1)

/-- The first prefix, in address order, that the entry does not accept: a PAGE prefix that names page 0, a REGX or
ORD prefix it does not take, an IMMX prefix beyond its count (R96, R105). -/
def notAccepted (s : Seen) (e : Entry) : List Nat :=
  (match s.page with | some (k, p) => if p % 16 = 0 then [k] else [] | none => []) ++
  (match s.regx with | some (k, _) => if e.regx then [] else [k] | none => []) ++
  (match s.ord with | some (k, _) => if e.ord = .none then [k] else [] | none => []) ++
  (match e.imm with
    | .none => (immxAfter 0 s.immx).toList
    | .any => []
    | .one => (immxAfter 1 s.immx).toList
    | .atMostOne => (immxAfter 1 s.immx).toList)

/-- The halfword at a position of the chain. -/
def hwordAt (pfx : List Nat) (base k : Nat) : Nat := (pfx[k]?).getD base

/-- Where a place of the chain stands: its halfword's position. -/
def Place.pos (s : Seen) (n : Nat) : Place → Nat
  | .page => (s.page.map (·.1)).getD n
  | .regx => (s.regx.map (·.1)).getD n
  | .imm => (s.immx.head?.map (·.1)).getD n
  | .base => n

/-- The least of a list of positions, at most `n`. -/
def least (n : Nat) (l : List Nat) : Nat := l.foldl Nat.min n

/-- The checks of R104 from step 4 on, in their order. -/
def judge (pp : Bool) (s : Seen) (pfx : List Nat) (base : Nat) : Except Reject Instr :=
  let r := s.raw base
  let n := pfx.length
  let at_ (x : Reason) (k : Nat) : Except Reject Instr := .error ⟨x, k, hwordAt pfx base k⟩
  if r.page = 12 || r.page = 15 then at_ .unassignedPage (Place.page.pos s n)
  else if r.page = 13 && !pp then at_ .pageOnTile (Place.page.pos s n)
  else if pp && withheld r.page r.major then at_ .withheld n
  else match entry r with
    | none => at_ .unassigned n
    | some e =>
      if notAccepted s e ≠ [] then at_ .prefixNotAccepted (least n (notAccepted s e))
      else if e.imm = .one && s.immx = [] then at_ .prefixNotAccepted n
      else if !e.assigned then at_ .unassigned n
      else if (match r.ord with | some o => !e.ord.ok (ordOf o) | none => false) then
        at_ .ordNotAccepted ((s.ord.map (·.1)).getD n)
      else if e.unused ≠ [] then at_ .reservedBits (least n (e.unused.map (Place.pos s n)))
      else if !e.inRange then at_ .outOfRange n
      else .ok e.instr

/-- Decodes the chain that begins a list of halfwords, on a protocol processor when `pp` holds (R104). -/
def decode (pp : Bool) (hws : List Nat) : Decoded :=
  match takePrefixes 5 hws with
  | (pfx, rest) =>
    match pfx[4]? with
    | some h => .illegal ⟨.fifthPrefix, 4, h⟩ 5
    | none =>
      match rest with
      | [] => .short
      | base :: _ =>
        match collect 0 Seen.none pfx with
        | .error e => .illegal e (pfx.length + 1)
        | .ok s =>
          match judge pp s pfx base with
          | .error e => .illegal e (pfx.length + 1)
          | .ok i => .ok i (pfx.length + 1)

/-- The halfwords of a run of bytes, each little-endian (R94). -/
def halfwords : List Byte → List Nat
  | lo :: hi :: t => (lo.toNat + 256 * hi.toNat) :: halfwords t
  | _ => []

/-- The decoder on bytes; any bytes give an instruction, a refusal by name, or `short`. -/
def decodeBytes (pp : Bool) (bs : List Byte) : Decoded := decode pp (halfwords bs)

/-! ## The encoder -/

/-- The immediate's bits in a field of `b` bits with `n` IMMX prefixes (R98). -/
def immBits (b n : Nat) (v : Int) : Nat := (v % (2 : Int) ^ (b + 10 * n)).toNat

/-- The IMMX values of an immediate's bits, the first most significant. -/
def immDigits (b : Nat) : Nat → Nat → List Nat
  | 0, _ => []
  | n + 1, u => u / 2 ^ b / 1024 ^ n % 1024 :: immDigits b n u

/-- The least number of IMMX prefixes that hold a signed immediate (R132). -/
def immLen (b : Nat) (v : Int) : Nat :=
  if immS b 0 v then 0 else if immS b 1 v then 1 else if immS b 2 v then 2 else if immS b 3 v then 3 else 4

/-- The least number of IMMX prefixes that hold an unsigned immediate. -/
def immLenU (b v : Nat) : Nat :=
  if v < 2 ^ b then 0 else if v < 2 ^ (b + 10) then 1 else if v < 2 ^ (b + 20) then 2
  else if v < 2 ^ (b + 30) then 3 else 4

/-- A chain with no immediate. -/
def rawRRR (page mod : Nat) (ord : Option Nat) (major d a b : Nat) : Raw :=
  ⟨page, mod, ord, [], d / 16, a / 16, b / 16, major, d % 16, a % 16, b % 16⟩

/-- A chain whose last nibble is a function code or a small immediate. -/
def rawRF (page mod major d a f : Nat) : Raw := ⟨page, mod, none, [], d / 16, a / 16, 0, major, d % 16, a % 16, f⟩

/-- An RRI chain with `n` IMMX prefixes and the immediate's bits. -/
def rawRRI (page mod : Nat) (ord : Option Nat) (major d a n u : Nat) : Raw :=
  ⟨page, mod, ord, immDigits 4 n u, d / 16, a / 16, 0, major, d % 16, a % 16, u % 16⟩

/-- An RI chain. -/
def rawRI (page major d n u : Nat) : Raw :=
  ⟨page, 0, none, immDigits 8 n u, d / 16, 0, 0, major, d % 16, u / 16 % 16, u % 16⟩

/-- A J chain. -/
def rawJ (major n u : Nat) : Raw :=
  ⟨0, 0, none, immDigits 12 n u, 0, 0, 0, major, u / 256 % 16, u / 16 % 16, u % 16⟩

/-- The RRI chain of a signed immediate. -/
def rawS4 (page mod : Nat) (ord : Option Nat) (major d a : Nat) (v : Int) : Raw :=
  rawRRI page mod ord major d a (immLen 4 v) (immBits 4 (immLen 4 v) v)

/-- The RI chain of a signed immediate. -/
def rawS8 (page major d : Nat) (v : Int) : Raw := rawRI page major d (immLen 8 v) (immBits 8 (immLen 8 v) v)

/-- The codes of ORDER, SCOPE and HINT (R95). -/
def orderCode : Order → Nat | .plain => 0 | .acquire => 1 | .release => 2 | .acqRel => 3
def scopeCode : Scope → Nat | .core => 0 | .partition => 1 | .device => 2 | .system => 3
def hintCode : Hint → Nat | .normal => 0 | .keep => 1 | .stream => 2

/-- An ORD payload (R95). -/
def ordPayload (o : OrdFld) : Nat := orderCode o.order * 256 + scopeCode o.scope * 64 + hintCode o.hint * 16

/-- The ORD prefix an ordering needs: none for a plain access with the normal hint (R109, R132). -/
def ordEnc (o : OrdFld) : Option Nat := if o = OrdFld.plain then none else some (ordPayload o)

/-- The ORD prefix of a FENCE: none for acquire-release at partition scope (R110, R132). -/
def fenceEnc (o : OrdFld) : Option Nat := if o = OrdFld.fence then none else some (ordPayload o)

/-- A skip's chain (R101): the register, or an immediate with at least one IMMX prefix. -/
def rawSK (major c k a : Nat) : SkSrc → Raw
  | .reg b => ⟨0, 0, none, [], 0, a / 16, b / 16, major, k * 4 + c, a % 16, b % 16⟩
  | .imm v =>
    let n := Nat.max 1 (immLen 4 v)
    let u := immBits 4 n v
    ⟨0, 0, none, immDigits 4 n u, 0, a / 16, 0, major, k * 4 + c, a % 16, u % 16⟩

/-- A float skip's chain. -/
def rawFSK (mod c k a b : Nat) : Raw := ⟨9, mod, none, [], 0, a / 16, b / 16, 8, k * 4 + c, a % 16, b % 16⟩

/-- An SH chain. -/
def rawSH (t d n : Nat) : Raw := ⟨0, 0, none, [], d / 16, 0, 0, 14, d % 16, t * 4 + n / 16, n % 16⟩

/-- A BFX chain: pos and len in the one IMMX and the last nibble (R117). -/
def rawBFX (mod d a pos len : Nat) : Raw := rawRRI 1 mod none 12 d a 1 (pos + len % 64 * 64)

/-- A bit. -/
def bit (b : Bool) : Nat := if b then 1 else 0

/-- The mod of a vector instruction: mask and width or type (R118, R120, R121). -/
def vmod (w m : Nat) : Nat := m + w * 8

/-- The mod of an integer atomic (R119). -/
def amod (f : Nat) (dbl far : Bool) : Nat := f + bit dbl * 16 + bit far * 32

/-- The chain of an instruction in pieces (R115 to R124); none for an event. -/
def toRaw : Instr → Option Raw
  | .add d a b => some (rawRRR 0 0 none 0 d a b)
  | .sub d a b => some (rawRRR 0 0 none 1 d a b)
  | .and d a b => some (rawRRR 0 0 none 2 d a b)
  | .or d a b => some (rawRRR 0 0 none 3 d a b)
  | .xor d a b => some (rawRRR 0 0 none 4 d a b)
  | .addi d a imm => some (rawS4 0 0 none 5 d a imm)
  | .li d imm => some (rawS8 0 6 d imm)
  | .ld d a imm ord => some (rawS4 0 0 (ordEnc ord) 7 d a imm)
  | .st d a imm ord => some (rawS4 0 0 (ordEnc ord) 8 d a imm)
  | .skeq k a b => some (rawSK 9 0 k a b)
  | .skne k a b => some (rawSK 9 1 k a b)
  | .sklt k a b => some (rawSK 9 2 k a b)
  | .skge k a b => some (rawSK 9 3 k a b)
  | .skltu k a b => some (rawSK 10 0 k a b)
  | .skgeu k a b => some (rawSK 10 1 k a b)
  | .skbs k a b => some (rawSK 10 2 k a b)
  | .skbc k a b => some (rawSK 10 3 k a b)
  | .br off => some (rawJ 11 (immLen 12 off) (immBits 12 (immLen 12 off) off))
  | .call off => some (rawJ 12 (immLen 12 off) (immBits 12 (immLen 12 off) off))
  | .jr a => some (rawRF 0 0 13 0 a 0)
  | .callr d a => some (rawRF 0 0 13 d a 1)
  | .ret => some (rawRF 0 0 13 0 0 2)
  | .not d a => some (rawRF 0 0 13 d a 3)
  | .neg d a => some (rawRF 0 0 13 d a 4)
  | .abs d a => some (rawRF 0 0 13 d a 5)
  | .sextB d a => some (rawRF 0 0 13 d a 6)
  | .sextH d a => some (rawRF 0 0 13 d a 7)
  | .sextW d a => some (rawRF 0 0 13 d a 8)
  | .zextB d a => some (rawRF 0 0 13 d a 9)
  | .zextH d a => some (rawRF 0 0 13 d a 10)
  | .zextW d a => some (rawRF 0 0 13 d a 11)
  | .nop => some (rawRF 0 0 13 0 0 12)
  | .endTask => some (rawRF 0 0 13 0 0 13)
  | .yield => some (rawRF 0 0 13 0 0 14)
  | .shli d n => some (rawSH 0 d n)
  | .shri d n => some (rawSH 1 d n)
  | .srai d n => some (rawSH 2 d n)
  | .rori d n => some (rawSH 3 d n)
  | .mul d a b => some (rawRRR 1 0 none 0 d a b)
  | .mulh d a b => some (rawRRR 1 0 none 1 d a b)
  | .mulhu d a b => some (rawRRR 1 1 none 1 d a b)
  | .div d a b => some (rawRRR 1 0 none 2 d a b)
  | .divu d a b => some (rawRRR 1 1 none 2 d a b)
  | .rem d a b => some (rawRRR 1 0 none 3 d a b)
  | .remu d a b => some (rawRRR 1 1 none 3 d a b)
  | .min d a b => some (rawRRR 1 0 none 4 d a b)
  | .minu d a b => some (rawRRR 1 1 none 4 d a b)
  | .max d a b => some (rawRRR 1 0 none 5 d a b)
  | .maxu d a b => some (rawRRR 1 1 none 5 d a b)
  | .shl d a b => some (rawRRR 1 0 none 6 d a b)
  | .shr d a b => some (rawRRR 1 0 none 7 d a b)
  | .sra d a b => some (rawRRR 1 0 none 8 d a b)
  | .ror d a b => some (rawRRR 1 0 none 9 d a b)
  | .lea d a b s => some (rawRRR 1 s none 10 d a b)
  | .clz d a => some (rawRF 1 0 11 d a 0)
  | .ctz d a => some (rawRF 1 0 11 d a 1)
  | .popc d a => some (rawRF 1 0 11 d a 2)
  | .brev d a => some (rawRF 1 0 11 d a 3)
  | .bswap d a => some (rawRF 1 0 11 d a 4)
  | .extu d a pos len => some (rawBFX 0 d a pos len)
  | .exts d a pos len => some (rawBFX 1 d a pos len)
  | .ins d a pos len => some (rawBFX 2 d a pos len)
  | .addw d a b => some (rawRRR 1 0 none 13 d a b)
  | .subw d a b => some (rawRRR 1 1 none 13 d a b)
  | .mulw d a b => some (rawRRR 1 2 none 13 d a b)
  | .ldb d a imm ord => some (rawS4 2 0 (ordEnc ord) 0 d a imm)
  | .ldbu d a imm ord => some (rawS4 2 1 (ordEnc ord) 0 d a imm)
  | .ldh d a imm ord => some (rawS4 2 2 (ordEnc ord) 0 d a imm)
  | .ldhu d a imm ord => some (rawS4 2 3 (ordEnc ord) 0 d a imm)
  | .ldw d a imm ord => some (rawS4 2 4 (ordEnc ord) 0 d a imm)
  | .ldwu d a imm ord => some (rawS4 2 5 (ordEnc ord) 0 d a imm)
  | .ldLong d a imm ord => some (rawS4 2 6 (ordEnc ord) 0 d a imm)
  | .stb d a imm ord => some (rawS4 2 0 (ordEnc ord) 1 d a imm)
  | .sth d a imm ord => some (rawS4 2 1 (ordEnc ord) 1 d a imm)
  | .stw d a imm ord => some (rawS4 2 2 (ordEnc ord) 1 d a imm)
  | .stLong d a imm ord => some (rawS4 2 3 (ordEnc ord) 1 d a imm)
  | .ldxb d a b s ord => some (rawRRR 2 (0 + s * 8) (ordEnc ord) 2 d a b)
  | .ldxbu d a b s ord => some (rawRRR 2 (1 + s * 8) (ordEnc ord) 2 d a b)
  | .ldxh d a b s ord => some (rawRRR 2 (2 + s * 8) (ordEnc ord) 2 d a b)
  | .ldxhu d a b s ord => some (rawRRR 2 (3 + s * 8) (ordEnc ord) 2 d a b)
  | .ldxw d a b s ord => some (rawRRR 2 (4 + s * 8) (ordEnc ord) 2 d a b)
  | .ldxwu d a b s ord => some (rawRRR 2 (5 + s * 8) (ordEnc ord) 2 d a b)
  | .ldx d a b s ord => some (rawRRR 2 (6 + s * 8) (ordEnc ord) 2 d a b)
  | .stxb d a b s ord => some (rawRRR 2 (0 + s * 8) (ordEnc ord) 3 d a b)
  | .stxh d a b s ord => some (rawRRR 2 (1 + s * 8) (ordEnc ord) 3 d a b)
  | .stxw d a b s ord => some (rawRRR 2 (2 + s * 8) (ordEnc ord) 3 d a b)
  | .stx d a b s ord => some (rawRRR 2 (3 + s * 8) (ordEnc ord) 3 d a b)
  | .vld d a imm w m ord => some (rawS4 2 (vmod w m) (ordEnc ord) 4 d a imm)
  | .vst d a imm w m ord => some (rawS4 2 (vmod w m) (ordEnc ord) 5 d a imm)
  | .vlds d a b w m ord => some (rawRRR 2 (vmod w m) (ordEnc ord) 6 d a b)
  | .vsts d a b w m ord => some (rawRRR 2 (vmod w m + 32) (ordEnc ord) 6 d a b)
  | .vgth d a b w m ord => some (rawRRR 2 (vmod w m) (ordEnc ord) 7 d a b)
  | .vsct d a b w m ord => some (rawRRR 2 (vmod w m + 32) (ordEnc ord) 7 d a b)
  | .prefr a imm => some (rawS4 2 0 none 8 0 a imm)
  | .prefw a imm => some (rawS4 2 1 none 8 0 a imm)
  | .prefk a imm => some (rawS4 2 2 none 8 0 a imm)
  | .prefrel a imm => some (rawS4 2 3 none 8 0 a imm)
  | .fence ord => some (rawRRR 2 0 (fenceEnc ord) 9 0 0 0)
  | .fencem ord => some (rawRRR 2 1 (fenceEnc ord) 9 0 0 0)
  | .fencee ord => some (rawRRR 2 2 (fenceEnc ord) 9 0 0 0)
  | .fencer ord => some (rawRRR 2 3 (fenceEnc ord) 9 0 0 0)
  | .tagq d a => some (rawRF 2 0 10 d a 0)
  | .amoadd d a b dbl far ord => some (rawRRR 3 (amod 0 dbl far) (ordEnc ord) 0 d a b)
  | .amoand d a b dbl far ord => some (rawRRR 3 (amod 1 dbl far) (ordEnc ord) 0 d a b)
  | .amoor d a b dbl far ord => some (rawRRR 3 (amod 2 dbl far) (ordEnc ord) 0 d a b)
  | .amoxor d a b dbl far ord => some (rawRRR 3 (amod 3 dbl far) (ordEnc ord) 0 d a b)
  | .amomin d a b dbl far ord => some (rawRRR 3 (amod 4 dbl far) (ordEnc ord) 0 d a b)
  | .amomax d a b dbl far ord => some (rawRRR 3 (amod 5 dbl far) (ordEnc ord) 0 d a b)
  | .amominu d a b dbl far ord => some (rawRRR 3 (amod 6 dbl far) (ordEnc ord) 0 d a b)
  | .amomaxu d a b dbl far ord => some (rawRRR 3 (amod 7 dbl far) (ordEnc ord) 0 d a b)
  | .amoswap d a b dbl far ord => some (rawRRR 3 (amod 8 dbl far) (ordEnc ord) 0 d a b)
  | .cas d a b dbl ord => some (rawRRR 3 (bit dbl * 16) (ordEnc ord) 1 d a b)
  | .amof d a b dbl far ord => some (rawRRR 3 (bit dbl + bit far * 32) (ordEnc ord) 2 d a b)
  | .waitm d a b ord => some (rawRRR 3 0 (ordEnc ord) 3 d a b)
  | .bar i a => some (rawRF 3 0 4 0 a i)
  | .bcarm i a => some (rawRF 3 0 5 0 a i)
  | .bcwait d i => some (rawRF 3 0 6 d 0 i)
  | .vadd d a b w m => some (rawRRR 4 (vmod w m) none 0 d a b)
  | .vaddSat d a b w m => some (rawRRR 4 (vmod w m + 32) none 0 d a b)
  | .vsub d a b w m => some (rawRRR 4 (vmod w m) none 1 d a b)
  | .vsubSat d a b w m => some (rawRRR 4 (vmod w m + 32) none 1 d a b)
  | .vmul d a b w m => some (rawRRR 4 (vmod w m) none 2 d a b)
  | .vand d a b w m => some (rawRRR 4 (vmod w m) none 3 d a b)
  | .vor d a b w m => some (rawRRR 4 (vmod w m) none 4 d a b)
  | .vxor d a b w m => some (rawRRR 4 (vmod w m) none 5 d a b)
  | .vshl d a b w m => some (rawRRR 4 (vmod w m) none 6 d a b)
  | .vshr d a b w m => some (rawRRR 4 (vmod w m) none 7 d a b)
  | .vsra d a b w m => some (rawRRR 4 (vmod w m) none 8 d a b)
  | .vmin d a b w m => some (rawRRR 4 (vmod w m) none 9 d a b)
  | .vminu d a b w m => some (rawRRR 4 (vmod w m + 32) none 9 d a b)
  | .vmax d a b w m => some (rawRRR 4 (vmod w m) none 10 d a b)
  | .vmaxu d a b w m => some (rawRRR 4 (vmod w m + 32) none 10 d a b)
  | .vcmp d a b c w => some (rawRRR 4 (vmod w c) none 11 d a b)
  | .vsel d a b w m => some (rawRRR 4 (vmod w m) none 12 d a b)
  | .vperm d a b w m => some (rawRRR 4 (vmod w m) none 13 d a b)
  | .vbcast d a w m => some (rawRF 4 (vmod w m) 14 d a 0)
  | .vidx d w m => some (rawRF 4 (vmod w m) 14 d 0 1)
  | .vmov d a w m => some (rawRF 4 (vmod w m) 14 d a 2)
  | .vfadd d a b t m => some (rawRRR 5 (vmod t m) none 0 d a b)
  | .vfsub d a b t m => some (rawRRR 5 (vmod t m) none 1 d a b)
  | .vfmul d a b t m => some (rawRRR 5 (vmod t m) none 2 d a b)
  | .vfma d a b t m => some (rawRRR 5 (vmod t m) none 3 d a b)
  | .vfdiv d a b t m => some (rawRRR 5 (vmod t m) none 4 d a b)
  | .vfsqrt d a t m => some (rawRF 5 (vmod t m) 5 d a 0)
  | .vfmin d a b t m => some (rawRRR 5 (vmod t m) none 6 d a b)
  | .vfmax d a b t m => some (rawRRR 5 (vmod t m) none 7 d a b)
  | .vfcmp d a b c t => some (rawRRR 5 (vmod t c) none 8 d a b)
  | .vcvt d a f t m => some (rawRF 5 (vmod t m) 9 d a f)
  | .vdec d a tab four q => some (rawRF 5 (tab + bit four * 8) 10 d a q)
  | .venc d a tab four q => some (rawRF 5 (tab + bit four * 8) 11 d a q)
  | .vredadd d a t m => some (rawRF 5 (vmod t m) 12 d a 0)
  | .vredmin d a t m => some (rawRF 5 (vmod t m) 12 d a 1)
  | .vredmax d a t m => some (rawRF 5 (vmod t m) 12 d a 2)
  | .vbsc d a tab t m => some (rawRF 5 (vmod t m) 13 d a tab)
  | .vfscl d a b t m => some (rawRRR 5 (vmod t m) none 14 d a b)
  | .mma d a b clear tr => some (rawRRR 6 (bit clear + bit tr * 2) none 0 d a b)
  | .mzero d => some (rawRF 6 0 1 d 0 0)
  | .mst d a b fmt => some (rawRRR 6 fmt none 2 d a b)
  | .mld d a => some (rawRRR 6 0 none 3 d a 0)
  | .mfmt d a => some (rawRF 6 0 4 d a 0)
  | .ttrn d a => some (rawRRR 6 0 none 5 d a 0)
  | .dtld i a => some (rawRF 6 0 6 0 a i)
  | .rinja d a b => some (rawRRR 6 0 none 8 d a b)
  | .rinjb d a b => some (rawRRR 6 1 none 8 d a b)
  | .pset a b => some (rawRRR 6 0 none 9 0 a b)
  | .pclr b => some (rawRRR 6 1 none 9 0 0 b)
  | .pmark d a b => some (rawRRR 6 0 none 10 d a b)
  | .rstat d a => some (rawRF 6 0 11 d a 0)
  | .rfetch d a b => some (rawRRR 6 0 none 12 d a b)
  | .btag q off => some ⟨7, 0, none, immDigits 8 (immLen 8 off) (immBits 8 (immLen 8 off) off), 0, 0, 0, 0, q,
      immBits 8 (immLen 8 off) off / 16 % 16, immBits 8 (immLen 8 off) off % 16⟩
  | .qstat d n => some (rawRF 7 0 1 d 0 n)
  | .vpop d a => some (rawRF 7 0 2 d a 0)
  | .vpush d a => some (rawRF 7 0 3 d a 0)
  | .cpy d a b k => some (rawRRR 7 k none 4 d a b)
  | .cwait d a => some (rawRF 7 0 5 d a 0)
  | .fork off => some (rawS4 8 0 none 0 0 0 off)
  | .forkh a b => some (rawRRR 8 0 none 1 0 a b)
  | .join a imm => some (rawS4 8 0 none 2 0 a imm)
  | .tdec a n => some (rawRRI 8 0 none 3 0 a (immLenU 4 n) n)
  | .tarm d a b => some (rawRRR 8 0 none 4 d a b)
  | .ship d a => some (rawRF 8 0 5 d a 0)
  | .ppt mask => some ⟨8, 0, none, [], 0, 0, 0, 6, 0, mask / 16, mask % 16⟩
  | .tid d f => some (rawRF 8 0 7 d 0 f)
  | .fadd d a b dbl => some (rawRRR 9 (bit dbl) none 0 d a b)
  | .fsub d a b dbl => some (rawRRR 9 (bit dbl) none 1 d a b)
  | .fmul d a b dbl => some (rawRRR 9 (bit dbl) none 2 d a b)
  | .fma d a b dbl => some (rawRRR 9 (bit dbl) none 3 d a b)
  | .fdiv d a b dbl => some (rawRRR 9 (bit dbl) none 4 d a b)
  | .fsqrt d a dbl => some (rawRRR 9 (bit dbl) none 5 d a 0)
  | .fmin d a b dbl => some (rawRRR 9 (bit dbl) none 6 d a b)
  | .fmax d a b dbl => some (rawRRR 9 (bit dbl) none 7 d a b)
  | .fskeq k a b dbl => some (rawFSK (bit dbl) 0 k a b)
  | .fsklt k a b dbl => some (rawFSK (bit dbl) 1 k a b)
  | .fskle k a b dbl => some (rawFSK (bit dbl) 2 k a b)
  | .fskun k a b dbl => some (rawFSK (bit dbl) 3 k a b)
  | .fskltq k a b dbl => some (rawFSK (bit dbl + 2) 1 k a b)
  | .fskleq k a b dbl => some (rawFSK (bit dbl + 2) 2 k a b)
  | .fcvt d a f dbl rtz => some (rawRF 9 (bit dbl + bit rtz * 2) 9 d a f)
  | .fclass d a dbl => some (rawRF 9 (bit dbl) 10 d a 0)
  | .lih d imm => some (rawS8 10 0 d imm)
  | .andi d a imm => some (rawS4 10 0 none 1 d a imm)
  | .ori d a imm => some (rawS4 10 0 none 2 d a imm)
  | .xori d a imm => some (rawS4 10 0 none 3 d a imm)
  | .lpc d off => some (rawS8 10 4 d off)
  | .mand d a b => some (rawRRR 11 0 none 0 d a b)
  | .mor d a b => some (rawRRR 11 0 none 1 d a b)
  | .mxor d a b => some (rawRRR 11 0 none 2 d a b)
  | .mnot d a => some (rawRF 11 0 3 d a 0)
  | .mpop d a => some (rawRF 11 0 3 d a 1)
  | .mfromx d a hi => some (rawRF 11 (bit hi) 3 d a 2)
  | .mtox d a hi => some (rawRF 11 (bit hi) 3 d a 3)
  | .vext d a b w => some (rawRRR 11 (w * 8) none 4 d a b)
  | .vins d a b w => some (rawRRR 11 (w * 8) none 5 d a b)
  | .hsend d a b => some (rawRRR 13 0 none 0 d a b)
  | .hend => some (rawRF 13 0 1 0 0 0)
  | .hdefer => some (rawRF 13 0 1 0 0 1)
  | .dld d a imm => some (rawS4 13 0 none 2 d a imm)
  | .dst d a imm => some (rawS4 13 0 none 3 d a imm)
  | .bxf d a b => some (rawRRR 13 0 none 4 d a b)
  | .grant d a b => some (rawRRR 13 0 none 5 d a b)
  | .rgn d a => some (rawRF 13 0 6 d a 0)
  | .trap imm => some (rawRI 14 0 0 (immLenU 8 imm) imm)
  | .brk imm => some (rawRI 14 1 0 0 imm)
  | .srd d n => some (rawRRI 14 0 none 2 d 0 (immLenU 4 n) n)
  | .swr n a => some (rawRRI 14 0 none 3 0 a (immLenU 4 n) n)
  | .eret => some (rawRF 14 0 4 0 0 0)
  | .rdc d f => some (rawRF 14 0 5 d 0 f)
  | .wake a => some (rawRRR 14 0 none 6 0 a 0)
  | .waket d a b => some (rawRRR 14 1 none 6 d a b)
  | .tstart d a => some (rawRRR 14 0 none 7 d a 0)
  | .xinv a b => some (rawRRR 14 0 none 8 0 a b)
  | .sstop d a => some (rawRRR 14 0 none 9 d a 0)
  | .conerd d a => some (rawRF 14 0 10 d a 0)
  | .cqsc d a => some (rawRF 14 0 11 d a 0)
  | .idle => some (rawRF 14 0 12 0 0 0)
  | .resultArrival _ _ => none
  | .poisonedResult _ _ => none
  | .threadWake _ _ => none
  | .taskDispatch _ => none
  | .stealSweep _ => none
  | .stealRequest _ => none
  | .stealReply _ => none
  | .placedPacketHop _ => none
  | .shipPacketArrival _ => none
  | .messageArrival _ _ => none
  | .decrementMessage _ => none
  | .q7RecordArrival _ => none
  | .sweep _ => none
  | .launchErrorEnd _ => none
  | .arrayGrant _ => none
  | .matrixRetire _ => none
  | .q5RecordPush _ _ => none
  | .tileEntry _ _ _ => none
  | .tileArrival _ _ _ => none
  | .q6RecordPush _ _ => none
  | .meshFlitHop _ => none
  | .routerCombine _ _ => none
  | .combinedReplySplit _ => none
  | .translationWalk _ _ => none
  | .walkInvalidation _ => none
  | .walkStorePerformed _ _ => none
  | .joinReread _ _ => none
  | .uncorrectableError _ _ _ => none
  | .jobStart _ => none
  | .elementDelivery _ _ => none
  | .jobres _ _ => none
  | .q2cfg _ _ => none
  | .readMiss _ => none
  | .writeMiss _ => none
  | .upgrade _ => none
  | .farAmo _ => none
  | .flush _ => none
  | .close _ => none
  | .evict _ => none
  | .engineRead _ => none
  | .engineWrite _ => none
  | .rcmd _ => none
  | .homecast _ => none
  | .reduceDone _ _ => none
  | .handlerKill _ _ => none
  | .grantRo _ => none
  | .grantRw _ => none
  | .data _ => none
  | .invalidate _ => none
  | .recall _ => none
  | .push _ => none
  | .fail _ => none
  | .ack _ => none
  | .regionNone _ _ => none
  | .regionBind _ _ => none
  | .regionClose _ _ => none
  | .regionClosed _ _ => none
  | .regionReopen _ _ => none
  | .stopTimeReached _ => none
  | .forcedStop _ _ => none
  | .cqscComplete _ => none
  | .saveComplete _ => none
  | .restoreComplete _ => none
  | .lock _ => none
  | .unlock _ => none
  | .clear _ => none
  | .kiln _ => none
  | .split _ _ => none
  | .merge _ _ => none
  | .frozenSettingWrite _ _ _ => none
  | .kilnPhase _ _ _ => none
  | .kilnComplete _ => none
  | .registerWrite _ _ => none
  | .ovflog _ => none
  | .extentRevoke _ => none
  | .revoked _ => none
  | .pageRequestAnswer _ _ _ _ => none
  | .queueMap _ _ => none
  | .packetRead _ _ => none
  | .launchPacket _ _ => none
  | .fencePacket _ _ => none
  | .signalPacket _ _ => none
  | .queueRestart _ _ => none
  | .reset => none
  | .go => none
  | .bringUp => none
  | .hemRetire _ => none
  | .throttleEvent _ => none
  | .unassignedEncoding _ => none
  | .unknownOp _ _ => none

/-- The halfwords of a chain, prefixes in the order PAGE, ORD, REGX, IMMX (R132). -/
def rawWords (r : Raw) : List Nat :=
  (if r.page = 0 then [] else [0xF800 + r.mod * 16 + r.page]) ++
  (match r.ord with | none => [] | some o => [0xFC00 + o]) ++
  (if r.dh = 0 ∧ r.ah = 0 ∧ r.bh = 0 then [] else [0xF400 + r.dh * 128 + r.ah * 16 + r.bh * 2]) ++
  r.immx.map (0xF000 + ·) ++
  [r.major * 4096 + r.n2 * 256 + r.n1 * 16 + r.n0]

/-- The words of a well-formed instruction: the shortest chain that encodes it (R132). -/
def encode (i : Instr) : List Nat :=
  match toRaw i with
  | some r => rawWords r
  | none => []

/-- The bytes of halfwords, each little-endian (R94). -/
def bytesOf (hws : List Nat) : List Byte :=
  hws.flatMap fun h => [BitVec.ofNat 8 h, BitVec.ofNat 8 (h / 256)]

/-- Whether an instruction runs only on a protocol processor (R124, R277). -/
def Instr.onPP : Instr → Bool
  | .hsend _ _ _ | .hend | .hdefer | .dld _ _ _ | .dst _ _ _ | .bxf _ _ _ | .grant _ _ _ | .rgn _ _ => true
  | _ => false

/-! ## Words of the opcode table -/

/-- The halfwords of a word of the opcode table, in address order. The table gives a prefix in the high halfword, so
where the low halfword is no prefix and a higher one is there, the highest halfword has the lowest address. -/
def tableHalfwords (nbits w : Nat) : List Nat :=
  if nbits ≤ 16 then [w % 65536]
  else if isPrefix (w % 65536) then [w % 65536, w / 65536 % 65536]
  else [w / 65536 % 65536, w % 65536]

/-- The instruction the decoder reads from a word of the opcode table; a page 13 word is read as a protocol processor
reads it. -/
def decodeTableWord (nbits w : Nat) : Option Instr :=
  match decode false (tableHalfwords nbits w) with
  | .ok i _ => some i
  | _ =>
    match decode true (tableHalfwords nbits w) with
    | .ok i _ => if i.onPP then some i else none
    | _ => none

end Sys2Proof
end

