-- ==== Sys2Proof/Machine/State.lean ====
section
/-! DEFINITION. The device's whole state as plain data, the reasons a step can stop, and the state right after
reset. Everything sparse is an association list from a number to a value (`Map`); Machine/Store.lean reads and
writes them. A field's docstring names the rule of the spec that gives it. -/

namespace Sys2Proof.Machine

/-- A sparse table from numbers to values; what an absent key reads as is said where the table is read. -/
abbrev Map (α : Type) := List (Nat × α)

/-- Memory: listed bytes at strictly rising addresses, none of them zero; an unlisted byte reads 0. -/
abbrev Memory := List Host.Cell

/-- The states of a thread slot (R46, R50). -/
inductive TState where
  | free | ready | waiting | parked | trap
deriving DecidableEq, Repr

/-- The privilege levels (R305). -/
inductive Priv where
  | u | s | h
deriving DecidableEq, Repr

/-- The park reasons (R47). -/
inductive Park where
  | none | qempty | qfull | pagefault | tagwait | barrier | bcount | join | memwait | jobwait | livecap | idle | stop
deriving DecidableEq, Repr

/-- What a parked or WAITING thread waits for: the condition its wake source makes it look at again (R45, R47). -/
inductive WaitFor where
  | nothing
  | regs (id : Nat)                           -- the result of one instruction (R45)
  | results                                   -- every result still to come
  | queue (q n : Nat)                         -- n dwords to pop from an inbound queue
  | q1room (n : Nat)                          -- room for n dwords in q1
  | page (va : Nat)                           -- the supervisor's WAKE
  | block (pa va : Nat)                       -- a tag reply for the block; the access's address
  | barrier (i : Nat)                         -- the core barrier
  | bytes (i : Nat)                           -- the byte-count barrier
  | zeroAt (va pa : Nat) (uncached : Bool) (seen : Nat)        -- JOIN's word: zero
  | differsAt (va pa : Nat) (v : Word) (uncached : Bool) (seen : Nat)  -- WAITM's word: differs
  | jobEnd (id : Nat)                         -- a copy job's end
  | jobsEnd                                   -- every copy job's end (FENCE engines)
  | jobRoom                                   -- a held-job place and a queue entry (CPY)
  | liveCap (fam : Nat)                       -- a family's live count below its cap
  | q7                                        -- a record in q7 (IDLE)
  | release                                   -- FLUSH and CLOSE answers (R268)
  | matrix                                    -- matrix operations of the thread (R176, R177)
  | asks                                      -- what its instruction has asked of homes (R45, R223, R265, R266)
  | line (b : Nat)                            -- a store to a page-table line, before a walk may read it (R222)
  | invalidations (reqs : List Nat)           -- accesses that an XINV's removed entries translated (R492)
  | rings                                     -- ring instructions' effects (R192)
  | table (i : Nat)                           -- the replacement of a decode table (R394)
  | tableUsers (i since : Nat)                -- DTLD: operations on the table accepted up to a cycle (R394)
  | ending (step : Nat)                       -- END and SHIP: q1 empty, jobs ended
  | departure (dst : Nat)                     -- SHIP: room for its packet in the core's router (R450)
  | answers                                   -- HSEND's output buffer (R277)
  | lock (pa : Nat)                           -- a directory entry (R277)
deriving DecidableEq, Repr

/-- Where a result that comes after issue goes (R45, R505). -/
inductive LateDest where
  | x (r : Nat)                               -- a windowed scalar register; x0 drops the value
  | q1                                        -- the reserved dword of q1
  | lane (v w i : Nat)                        -- lane i of width code w of vector register v
deriving DecidableEq, Repr

/-- A result that comes after issue, before and after it has come (R45, R414). -/
inductive LateVal where
  | waiting
  | ready (v : Word)
  | poisoned (va : Word)
  | failed (cause : Nat) (va : Word)
deriving DecidableEq, Repr

/-- One result still to be delivered to a thread. -/
structure Late where
  /-- Groups the results of one instruction: they are delivered together. -/
  id : Nat
  /-- The request whose answer brings it. -/
  rseq : Nat
  dest : LateDest
  /-- Its address, and how the value is extended: bytes, and whether the sign is copied. -/
  va : Word
  size : Nat
  signed : Bool
  val : LateVal
deriving DecidableEq, Repr

/-- One access that an instruction has sent to a home and without whose answer it does not go on: an UNCACHED or WALK store,
an atomic that a home performs, a value the instruction needs to issue (R222, R223, R233, R265, R266). -/
structure Ask where
  rseq : Nat
  /-- 0 a fetch, 1 a read, 2 a store or an atomic of an UNCACHED or WALK line, 3 a far atomic of a tagged line, 4 whether such
  an access would be refused. -/
  kind : Nat
  /-- Which access of the instruction it is. -/
  key : Nat
  va : Word
  val : LateVal
deriving DecidableEq, Repr

/-- A record of q3: two dwords about an ended job; a popped dword leaves the list (R255). -/
structure JobRec where
  job : Nat
  words : List Word
deriving DecidableEq, Repr

/-- How a stopped thread was taken off its slot (R316, R321). -/
structure Saved where
  tstate : TState
  live : Nat
  forced : Bool
  priv : Priv
deriving DecidableEq, Repr

/-- A release that a thread has under way: how far it has come, and the sequence below which every FLUSH and CLOSE of the
core must be answered (R268). -/
structure Release where
  stage : Nat
  upTo : Nat
deriving DecidableEq, Repr

/-- The thread-scope and slot-scope system registers and masks of one slot (R76, R84). -/
structure Regs where
  fcsr : Word
  fmtctx : Word
  uhvec : Word
  uhpc : Word
  uhcause : Word
  uhval : Word
  launchid : Word
  status : Word
  epc : Word
  ecause : Word
  eval : Word
  ssave : Word
  /-- Byte-count barriers, in the layout of R83. -/
  bcb : Map Word
  masks : Map Mask
deriving DecidableEq, Repr

/-- The queues of one slot (R77, R238, R239, R245, R251). -/
structure Queues where
  q0 : List Word
  q1 : List Word
  /-- Dwords of a partly pushed message at the end of q1 (R237). -/
  q1partial : Nat
  q3 : List JobRec
  q4 : List Word
  /-- The dwords still to pop of the claimed q2 message (R243). -/
  q2claim : List Word
  /-- Payloads that came with messages of q0, for a handler slot (R277). -/
  payloads : List (Nat × Line)
deriving DecidableEq, Repr

/-- One thread slot: of a tile core, or a handler slot of a protocol processor (R37, R46, R76, R84, R272). -/
structure Thread where
  tstate : TState
  priv : Priv
  pc : Word
  annul : Nat
  parkSeq : Nat
  wakePending : Bool
  /-- The cause and value a wake-pending WAKET carries (R491). -/
  wakeTrap : Option (Nat × Word)
  park : Park
  wait : WaitFor
  /-- The park or the wait was taken in TRAP state (R50). -/
  inTrap : Bool
  slim : Nat
  vlim : Nat
  /-- First cycle at which the slot may issue again: its last issue plus 8 (R41). -/
  readyAt : Nat
  /-- No borrowed position until it issues in its own (R494). -/
  noBorrow : Bool
  /-- Time of dispatch, and CYCLE's count before it (R84). -/
  dispatched : Nat
  cycles : Nat
  regs : Regs
  queues : Queues
  pending : List Late
  /-- A trap that a late value of q1 made, taken at the next issue (R505). -/
  lateTrap : Option (Nat × Word)
  /-- What the instruction at the pc has asked of homes (R265, R266). -/
  asks : List Ask
  release : Release
  /-- How far END has come (R395). -/
  endStep : Nat
  /-- The decode table that a DTLD of the thread, its read complete, holds back others from, and since when (R394). -/
  tableHold : Option (Nat × Nat)
  saved : Option Saved
deriving DecidableEq, Repr

def Regs.reset : Regs :=
  { fcsr := 0, fmtctx := 0, uhvec := 0, uhpc := 0, uhcause := 0, uhval := 0, launchid := 0, status := 0, epc := 0,
    ecause := 0, eval := 0, ssave := 0, bcb := [], masks := [] }

def Queues.reset : Queues :=
  { q0 := [], q1 := [], q1partial := 0, q3 := [], q4 := [], q2claim := [], payloads := [] }

/-- A slot that nothing has dispatched to: FREE, everything zero. -/
def Thread.reset : Thread :=
  { tstate := .free, priv := .u, pc := 0, annul := 0, parkSeq := 0, wakePending := false, wakeTrap := none,
    park := .none, wait := .nothing, inTrap := false, slim := 0, vlim := 0, readyAt := 0, noBorrow := false,
    dispatched := 0, cycles := 0, regs := Regs.reset, queues := Queues.reset, pending := [], lateTrap := none,
    asks := [], release := ⟨0, 0⟩, endStep := 0, tableHold := none, saved := none }

/-- A task packet: header, pc, and the values for x3, x4, x5 to x12 (R51). -/
structure Packet where
  hdr : Word
  pc : Word
  vals : List Word
deriving DecidableEq, Repr

/-- The access tags (R265). -/
inductive Tag where
  | i | ro | rw | busy
deriving DecidableEq, Repr

/-- One block of a data cache (R265, R283). -/
structure Block where
  tag : Tag
  data : Line
  /-- Bytes not yet written to the home. -/
  dirty : Nat
  prot : Nat
  region : Nat
  /-- A REDUCE partial, held or asked for. -/
  partialCopy : Bool
  /-- An INVALIDATE came while BUSY (R267). -/
  invalPending : Bool
  /-- The request under way is a prefetch (R437). -/
  prefetch : Bool
  /-- Function, width and type that a REDUCE partial was asked for with (R283): bits [9:4] of the request's info. -/
  desc : Nat
  /-- The miss under way, whose answer the block waits for; 0 where none is. -/
  rseq : Nat
deriving DecidableEq, Repr

/-- A FLUSH or a CLOSE of a core that has not been answered: its sequence, its block, the bytes it carries (R267, R268). -/
structure FlushOut where
  rseq : Nat
  block : Nat
  mask : Nat
deriving DecidableEq, Repr

/-- A cached translation: a leaf of a size, or a non-leaf entry (R221). -/
structure TlbEntry where
  /-- First virtual address and bytes it covers. -/
  va : Nat
  size : Nat
  /-- The page-table entry, and the physical addresses of the entries the walk read. -/
  pte : Word
  path : List Nat
  part : Nat
deriving DecidableEq, Repr

/-- A message of the core-shared ring: its first position, its length, who claimed it, whether it is exhausted
(R242, R243). -/
structure RingMsg where
  start : Nat
  len : Nat
  owner : Option Nat
  spent : Bool
deriving DecidableEq, Repr

/-- A ring of packets held in memory: position of the oldest and how many it holds (R507). -/
structure RingPos where
  pos : Nat
  held : Nat
deriving DecidableEq, Repr

/-- What a matrix operation does (R174). -/
inductive MatKind where
  | mma (acc a b : Nat) (clear trans : Bool)
  | mzero (acc : Nat)
  | mst (fmt acc slot : Nat)
  | mld (acc slot : Nat)
  | ttrn (dst src : Nat)
deriving DecidableEq, Repr

/-- The output an application belongs to, and the passing-set entries it holds pinned (R199). -/
structure AppOf where
  entry : Nat
  i : Nat
  j : Nat
  k : Nat
  slotA : Nat
  slotB : Nat
deriving DecidableEq, Repr

/-- An accepted matrix operation with the format context it captured (R87, R176). -/
structure MatOp where
  kind : MatKind
  ctx : Word
  /-- The late result an MST fills (R178), and the cycle of acceptance (R180). -/
  late : Nat
  accepted : Nat
  app : Option AppOf
deriving DecidableEq, Repr

/-- The matrix array: a queue for each of seventeen requesters, the operation under way and when it ends, the last
requester granted (R176, R179, R180). -/
structure Array where
  queues : Map (List MatOp)
  running : Option (Nat × MatOp × Nat)
  last : Nat
deriving DecidableEq, Repr

/-- A steal sweep: when the last began, whether one is under way, victims still to try, the one asked, and the
victim last tried at each distance (R66). -/
structure Steal where
  active : Bool
  started : Option Nat
  victims : List Nat
  waiting : Bool
  lastTried : Map Nat
  buffer : Option Packet
deriving DecidableEq, Repr

/-- One record waiting for, or holding, a place of q7: whether another agent made it (R78). -/
structure Q7Rec where
  foreign : Bool
  words : List Word
deriving DecidableEq, Repr

/-- The run lists, the deque and their rings (R53, R61, R63, R64). -/
structure Work where
  /-- Hardware part of the deque, oldest first. -/
  deque : List Packet
  spill : RingPos
  overflow : RingPos
  class2 : RingPos
  class3 : RingPos
  class4 : RingPos
  /-- Restored threads waiting for their slots (class 1). -/
  restored : List Nat
  aging : Nat
  steal : Steal
  sent : Word
  received : Word
  built : Nat
  /-- The cycle of the core's last dispatch: at most one each cycle (R63). -/
  dispatchedAt : Option Nat
deriving DecidableEq, Repr

/-- The registers of block 0x00 and the core-scope system registers (R84, R213). -/
structure CoreRegs where
  sprsv : Word
  spillb : Word
  ovfb : Word
  sweep : Word
  texit : Word
  q2cfg : Word
  stale : Word
  svec : Word
  ptroot : Word
  /-- The root the walker uses, which changes only with XINV (R223, R455). -/
  walkRoot : Word
  regionbase : Word
  savearea : Word
deriving DecidableEq, Repr

/-- The stop under way at one core (R315 to R317). -/
structure StopInfo where
  stopAt : Option Nat
  reached : Bool
  /-- The stop spill ring of the reserved scratchpad: byte offset of its oldest entry, and bytes it holds (R507). -/
  spillPos : Nat
  spillHeld : Nat
  /-- Entries at the tail of the overflow ring that it took for the stop spill ring (R317). -/
  kept : Nat
deriving DecidableEq, Repr

/-- No stop, and nothing kept for a restore. -/
def StopInfo.reset : StopInfo := { stopAt := none, reached := false, spillPos := 0, spillHeld := 0, kept := 0 }

/-- One tile core (R21, R76). -/
structure Core where
  threads : Map Thread
  /-- Scalar and vector register files by physical entry (R38). -/
  xrf : Map Word
  vrf : Map Vec
  /-- Accumulator words at 4096 × acc + 64 × i + j. -/
  acc : Map (BitVec 32)
  accPoison : Map Bool
  /-- Decode tables: word c of table t at 256 × t + c (R154). -/
  dt : Map (BitVec 32)
  /-- Scratchpad, tile slots and side entries by local-window offset (R168, R209). -/
  sram : Memory
  /-- Poisoned 64-byte granules of the local window (R235). -/
  sramPoison : Map Bool
  pins : Map Nat
  written : Map Bool
  cache : Map Block
  /-- Blocks with a FAR-AMO under way, by its sequence (R265). -/
  far : Map Nat
  /-- FLUSHes and CLOSEs not yet answered, and REDUCE regions whose partials are flushed and whose CLOSE is not yet sent
  (R268). -/
  flushes : List FlushOut
  closing : List Nat
  tlb : List TlbEntry
  work : Work
  /-- Core barriers in the layout of R376. -/
  barriers : Map Word
  q2 : List RingMsg
  q2next : Nat
  q5 : List (List Word)
  q6 : List (List Word)
  q7 : List Q7Rec
  q7waiting : List Q7Rec
  regs : CoreRegs
  array : Array
  stop : StopInfo
deriving DecidableEq, Repr

def CoreRegs.reset : CoreRegs :=
  { sprsv := 32, spillb := 6, ovfb := 6, sweep := 12, texit := 0, q2cfg := 0x47F000, stale := 0, svec := 0,
    ptroot := 0, walkRoot := 0, regionbase := 0, savearea := 0 }

def Work.reset : Work :=
  { deque := [], spill := ⟨0, 0⟩, overflow := ⟨0, 0⟩, class2 := ⟨0, 0⟩, class3 := ⟨0, 0⟩, class4 := ⟨0, 0⟩,
    restored := [], aging := 0,
    steal := { active := false, started := none, victims := [], waiting := false, lastTried := [], buffer := none },
    sent := 0, received := 0, built := 0, dispatchedAt := none }

/-- No operation; the spec does not say which requester counts as the last one granted, and the model takes the match unit, so
that slot 0 comes first (R179; log entry 79). -/
def Array.reset : Array := { queues := [], running := none, last := 16 }

/-- A core that holds nothing. -/
def Core.reset : Core :=
  { threads := [], xrf := [], vrf := [], acc := [], accPoison := [], dt := [], sram := [], sramPoison := [],
    pins := [], written := [], cache := [], far := [], flushes := [], closing := [], tlb := [], work := Work.reset, barriers := [],
    q2 := [], q2next := 0, q5 := [], q6 := [], q7 := [], q7waiting := [], regs := CoreRegs.reset,
    array := Array.reset, stop := StopInfo.reset }

/-- The states of a copy job (R253); `free` is an entry that no job holds. -/
inductive JobState where
  | free | queued | running | paused | failed | complete | cancelled
deriving DecidableEq, Repr

/-- One entry of a copy engine with its copy of the descriptor (R245 to R254). -/
structure Job where
  state : JobState
  core : Nat
  slot : Nat
  priv : Priv
  kind : Nat
  src : Word
  dst : Word
  ctl : Word
  aux : Word
  /-- COUNT, SSTRIDE and DSTRIDE of each dimension. -/
  dims : List (Word × Word × Word)
  /-- The descriptor's address, as a save keeps it (R321). -/
  desc : Word
  tag : Word
  /-- Elements delivered whole so far, and bytes counted at the barrier. -/
  pos : Nat
  delivered : Nat
  cause : Nat
  order : Nat
  /-- Of the element under way: its index or its scale byte, the pieces read, how many pieces are written, and that an
  access waits for a home's answer (R248, R249, R252). -/
  index : Option Nat
  buf : List Nat
  wrote : Nat
  waiting : Bool
  rseq : Nat
  /-- The address of the access that waits. -/
  asked : Word
deriving DecidableEq, Repr

/-- The ring families' injector records (R190). -/
structure Injector where
  active : Bool
  /-- The tile has entered its injector station (R192). -/
  entered : Bool
  core : Nat
  hdr : Word
  slot : Nat
  remain : Nat
  seq : Nat
  /-- Where RINJ's tile id goes. -/
  thread : Nat
  late : Nat
  order : Nat
deriving DecidableEq, Repr

/-- A tile on a link, in a station or in the ring save buffer, with its header, its contents and the cycle in which its
hop ends (R188, R24). -/
structure Tile where
  hdr : Word
  due : Nat
  fam : Nat
  inj : Nat
  record : Nat
  seq : Nat
  data : Memory
  side : Memory
deriving DecidableEq, Repr

/-- One passing-set entry: the tile it copies, how recently it came, its pins (R193, R198). -/
structure PassEntry where
  inj : Nat
  record : Nat
  seq : Nat
  hdr : Word
  rank : Nat
  pins : Nat
deriving DecidableEq, Repr

/-- One pattern entry with its descriptor fields and owner map (R195), and the x3 of the thread that issued the PSET
(R199). -/
structure Pattern where
  active : Bool
  ctl : Word
  ownmap : Word
  fmt : Word
  spawnpc : Word
  spawnarg : Word
  caddr : Word
  ctag : Word
  owners : List Nat
  x3 : Word
deriving DecidableEq, Repr

/-- One output of a pattern entry (R196, R200). -/
structure Output where
  applied : Word
  pendingBits : Word
  /-- An earlier application has been queued, so CLR no longer clears. -/
  started : Bool
  /-- Applications and spawned tasks not yet finished. -/
  running : Nat
  completed : Bool
deriving DecidableEq, Repr

/-- The dynamic ring state that the save format does not fix (R323). -/
structure RingDyn where
  injectors : Map Injector
  passing : Map PassEntry
  /-- The tile on the link that leaves station s in family f, at 16 × f + s: at most one (R24). -/
  links : Map Tile
  /-- Tiles that a station has processed and that wait there for that link, oldest first (R206). -/
  departing : Map (List Tile)
  saveBuffer : List (Nat × Tile)
  rank : Nat
  order : Nat
deriving DecidableEq, Repr

/-- The units a hem shares (R23, R186, R245). -/
structure Hem where
  hemctl : Word
  hemsave : Word
  patterns : Map Pattern
  /-- Output o of entry e at 128 × e + o. -/
  outputs : Map Output
  ring : RingDyn
  deferrals : Nat
  misses : Nat
  /-- q5 and q6 records that wait in a station: station, words, entry and output (R200, R201). -/
  q5waiting : List (Nat × List Word × Nat × Nat)
  q6waiting : List (Nat × List Word)
  /-- Spawned tasks running: core and slot, entry, output, pinned slots (R199). -/
  spawned : List (Nat × Nat × AppOf)
  tlb : List TlbEntry
  jobs : Map Job
  jobSeq : Map Nat
  jobOrder : Nat
  /-- A stop holds injections back (R208). -/
  stopped : Bool
deriving DecidableEq, Repr

def RingDyn.reset : RingDyn :=
  { injectors := [], passing := [], links := [], departing := [], saveBuffer := [], rank := 0, order := 0 }

/-- A hem that holds nothing; both live caps are 16 (R186). -/
def Hem.reset : Hem :=
  { hemctl := 0x101000, hemsave := 0, patterns := [], outputs := [], ring := RingDyn.reset, deferrals := 0,
    misses := 0, q5waiting := [], q6waiting := [], spawned := [], tlb := [], jobs := [], jobSeq := [], jobOrder := 0,
    stopped := false }

/-- An agent of the device that sends and receives packets (R269, R346). -/
inductive Agent where
  | core (id slot : Nat)
  | hem (h : Nat)
  | engine (h : Nat)
  | pp (n : Nat)
  | port (n : Nat)
deriving DecidableEq, Repr

/-- One protocol message (R269, R270): its lane and type, control words, payload. -/
structure Msg where
  lane : Nat
  type : Nat
  words : List Word
  payload : Option Line
deriving DecidableEq, Repr

/-- What a packet of the mesh carries. -/
inductive Body where
  | msg (m : Msg)                                       -- a protocol message
  | placed (p : Packet) (radius : Nat)                  -- a PLACED packet on its way (R56)
  | ship (p : Packet)                                   -- a SHIP packet (R57)
  | dec (offset : Nat) (n : Nat)                        -- a TDEC decrement (R59)
  | stealReq                                            -- a steal request (R66)
  | stealRep (p : Option Packet)                        -- its answer
  | task (cls : Nat) (p : Packet)                       -- a packet that found its list and overflow ring full (R61)
  | drain (b : Nat) (reqs : List Nat)                   -- a WALK invalidation at its hem, which waits for accesses (R222)
  | message (words : List Word) (old : Bool)            -- a message of q1 (R238), or one of a stop spill ring that found its queue full (R325)
deriving DecidableEq, Repr

/-- One requester of a combined far AMO-ADD: who, its sequence, its addend (R33). -/
structure Merged where
  src : Agent
  rseq : Nat
  addend : Word
deriving DecidableEq, Repr

/-- A packet on the mesh: sender, receiver, class, partition, where it is (R31, R32, R269). -/
structure Flit where
  src : Agent
  dst : Agent
  cls : Nat
  part : Nat
  rseq : Nat
  x : Nat
  y : Nat
  /-- It has left its sender and is in a router's buffer (R31). -/
  entered : Bool
  /-- When the router received it, and the last of the requests it combines: cycle × 8 + input port (R33). -/
  got : Nat
  gotLast : Nat
  body : Body
  merged : List Merged
  /-- Its place in the order in which its sender has sent packets of its lane and class, among those still under way (R32). -/
  nth : Nat := 0
deriving DecidableEq, Repr

/-- One directory entry (R276); HOST, FAB, reserved bits and every other field are in `dword0`. -/
structure DirEntry where
  locked : Bool
  failed : Bool
  hslot : Nat
  dword0 : Word
  sharers : Word
  pw0 : Word
  pw1 : Word
deriving DecidableEq, Repr

/-- A request a home works on: what it answers, the handler slot that works on it, the answers it waits for; stage 1 is
one block of a region's close. `recalled` is set until the RW holder has given its data back (R263, R282). -/
structure Txn where
  req : Flit
  slot : Nat
  awaiting : Nat
  stage : Nat
  recalled : Bool
  data : Option Line
deriving DecidableEq, Repr

/-- One handler slot of a protocol processor (R272, R275, R279). -/
structure Handler where
  thread : Thread
  req : Option Flit
  part : Nat
  region : Nat
  prot : Nat
  locks : List Nat
  answered : Bool
  /-- Messages that await answers, by sequence. -/
  awaiting : List Nat
  nextSeq : Nat
  issued : Nat
  started : Nat
  /-- The block the dispatch locked, and the descriptor it concerns. -/
  block : Nat
deriving DecidableEq, Repr

/-- One protocol processor (R29, R272 to R276). -/
structure PP where
  handlers : Map Handler
  xrf : Map Word
  /-- Handler memory by local-window offset, 64 KiB (R273). -/
  sram : Memory
  /-- The dispatch table, by byte offset / 8 (R274). -/
  table : Map Word
  /-- For each slot group, the class whose turn it is and the dispatches it has taken (R332). -/
  turn : Map (Nat × Nat)
  dropped : Nat
deriving DecidableEq, Repr

def Handler.reset : Handler :=
  { thread := Thread.reset, req := none, part := 0, region := 0, prot := 0, locks := [], answered := false,
    awaiting := [], nextSeq := 0, issued := 0, started := 0, block := 0 }

def PP.reset : PP := { handlers := [], xrf := [], sram := [], table := [], turn := [], dropped := 0 }

/-- The stop states of a partition (R319, R329). -/
inductive Stop where
  | empty | run | stopping | quiesced | saving | saved | restoring | forming
deriving DecidableEq, Repr

/-- The trusted interface states (R333). -/
inductive Trust where
  | unlocked | locked | run | error
deriving DecidableEq, Repr

/-- A launch that runs: its budgets, domain, gap, id, where it reports, its status so far (R355, R356). -/
structure Launch where
  slim : Nat
  vlim : Nat
  domain : Nat
  gap : Nat
  launchid : Word
  caddr : Word
  cval : Word
  queue : Nat
  qcb : Nat
  /-- Status 5 or 6 with the cause, once an error has ended it (R506). -/
  error : Option Nat
  /-- The launch is being torn down (R506). -/
  ending : Bool
  stalled : Bool
deriving DecidableEq, Repr

/-- What one sweep found (R69): totals, idleness, and what R71 and R318 need. -/
structure SweepSum where
  sent : Word
  received : Word
  idle : Bool
  quiet : Bool
  stopped : Bool
  threads : Nat
deriving DecidableEq, Repr

/-- A launch queue that is mapped: list position, its control block, what is cached of the privileged block, since when
(R353, R358). -/
structure Mapped where
  index : Nat
  qcb : Nat
  base : Nat
  log2 : Nat
  conemin : Word
  since : Nat
  /-- The packet read and not yet carried out. -/
  packet : Option (List Word)
deriving DecidableEq, Repr

/-- What started a Kiln, and what it leaves (R338, R341). -/
inductive KilnFor where
  | boot | split | merge | error | unlock | plain
deriving DecidableEq, Repr

/-- A Kiln under way (R338 to R341). -/
structure KilnRun where
  why : KilnFor
  phase : Nat
  bind : Word
  classes : Word
  /-- Device time at which the last agent reported: the end of phase 5 (R341). -/
  reported : Nat
  /-- The partition entered ERROR while it ran: the ERROR Kiln follows it (R335, R341). -/
  failed : Bool
deriving DecidableEq, Repr

/-- A restore under way (R325, R469). -/
structure Restore where
  origin : Stop
  hems : List Nat
  cores : List Nat
deriving DecidableEq, Repr

/-- The settings of a partition's control block (R329, R352 and the launch-queue list). -/
structure PartRegs where
  bindv : Word
  pclass : Word
  plink : Word
  kbind : Word
  pmem : Map Word
  hmem : Map Word
  presult : Word
  qlist : Word
  qn : Word
  quant : Word
  aseq : Nat
  resb : Map Word
  resl : Map Word
  occt : Word
  /-- The cone and the lock report, as bytes (R337, R341). -/
  cone : Map Byte
  report : Map Byte
deriving DecidableEq, Repr

/-- One partition: a node of the buddy tree and all that runs on it (R327, R329). -/
structure Partition where
  id : Nat
  level : Nat
  node : Nat
  /-- Hems of its node that were retired before it was formed: it leaves them out (R361). -/
  out : Word
  stop : Stop
  trust : Trust
  kiln : Option KilnRun
  regs : PartRegs
  launch : Option Launch
  /-- The launch partition id, and the hem that holds each launch hem (R324). -/
  launchPart : Nat
  idmap : Map Nat
  stopSeq : Word
  stopAt : Nat
  lastSweep : Option SweepSum
  sweepAt : Nat
  queues : List Mapped
  nextQueue : Nat
  restore : Option Restore
  /-- The thread that waits for CQSC's count, and the count (R320). -/
  cqsc : Option (Nat × Nat × Nat × Nat)
  /-- Homes still to answer a region's close or combine, by region (R263, R284). -/
  regionBusy : Map Nat
deriving DecidableEq, Repr

def PartRegs.reset : PartRegs :=
  { bindv := 0, pclass := 0, plink := 0, kbind := 0, pmem := [], hmem := [], presult := 0, qlist := 0, qn := 0,
    quant := 0, aseq := 0, resb := [], resl := [], occt := 0, cone := [], report := [] }

/-- A partition as bring-up, SPLIT and MERGE form it, before its Kiln, where some hems are retired (R328, R329, R361). -/
def Partition.formed (id level node : Nat) (out : Word) : Partition :=
  { id, level, node, out, stop := .forming, trust := .unlocked, kiln := none, regs := PartRegs.reset, launch := none,
    launchPart := id, idmap := [], stopSeq := 0, stopAt := 0, lastSweep := none, sweepAt := 0, queues := [],
    nextQueue := 0, restore := none, cqsc := none, regionBusy := [] }

/-- One pooled extent (R350). -/
structure Extent where
  first : Word
  last : Word
deriving DecidableEq, Repr

/-- The boot block, the device status and the device-wide registers (R332, R360, R363). -/
structure DevRegs where
  bootst : Nat
  imgaddr : Word
  /-- HASH of the image that the device runs, from which its identity key comes (R360). -/
  image : List Byte
  idkey : Map Byte
  idsig : Map Byte
  weights : Word
  caps : Map Word
  drops : Nat
  retired : Word
  replace : Bool
  ovflog : Bool
  plog : List Nat
  throt : Map Word
  /-- The hottest sensor of each die, as the outside last gave it (R363). -/
  temp : Map Word
  /-- Frames of device memory, first and last, that are retired or not fitted (R219). -/
  unfit : List (Nat × Nat)
  scrubSeq : Word
  lockSeq : Word
  aseq : Nat
  /-- Host-link event interrupts raised so far (R361). -/
  hostEvents : Nat
  /-- What the host's last read over the register aperture gave (R348). -/
  apertureRead : Word
deriving DecidableEq, Repr

def DevRegs.reset : DevRegs :=
  { bootst := 0, imgaddr := 0, image := [], idkey := [], idsig := [], weights := 0x01010101, caps := [], drops := 0, retired := 0,
    replace := false, ovflog := false, plog := [], throt := [], temp := [], unfit := [], scrubSeq := 0, lockSeq := 0, aseq := 0,
    hostEvents := 0, apertureRead := 0 }

/-- The slot whose instruction is being carried out: a tile core's, or a protocol processor's. -/
structure Actor where
  pp : Bool
  unit : Nat
  slot : Nat
  /-- Address of the instruction's first halfword, and its length in halfwords. -/
  pc : Word
  len : Nat
deriving DecidableEq, Repr

/-- What the next step is to do, when the outside says so: let a slot issue, or let an event happen; or what comes over a link:
a message for an agent of the device, a credit for a virtual channel, a host read of a device register (R345 to R348); or what a
die's hottest sensor shows from now on (R362). -/
inductive Action where
  | issue (pp : Bool) (unit slot : Nat)
  | event (i : Instr)
  | arrive (port : Nat) (dst : Agent) (cls part rseq : Nat) (m : Msg)
  | credit (port channel : Nat)
  | hostRead (off : Nat)
  | sensor (die : Nat) (temp : Word)
deriving DecidableEq, Repr

/-- The links to the host and to other devices (R345, R347, R349). -/
structure Links where
  /-- Messages that have left on a virtual channel and that the far side has not credited, at 16 × link + 4 × level + class, a link being bits [13:8] of its port agents:
  level 0 requests, 1 replies. -/
  used : Map Nat
  /-- What has left the device, oldest first. -/
  out : List Flit
  /-- Port agents that hold a copy of a block, by block. -/
  copies : Map (List Nat)
  /-- Requests that a fabric protocol processor has sent on to a remote home, by the sequence under which it sent them. -/
  sent : Map Flit
  /-- What fabric protocol processors answer once hems have answered them, by the sequence of their messages. -/
  asked : Map Txn
deriving DecidableEq, Repr

def Links.reset : Links := { used := [], out := [], copies := [], sent := [], asked := [] }

/-- What a homes' deferred list holds, and the stores that wait for their invalidations (R222, R275). -/
structure WalkStore where
  req : Flit
  awaiting : Nat
deriving DecidableEq, Repr

/-- The device. -/
structure State where
  time : Nat
  cores : Map Core
  hems : Map Hem
  pps : Map PP
  parts : Map Partition
  /-- Physical memory of spaces 0 to 3, by physical address (R27, R219). -/
  mem : Memory
  /-- Poisoned 64-byte lines, each with where the error was found, as R235's SRC numbers it (R232). -/
  poison : Map Nat
  /-- Directory entries, deferred lists and transactions, by block address (R276). -/
  dir : Map DirEntry
  deferred : Map (List Flit)
  txns : Map Txn
  /-- Sharer bitmaps of WALK lines, and the stores that wait for acknowledgements (R222). -/
  walkSharers : Map Word
  walkStores : Map WalkStore
  /-- Packets on the mesh and at their destinations, oldest first. -/
  net : List Flit
  links : Links
  extents : Map Extent
  dev : DevRegs
  /-- The model's own: whose instruction it is, the units that have issued in this cycle, the outside's actions, the
  next sequence number. -/
  cur : Actor
  issued : List Nat
  agenda : List Action
  seq : Nat
deriving DecidableEq, Repr

/-- Why a step can stop with a fault. -/
inductive Fault where
  /-- Raised by a meaning that is carried out for a core, a slot or a protocol processor the device does not have;
  no step of the model itself names one. Safe: the model stops. -/
  | noSuchAgent
deriving DecidableEq, Repr

/-- Why a step can be refused. -/
inductive Refusal where
  /-- Raised by a dispatch arm whose instruction has no meaning yet. Safe: nothing is said of the instruction. -/
  | notModelled (mnemonic : String)
deriving DecidableEq, Repr

/-- The device right after reset: it waits for the host's GO (R359), no partition exists, nothing is listed. -/
def State.reset : State :=
  { time := 0, cores := [], hems := [], pps := [], parts := [], mem := [], poison := [], dir := [], deferred := [],
    txns := [], walkSharers := [], walkStores := [], net := [], links := Links.reset, extents := [], dev := DevRegs.reset,
    cur := ⟨false, 0, 0, 0, 0⟩, issued := [], agenda := [], seq := 0 }

end Sys2Proof.Machine
end

