-- ==== Sys2Proof/Machine/Store.lean ====
section
/-! DEFINITION. Reading and writing the sparse tables and the byte memories that State holds, and the little-endian
values memory is read and written as (R4, R11). -/

namespace Sys2Proof.Machine

/-- The entry of a key, if it is listed. -/
def Map.look {α : Type} : Map α → Nat → Option α
  | [], _ => none
  | (k, v) :: t, j => if j = k then some v else Map.look t j

/-- The entry of a key, or the value an absent key reads as. -/
def Map.at {α : Type} (m : Map α) (j : Nat) (d : α) : α := (m.look j).getD d

/-- Lists an entry, keeping keys rising. -/
def Map.put {α : Type} : Map α → Nat → α → Map α
  | [], k, v => [(k, v)]
  | (j, w) :: t, k, v => if k = j then (k, v) :: t else if k < j then (k, v) :: (j, w) :: t else (j, w) :: Map.put t k v

/-- Takes a key's entry out. -/
def Map.del {α : Type} (m : Map α) (k : Nat) : Map α := m.filter fun e => e.1 != k

/-- Takes every entry out whose key lies in [lo, hi). -/
def Map.delRange {α : Type} (m : Map α) (lo hi : Nat) : Map α := m.filter fun e => e.1 < lo || hi ≤ e.1

/-- The byte at an address: an unlisted byte reads 0. -/
def Memory.byte : Memory → Nat → Byte
  | [], _ => 0
  | (k, v) :: t, a => if a = k then v else Memory.byte t a

/-- Takes the byte of an address out of the list: it reads 0. -/
def Memory.clear (m : Memory) (a : Nat) : Memory := m.filter fun c => c.1 != a

/-- Lists a byte, keeping addresses rising. -/
def Memory.list : Memory → Nat → Byte → Memory
  | [], a, b => [(a, b)]
  | (k, v) :: t, a, b => if a = k then (a, b) :: t else if a < k then (a, b) :: (k, v) :: t else (k, v) :: Memory.list t a b

/-- Writes one byte; writing 0 takes the entry out, so that equal memories are equal lists. -/
def Memory.setByte (m : Memory) (a : Nat) (b : Byte) : Memory := if b = 0 then m.clear a else m.list a b

/-- The canonical form: addresses strictly rising, no listed byte zero. -/
def Memory.wf : Memory → Bool
  | [] => true
  | (_, v) :: [] => v != 0
  | (k, v) :: (j, w) :: t => v != 0 && k < j && Memory.wf ((j, w) :: t)

/-- The little-endian value of `n` bytes at an address (R4). -/
def Memory.read (m : Memory) (a : Nat) : Nat → Nat
  | 0 => 0
  | n + 1 => (m.byte a).toNat + 256 * Memory.read m (a + 1) n

/-- Writes the low `n` bytes of a value, little-endian (R4). -/
def Memory.write (m : Memory) (a : Nat) : Nat → Nat → Memory
  | 0, _ => m
  | n + 1, v => Memory.write (m.setByte a (BitVec.ofNat 8 v)) (a + 1) n (v / 256)

/-- The dword at an address. -/
def Memory.word (m : Memory) (a : Nat) : Word := w64 (m.read a 8)

/-- Writes a dword. -/
def Memory.setWord (m : Memory) (a : Nat) (v : Word) : Memory := m.write a 8 v.toNat

/-- Writes dwords from an address upward. -/
def Memory.setWords (m : Memory) (a : Nat) : List Word → Memory
  | [] => m
  | v :: t => Memory.setWords (m.setWord a v) (a + 8) t

/-- The `n` dwords from an address upward. -/
def Memory.words (m : Memory) (a : Nat) : Nat → List Word
  | 0 => []
  | n + 1 => m.word a :: Memory.words m (a + 8) n

/-- The 64-byte line at an address. -/
def Memory.line (m : Memory) (a : Nat) : Line := BitVec.ofNat 512 (m.read a 64)

/-- Writes the bytes of a line that a mask selects, the lowest bit for the lowest byte. -/
def Memory.setLine (m : Memory) (a : Nat) (v : Line) (mask : Nat) : Memory :=
  (List.range 64).foldl (fun m i => if mask.testBit i then m.setByte (a + i) (BitVec.ofNat 8 (v.toNat >>> (8 * i))) else m) m

/-- Takes out every byte in [lo, hi): they read 0. -/
def Memory.clearRange (m : Memory) (lo hi : Nat) : Memory := m.filter fun c => c.1 < lo || hi ≤ c.1

/-- Takes out every byte whose address a predicate picks: they read 0. -/
def Memory.clearIf (m : Memory) (f : Nat → Bool) : Memory := m.filter fun c => !f c.1

/-- The bytes in [lo, lo + n), moved so that lo becomes `dst`. -/
def Memory.slice (m : Memory) (lo n dst : Nat) : Memory :=
  (m.filter fun c => lo ≤ c.1 && c.1 < lo + n).map fun c => (c.1 - lo + dst, c.2)

/-- Puts a run of `n` bytes, listed from 0 upward, at an address. -/
def Memory.paste (m : Memory) (a n : Nat) (run : Memory) : Memory :=
  run.foldl (fun m c => if c.1 < n then m.setByte (a + c.1) c.2 else m) (m.clearRange a (a + n))

/-- Bits [hi:lo] of a number (R5). -/
def bits (v hi lo : Nat) : Nat := v / 2 ^ lo % 2 ^ (hi - lo + 1)

/-- Bits [hi:lo] of a dword (R5). -/
def fld (v : Word) (hi lo : Nat) : Nat := bits v.toNat hi lo

/-- A dword with bits [hi:lo] replaced (R12). -/
def setFld (v : Word) (hi lo n : Nat) : Word :=
  w64 (v.toNat - fld v hi lo * 2 ^ lo + n % 2 ^ (hi - lo + 1) * 2 ^ lo)

/-- The bytes of a value as a list, the lowest first. -/
def bytesLE : Nat → Nat → List Nat
  | 0, _ => []
  | n + 1, v => v % 256 :: bytesLE n (v / 256)

/-- The value of bytes, the lowest first. -/
def fromLE : List Nat → Nat
  | [] => 0
  | b :: t => b % 256 + 256 * fromLE t

end Sys2Proof.Machine
end

