-- ==== Sys2Proof/Machine/Crypto.lean ====
section
/-! DEFINITION. The hash and the signature of the standards that R14 names: SHA-512 of FIPS 180-4 and Ed25519 of RFC 8032,
over lists of bytes. What they are applied to that is secret or fused stands in Config (log entry 5). -/

namespace Sys2Proof.Machine

/-- Bytes of a value, the lowest first. -/
def leBytes (n v : Nat) : List Byte := (bytesLE n v).map fun b => BitVec.ofNat 8 b
/-- The value of bytes, the lowest first. -/
def leNat (l : List Byte) : Nat := fromLE (l.map (·.toNat))
/-- The first `n` bytes of a constant of Config. -/
def digest (n : Nat) (f : Nat → Byte) : List Byte := (List.range n).map f

/-! ## SHA-512 (FIPS 180-4) -/

/-- The largest number whose k-th power is at most `v`, found from bit `i - 1` down. -/
def rootFrom (k v : Nat) : Nat → Nat → Nat
  | 0, r => r
  | i + 1, r => if (r + 2 ^ i) ^ k ≤ v then rootFrom k v i (r + 2 ^ i) else rootFrom k v i r

/-- The first 64 bits of the fractional part of the k-th root of a number below 2^9. -/
def rootBits (k p : Nat) : Word := w64 (rootFrom k (p * 2 ^ (64 * k)) 70 0)

/-- The primes below a bound. -/
def primesBelow (n : Nat) : List Nat :=
  (List.range n).filter fun p => 2 ≤ p && ((List.range p).drop 2).all fun q => p % q ≠ 0

/-- The 80 round constants: cube roots of the first 80 primes, the last of which is 409 (4.2.3). -/
def shaK : List Word := (primesBelow 410).map (rootBits 3)

/-- The initial hash value: square roots of the first 8 primes (5.3.5). -/
def shaStart : List Word := (primesBelow 20).map (rootBits 2)

/-- Ch and Maj (4.1.3). -/
def shaCh (x y z : Word) : Word := (x &&& y) ^^^ (~~~x &&& z)
def shaMaj (x y z : Word) : Word := (x &&& y) ^^^ (x &&& z) ^^^ (y &&& z)
/-- The four functions Σ0, Σ1, σ0 and σ1 (4.1.3). -/
def shaBig0 (x : Word) : Word := x.rotateRight 28 ^^^ x.rotateRight 34 ^^^ x.rotateRight 39
def shaBig1 (x : Word) : Word := x.rotateRight 14 ^^^ x.rotateRight 18 ^^^ x.rotateRight 41
def shaSmall0 (x : Word) : Word := x.rotateRight 1 ^^^ x.rotateRight 8 ^^^ x >>> 7
def shaSmall1 (x : Word) : Word := x.rotateRight 19 ^^^ x.rotateRight 61 ^^^ x >>> 6

/-- Padding: a 1 bit, zeros, and the length in bits in 16 bytes, the highest first (5.1.2). -/
def shaPad (m : List Byte) : List Byte :=
  m ++ 0x80 :: List.replicate ((239 - m.length % 128) % 128) 0 ++ (leBytes 16 (8 * m.length)).reverse

/-- The 16 words of a block, each with its highest byte first. -/
def shaWords (b : List Byte) : List Word := (List.range 16).map fun i => w64 (leNat ((b.drop (8 * i)).take 8).reverse)

/-- The word that follows the last 16 of the message schedule, of which the newest stands first (6.4.2). -/
def shaNext (w : List Word) : Word :=
  shaSmall1 (w.getD 1 0) + w.getD 6 0 + shaSmall0 (w.getD 14 0) + w.getD 15 0

/-- The message schedule: `n` further words, the newest first. -/
def shaExtend : Nat → List Word → List Word
  | 0, w => w
  | n + 1, w => shaExtend n (shaNext w :: w)

/-- The eight working variables. -/
structure ShaVars where
  a : Word
  b : Word
  c : Word
  d : Word
  e : Word
  f : Word
  g : Word
  h : Word
deriving DecidableEq, Repr

def ShaVars.ofList (l : List Word) : ShaVars :=
  ⟨l.getD 0 0, l.getD 1 0, l.getD 2 0, l.getD 3 0, l.getD 4 0, l.getD 5 0, l.getD 6 0, l.getD 7 0⟩
def ShaVars.toList (v : ShaVars) : List Word := [v.a, v.b, v.c, v.d, v.e, v.f, v.g, v.h]

/-- One round, with its constant and its word of the schedule (6.4.2 step 3). -/
def ShaVars.round (v : ShaVars) (kw : Word × Word) : ShaVars :=
  let t := v.h + shaBig1 v.e + shaCh v.e v.f v.g + kw.1 + kw.2
  ⟨t + shaBig0 v.a + shaMaj v.a v.b v.c, v.a, v.b, v.c, v.d + t, v.e, v.f, v.g⟩

/-- The hash value after one more block. -/
def shaBlock (hv : List Word) (b : List Byte) : List Word :=
  let w := (shaExtend 64 (shaWords b).reverse).reverse
  List.zipWith (· + ·) hv ((shaK.zip w).foldl ShaVars.round (ShaVars.ofList hv)).toList

/-- SHA-512: its 64 bytes. -/
def sha512 (m : List Byte) : List Byte :=
  let p := shaPad m
  let hv := (List.range (p.length / 128)).foldl (fun h i => shaBlock h ((p.drop (128 * i)).take 128)) shaStart
  hv.flatMap fun w => (leBytes 8 w.toNat).reverse

/-! ## Ed25519 (RFC 8032, section 5.1) -/

/-- The field's prime and the order of the base point. -/
def edP : Nat := 2 ^ 255 - 19
def edL : Nat := 2 ^ 252 + 27742317777372353535851937790883648493

/-- A power modulo the prime, from bit `n - 1` of the exponent down. -/
def powFrom (b e : Nat) : Nat → Nat → Nat
  | 0, r => r
  | n + 1, r =>
    let r := r * r % edP
    powFrom b e n (if e.testBit n then r * b % edP else r)
def fpPow (b e : Nat) : Nat := powFrom b e 256 1
/-- The inverse in the field. -/
def fpInv (x : Nat) : Nat := fpPow x (edP - 2)
/-- Differences in the field. -/
def fpSub (x y : Nat) : Nat := (x + (edP - y % edP)) % edP

/-- The curve's constant d = −121665 / 121666. -/
def edD : Nat := fpSub 0 121665 * fpInv 121666 % edP

/-- A point in extended homogeneous coordinates (5.1.4). -/
structure EdPoint where
  x : Nat
  y : Nat
  z : Nat
  t : Nat
deriving DecidableEq, Repr

/-- The neutral element. -/
def EdPoint.zero : EdPoint := ⟨0, 1, 1, 0⟩

/-- Addition, which serves for doubling too (5.1.4). -/
def EdPoint.add (p q : EdPoint) : EdPoint :=
  let a := fpSub p.y p.x * fpSub q.y q.x % edP
  let b := (p.y + p.x) * (q.y + q.x) % edP
  let c := p.t * 2 % edP * edD % edP * q.t % edP
  let d := p.z * 2 * q.z % edP
  let e := fpSub b a
  let f := fpSub d c
  let g := (d + c) % edP
  let h := (b + a) % edP
  ⟨e * f % edP, g * h % edP, f * g % edP, e * h % edP⟩

/-- A multiple of a point, from bit `n - 1` of the factor down. -/
def mulFrom (k : Nat) (p : EdPoint) : Nat → EdPoint → EdPoint
  | 0, r => r
  | n + 1, r =>
    let r := r.add r
    mulFrom k p n (if k.testBit n then r.add p else r)
def EdPoint.mul (k : Nat) (p : EdPoint) : EdPoint := mulFrom k p 512 EdPoint.zero

/-- Two points are the same. -/
def EdPoint.same (p q : EdPoint) : Bool := p.x * q.z % edP == q.x * p.z % edP && p.y * q.z % edP == q.y * p.z % edP

/-- The 32 bytes of a point: y, with the lowest bit of x in the top bit (5.1.2). -/
def EdPoint.encode (p : EdPoint) : List Byte :=
  let i := fpInv p.z
  leBytes 32 (p.y * i % edP + p.x * i % edP % 2 * 2 ^ 255)

/-- The x of a y, with its lowest bit given; none where the curve has none (5.1.3). -/
def edX (y sign : Nat) : Option Nat :=
  let u := fpSub (y * y) 1
  let v := (edD * (y * y % edP) + 1) % edP
  let v3 := v * v % edP * v % edP
  let x := u * v3 % edP * fpPow (u * (v3 * v3 % edP * v % edP) % edP) ((edP - 5) / 8) % edP
  let vx := v * (x * x % edP) % edP
  let root : Option Nat :=
    if vx = u then some x
    else if vx = fpSub 0 u then some (x * fpPow 2 ((edP - 1) / 4) % edP)
    else none
  root.bind fun x => if x = 0 && sign = 1 then none else some (if x % 2 = sign then x else fpSub 0 x)

/-- The point of 32 bytes (5.1.3). -/
def edDecode (b : List Byte) : Option EdPoint :=
  let n := leNat b
  let y := n % 2 ^ 255
  if edP ≤ y then none else (edX y (n / 2 ^ 255 % 2)).map fun x => ⟨x, y, 1, x * y % edP⟩

/-- The base point: y = 4/5 and the even x (5.1). -/
def edBase : EdPoint :=
  let y := 4 * fpInv 5 % edP
  let x := (edX y 0).getD 0
  ⟨x, y, 1, x * y % edP⟩

/-- The scalar that a private key's hash gives: the low 3 bits and the top bit cleared, the second highest set (5.1.5). -/
def edScalar (seed : List Byte) : Nat := leNat ((sha512 seed).take 32) / 8 * 8 % 2 ^ 254 + 2 ^ 254

/-- The public half of a private key (5.1.5). -/
def edPublic (seed : List Byte) : List Byte := (EdPoint.mul (edScalar seed) edBase).encode

/-- The signature's 64 bytes (5.1.6). -/
def edSign (seed m : List Byte) : List Byte :=
  let pub := edPublic seed
  let r := leNat (sha512 ((sha512 seed).drop 32 ++ m)) % edL
  let rb := (EdPoint.mul r edBase).encode
  let k := leNat (sha512 (rb ++ pub ++ m)) % edL
  rb ++ leBytes 32 ((r + k * edScalar seed) % edL)

/-- Whether a signature verifies: the equation [8][S]B = [8]R + [8][k]A, and S below the order (5.1.7). -/
def edVerify (pub m sig : List Byte) : Bool :=
  let n := leNat (sig.drop 32)
  match edDecode pub, edDecode (sig.take 32) with
  | some a, some r =>
    let k := leNat (sha512 (sig.take 32 ++ pub ++ m)) % edL
    decide (n < edL) && (EdPoint.mul (8 * n) edBase).same ((EdPoint.mul 8 r).add (EdPoint.mul (8 * k) a))
  | _, _ => false

end Sys2Proof.Machine
end

