-- ==== Sys2Proof/Config.lean ====
section
/-! DEFINITION. What one device fixes and the spec does not give: fused values and keys, where the micro-kernel begins, the depth of a mesh buffer. Every constant but the mesh
places is opaque: no proof can see its value (assumption log, entries 5, 12, 17 and 18). -/

namespace Sys2Proof.Config

/-- The device serial (R360). -/
opaque serial : Word

/-- Byte i of the fused endorsement key's private half (R360). -/
opaque endSeed : Nat → Byte

/-- Byte i of the private half of the identity key, which the device derives from its fused secret and an image's HASH
(R360; the spec does not give the derivation). -/
opaque idSeed : List Byte → Nat → Byte

/-- Byte i of the public half of the vendor key fused in the ROM (R359). -/
opaque vendorKey : Nat → Byte

/-- Whether a die's memory trains at bring-up (R359 step 1, R360 BOOTST 3). -/
opaque trains : Bool

/-- Address of the first instruction of the micro-kernel in slot 15 (R359 step 3). -/
opaque kernelPc : Word

/-- SVEC and SAVEAREA as the micro-kernel sets them on a core, HEMSAVE on a hem, before the first launch (R338). -/
opaque kernelSvec : Nat → Word
opaque kernelSavearea : Nat → Word
opaque kernelHemsave : Nat → Word

/-- The 64 MiB range that holds a slot's stack, counted from address 0 (R92 gives its size, not its place). -/
opaque stackRange : Nat → Nat → Nat

/-- The top of a slot's stack range, of a core's launch id: x2 at task entry (R93). -/
def stackTop (core slot : Nat) : Word := w64 ((stackRange core slot + 1) * 0x4000000)

/-- What stands in a task packet for a register beyond the issuing thread's scalar limit, for the cycle, the core, the slot
and the register: a free value (R40, R53; log entry 71). -/
opaque beyondLimit : Nat → Nat → Nat → Nat → Word

/-- Byte-offset-indexed dwords of the vendor image of a protocol processor's dispatch table (R274). -/
opaque vendorTable : Nat → Nat → Word

/-- Whether the slice of a line's home holds the line dirty, for the cycle and the line: the spec gives no time at which a
slice writes back (R25, R232; log entry 16). -/
opaque sliceDirty : Nat → Nat → Bool

/-- Which of the blocks that a full data cache may give up goes, for the cycle and the core (R21; log entry 72). -/
opaque victim : Nat → Nat → Nat

/-- Whether the switch of pooled memory answers with an error, for the cycle and the line, while the line's extent is revoked (R351). -/
opaque switchError : Nat → Nat → Bool

/-- Ranges of device-memory frames, first and last, that are retired or not fitted, for the cycle of the bring-up (R219; log entry
91). -/
opaque unfit : Nat → List (Nat × Nat)

/-- Whether a device number is in the fabric configuration (R219). -/
opaque fabricDevice : Nat → Bool

/-- Free places of a virtual channel of a link beyond the first (R345). -/
opaque linkSpare : Nat

/-- Places of a protocol processor's output buffer beyond the first (R277; log entry 90). -/
opaque outputSpare : Nat

/-- Places of a protocol processor's output buffer. -/
def outputDepth : Nat := outputSpare + 1

/-- Free slots of a virtual channel's buffer beyond the first (R31). -/
opaque vcSpare : Nat

/-- Free slots of a virtual channel's buffer. -/
def vcDepth : Nat := vcSpare + 1

/-- Mesh place of a protocol processor: the spec puts home nodes and ports at routers on the outer edges (R30) and
does not say at which; the places are the model's. -/
def ppXY (n : Nat) : Nat × Nat :=
  if n < 32 then
    let die := n / 8
    let k := n % 8
    let far := die / 2 * 31
    let side := die % 2 * 31
    if k < 4 then (16 * (die % 2) + 4 * k, far) else (side, 16 * (die / 2) + 4 * (k - 4))
  else if n < 48 then
    let die := (n - 32) / 4
    (16 * (die % 2) + 4 * ((n - 32) % 4) + 1, die / 2 * 31)
  else if n = 48 then (0, 1) else (31, 30)

end Sys2Proof.Config
end

