-- ==== Sys2Proof/Machine/Access.lean ====
section
/-! DEFINITION. The parts of the device by name: cores, hems, protocol processors, partitions, slots; the registers of
the slot whose instruction is being carried out; which partition owns a core. An absent entry is the part as reset
leaves it. -/

namespace Sys2Proof.Machine

/-! ## Parts of the device -/

def State.core (s : State) (c : Nat) : Core := s.cores.at c Core.reset
def State.setCore (s : State) (c : Nat) (k : Core) : State := { s with cores := s.cores.put c k }
def State.modCore (s : State) (c : Nat) (f : Core → Core) : State := s.setCore c (f (s.core c))

def State.hem (s : State) (h : Nat) : Hem := s.hems.at h Hem.reset
def State.setHem (s : State) (h : Nat) (k : Hem) : State := { s with hems := s.hems.put h k }
def State.modHem (s : State) (h : Nat) (f : Hem → Hem) : State := s.setHem h (f (s.hem h))

def State.pp (s : State) (n : Nat) : PP := s.pps.at n PP.reset
def State.setPP (s : State) (n : Nat) (k : PP) : State := { s with pps := s.pps.put n k }
def State.modPP (s : State) (n : Nat) (f : PP → PP) : State := s.setPP n (f (s.pp n))

def PP.handler (p : PP) (t : Nat) : Handler := p.handlers.at t Handler.reset
def State.modHandler (s : State) (n t : Nat) (f : Handler → Handler) : State :=
  s.modPP n fun p => { p with handlers := p.handlers.put t (f (p.handler t)) }

def Core.thread (k : Core) (t : Nat) : Thread := k.threads.at t Thread.reset
def Core.setThread (k : Core) (t : Nat) (th : Thread) : Core := { k with threads := k.threads.put t th }

/-- The thread of a slot: of a tile core, or of a protocol processor. -/
def State.thread (s : State) (pp : Bool) (u t : Nat) : Thread :=
  if pp then ((s.pp u).handler t).thread else (s.core u).thread t

/-- Replaces the thread of a slot. -/
def State.setThread (s : State) (pp : Bool) (u t : Nat) (th : Thread) : State :=
  if pp then s.modHandler u t fun h => { h with thread := th }
  else s.modCore u fun k => k.setThread t th

def State.modThread (s : State) (pp : Bool) (u t : Nat) (f : Thread → Thread) : State :=
  s.setThread pp u t (f (s.thread pp u t))

/-- A thread of a tile core. -/
def State.coreThread (s : State) (c t : Nat) : Thread := s.thread false c t
def State.modCoreThread (s : State) (c t : Nat) (f : Thread → Thread) : State := s.modThread false c t f

/-! ## The slot whose instruction is being carried out -/

def State.me (s : State) : Thread := s.thread s.cur.pp s.cur.unit s.cur.slot
def State.setMe (s : State) (th : Thread) : State := s.setThread s.cur.pp s.cur.unit s.cur.slot th
def State.modMe (s : State) (f : Thread → Thread) : State := s.setMe (f s.me)
def State.modRegs (s : State) (f : Regs → Regs) : State := s.modMe fun t => { t with regs := f t.regs }
def State.modQueues (s : State) (f : Queues → Queues) : State := s.modMe fun t => { t with queues := f t.queues }

/-- The core of the issuing slot; a handler slot has none, and its protocol processor's number stands for it. -/
def State.myCore (s : State) : Core := s.core s.cur.unit
def State.modMyCore (s : State) (f : Core → Core) : State := s.modCore s.cur.unit f

/-- The hem of a core (R19). -/
def hemOf (core : Nat) : Nat := core / 16
/-- The station of a core (R19). -/
def stationOf (core : Nat) : Nat := core % 16

def State.myHem (s : State) : Hem := s.hem (hemOf s.cur.unit)
def State.modMyHem (s : State) (f : Hem → Hem) : State := s.modHem (hemOf s.cur.unit) f

/-- Address of the base word of the instruction being carried out (R102). -/
def State.basePc (s : State) : Word := s.cur.pc + w64 (2 * (s.cur.len - 1))
/-- Address of the halfword after the base word. -/
def State.nextPc (s : State) : Word := s.cur.pc + w64 (2 * s.cur.len)

/-- The agent exists: 1,024 cores of 16 slots, 50 protocol processors of 64 (R21, R28, R29). -/
def Actor.valid (a : Actor) : Bool :=
  if a.pp then a.unit < 50 && a.slot < 64 else a.unit < 1024 && a.slot < 16

/-! ## Registers (R38, R39) -/

/-- First physical entry of a slot's scalar window (R38). -/
def scalarBase (slot : Nat) : Nat := if slot = 15 then 2016 else slot * 128
/-- First physical entry of a slot's vector window (R38). -/
def vectorBase (slot : Nat) : Nat := slot * 32

/-- The scalar limit of a slot: a handler slot and slot 15 have 32 (R38, R272). -/
def State.slimOf (s : State) (pp : Bool) (u t : Nat) : Nat :=
  if pp || t == 15 then 32 else (s.thread pp u t).slim
/-- The vector limit of a slot: a handler slot and slot 15 have none (R38, R272). -/
def State.vlimOf (s : State) (pp : Bool) (u t : Nat) : Nat :=
  if pp || t == 15 then 0 else (s.thread pp u t).vlim

/-- The value of a windowed scalar register of a slot; x0 reads zero (R39). -/
def State.xOf (s : State) (pp : Bool) (u t r : Nat) : Word :=
  if r = 0 then 0
  else if pp then (s.pp u).xrf.at (t * 32 + r) 0
  else (s.core u).xrf.at (scalarBase t + r) 0

/-- Writes a windowed scalar register of a slot; a write to x0 is ignored (R39). -/
def State.setXOf (s : State) (pp : Bool) (u t r : Nat) (v : Word) : State :=
  if r = 0 then s
  else if pp then s.modPP u fun p => { p with xrf := p.xrf.put (t * 32 + r) v }
  else s.modCore u fun k => { k with xrf := k.xrf.put (scalarBase t + r) v }

/-- The value of a windowed scalar register of the issuing slot. -/
def State.x (s : State) (r : Nat) : Word := s.xOf s.cur.pp s.cur.unit s.cur.slot r
/-- Writes a windowed scalar register of the issuing slot. -/
def State.setX (s : State) (r : Nat) (v : Word) : State := s.setXOf s.cur.pp s.cur.unit s.cur.slot r v

/-- A vector register of the issuing slot. -/
def State.v (s : State) (r : Nat) : Vec := s.myCore.vrf.at (vectorBase s.cur.slot + r) 0
/-- Writes a vector register of the issuing slot. -/
def State.setV (s : State) (r : Nat) (v : Vec) : State :=
  s.modMyCore fun k => { k with vrf := k.vrf.put (vectorBase s.cur.slot + r) v }

/-- A mask of the issuing slot: m0 reads all ones; a handler slot's other masks read zero (R80, R421). -/
def State.mask (s : State) (r : Nat) : Mask :=
  if r = 0 then BitVec.allOnes 128 else if s.cur.pp then 0 else s.me.regs.masks.at r 0

/-- Writes a mask; a handler slot's write is discarded (R421). -/
def State.setMask (s : State) (r : Nat) (v : Mask) : State :=
  if s.cur.pp then s else s.modRegs fun g => { g with masks := g.masks.put r v }

/-! ## Partitions (R20, R327) -/

/-- The first hem of a partition's node. -/
def Partition.first (p : Partition) : Nat := p.node * 2 ^ p.level
/-- The hem is one of the node (R327). -/
def Partition.inNode (p : Partition) (h : Nat) : Bool := p.first ≤ h && h < p.first + 2 ^ p.level
/-- The hem is one of the partition: of its node, and not retired before it was formed (R327, R361). -/
def Partition.covers (p : Partition) (h : Nat) : Bool := p.inNode h && !p.out.getLsbD h
/-- The hems of a partition, in ascending order, and how many they are. -/
def Partition.hemList (p : Partition) : List Nat := ((List.range (2 ^ p.level)).map (p.first + ·)).filter fun h => !p.out.getLsbD h
def Partition.hemCount (p : Partition) : Nat := p.hemList.length
/-- The hem at a place among the partition's hems (R211). -/
def Partition.hemAt (p : Partition) (i : Nat) : Nat := p.hemList.getD i p.first
/-- The core of a partition core index (R211). -/
def Partition.coreAt (p : Partition) (i : Nat) : Nat := p.hemAt (i / 16) * 16 + i % 16
/-- The root core: station 0 of the lowest hem (R327). -/
def Partition.root (p : Partition) : Nat := p.hemAt 0 * 16
/-- The hem mask (R327). -/
def Partition.hems (p : Partition) : Word := p.hemList.foldl (fun w h => w ||| w64 (2 ^ h)) 0
/-- The cores of a partition, in the order of partition core indices (R211). -/
def Partition.cores (p : Partition) : List Nat := p.hemList.flatMap fun h => (List.range 16).map (h * 16 + ·)
/-- The QoS class (R332). -/
def Partition.cls (p : Partition) : Nat := fld p.regs.pclass 1 0

/-- The partition that covers a hem; a retired hem is in none (R361). -/
def State.partOfHem (s : State) (h : Nat) : Option Partition :=
  if s.dev.retired.getLsbD h then none else (s.parts.find? fun e => e.2.covers h).map (·.2)
/-- The partition whose control block a core's block 0x03 names: that of its hem's node, retired or not (R329, R348). -/
def State.ctlPart (s : State) (c : Nat) : Option Partition := (s.parts.find? fun e => e.2.inNode (hemOf c)).map (·.2)
/-- The partition of a core. -/
def State.partOfCore (s : State) (c : Nat) : Option Partition := s.partOfHem (hemOf c)
/-- The partition with an id. -/
def State.partById (s : State) (id : Nat) : Option Partition := (s.parts.look id)
def State.modPart (s : State) (id : Nat) (f : Partition → Partition) : State :=
  match s.parts.look id with
  | some p => { s with parts := s.parts.put id (f p) }
  | none => s

/-- The partition of the issuing slot: a handler slot's is the one its message came for (R275). -/
def State.myPart (s : State) : Option Partition :=
  if s.cur.pp then s.partById ((s.pp s.cur.unit).handler s.cur.slot).part else s.partOfCore s.cur.unit

/-- The id of the issuing slot's partition; 0 where there is none. -/
def State.myPartId (s : State) : Nat := (s.myPart.map (·.id)).getD 0

/-! ## Launch identities (R324) -/

/-- The hem that holds a launch hem. -/
def Partition.hemFor (p : Partition) (k : Nat) : Option Nat :=
  if p.idmap = [] then (if p.covers k then some k else none) else p.idmap.look k
/-- The launch hem that a hem holds. -/
def Partition.launchHem (p : Partition) (h : Nat) : Nat :=
  if p.idmap = [] then h else ((p.idmap.find? fun e => e.2 == h).map (·.1)).getD h
/-- The core that a launch core id names, if the partition has it. -/
def Partition.coreFor (p : Partition) (c : Nat) : Option Nat :=
  if c < 1024 then (p.hemFor (hemOf c)).map fun h => h * 16 + stationOf c else none
/-- A core's launch id. -/
def Partition.launchCore (p : Partition) (c : Nat) : Nat := p.launchHem (hemOf c) * 16 + stationOf c

/-- A core's launch id, as its partition gives it; the core's own where it has no partition. -/
def State.launchId (s : State) (c : Nat) : Nat :=
  match s.partOfCore c with
  | some p => p.launchCore c
  | none => c

/-! ## Places on the mesh (R18, R19) -/

/-- Position of a station in its hem's block (R18). -/
def stationXY (t : Nat) : Nat × Nat :=
  [(0, 0), (1, 0), (2, 0), (3, 0), (3, 1), (2, 1), (1, 1), (1, 2), (2, 2), (3, 2), (3, 3), (2, 3), (1, 3), (0, 3),
    (0, 2), (0, 1)].getD t (0, 0)

/-- Device mesh coordinate of a core (R19). -/
def coreXY (c : Nat) : Nat × Nat :=
  let die := c / 256
  let hem := c / 16 % 16
  let p := stationXY (c % 16)
  (16 * (die % 2) + 4 * (hem % 4) + p.1, 16 * (die / 2) + 4 * (hem / 4) + p.2)

/-- Manhattan distance of two places. -/
def dist (p q : Nat × Nat) : Nat := (p.1 - q.1) + (q.1 - p.1) + ((p.2 - q.2) + (q.2 - p.2))

/-- The core at a device mesh coordinate (R19). -/
def coreAt (x y : Nat) : Nat :=
  let die := x / 16 + 2 * (y / 16)
  let hem := x % 16 / 4 + 4 * (y % 16 / 4)
  let t := ((List.range 16).find? fun t => stationXY t == (x % 4, y % 4)).getD 0
  die * 256 + hem * 16 + t

end Sys2Proof.Machine
end

