-- ==== Sys2Proof/Machine/Records.lean ====
section
/-! DEFINITION. The mesh's packets and the records of q7: sending a packet, finding it, taking it off the mesh; making
a supervisor record (R30 to R34, R78, R269). -/

namespace Sys2Proof.Machine

/-! ## Packets -/

/-- The protocol processor next to a port: the link's PP 48 or 49, or fabric PP 32 + 4d + p (R28, R30, R346). -/
def portPP (n : Nat) : Nat := if n / 4096 = 0 then 48 + n / 256 % 2 else 32 + n / 256 % 16

/-- Where an agent stands on the mesh; a hem's shared units stand at its station 0 (R23), a port at the router of the
protocol processor that serves it (R30). -/
def Agent.xy : Agent → Nat × Nat
  | .core c _ => coreXY c
  | .hem h => coreXY (h * 16)
  | .engine h => coreXY (h * 16)
  | .pp n => Config.ppXY n
  | .port n => Config.ppXY (portPP n)

/-- The lane of a packet (R31, R271): messages of cores, task packets, decrements and steal requests use the local
request lane (R238), a steal answer the reply lane. -/
def Body.lane : Body → Nat
  | .msg m => m.lane
  | .stealRep _ => 2
  | _ => 0
def Flit.lane (f : Flit) : Nat := f.body.lane

/-- A packet that its sender has made, not yet in a router's buffer. -/
def newFlit (src dst : Agent) (cls part rseq : Nat) (body : Body) (merged : List Merged) : Flit :=
  { src, dst, cls, part, rseq, x := src.xy.1, y := src.xy.2, entered := false, got := 0, gotLast := 0, body, merged }

/-- The agents accept nothing for a partition from phase 1 of its Kiln on (R338). -/
def State.fenced (s : State) (part : Nat) : Bool :=
  match (s.partById part).bind (·.kiln) with
  | some k => 1 ≤ k.phase
  | none => false

/-- The node of an agent: its kind and its number, whichever slot of a core acts. -/
def Agent.node : Agent → Nat × Nat
  | .core c _ => (0, c)
  | .hem h => (1, h)
  | .engine h => (2, h)
  | .pp n => (3, n)
  | .port n => (4, n)

/-- Two packets of one sender, lane and class (R32). -/
def sameSender (f g : Flit) : Bool := f.src.node == g.src.node && f.lane == g.lane && f.cls == g.cls

/-- The packet with its place in its sender's order: behind all of its lane and class that are still under way. -/
def Flit.placed (f : Flit) (l : List Flit) : Flit :=
  { f with nth := l.foldl (fun n g => if sameSender f g && f.lane = 2 then Nat.max n (g.nth + 1) else n) 0 }

/-- A packet waits at its sender for the mesh. -/
def State.post (s : State) (f : Flit) : State :=
  if s.fenced f.part then s else { s with net := s.net ++ [f.placed s.net] }

/-- A packet leaves its sender: it goes to the router of the sender's place when that has room for it (R31). -/
def State.send (s : State) (src dst : Agent) (cls part rseq : Nat) (body : Body) : State :=
  s.post (newFlit src dst cls part rseq body [])

/-- The packet has reached its destination. -/
def Flit.arrived (f : Flit) : Bool := f.entered && (f.x, f.y) == f.dst.xy

/-- The port through which a packet came to its router: 0 local, 1 north, 2 east, 3 south, 4 west. -/
def portOf (src : Nat × Nat) (x y : Nat) : Nat :=
  if src.2 < y then 1 else if y < src.2 then 3 else if x < src.1 then 2 else if src.1 < x then 4 else 0

/-- The buffer that a packet occupies: its router, the input port, its lane and its class (R31). -/
def Flit.buffer (f : Flit) : (Nat × Nat) × Nat × Nat × Nat := ((f.x, f.y), portOf f.src.xy f.x f.y, f.lane, f.cls)

/-- A packet that waits at its own core for room in a list or a queue, outside the mesh (R61, R325). -/
def Body.waitsHome : Body → Bool
  | .task .. => true
  | .message _ true => true
  | .drain .. => true
  | _ => false

/-- A WALK invalidation that its hem has taken in: it stands in no queue (R222). -/
def Body.takenIn : Body → Bool
  | .drain .. => true
  | _ => false

/-- The two packets stand in one queue: a buffer of a router, or what one node has still to send in a lane and class. -/
def sameQueue (f g : Flit) : Bool :=
  f.entered == g.entered && f.body.waitsHome == g.body.waitsHome && !f.body.takenIn && !g.body.takenIn &&
    (if f.entered then f.buffer == g.buffer else f.src.node == g.src.node && f.lane == g.lane && f.cls == g.cls)

/-- A combined request that stands for an earlier packet of the same way is at the same router (R32, R33). -/
def combinedBefore (g f : Flit) : Bool :=
  g.entered && f.entered && (g.x, g.y) == (f.x, f.y) && g.lane == f.lane && g.cls == f.cls && g.dst.node == f.dst.node &&
    g.merged.any fun m => m.src.node == f.src.node

/-- An earlier packet of its queue is before the packet: order within a virtual channel is kept (R30, R32). -/
def blockedBy (l : List Flit) (f : Flit) : Bool := l.any fun g => sameQueue g f || combinedBefore g f

/-- The router after a place on the way to another: along X, then along Y. -/
def hopFrom (x y : Nat) (d : Nat × Nat) : Nat × Nat :=
  if x < d.1 then (x + 1, y)
  else if d.1 < x then (x - 1, y)
  else if y < d.2 then (x, y + 1)
  else if d.2 < y then (x, y - 1)
  else (x, y)

/-- A packet one hop further, received now. -/
def Flit.hop (f : Flit) (now : Nat) : Flit :=
  let q := if f.entered then hopFrom f.x f.y f.dst.xy else (f.x, f.y)
  let g := { f with x := q.1, y := q.2, entered := true }
  { g with got := now * 8 + g.buffer.2.1, gotLast := now * 8 + g.buffer.2.1 }

/-- The next buffer of the packet has a free slot. A packet takes one slot of its buffer, whatever number of 128-byte
flits it fills: the spec gives no rule from packets to flits (log entry 17). -/
def State.hasSlot (s : State) (f : Flit) : Bool :=
  (s.net.countP fun g => g.entered && g.buffer == (f.hop 0).buffer) < Config.vcDepth

/-- A packet that its sender has just made may go straight into the router of the sender's place (R31, R32). -/
def State.mayLeave (s : State) (f : Flit) : Bool := !blockedBy s.net f && s.hasSlot f

/-- The packet at a place of the list, if it has arrived and nothing of its queue is before it. -/
def State.arrival (s : State) (n : Nat) : Option Flit :=
  match s.net[n]? with
  | some f => if f.arrived && !blockedBy (s.net.take n) f then some f else none
  | none => none

/-- Takes a packet off the mesh. -/
def State.drop (s : State) (n : Nat) : State := { s with net := s.net.eraseIdx n }

/-- A new request sequence; its remainder by 4 says what waits for the answer: 0 a block's tag, 1 a late result, 2 a
release, 3 an acknowledged store. -/
def State.newSeq (s : State) (kind : Nat) : Nat × State := (s.seq * 4 + kind, { s with seq := s.seq + 1 })

/-- A message of control words with no payload. -/
def msg (lane type : Nat) (words : List Word) : Body := .msg ⟨lane, type, words, none⟩
/-- A message with a payload. -/
def msgData (lane type : Nat) (words : List Word) (l : Line) : Body := .msg ⟨lane, type, words, some l⟩

/-! ## Message types (R270) -/

/-- Request types. -/
def tReadMiss : Nat := 0
def tWriteMiss : Nat := 1
def tUpgrade : Nat := 2
def tFarAmo : Nat := 3
def tFlush : Nat := 4
def tClose : Nat := 5
def tEvict : Nat := 6
def tEngineRead : Nat := 7
def tEngineWrite : Nat := 8
def tRcmd : Nat := 9
def tHomecast : Nat := 10
/-- Reply types. -/
def rGrantRo : Nat := 0
def rGrantRw : Nat := 1
def rInvalidate : Nat := 2
def rRecall : Nat := 3
def rPush : Nat := 4
def rFail : Nat := 5
def rAck : Nat := 6
def rData : Nat := 7

/-- The home of a physical address by its bits (R26, R27): the protocol processor that serves it. -/
def homeOf (pa : Nat) : Nat :=
  match pa / 2 ^ 48 % 16 with
  | 0 => pa / 4096 % 32
  | 1 => 48 + pa / 4096 % 2
  | _ => 32 + pa / 4096 % 16

/-- The extent that covers a space-2 frame: an ACTIVE one before one that is being or has been revoked (R350, R351). -/
def State.extentOver (s : State) (frame : Nat) : Option Extent :=
  let first (ok : Nat → Bool) : Option Extent := (s.extents.find? fun e =>
    ok (fld e.2.last 1 0) && decide (fld e.2.first 47 12 ≤ frame) && decide (frame ≤ fld e.2.last 47 12)).map (·.2)
  (first (· == 1)).orElse fun _ => first (· != 0)

/-- The home of a physical address: a line of a pooled extent is homed, with the whole extent, at the fabric protocol processor
that FIRST[15:12] names (R350, R351; log entry 65). -/
def State.homeFor (s : State) (pa : Nat) : Nat :=
  if pa / 2 ^ 48 % 16 = 2 then
    match s.extentOver (pa % 2 ^ 48 / 4096) with
    | some e => 32 + fld e.first 15 12
    | none => homeOf pa
  else homeOf pa

/-- The 64-byte block of an address. -/
def blockOf (a : Nat) : Nat := a / 64 * 64

/-! ## Supervisor records (R78) -/

/-- Places of q7 for the core's own records and for other agents' records (R78). -/
def q7Own : Nat := 48
def q7Foreign : Nat := 16

/-- A record takes its place in q7 if one of its kind is free and none of its kind waits; otherwise it waits, in
order (R78). -/
def Core.pushQ7 (k : Core) (foreign : Bool) (words : List Word) : Core :=
  let held := (k.q7.filter fun r => r.foreign == foreign).length
  let waits := k.q7waiting.any fun r => r.foreign == foreign
  if !waits && held < (if foreign then q7Foreign else q7Own) then { k with q7 := k.q7 ++ [⟨foreign, words⟩] }
  else { k with q7waiting := k.q7waiting ++ [⟨foreign, words⟩] }

/-- A core makes a supervisor record of its own. -/
def State.record (s : State) (c : Nat) (words : List Word) : State := s.modCore c fun k => k.pushQ7 false words
/-- Another agent sends a supervisor record to a core; from phase 1 of its partition's Kiln on the core accepts none (R338). -/
def State.recordTo (s : State) (c : Nat) (words : List Word) : State :=
  if ((s.partOfCore c).map fun p => s.fenced p.id).getD false then s else s.modCore c fun k => k.pushQ7 true words

/-- The id of the partition that owns a core; 0 where there is none. -/
def State.partIdOf (s : State) (c : Nat) : Nat := ((s.partOfCore c).map (·.id)).getD 0

/-- Dword 0 of a record: kind, partition, and the bits above them. -/
def recHead (kind part hi : Nat) : Word := w64 (kind + part * 2 ^ 16 + hi * 2 ^ 32)

/-- The page-fault record 0x10 (R226): `slot`, park sequence, level, DZ and HM of the entry, access code. -/
def pageFaultRecord (part slot pseq level acc : Nat) (entry : Word) (va : Nat) : List Word :=
  [recHead 0x10 part (acc + fld entry 60 60 * 2 ^ 3 + fld entry 61 61 * 2 ^ 4 + level * 2 ^ 5 + slot * 2 ^ 8 +
    pseq * 2 ^ 16), w64 va, entry]

/-- The poison record 0x11 (R235). -/
def poisonRecord (part slot src addr : Nat) : List Word := [recHead 0x11 part (src + slot * 2 ^ 8), w64 addr]

/-- The copy-job fault record 0x12 (R252). -/
def jobFaultRecord (part slot job level acc : Nat) (entry : Word) (va : Nat) : List Word :=
  [recHead 0x12 part (acc + fld entry 60 60 * 2 ^ 3 + fld entry 61 61 * 2 ^ 4 + level * 2 ^ 5 + slot * 2 ^ 8 +
    job * 2 ^ 16), w64 va, entry]

/-- The double-trap record 0x14 (R308). -/
def doubleTrapRecord (part slot cause : Nat) (epc : Word) : List Word :=
  [recHead 0x14 part (cause + slot * 2 ^ 8), epc]

/-- The TASK fault record 0x16 (R62). -/
def taskRecord (part slot reason : Nat) (addr : Nat) : List Word :=
  [recHead 0x16 part (reason + slot * 2 ^ 8), w64 addr]

/-- The sweep and stop records 0x20 to 0x23 (R72, R318, R319). -/
def sweepRecord (kind part threads time : Nat) : List Word := [recHead kind part threads, w64 time]

end Sys2Proof.Machine
end

