-- ==== Sys2Proof/Machine/Translate.lean ====
section
/-! DEFINITION. Windows and translation: which window an address names, the five-level walk, the checks of R220, the
translation caches (R209, R217 to R223). -/

namespace Sys2Proof.Machine

/-! ## Trap causes (R306) -/

def cIllegal : Nat := 0x01
def cPrivilege : Nat := 0x02
def cRegBound : Nat := 0x03
def cMisaligned : Nat := 0x04
def cWindow : Nat := 0x05
def cPageProt : Nat := 0x06
def cPageInvalid : Nat := 0x07
def cProtocol : Nat := 0x08
def cProtocolFailed : Nat := 0x09
def cPoison : Nat := 0x0A
def cSyscall : Nat := 0x0B
def cBreak : Nat := 0x0C
def cQueue : Nat := 0x0D
def cEngine : Nat := 0x0E
def cRing : Nat := 0x0F
def cFormat : Nat := 0x10
def cExtentRevoked : Nat := 0x11
def cTask : Nat := 0x12

/-! ## Protocol ids (R258) -/

def pUncached : Nat := 0
def pInvalidate : Nat := 1
def pUpdate : Nat := 2
def pMigratory : Nat := 3
def pPush : Nat := 4
def pOnce : Nat := 5
def pReduce : Nat := 6
def pWalk : Nat := 7

/-! ## Page-table entries (R218) -/

def pteV (e : Word) : Bool := e.getLsbD 0
def pteR (e : Word) : Bool := e.getLsbD 1
def pteW (e : Word) : Bool := e.getLsbD 2
def pteX (e : Word) : Bool := e.getLsbD 3
def pteS (e : Word) : Bool := e.getLsbD 4
def pteC64 (e : Word) : Bool := e.getLsbD 6
def ptePsn (e : Word) : Bool := e.getLsbD 62
def pteProt (e : Word) : Nat := fld e 11 8
def pteRegion (e : Word) : Nat := fld e 19 12
def pteFrame (e : Word) : Nat := fld e 59 20
/-- Non-leaf: V set and no permission (R218). -/
def pteNonLeaf (e : Word) : Bool := !(pteR e) && !(pteW e) && !(pteX e)

/-! ## Physical ranges of a partition (R219, R330, R350) -/

/-- A pair of frame registers contains a frame; a pair that nothing has written is empty: its first frame is all ones,
its last 0 (R329). -/
def pairHas (m : Map Word) (i frame : Nat) : Bool :=
  fld (m.at (2 * i) (w64 0xFFFFFFFFFF000)) 51 12 ≤ frame && frame ≤ fld (m.at (2 * i + 1) 0) 51 12

/-- A space-0 frame lies in a PMEM range of the partition (R330). -/
def Partition.ownsFrame (p : Partition) (frame : Nat) : Bool := (List.range 4).any fun i => pairHas p.regs.pmem i frame
/-- A space-1 frame lies in an HMEM range of the partition (R219). -/
def Partition.hostFrame (p : Partition) (frame : Nat) : Bool := (List.range 4).any fun i => pairHas p.regs.hmem i frame

/-- The state of the extent of a partition that covers a space-2 frame, served by a port of its PLINK: 1 ACTIVE where one is,
else 2 REVOKING or 3 REVOKED; 0 where none covers it (R350, R351). -/
def State.extentAt (s : State) (p : Partition) (frame : Nat) : Nat :=
  let l := s.extents.filter fun e =>
    fld e.2.last 63 48 == p.id && fld e.2.last 1 0 != 0 && fld e.2.first 47 12 ≤ frame && frame ≤ fld e.2.last 47 12 &&
      p.regs.plink.getLsbD (fld e.2.first 15 12)
  if l.any fun e => fld e.2.last 1 0 = 1 then 1
  else match l with
    | e :: _ => fld e.2.last 1 0
    | [] => 0

/-- A space-0 frame is there: it lies in no range that is retired or not fitted (R219). -/
def DevRegs.fits (g : DevRegs) (frame : Nat) : Bool := !g.unfit.any fun r => decide (r.1 ≤ frame) && decide (frame ≤ r.2)

/-- What R219 says of a leaf's physical address. -/
inductive Phys where
  | good | invalid | revoked
deriving DecidableEq, Repr

/-- Whether a leaf may name a physical address (R219, R330, R349, R350). -/
def State.physOk (s : State) (p : Partition) (pte : Word) (pa : Nat) : Phys :=
  let frame := pa % 2 ^ 48 / 4096
  if pteProt pte = 15 then .invalid
  else match pa / 2 ^ 48 with
    | 0 => if pa % 2 ^ 48 < 2 ^ 40 && p.ownsFrame frame && s.dev.fits frame then .good else .invalid
    | 1 => if p.hostFrame frame && p.regs.plink.getLsbD 16 then .good else .invalid
    | 2 => match s.extentAt p frame with
      | 1 => .good
      | 0 => .invalid
      | _ => .revoked
    | 3 => if p.regs.plink.getLsbD (pa / 4096 % 16) && Config.fabricDevice (pa / 2 ^ 40 % 256) then .good else .invalid
    | 4 => if pteS pte then .good else .invalid
    | _ => .invalid

/-! ## The walk (R217, R220) -/

/-- What a walk finds. -/
inductive Walk where
  | leaf (pte : Word) (size : Nat) (path : List Nat)
  | absent (level : Nat) (pte : Word)
  | invalid
deriving DecidableEq, Repr

/-- First bit of the index of a level, and the page size of a leaf there (R217). -/
def levelShift (l : Nat) : Nat := 12 + 9 * l

/-- The walk from a level down; `table` is the physical address of that level's table (R217, R220). It reads the bytes of a
poisoned line of a table like any other's (DESIGN CHOICE, log entry 96). -/
def State.walkFrom (s : State) (p : Partition) (va : Nat) : Nat → Nat → List Nat → Walk
  | l, table, path =>
    if table / 2 ^ 48 ≠ 0 || !p.ownsFrame (table / 4096) || !s.dev.fits (table / 4096) then .invalid
    else
      let at_ := table + va / 2 ^ levelShift l % (if l = 4 then 256 else 512) * 8
      let pte := s.mem.word at_
      if !pteV pte then .absent l pte
      else match l with
        | 0 =>
          if pteNonLeaf pte || (pteC64 pte && pteFrame pte % 16 ≠ 0) then .invalid
          else .leaf pte (if pteC64 pte then 65536 else 4096) (at_ :: path)
        | k + 1 =>
          if pteNonLeaf pte then State.walkFrom s p va k (pteFrame pte * 4096) (at_ :: path)
          else if k + 1 > 2 || pteFrame pte % 2 ^ (9 * (k + 1)) ≠ 0 then .invalid
          else .leaf pte (2 ^ levelShift (k + 1)) (at_ :: path)

/-- The whole walk from the root the walker uses (R217, R223). -/
def State.walk (s : State) (p : Partition) (root : Word) (va : Nat) : Walk :=
  s.walkFrom p va 4 (fld root 51 12 * 4096) []

/-! ## Translation caches (R221, R222) -/

/-- An entry translates an address for a partition. -/
def TlbEntry.hits (e : TlbEntry) (part va : Nat) : Bool := e.part == part && e.va ≤ va && va < e.va + e.size

/-- The cached entry for an address: the core's cache, then its hem's (R221). -/
def State.tlbLook (s : State) (core part va : Nat) : Option TlbEntry :=
  match (s.core core).tlb.find? (·.hits part va) with
  | some e => some e
  | none => (s.hem (hemOf core)).tlb.find? (·.hits part va)

/-- Puts a walked leaf into both caches, and marks the hem as a sharer of every page-table line the walk read (R221,
R222). -/
def State.tlbFill (s : State) (core : Nat) (e : TlbEntry) : State :=
  let s := s.modCore core fun k => { k with tlb := (e :: k.tlb).take 64 }
  let s := s.modHem (hemOf core) fun h => { h with tlb := (e :: h.tlb).take 4096 }
  e.path.foldl (fun s a => { s with
    walkSharers := s.walkSharers.put (blockOf a) (s.walkSharers.at (blockOf a) 0 ||| w64 (2 ^ hemOf core)) }) s

/-- Fills only the hem's cache, for the copy engine's walks (R221, R251). -/
def State.hemFill (s : State) (hem : Nat) (e : TlbEntry) : State :=
  let s := s.modHem hem fun h => { h with tlb := (e :: h.tlb).take 4096 }
  e.path.foldl (fun s a => { s with
    walkSharers := s.walkSharers.put (blockOf a) (s.walkSharers.at (blockOf a) 0 ||| w64 (2 ^ hem)) }) s

/-! ## Judging an access (R220) -/

/-- Kinds of access, with the code a fault record gives them (R226). -/
inductive Acc where
  | load | store | fetch | atomic | vload | vstore
deriving DecidableEq, Repr

def Acc.code : Acc → Nat | .load => 0 | .store => 1 | .fetch => 2 | .atomic => 3 | .vload => 4 | .vstore => 5

/-- What translation answers; `held` names a page-table line whose store is under way, which the walk waits for (R222). -/
inductive Tr where
  | ok (pa : Nat) (pte : Word)
  | absent (level : Nat) (pte : Word)
  | trap (cause pa : Nat)
  | held (b : Nat)
deriving DecidableEq, Repr

/-- The permission a kind of access needs (R220 order 4). -/
def permitted (a : Acc) (pte : Word) : Bool :=
  match a with
  | .load | .vload => pteR pte
  | .store | .vstore => pteW pte
  | .atomic => pteR pte && pteW pte
  | .fetch => pteX pte

/-- Orders 2 to 5 of R220 for a leaf. -/
def State.judgeLeaf (s : State) (p : Partition) (priv : Priv) (a : Acc) (va size : Nat) (pte : Word) : Tr :=
  let pa := pteFrame pte * 4096 + va % size
  match s.physOk p pte pa with
  | .invalid => .trap cPageInvalid 0
  | .revoked => .trap cExtentRevoked pa
  | .good =>
    if pteS pte && priv == .u then .trap cPageProt pa
    else if !permitted a pte then .trap cPageProt pa
    else if ptePsn pte then .trap cPoison pa
    else .ok pa pte

/-- The first line of a walk's path to which a store is under way: the walk is discarded and begins again once the store is
performed, so that no cache takes in the old entry (R222; log entry 73). -/
def State.lineStored (s : State) (path : List Nat) : Option Nat :=
  (path.find? fun a => (s.walkStores.look (blockOf a)).isSome).map blockOf

/-- Translates an address of the global window for a core's thread, and caches what it walked (R220, R221). -/
def State.translate (s : State) (core : Nat) (priv : Priv) (a : Acc) (va : Nat) : Tr × State :=
  match s.partOfCore core with
  | none => (.trap cPageInvalid 0, s)
  | some p =>
    match s.tlbLook core p.id va with
    | some e => (s.judgeLeaf p priv a va e.size e.pte, s)
    | none =>
      match s.walk p (s.core core).regs.walkRoot va with
      | .absent l e => (.absent l e, s)
      | .invalid => (.trap cPageInvalid 0, s)
      | .leaf pte size path =>
        match s.lineStored path with
        | some b => (.held b, s)
        | none => (s.judgeLeaf p priv a va size pte, s.tlbFill core ⟨va / size * size, size, pte, path, p.id⟩)

/-- Translates for hardware that makes its access in the same moment: where a store to the page table is under way, the
entry is read and not cached (R222). -/
def State.translateNow (s : State) (core : Nat) (priv : Priv) (a : Acc) (va : Nat) : Tr × State :=
  match s.translate core priv a va with
  | (.held _, s) =>
    match s.partOfCore core with
    | none => (.trap cPageInvalid 0, s)
    | some p => match s.walk p (s.core core).regs.walkRoot va with
      | .leaf pte size _ => (s.judgeLeaf p priv a va size pte, s)
      | .absent l e => (.absent l e, s)
      | .invalid => (.trap cPageInvalid 0, s)
  | r => r

/-! ## Windows (R209) -/

/-- The window of an address. -/
inductive Window where
  | global | localW | remote | device | none
deriving DecidableEq, Repr

def windowOf (va : Nat) : Window :=
  match va / 2 ^ 56 with
  | 0 => .global
  | 0xFE => .localW
  | 0xFD => .remote
  | 0xFC => .device
  | _ => .none

/-- The extents of the local window: scratchpad, tile store data, side entries (R209). -/
def localExtent (off : Nat) : Option (Nat × Nat) :=
  if off < 0x080000 then some (0, 0x080000)
  else if 0x200000 ≤ off && off < 0x400000 then some (0x200000, 0x400000)
  else if 0x400000 ≤ off && off < 0x410000 then some (0x400000, 0x410000)
  else none

/-- The extent that holds an address: its first address and the one after its last (R209). -/
def extentOf (va : Nat) : Option (Nat × Nat) :=
  let off := va % 2 ^ 56
  match windowOf va with
  | .global => some (0, 2 ^ 56)
  | .localW => (localExtent off).map fun e => (0xFE * 2 ^ 56 + e.1, 0xFE * 2 ^ 56 + e.2)
  | .remote =>
    if off < 2 ^ 34 && off % 2 ^ 24 < 0x080000 then
      some (0xFD * 2 ^ 56 + off / 2 ^ 24 * 2 ^ 24, 0xFD * 2 ^ 56 + off / 2 ^ 24 * 2 ^ 24 + 0x080000)
    else none
  | .device => if off < 2 ^ 24 then some (0xFC * 2 ^ 56, 0xFC * 2 ^ 56 + 2 ^ 24) else none
  | .none => none

end Sys2Proof.Machine
end

