-- ==== Sys2Proof/Machine/Mem.lean ====
section
/-! DEFINITION. A thread's accesses to memory: the checks of R210 and R229 in their order, the access tags and the
misses they send, and reading and writing the place an access reaches (R209 to R216, R225 to R235, R265 to R267,
R273, R283). -/

namespace Sys2Proof.Machine

/-- How an instruction leaves its normal course: it traps, it parks, or its thread waits (R13, R45, R47, R307). What
the core does beside it (a miss it sends, a record it makes) is done to the state after the park; `poison` is the
source and the address of a poison record (R235); a trap of a mark clears the mark of the result with that number (R414). -/
inductive Halt where
  | trap (cause : Nat) (val : Word) (poison : Option (Nat × Nat))
  | markTrap (id cause : Nat) (val : Word)
  | park (r : Park) (w : WaitFor) (fx : State → State)
  | wait (w : WaitFor) (fx : State → State)

/-- A part of an instruction's effect. -/
abbrev Exec (α : Type) := Except Halt α

/-- A precise trap. -/
def trapWith {α : Type} (c v : Nat) : Exec α := .error (.trap c (w64 v) none)

/-- A trap when a check fails. -/
def must (ok : Bool) (c v : Nat) : Exec Unit := if ok then .ok () else trapWith c v

/-! ## Elements and places -/

/-- One element of an access: its address, its bytes, its lane. -/
structure El where
  va : Nat
  size : Nat
  lane : Nat
deriving DecidableEq, Repr

/-- What an access does: its kind for R220, whether it is a plain scalar load or store, a gather or scatter, an
AMO or CAS, an AMOF, or a watched read (R211, R212). -/
inductive Form where
  | scalar | vector | indexed | amo | amof | watch
deriving DecidableEq, Repr

/-- Where an element is found once its address has been checked. -/
inductive Place where
  | sram (core off : Nat)
  | handler (off : Nat)
  | slice (pa : Nat)
  | phys (pa : Nat) (pte : Word)
  | device (off : Nat)
deriving DecidableEq, Repr

/-- SPRSV as it acts (R213). -/
def sprsvActs (v : Word) : Nat := Nat.min 128 (Nat.max 32 (fld v 7 0))

/-- First reserved scratchpad offset of a core (R211). -/
def State.reservedFrom (s : State) (core : Nat) : Nat := 0x080000 - sprsvActs (s.core core).regs.sprsv * 0x1000

/-- HEMCTL.RINGEN of a core's hem. -/
def State.ringOn (s : State) (core : Nat) : Bool := (s.hem (hemOf core)).hemctl.getLsbD 0

/-- The tile slot of a local offset, data or side entry (R168). -/
def slotAt (off : Nat) : Option Nat :=
  if 0x200000 ≤ off && off < 0x400000 then some ((off - 0x200000) / 0x1000)
  else if 0x400000 ≤ off && off < 0x410000 then some ((off - 0x400000) / 0x80)
  else none

/-- First local offset of a slot's data, and of its side entry (R168). -/
def slotData (n : Nat) : Nat := 0x200000 + n * 0x1000
def slotSide (n : Nat) : Nat := 0x400000 + n * 0x80

/-- The slots a matrix operation reads or writes, under the context it captured (R169, R174). -/
def MatOp.slots (o : MatOp) : List Nat :=
  let grp (n k : Nat) : List Nat := (List.range k).map (n + ·)
  let kind (lo : Nat) : Nat := fld o.ctx (lo + 1) lo
  match o.kind with
  | .mma _ a b _ _ => grp a (if kind 3 ≥ 2 then 2 else 1) ++ grp b (if kind 11 ≥ 2 then 2 else 1)
  | .mzero _ => []
  | .mst f _ d => grp d (if f = 0 then 4 else if f = 3 then 1 else 2)
  | .mld _ a => grp a 4
  | .ttrn d a => grp d (if kind 3 ≥ 2 then 2 else 1) ++ grp a (if kind 3 ≥ 2 then 2 else 1)

/-- The unretired matrix operations of a requester of a core's array (R176). -/
def Array.ops (a : Array) (req : Nat) : List MatOp :=
  (match a.running with | some (q, o, _) => if q = req then [o] else [] | none => []) ++ a.queues.at req []

/-- An unretired operation of the slot touches a tile slot (R177). -/
def State.slotBusy (s : State) (core slot n : Nat) : Bool :=
  ((s.core core).array.ops slot).any fun o => o.slots.contains n

/-! ## Steps 1 to 3 of R210 -/

/-- Step 3 for the local window: reserved scratchpad, ring-reserved and pinned slots (R172, R211). -/
def localCheck (s : State) (priv : Priv) (write : Bool) (core : Nat) (e : El) : Exec Place :=
  let off := e.va % 2 ^ 56
  if off < 0x080000 then
    if priv == .u && s.reservedFrom core ≤ off + e.size - 1 then trapWith cPageProt e.va else .ok (.sram core off)
  else match slotAt off with
    | some n =>
      if s.ringOn core && 480 ≤ n then trapWith cRing n
      else if write && (s.core core).pins.at n 0 ≠ 0 then trapWith cRing n
      else if s.slotBusy core s.cur.slot n then .error (.wait .matrix id)
      else .ok (.sram core off)
    | none => trapWith cWindow e.va

/-- Step 3 for the remote-local window: the access kind, the partition core index, the target's reserved scratchpad
(R211). -/
def remoteCheck (s : State) (priv : Priv) (f : Form) (e : El) : Exec Place :=
  let off := e.va % 2 ^ 56
  let idx := off / 2 ^ 24
  if f == .amof || f == .watch || f == .indexed then trapWith cWindow e.va
  else match s.myPart with
    | none => trapWith cWindow e.va
    | some p =>
      if 16 * p.hemCount ≤ idx then trapWith cWindow e.va
      else
        let core := p.coreAt idx
        if priv == .u && s.reservedFrom core ≤ off % 2 ^ 24 + e.size - 1 then trapWith cPageProt e.va
        else .ok (.sram core (off % 2 ^ 24))

/-- Step 3 for the device-register window (R212). -/
def deviceCheck (priv : Priv) (f : Form) (e : El) : Exec Place :=
  if priv == .u then trapWith cPrivilege e.va
  else if f == .amo || f == .amof || f == .watch then trapWith cWindow e.va
  else if f != .scalar || e.size ≠ 8 then trapWith cMisaligned e.va
  else .ok (.device (e.va % 2 ^ 56))

/-- At privilege H an address of the global window is physical, in space 0 and homed here; the local window is the
handler memory (R273). -/
def handlerCheck (s : State) (e : El) : Exec Place :=
  let off := e.va % 2 ^ 56
  match windowOf e.va with
  | .global =>
    if off < 2 ^ 48 && homeOf off = s.cur.unit then .ok (.slice off) else trapWith cProtocol e.va
  | .localW => if off + e.size ≤ 0x10000 then .ok (.handler off) else trapWith cProtocol e.va
  | _ => trapWith cProtocol e.va

/-- The least address of the elements, and the one after the greatest byte. -/
def loAddr (els : List El) : Nat := els.foldl (fun m e => Nat.min m e.va) (2 ^ 65)
def hiAddr (els : List El) : Nat := els.foldl (fun m e => Nat.max m (e.va + e.size)) 0

/-- Step 1 of R210: the first element whose address is not a multiple of its size; of several, the first in lane order
(DESIGN CHOICE, log entry 85: the rule does not say in which order the elements count). -/
def alignCheck (els : List El) : Exec Unit :=
  match els.find? fun e => e.va % e.size != 0 with
  | some e => trapWith cMisaligned e.va
  | none => .ok ()

/-- Step 2 of R210: the first byte's window and extent hold the last byte. Window 0xFC raises PRIVILEGE at U, whatever else
(R212, R370). -/
def windowCheck (priv : Priv) (els : List El) : Exec Unit :=
  if els = [] then .ok ()
  else if priv == .u && windowOf (loAddr els) == .device then trapWith cPrivilege (loAddr els)
  else match extentOf (loAddr els) with
    | some x => must (decide (hiAddr els ≤ x.2)) cWindow (loAddr els)
    | none => trapWith cWindow (loAddr els)

/-- Step 3 of R210 for one element; an element of the global window goes on to translation. -/
def placeOf (s : State) (priv : Priv) (f : Form) (write : Bool) (e : El) : Exec (Option Place) :=
  match windowOf e.va with
  | .global => .ok none
  | .localW => some <$> localCheck s priv write s.cur.unit e
  | .remote => some <$> remoteCheck s priv f e
  | .device => some <$> deviceCheck priv f e
  | .none => trapWith cWindow e.va

/-! ## Step 4: translation and protection (R220, R225, R229) -/

/-- The page fault's record goes to the supervisor slot once the thread has parked (R225, R226). -/
def pageFault (a : Acc) (va level : Nat) (pte : Word) : Halt :=
  .park .pagefault (.page va) fun s =>
    s.record s.cur.unit (pageFaultRecord s.myPartId s.cur.slot s.me.parkSeq level a.code pte va)

/-- Translates the elements in lane order: a trap of the first that meets one; otherwise the fault of the first whose
page is absent (R229 steps 2 to 4), which a walk still held back is waited for. A page-table mark PSN pushes the poison record of R235 with SRC 0 and the physical address
(DESIGN CHOICE, log entry 84: the access reaches no memory). -/
def translateAll (priv : Priv) (a : Acc) : State → List El → List (Option Place) → Exec (State × List (El × Place))
  | s, e :: es, some p :: ps => do
    let (s, l) ← translateAll priv a s es ps
    .ok (s, (e, p) :: l)
  | s, e :: es, none :: ps =>
    match s.translate s.cur.unit priv a e.va with
    | (.trap c pa, _) => .error (.trap c (w64 e.va) (if c = cPoison then some (0, pa) else none))
    | (.ok pa pte, s) => do
      let (s, l) ← translateAll priv a s es ps
      if pa / 2 ^ 48 = 4 then .ok (s, (e, .device (pa % 2 ^ 24)) :: l) else .ok (s, (e, .phys pa pte) :: l)
    | (.absent l pte, s) =>
      match translateAll priv a s es ps with
      | .error (.trap c v n) => .error (.trap c v n)
      | .error (.wait w fx) => .error (.wait w fx)
      | _ => .error (pageFault a e.va l pte)
    | (.held b, _) => .error (.wait (.line b) id)
  | s, _, _ => .ok (s, [])

/-- Steps 1 to 4 of R210 for an access of a thread, as one access (R229). -/
def checkAccess (s : State) (a : Acc) (f : Form) (write : Bool) (els : List El) : Exec (State × List (El × Place)) := do
  alignCheck els
  if s.cur.pp then
    let ps ← els.mapM fun e => do let p ← handlerCheck s e; .ok (e, p)
    .ok (s, ps)
  else
    windowCheck s.me.priv els
    let ps ← els.mapM (placeOf s s.me.priv f write)
    translateAll s.me.priv a s els ps

/-! ## Step 5: access tags (R265 to R267, R283) -/

/-- The bytes of a block's line. -/
def lineRead (l : Line) (off n : Nat) : Nat := l.toNat / 2 ^ (8 * off) % 2 ^ (8 * n)

/-- A line with `n` bytes replaced. -/
def lineWrite (l : Line) (off n v : Nat) : Line :=
  BitVec.ofNat 512 (l.toNat - lineRead l off n * 2 ^ (8 * off) + v % 2 ^ (8 * n) * 2 ^ (8 * off))

def Core.block (k : Core) (b : Nat) : Block :=
  k.cache.at b { tag := .i, data := 0, dirty := 0, prot := 0, region := 0, partialCopy := false, invalPending := false,
                 prefetch := false, desc := 0, rseq := 0 }

def State.setBlock (s : State) (core b : Nat) (k : Block) : State :=
  s.modCore core fun c => { c with cache := c.cache.put b k }

/-! ## The device's own accesses to physical memory

A core that holds a block as its only current copy supplies it; a write reaches memory and every copy in one step
(assumption log, entry 22). -/

/-- The core that holds a block of a protocol with one writer RW (R282). -/
def State.holder (s : State) (b : Nat) : Option Line :=
  (s.cores.find? fun e => let k := e.2.block b; k.tag == .rw && (k.prot == pInvalidate || k.prot == pMigratory)).map
    fun e => (e.2.block b).data

/-- The current bytes of an aligned piece that lies in one block. -/
def State.devRead (s : State) (pa n : Nat) : Nat :=
  match s.holder (blockOf pa) with
  | some l => lineRead l (pa % 64) n
  | none => s.mem.read pa n

/-- Replaces bytes of a block in one cache, if it is there. -/
def Core.patch (k : Core) (pa n v : Nat) : Core :=
  match k.cache.look (blockOf pa) with
  | some b => { k with cache := k.cache.put (blockOf pa) { b with data := lineWrite b.data (pa % 64) n v } }
  | none => k

/-- Writes an aligned piece that lies in one block. -/
def State.devWrite (s : State) (pa n v : Nat) : State :=
  { s with mem := s.mem.write pa n v, cores := s.cores.map fun e => (e.1, e.2.patch pa n v) }

def State.devWord (s : State) (pa : Nat) : Word := w64 (s.devRead pa 8)
def State.devSetWord (s : State) (pa : Nat) (v : Word) : State := s.devWrite pa 8 v.toNat

/-- Dwords from an address upward. -/
def State.devWords (s : State) (pa : Nat) : Nat → List Word
  | 0 => []
  | n + 1 => s.devWord pa :: State.devWords s (pa + 8) n

def State.devSetWords (s : State) (pa : Nat) : List Word → State
  | [] => s
  | v :: t => State.devSetWords (s.devSetWord pa v) (pa + 8) t

/-- An address of device memory in the partition's own frames (R330). -/
def Partition.ownsWord (p : Partition) (pa : Nat) : Bool := pa / 2 ^ 48 = 0 && p.ownsFrame (pa / 4096)

/-- The region table and what its descriptors point at are read only in the partition's own frames, whatever REGIONBASE or a
descriptor says: elsewhere they read zero (R2, R330; log entry 75). -/
def State.partWord (s : State) (p : Partition) (pa : Nat) : Word := if p.ownsWord pa then s.devWord pa else 0

/-! ## Misses, and the room they need -/

/-- Info of a request (R270). -/
def infoWord (a : Acc) (fn : Nat) (dbl amof uc sup : Bool) : Word :=
  w64 (a.code + fn * 2 ^ 4 + (if dbl then 2 ^ 8 else 0) + (if amof then 2 ^ 9 else 0) + (if uc then 2 ^ 10 else 0) +
    (if sup then 2 ^ 11 else 0))

/-- A request of the block is under way: a miss, or a FAR-AMO (R265). -/
def Core.asking (k : Core) (b : Nat) : Bool := (k.block b).rseq ≠ 0 || (k.far.look b).isSome

/-- The tag that an access finds: BUSY also while a FAR-AMO of the block is under way (R265). -/
def Core.tagAt (k : Core) (b : Nat) : Tag := if (k.far.look b).isSome then .busy else (k.block b).tag

/-- Sends a request of the issuing thread to the home of a physical address. -/
def State.request (s : State) (type pa : Nat) (words : List Word) (payload : Option Line) (rseq : Nat) : State :=
  s.send (.core s.cur.unit s.cur.slot) (.pp (s.homeFor pa)) ((s.myPart.map (·.cls)).getD 0) s.myPartId rseq
    (.msg ⟨0, type, w64 pa :: words, payload⟩)

/-- Protocol and region of a block, as its messages name them (R269, R275). -/
def protWord (prot region : Nat) : Word := w64 (prot + region * 16)

/-- Sends EVICT for a block of a core, with its data if asked (R270, R282). -/
def State.evict (s : State) (core b : Nat) (k : Block) (data : Bool) : State :=
  let (r, s) := s.newSeq 0
  s.send (.core core 15) (.pp (s.homeFor b)) (((s.partOfCore core).map (·.cls)).getD 0) (s.partIdOf core) r
    (.msg ⟨0, tEvict, [w64 b, protWord k.prot k.region], if data then some k.data else none⟩)

/-- CLASS of a custom region, from its descriptor (R259). -/
def State.regionClass (s : State) (core region : Nat) : Nat :=
  match s.partOfCore core with
  | some p => fld (s.partWord p ((s.core core).regs.regionbase.toNat + 64 * region + 16)) 35 32
  | none => 0

/-- A block has a release action (R268). -/
def State.needsFlush (s : State) (core : Nat) (k : Block) : Bool :=
  if k.partialCopy then k.tag == .rw
  else match k.prot with
    | 2 => k.tag == .rw && k.dirty ≠ 0
    | 4 => k.tag == .rw && k.dirty ≠ 0
    | 5 => k.tag == .rw
    | p => 8 ≤ p && k.tag == .rw && k.dirty ≠ 0 && s.regionClass core k.region == 1

/-- The block after its release action (R268). -/
def Block.flushed (k : Block) : Block :=
  if k.partialCopy then { k with tag := .i, partialCopy := false, dirty := 0 }
  else match k.prot with
    | 4 | 5 => { k with tag := .ro, dirty := 0 }
    | _ => { k with dirty := 0 }

/-- Sends a FLUSH or a CLOSE that carries the bytes of a mask of a block; the core notes it (R268). -/
def State.releaseMsg (s : State) (pa type mask : Nat) (words : List Word) (payload : Option Line) : State :=
  let (r, s) := s.newSeq 2
  (s.request type pa words payload r).modMyCore fun k => { k with flushes := k.flushes ++ [⟨r, pa, mask⟩] }

/-- Sends the FLUSH of a block. -/
def State.flushBlock (s : State) (b : Nat) (k : Block) : State :=
  let mask := if k.partialCopy || k.prot = 5 then 2 ^ 64 - 1 else k.dirty
  (s.releaseMsg b tFlush mask [w64 mask, protWord k.prot k.region] (some k.data)).setBlock s.cur.unit b k.flushed

/-- Blocks of a data cache (R21). -/
def cacheBlocks : Nat := 1024

/-- The block needs a place of its own in the data cache, and all are taken. -/
def Core.fullFor (k : Core) (b : Nat) : Bool := (k.cache.look b).isNone && decide (cacheBlocks ≤ k.cache.length)

/-- Something of the block is under way. -/
def Core.moving (k : Core) (b : Nat) : Bool := k.asking b || k.flushes.any fun f => f.block == b

/-- A full cache may give the block up: it holds nothing that only a release may send on, and nothing of it is under way
(R268; log entry 72). -/
def Core.spare (k : Core) (e : Nat × Block) : Bool :=
  !k.moving e.1 &&
    (e.2.tag == .i || e.2.tag == .ro ||
      (e.2.tag == .rw && (e.2.dirty = 0 || e.2.prot == pInvalidate || e.2.prot == pMigratory) &&
        !e.2.partialCopy && e.2.prot ≠ pOnce && e.2.prot ≠ pPush))

/-- One of the listed blocks of a core. -/
def State.oneOf (s : State) (core : Nat) (l : List (Nat × Block)) : Option (Nat × Block) := l[Config.victim s.time core % l.length]?

/-- A data cache with no place for a block gives one up: EVICT, with the data if the core has written it (R21, R282). -/
def State.makeRoom (s : State) (core b : Nat) : State :=
  if !(s.core core).fullFor b then s
  else match s.oneOf core ((s.core core).cache.filter (s.core core).spare) with
    | some (v, x) =>
      (if x.tag == .i then s else s.evict core v x (x.dirty ≠ 0)).modCore core fun k => { k with cache := k.cache.del v }
    | none => s

/-- Where no block can be given up, one that a release would send on, and that stays current when it is sent early, is sent now
(R268; log entry 72). -/
def State.flushEarly (s : State) : State :=
  let k := s.myCore
  match s.oneOf s.cur.unit (k.cache.filter fun e =>
      !k.moving e.1 && s.needsFlush s.cur.unit e.2 && !e.2.partialCopy && e.2.prot != pOnce) with
  | some (b, x) => s.flushBlock b x
  | none => s

/-- Sends a miss for a block and makes it BUSY (R265); an atomic of a REDUCE region asks for a partial (R283). A miss that finds
no place in the data cache is not sent: its thread looks again (log entry 72). -/
def State.miss (s : State) (type b : Nat) (pte info : Word) (prefetch : Bool) : State :=
  let s := s.makeRoom s.cur.unit b
  if s.myCore.fullFor b then s.flushEarly
  else
    let k := s.myCore.block b
    let (r, s) := s.newSeq 0
    let s := s.setBlock s.cur.unit b
      { k with tag := .busy, prot := pteProt pte, region := pteRegion pte, prefetch, invalPending := false,
               partialCopy := pteProt pte == pReduce && fld info 3 0 == Acc.code .atomic, desc := fld info 9 4, rseq := r }
    s.request type b [info, protWord (pteProt pte) (pteRegion pte)] none r

/-- UNCACHED and WALK lines are served at the home and carry no tag (R266). -/
def uncachedProt (pte : Word) : Bool := pteProt pte == pUncached || pteProt pte == pWalk

/-- What the tag check of one block answers: performed here, or the request to send, or only wait (R265). -/
inductive TagRes where
  | hit
  | send (type : Nat)
  | wait
deriving DecidableEq, Repr

/-- The table of R265 for an access that is performed in the cache; a block that a PUSH has made RO while a miss of it is
under way serves what RO serves and sends nothing more. -/
def tagCheck (k : Core) (b : Nat) (a : Acc) : TagRes :=
  let ask (type : Nat) : TagRes := if k.asking b then .wait else .send type
  match k.tagAt b with
  | .busy => .wait
  | .rw => .hit
  | .ro => match a with
    | .load | .vload | .fetch => .hit
    | _ => ask tUpgrade
  | .i => match a with
    | .load | .vload | .fetch => ask tReadMiss
    | _ => ask tWriteMiss

/-- In a REDUCE region a participant's AMO acts on a partial, and the first sends READ-MISS (R283). -/
def reduceTag (k : Core) (b : Nat) : TagRes :=
  match k.tagAt b with
  | .busy => .wait
  | .rw => .hit
  | .ro => if k.asking b then .wait else .send tUpgrade
  | .i => if k.asking b then .wait else .send tReadMiss

/-- Regions a core holds partials of, or has asked for them (R283). -/
def Core.partialRegions (k : Core) : List Nat :=
  (k.cache.filter fun e => e.2.partialCopy).map (·.2.region) |>.eraseDups

/-- The core holds the block as a partial (R283). -/
def Core.heldPartial (k : Core) (b : Nat) : Bool := (k.block b).partialCopy && (k.block b).tag == .rw

/-- The core raises PROTOCOL itself for a plain store to a REDUCE region, a plain load of a block it holds as a
partial, an AMO that needs a seventeenth region, and an AMO on a partial asked for with another function, width or
type; `fn` is bits [9:4] of the access's info (R283). -/
def reduceCheck (k : Core) (a : Acc) (fn : Nat) (pte : Word) (b : Nat) (va : Nat) : Exec Unit :=
  if pteProt pte ≠ pReduce then .ok ()
  else match a with
    | .store | .vstore => trapWith cProtocol va
    | .load | .vload | .fetch => must (!k.heldPartial b) cProtocol va
    | .atomic =>
      let l := k.partialRegions
      must ((l.contains (pteRegion pte) || l.length < 16) && (!k.heldPartial b || (k.block b).desc == fn)) cProtocol va

/-- Sends the misses of an access. -/
def sendAll (info : Word) : List (Nat × Word × Nat) → State → State
  | [], s => s
  | (b, pte, type) :: t, s =>
    sendAll info t (if s.myCore.asking b then s else s.miss type b pte info false)

/-- A line is poisoned; where its error was found, as SRC numbers it (R232, R235). -/
def State.poisoned (s : State) (pa : Nat) : Bool := (s.poison.look (pa / 64)).isSome
def State.poisonSrc (s : State) (pa : Nat) : Nat := s.poison.at (pa / 64) 0

/-- Where the error of a granule of local memory was found (R235): 3 the scratchpad, 4 the tile store. -/
def localSrc (off : Nat) : Nat := if off < 0x080000 then 3 else 4

/-- The poisoned place an element touches, if any, of those the core itself reads: where the error was found (R235 SRC) and
the address to record. Of a line of memory its home tells the core. -/
def State.poisonAt (s : State) (e : El) : Place → Option (Nat × Nat)
  | .sram c off =>
    if (s.core c).sramPoison.at (off / 64) false || (s.core c).sramPoison.at ((off + e.size - 1) / 64) false then
      some (localSrc off, off) else none
  | .slice pa => if s.poisoned pa then some (s.poisonSrc pa, pa) else none
  | _ => none

/-- Step 5: every block the access touches must be performable in the cache. If one is not, the misses of all are
sent and the thread parks with TAGWAIT on the first (R229, R265). Lines of UNCACHED and WALK pages pass. -/
def tagAll (s : State) (a : Acc) (info : Word) (ps : List (El × Place)) : Exec Unit := do
  let blocks ← ps.filterMapM fun (e, p) =>
    match p with
    | .phys pa pte =>
      if uncachedProt pte then (.ok none : Exec (Option (Nat × Word × TagRes × Nat)))
      else do
        let b := blockOf pa
        reduceCheck s.myCore a (fld info 9 4) pte b e.va
        let k := s.myCore
        .ok (some (b, pte, if pteProt pte = pReduce && a == .atomic then reduceTag k b else tagCheck k b a, e.va))
    | _ => .ok none
  match blocks.find? fun x => x.2.2.1 != .hit with
  | none => .ok ()
  | some x =>
    let misses := blocks.filterMap fun y => match y.2.2.1 with | .send t => some (y.1, y.2.1, t) | _ => none
    .error (.park .tagwait (.block x.1 x.2.2.2) (sendAll info misses))

/-- What an access with a release order must have passed before its release acts: every check, but for ONCE and REDUCE
regions, where the release itself sends on what the core holds, only the checks that the core makes (R268, R283, R301; log entry
88). -/
def checkTags (s : State) (a : Acc) (info : Word) (ps : List (El × Place)) : Exec Unit :=
  if ps.any fun (_, p) => match p with | .phys _ pte => pteProt pte == pReduce || pteProt pte == pOnce | _ => false then
    ps.forM fun (e, p) => match p with
      | .phys pa pte => reduceCheck s.myCore a (fld info 9 4) pte (blockOf pa) e.va
      | _ => .ok ()
  else tagAll s a info ps

/-! ## What an instruction asks of homes (R45, R265, R266) -/

/-- A value that has come poisoned or refused. -/
def LateVal.bad : LateVal → Bool
  | .poisoned _ | .failed _ _ => true
  | _ => false

/-- An access that its home performs: a store or an atomic, sent and not to be sent again (R13). -/
def Ask.performs (a : Ask) : Bool := a.kind = 2 || a.kind = 3
/-- The instruction at the pc has issued such an access: only its answer is still to come. -/
def Thread.committed (t : Thread) : Bool := t.asks.any Ask.performs

/-- Sends a request whose answer the issuing instruction waits for. -/
def State.ask (s : State) (kind key : Nat) (va : Word) (type pa : Nat) (words : List Word) : State :=
  let (r, s) := s.newSeq 1
  (s.request type pa words none r).modMe fun t => { t with asks := t.asks ++ [⟨r, kind, key, va, .waiting⟩] }

/-- What the instruction has asked of one access. -/
def Thread.askOf (t : Thread) (kind key : Nat) : Option Ask := t.asks.find? fun a => a.kind == kind && a.key == key

/-- The answer so far. -/
def State.askVal (s : State) (kind key : Nat) : Option LateVal :=
  match s.me.askOf kind key with
  | some a => some a.val
  | none => none

/-- The answers to all that an instruction asks, each a kind's key with the access's address and how it is sent: what is not
yet asked is sent, and the thread is WAITING until every answer is there; a refused access traps, precisely (R233, R267). -/
def answers (kind : Nat) (l : List (Nat × Word × (State → State))) (s : State) : Exec (List Word) :=
  match l.find? fun x => match s.askVal kind x.1 with | some (.poisoned _) | some (.failed ..) => true | _ => false with
  | some x => match s.askVal kind x.1 with
    | some (.failed c a) => .error (.trap c a none)
    | _ => .error (.trap cPoison x.2.1 none)
  | none =>
    if l.all fun x => match s.askVal kind x.1 with | some (.ready _) => true | _ => false then
      .ok (l.map fun x => match s.askVal kind x.1 with | some (.ready v) => v | _ => 0)
    else .error (.wait .asks fun s => l.foldl (fun s x => if (s.me.askOf kind x.1).isSome then s else x.2.2 s) s)

/-- How the accesses stand that the instruction has sent and that their homes perform: `none` where it has sent none;
otherwise it checks and sends nothing again, the first of them that is refused traps, and `waits` is how it waits for an
answer (R13, R301). -/
def performed (waits : Halt) (s : State) : Option (Exec Word) :=
  match s.me.asks.filter Ask.performs with
  | [] => none
  | a :: l => some (match (a :: l).find? fun x => x.val.bad with
    | some x => match x.val with
      | .failed c v => .error (.trap c v none)
      | _ => .error (.trap cPoison x.va none)
    | none => match a.val with
      | .ready v => if l.all fun x => x.val != .waiting then .ok v else .error waits
      | _ => .error waits)

/-- A wait for homes' answers of an instruction on a tagged line: its thread parks with TAGWAIT (R265). -/
def asTagwait {α : Type} : Exec α → Exec α
  | .error (.wait .asks fx) => .error (.park .tagwait .asks fx)
  | r => r

/-! ## Poison (R232 to R235) -/

/-- The bytes of a granule of a core's local memory that an access covers. -/
def covered (ps : List (El × Place)) (core g : Nat) : Nat :=
  ps.foldl (fun m (e, p) => match p with
    | .sram c off =>
      if c = core && off / 64 = g then m ||| ((2 ^ e.size - 1) <<< (off % 64)) else m
    | _ => m) 0

/-- A store or an atomic that meets poison traps, but for a store that covers a granule of the local memory wholly
(R233, R235). -/
def storePoison (s : State) (ps : List (El × Place)) : Exec Unit :=
  match ps.find? fun (e, p) => (s.poisonAt e p).isSome &&
      (match p with | .sram c off => covered ps c (off / 64) != 2 ^ 64 - 1 | _ => true) with
  | some (e, p) => .error (.trap cPoison (w64 e.va) (s.poisonAt e p))
  | none => .ok ()

/-- Clears the poison of the granules that a store covers wholly (R235). -/
def State.unpoison (s : State) (ps : List (El × Place)) : State :=
  ps.foldl (fun s (_, p) => match p with
    | .sram c off =>
      if (s.core c).sramPoison.at (off / 64) false && covered ps c (off / 64) == 2 ^ 64 - 1 then
        s.modCore c fun k => { k with sramPoison := k.sramPoison.del (off / 64) }
      else s
    | _ => s) s

/-! ## Reading and writing places -/

/-- The value at a place the core performs itself. -/
def State.readPlace (s : State) (n : Nat) : Place → Nat
  | .sram c off => (s.core c).sram.read off n
  | .handler off => (s.pp s.cur.unit).sram.read off n
  | .slice pa => s.mem.read pa n
  | .phys pa _ => lineRead (s.myCore.block (blockOf pa)).data (pa % 64) n
  | .device _ => 0

/-- A write to a tile slot marks it written (R322). -/
def Core.touch (k : Core) (off : Nat) : Core :=
  match slotAt off with
  | some n => { k with written := k.written.put n true }
  | none => k

/-- Writes a core's local memory (R168). -/
def State.writeSram (s : State) (c off n v : Nat) : State :=
  s.modCore c fun k => { (k.touch off) with sram := k.sram.write off n v }

/-- Writes the value at a place the core performs itself. -/
def State.writePlace (s : State) (n v : Nat) : Place → State
  | .sram c off => s.writeSram c off n v
  | .handler off => s.modPP s.cur.unit fun p => { p with sram := p.sram.write off n v }
  | .slice pa => { s with mem := s.mem.write pa n v }
  | .phys pa _ =>
    let b := blockOf pa
    let k := s.myCore.block b
    s.setBlock s.cur.unit b
      { k with data := lineWrite k.data (pa % 64) n v, dirty := k.dirty ||| ((2 ^ n - 1) <<< (pa % 64)) }
  | .device _ => s

/-- A place that the home performs: an UNCACHED or a WALK line (R266). -/
def Place.remoteHome : Place → Bool
  | .phys _ pte => uncachedProt pte
  | _ => false

end Sys2Proof.Machine
end

