-- ==== Sys2Proof/Machine/Tenancy.lean ====
section
/-! DEFINITION. What the device does to a partition as a whole: its own reads and writes of memory, the completion
write, the end of a launch by an error, the phases of the Kiln, entry to ERROR (R333 to R343, R353 to R357, R506). -/

namespace Sys2Proof.Machine

/-- A physical address that a partition may have written by a launch packet (R355, R356). -/
def State.mayWrite (s : State) (p : Partition) (pa align : Nat) : Bool :=
  pa % align == 0 && s.physOk p 0 pa == .good

/-! ## All cores and hems of a partition -/

def State.mapCores (s : State) (p : Partition) (f : Core → Core) : State :=
  { s with cores := s.cores.map fun e => if p.covers (hemOf e.1) then (e.1, f e.2) else e }

def State.mapHems (s : State) (p : Partition) (f : Hem → Hem) : State :=
  { s with hems := s.hems.map fun e => if p.covers e.1 then (e.1, f e.2) else e }

/-- A slot whose thread is gone: FREE; the slot's queues stay (R239, R243). -/
def Thread.freed (t : Thread) : Thread :=
  { t with tstate := .free, priv := .u, annul := 0, park := .none, wait := .nothing, inTrap := false,
           wakePending := false, wakeTrap := none, pending := [], lateTrap := none, asks := [],
           release := ⟨0, 0⟩, endStep := 0, tableHold := none, saved := none }

/-- The supervisor slot as the micro-kernel leaves it when it has started: parked in IDLE, at S. Bring-up starts it, and so does
the end of the Kiln that follows an ERROR (log entry 12). -/
def Thread.idle15 (t : Thread) : Thread :=
  { t.freed with tstate := .parked, priv := .s, park := .idle, wait := .q7, pc := Config.kernelPc,
                 regs := { t.regs with status := 0 } }

/-- Every slot FREE, slot 15 too, by force and with nothing saved (R335). -/
def Core.stopAll (k : Core) : Core := { k with threads := k.threads.map fun e => (e.1, e.2.freed) }

/-- Every task slot FREE, by force and with nothing saved (R335, R506). -/
def Core.stopTasks (k : Core) : Core :=
  { k with threads := k.threads.map fun e => if e.1 < 15 then (e.1, e.2.freed) else e }

/-! ## Copy jobs (R245) -/

/-- Frees a job entry: its sequence goes up by one, wrapping. -/
def Hem.freeJob (h : Hem) (e : Nat) : Hem :=
  { h with jobs := h.jobs.del e, jobSeq := h.jobSeq.put e ((h.jobSeq.at e 0 + 1) % 256) }

/-- Frees every held entry without a record. -/
def Hem.freeJobs (h : Hem) : Hem := h.jobs.foldl (fun h e => h.freeJob e.1) h

/-! ## Rings (R190, R193, R506) -/

/-- Frees an injector record: its sequence goes up by one, wrapping at 32. -/
def RingDyn.freeRecord (r : RingDyn) (key : Nat) : RingDyn :=
  match r.injectors.look key with
  | some i => { r with injectors := r.injectors.put key { i with active := false, seq := (i.seq + 1) % 32 } }
  | none => r

/-- Every pattern entry inactive and every live tile gone, without a record. -/
def Hem.clearRings (h : Hem) : Hem :=
  let ring := h.ring.injectors.foldl (fun r e => if e.2.active then r.freeRecord e.1 else r) h.ring
  { h with patterns := [], outputs := [], q5waiting := [], q6waiting := [], spawned := [],
           ring := { ring with passing := [], links := [], departing := [], saveBuffer := [] } }

/-- Applications that wait are discarded; with the last live tile no slot is a tile's source any more (R172, R506). -/
def Core.clearApps (k : Core) : Core := { k with array := { k.array with queues := k.array.queues.del 16 }, pins := [] }

/-! ## Launch queues (R353 to R357) -/

/-- The QCB addresses of a partition, by list position. -/
def State.qcbs (s : State) (p : Partition) : List Nat :=
  (List.range (Nat.min (fld p.regs.qn 63 0) 256)).map fun i => (s.devWord (p.regs.qlist.toNat + 8 * i)).toNat

/-- A QCB is served: bound to the partition, of its class, with LOG2 in 4 to 16 (R353). -/
def State.qcbOk (s : State) (p : Partition) (q : Nat) : Bool :=
  let bind := s.devWord q
  bind.getLsbD 63 && fld bind 15 0 == p.id && fld (s.devWord (q + 8)) 1 0 == p.cls &&
    (let l := fld (s.devWord (q + 0x18)) 4 0; 4 ≤ l && l ≤ 16)

/-- QSTATE, RIDX, QERR, COUNT of a QCB. -/
def qRunning : Nat := 0
def qError : Nat := 1
def qStopped : Nat := 2

def State.setQueue (s : State) (q st err : Nat) : State := (s.devSetWord (q + 0x80) (w64 st)).devSetWord (q + 0x90) (w64 err)

/-- The queue at a list position is served: as it was when it was mapped, while it is mapped (R353). -/
def State.qcbServed (s : State) (p : Partition) (i q : Nat) : Bool := (p.queues.any fun m => m.index == i && m.qcb == q) || s.qcbOk p q

/-- Every queue of the partition goes to ERROR with QERR 4 (R357). -/
def State.queuesError (s : State) (p : Partition) : State :=
  (s.qcbs p).zipIdx.foldl (fun s x => if s.qcbServed p x.2 x.1 then s.setQueue x.1 qError 4 else s) s

/-- Every queue of the partition in one state goes to another (R357). -/
def State.queuesMove (s : State) (p : Partition) (old new : Nat) : State :=
  (s.qcbs p).zipIdx.foldl (fun s x =>
    if s.qcbServed p x.2 x.1 && fld (s.devWord (x.1 + 0x80)) 1 0 == old then s.devSetWord (x.1 + 0x80) (w64 new) else s) s

/-- Counts a completed packet of a queue (R353, R355). -/
def State.countPacket (s : State) (q : Nat) : State := s.devSetWord (q + 0x98) (s.devWord (q + 0x98) + 1)

/-- The completion write of a launch: the status first, then CVAL; none where CADDR is 0, misaligned or invalid
(R356). -/
def State.completion (s : State) (p : Partition) (caddr cval : Word) (status : Nat) : State :=
  let a := caddr.toNat
  if a ≠ 0 && s.mayWrite p a 16 then (s.devSetWord (a + 8) (w64 (status % 65536))).devSetWord a cval else s

/-- A running launch ends with a status: the completion write is made and its packet counts (R355, R356). -/
def State.endLaunch (s : State) (part status : Nat) : State :=
  match s.partById part with
  | some p => match p.launch with
    | some l =>
      let s := s.completion p l.caddr l.cval status
      let s := s.countPacket l.qcb
      s.modPart part fun p => { p with launch := none, lastSweep := none }
    | none => s
  | none => s

/-- The first ending with status 5 or 6 of the launch that runs on a core (R506): [7:0] the status, [15:8] the cause
of a TRAP ending. The device carries it out as LAUNCH_ERROR_END. -/
def State.launchError (s : State) (core status : Nat) : State :=
  match s.partOfCore core with
  | some p => match p.launch with
    | some l =>
      if l.error.isSome then s else s.modPart p.id fun p => { p with launch := some { l with error := some status } }
    | none => s
  | none => s

/-! ## The Kiln (R338, R339) -/

/-- Starts the Kiln on a partition: KBIND is taken as it stands (R341). -/
def State.startKiln (s : State) (part : Nat) (why : KilnFor) : State :=
  s.modPart part fun p => { p with kiln := some { why, phase := 0, bind := p.regs.kbind, classes := 0, reported := 0, failed := false } }

/-- Phase 2 in a core: everything but the match unit's queue; SVEC and SAVEAREA stay, and so does the place where slot 15
is, whose CYCLE counts from 0 again. What a thread asked of the array goes with its accumulators. -/
def Core.kiln2 (now : Nat) (k : Core) : Core :=
  let t := k.thread 15
  { Core.reset with
    threads := [(15, { t with annul := 0, dispatched := now, cycles := 0, wakePending := false, wakeTrap := none, regs := Regs.reset,
                              queues := Queues.reset, pending := [], lateTrap := none, asks := [], release := ⟨0, 0⟩ })]
    array := { Array.reset with queues := k.array.queues.filter fun e => e.1 = 16 }
    regs := { CoreRegs.reset with svec := k.regs.svec, savearea := k.regs.savearea } }

/-- Phase 2 in a hem: the translation cache and HEMCTL. -/
def Hem.kiln2 (h : Hem) : Hem := { h with tlb := [], hemctl := Hem.reset.hemctl }

/-- Phase 3 in a hem: patterns, rings, copy engine; HEMSAVE stays. -/
def Hem.kiln3 (h : Hem) : Hem := { Hem.reset with hemsave := h.hemsave, hemctl := h.hemctl, tlb := h.tlb }

/-- A block's frame belongs to the partition (R330, R219). -/
def State.ownsBlock (s : State) (p : Partition) (b : Nat) : Bool :=
  match b / 2 ^ 48 with
  | 0 => p.ownsFrame (b / 4096)
  | 1 => p.hostFrame (b % 2 ^ 48 / 4096)
  | 2 => s.extentAt p (b % 2 ^ 48 / 4096) != 0
  | _ => false

/-- Phase 4: handler slots that serve the partition, with their memory, deferred lists, requests under way, what a page-table
line's home keeps, and the directory entries of its blocks. -/
def State.kiln4 (s : State) (p : Partition) : State :=
  let s := s.modPart p.id fun p => { p with regionBusy := [] }
  { s with
    pps := s.pps.map fun (n, q) =>
      let mine := q.handlers.filter fun e => e.2.part == p.id
      (n, { q with
        handlers := q.handlers.filter fun e => e.2.part != p.id
        xrf := mine.foldl (fun m e => m.delRange (e.1 * 32) (e.1 * 32 + 32)) q.xrf
        sram := mine.foldl (fun m e => m.clearRange (e.1 * 0x400) (e.1 * 0x400 + 0x400)) q.sram })
    dir := s.dir.filter fun e => !s.ownsBlock p e.1
    deferred := (s.deferred.map fun e => (e.1, e.2.filter fun f => f.part != p.id)).filter fun e => e.2 ≠ []
    txns := s.txns.filter fun e => e.2.req.part != p.id
    walkStores := s.walkStores.filter fun e => e.2.req.part != p.id
    walkSharers := s.walkSharers.filter fun e => !s.ownsBlock p e.1
    links := { s.links with copies := s.links.copies.filter fun e => !s.ownsBlock p e.1
                            sent := s.links.sent.filter fun e => e.2.part != p.id
                            asked := s.links.asked.filter fun e => e.2.req.part != p.id } }

/-- Clears what one of the phases 1 to 4 clears, and gives the bits of its rows. -/
def State.kilnPhase (s : State) (p : Partition) : Nat → State × Nat
  | 1 => ({ s with net := s.net.filter fun f => f.part != p.id }, 0x2000)
  | 2 =>
    let s := (s.mapCores p (Core.kiln2 s.time)).mapHems p Hem.kiln2
    (s.modPart p.id fun p => { p with regs := { p.regs with resb := [], resl := [], occt := 0 } }, 0x111FF)
  | 3 => ((s.mapCores p fun k => { k with array := Array.reset }).mapHems p Hem.kiln3, 0x0E00)
  | 4 => (s.kiln4 p, 0xC000)
  | _ => (s, 0)

/-- What a phase does. Phase 5 reads every array of phases 2 to 4 back, and an agent that finds a nonzero word retries the
clearing once (R339); clearing what is clear already changes nothing, so the model clears all once more. -/
def State.kilnClear (s : State) (p : Partition) (phase : Nat) : State × Nat :=
  if phase = 5 then (((s.kilnPhase p 2).1.kilnPhase p 3).1.kilnPhase p 4 |>.1, 0) else s.kilnPhase p phase

/-! ## Entry to ERROR (R335) -/

/-- The next assignment sequence of the device, given to a partition (R352). -/
def State.assign (s : State) (part : Nat) : State :=
  let n := (s.dev.aseq + 1) % 2 ^ 32
  { s with dev := { s.dev with aseq := n } }.modPart part fun p => { p with regs := { p.regs with aseq := n } }

/-- The ERROR Kiln starts; where a Kiln runs already it is run to its end, with its cone, and the ERROR Kiln follows it (R335, R341;
log entry 28). -/
def State.errorKiln (s : State) (part : Nat) : State :=
  match (s.partById part).bind (·.kiln) with
  | some k => s.modPart part fun p => { p with kiln := some { k with failed := true } }
  | none => s.startKiln part .error

/-- A partition enters ERROR: its threads stop, its jobs, stop spill rings and ring tiles go, its launch ends
ABORTED, its queues go to ERROR, the Kiln starts (R335, R352, R356, R357). -/
def State.enterError (s : State) (part : Nat) : State :=
  match s.partById part with
  | none => s
  | some p =>
    if p.trust == .error then s
    else
      let s := s.mapCores p fun k => { k.stopAll with stop := StopInfo.reset }
      let s := s.mapHems p fun h => (h.freeJobs).clearRings
      let s := s.endLaunch part 7
      let s := s.queuesError p
      let s := s.modPart part fun p => { p with trust := .error, queues := [], restore := none, cqsc := none }
      (s.assign part).errorKiln part

end Sys2Proof.Machine
end

