-- ==== Sys2Proof/Machine/Work.lean ====
section
/-! DEFINITION. Task packets, the deque with its spill ring, the class lists with their overflow ring, the counts a
sweep reads; core barriers as a task's end leaves them (R51 to R62, R67, R376). -/

namespace Sys2Proof.Machine

/-! ## Packets (R51) -/

/-- Packet kinds. -/
def kFork : Nat := 1
def kPlaced : Nat := 2
def kCounter : Nat := 3
def kEncounter : Nat := 4
def kShip : Nat := 5
def kLaunch : Nat := 6

def Packet.kind (p : Packet) : Nat := fld p.hdr 7 0
def Packet.part (p : Packet) : Nat := fld p.hdr 47 32
/-- Sets SPILLED. -/
def Packet.spill (p : Packet) : Packet := { p with hdr := p.hdr ||| w64 0x10000 }
/-- The twelve dwords of a packet. -/
def Packet.words (p : Packet) : List Word := p.hdr :: p.pc :: (p.vals ++ List.replicate 10 0).take 10
def Packet.ofWords (l : List Word) : Packet := ⟨l.getD 0 0, l.getD 1 0, (l.drop 2).take 10⟩

/-- The launch partition id of a core's partition (R324). -/
def State.launchPart (s : State) (core : Nat) : Nat := ((s.partOfCore core).map (·.launchPart)).getD 0

/-- The core that a packet is read on takes it (R51). -/
def State.packetOk (s : State) (core : Nat) (p : Packet) : Bool :=
  1 ≤ p.kind && p.kind ≤ 6 && p.part == s.launchPart core

/-- Builds a packet on a core: SEQ counts the packets the core has built, this one included (R51). -/
def State.build (s : State) (core kind : Nat) (pc : Word) (vals : List Word) : Packet × State :=
  let n := (s.core core).work.built + 1
  (⟨w64 (n % 65536 * 2 ^ 48 + s.launchPart core * 2 ^ 32 + kind), pc, vals⟩,
    s.modCore core fun k => { k with work := { k.work with built := n % 65536 } })

/-- x3, x4 and x5 to x12 of the issuing thread (R53). What stands for a register beyond the thread's limit, which no
instruction reaches (R40), the spec leaves open: a free value (log entry 71). -/
def State.taskVals (s : State) : List Word :=
  [3, 4, 5, 6, 7, 8, 9, 10, 11, 12].map fun r =>
    if r < s.slimOf s.cur.pp s.cur.unit s.cur.slot then s.x r else Config.beyondLimit s.time s.cur.unit s.cur.slot r

def Core.modWork (k : Core) (f : Work → Work) : Core := { k with work := f k.work }

/-- Sent and received counts (R67). -/
def State.countSent (s : State) (core : Nat) : State :=
  s.modCore core fun k => k.modWork fun w => { w with sent := w.sent + 1 }
def State.countReceived (s : State) (core : Nat) : State :=
  s.modCore core fun k => k.modWork fun w => { w with received := w.received + 1 }

/-- A TASK fault record (R62); reasons 1 and 2 end the launch with status 5. -/
def State.taskFault (s : State) (core slot reason addr : Nat) : State :=
  let s := s.record core (taskRecord (s.partIdOf core) slot reason addr)
  if reason ≤ 2 then s.launchError core 5 else s

/-! ## Rings of packets in memory (R53, R61, R213) -/

/-- The ring that a SPILL or OVF register describes: its base and its places. -/
def ringBase (r : Word) : Nat := fld r 55 12 * 4096
def ringSize (r : Word) : Nat := 2 ^ Nat.min 20 (Nat.max 6 (fld r 4 0))

/-- Reads dwords at virtual addresses of a core's partition; the address that faults otherwise. -/
def State.ringRead (s : State) (core va : Nat) : Nat → Except Nat (List Word × State)
  | 0 => .ok ([], s)
  | n + 1 =>
    match s.translateNow core .s .load va with
    | (.ok pa _, s) => do
      let (l, s) ← State.ringRead s core (va + 8) n
      .ok (s.devWord pa :: l, s)
    | _ => .error va

/-- Writes dwords at virtual addresses of a core's partition; the address that faults otherwise. -/
def State.ringWrite (s : State) (core va : Nat) : List Word → Except Nat State
  | [] => .ok s
  | v :: t =>
    match s.translateNow core .s .store va with
    | (.ok pa _, s) => State.ringWrite (s.devSetWord pa v) core (va + 8) t
    | _ => .error va

/-- Writes packets at rising places of a ring. -/
def State.ringPut (s : State) (core : Nat) (r : Word) (pos : Nat) : List Packet → Except Nat State
  | [] => .ok s
  | p :: t => do
    let s ← s.ringWrite core (ringBase r + pos % ringSize r * 96) p.words
    State.ringPut s core r (pos + 1) t

/-- Reads packets at rising places of a ring, each with the address it was read from. -/
def State.ringGet (s : State) (core : Nat) (r : Word) (pos : Nat) : Nat → Except Nat (List (Nat × Packet) × State)
  | 0 => .ok ([], s)
  | n + 1 => do
    let a := ringBase r + pos % ringSize r * 96
    let (l, s) ← s.ringRead core a 12
    let (t, s) ← State.ringGet s core r (pos + 1) n
    .ok ((a, Packet.ofWords l) :: t, s)

/-- Keeps the packets that pass the checks of R51; each of the others makes a record and ends the launch. -/
def State.sift (s : State) (core : Nat) : List (Nat × Packet) → List Packet × State
  | [] => ([], s)
  | (a, p) :: t =>
    if s.packetOk core p then let (l, s) := State.sift s core t; (p :: l, s)
    else State.sift (s.taskFault core 15 1 a) core t

/-! ## The deque (R53 to R55) -/

/-- What FORK's push does: done, no room in the spill ring (TASK 1), or a fault of the ring. -/
def State.dequePush (s : State) (core : Nat) (p : Packet) : Option State :=
  let k := s.core core
  let w := k.work
  if w.deque.length < 64 then some (s.modCore core fun k => k.modWork fun w => { w with deque := w.deque ++ [p] })
  else if ringSize k.regs.spillb < w.spill.held + 32 then none
  else match s.ringPut core k.regs.spillb (w.spill.pos + w.spill.held) ((w.deque.take 32).map Packet.spill) with
    | .error va => some (s.taskFault core s.cur.slot 2 va)
    | .ok s => some (s.modCore core fun k => k.modWork fun w =>
        { w with deque := w.deque.drop 32 ++ [p], spill := ⟨w.spill.pos, w.spill.held + 32⟩ })

/-- Moves up to 32 packets from the spill ring's LIFO end to an empty hardware part (R54). -/
def State.dequeRefill (s : State) (core : Nat) : State :=
  let k := s.core core
  let w := k.work
  if w.deque ≠ [] || w.spill.held = 0 then s
  else
    let n := Nat.min 32 w.spill.held
    match s.ringGet core k.regs.spillb (w.spill.pos + w.spill.held - n) n with
    | .error va => s.taskFault core 15 2 va
    | .ok (l, s) =>
      let (ps, s) := s.sift core l
      s.modCore core fun k => k.modWork fun w => { w with deque := ps, spill := ⟨w.spill.pos, w.spill.held - n⟩ }

/-- The owner takes from the LIFO end (R55). -/
def State.dequePop (s : State) (core : Nat) : Option Packet × State :=
  let s := s.dequeRefill core
  match (s.core core).work.deque.getLast? with
  | some p => (some p, s.modCore core fun k => k.modWork fun w => { w with deque := w.deque.dropLast })
  | none => (none, s)

/-- A thief takes from the FIFO end: the spill ring's oldest packet, or the hardware part's (R55). -/
def State.dequeSteal (s : State) (core : Nat) : Option Packet × State :=
  let k := s.core core
  let w := k.work
  if w.spill.held ≠ 0 then
    match s.ringGet core k.regs.spillb w.spill.pos 1 with
    | .error va => (none, s.taskFault core 15 2 va)
    | .ok (l, s) =>
      let (ps, s) := s.sift core l
      (ps.head?, s.modCore core fun k => k.modWork fun w =>
        { w with spill := ⟨(w.spill.pos + 1) % ringSize k.regs.spillb, w.spill.held - 1⟩ })
  else match w.deque with
    | p :: t => (some p, s.modCore core fun k => k.modWork fun w => { w with deque := t })
    | [] => (none, s)

/-! ## Class lists and the overflow ring (R61) -/

/-- First offset of a class list (R213). -/
def listBase (cls : Nat) : Nat := 0x070000 + (cls - 2) * 0x1800

def Work.list (w : Work) : Nat → RingPos
  | 2 => w.class2
  | 3 => w.class3
  | _ => w.class4

def Work.setList (w : Work) (cls : Nat) (r : RingPos) : Work :=
  match cls with
  | 2 => { w with class2 := r }
  | 3 => { w with class3 := r }
  | _ => { w with class4 := r }

/-- The class that a kind of packet belongs to (R58 to R63). -/
def kindClass (kind : Nat) : Nat := if kind = kEncounter then 2 else if kind = kCounter then 3 else 4

/-- The packet at a place of a class list. -/
def Core.listGet (k : Core) (cls i : Nat) : Packet :=
  Packet.ofWords (k.sram.words (listBase cls + i % 64 * 96) 12)

/-- Appends to a class list that has room. -/
def Core.listPut (k : Core) (cls : Nat) (p : Packet) : Core :=
  let r := k.work.list cls
  { k with sram := k.sram.setWords (listBase cls + (r.pos + r.held) % 64 * 96) p.words,
           work := k.work.setList cls ⟨r.pos, r.held + 1⟩ }

/-- An older packet of the class waits in the overflow ring. -/
def State.overflowHas (s : State) (core cls : Nat) : Bool :=
  let k := s.core core
  match s.ringGet core k.regs.ovfb k.work.overflow.pos k.work.overflow.held with
  | .ok (l, _) => l.any fun e => kindClass e.2.kind == cls
  | .error _ => k.work.overflow.held != 0

/-- Entries join the tail of the overflow ring. The ring that becomes full makes the one record of reason 4 (R61, R62). `keep` says
that a restore replays them, and then all that join later (R317). -/
def State.overflowPut (s : State) (core : Nat) (keep : Bool) (ps : List Packet) : State :=
  let k := s.core core
  let size := ringSize k.regs.ovfb
  let held := k.work.overflow.held + ps.length
  match s.ringPut core k.regs.ovfb (k.work.overflow.pos + k.work.overflow.held) ps with
  | .error va => s.taskFault core 15 2 va
  | .ok s =>
    let s := s.modCore core fun k =>
      { k.modWork (fun w => { w with overflow := ⟨w.overflow.pos, held⟩ }) with
        stop := { k.stop with kept := if keep || k.stop.kept ≠ 0 then k.stop.kept + ps.length else 0 } }
    if held = size then s.taskFault core 15 4 (ringBase k.regs.ovfb) else s

/-- A packet joins its class list, or the overflow ring's tail with SPILLED set; `false` where neither has room (R61). -/
def State.place (s : State) (core cls : Nat) (p : Packet) : Bool × State :=
  let k := s.core core
  if (k.work.list cls).held < 64 && !s.overflowHas core cls then (true, s.setCore core (k.listPut cls p))
  else if k.work.overflow.held < ringSize k.regs.ovfb then (true, s.overflowPut core false [p.spill])
  else (false, s)

/-- A packet that arises on its core: where no list has room it waits in the mesh buffer of the core (R61). -/
def State.addTask (s : State) (core cls : Nat) (p : Packet) : State :=
  let (done, s) := s.place core cls p
  if done then s
  else s.send (.core core 15) (.core core 15) ((s.partOfCore core).map (·.cls) |>.getD 0) (s.partIdOf core) 0 (.task cls p)

/-! ## Core barriers (R376, R377) -/

def barDone (b : Word) : Nat := fld b 63 48
def barWait (b : Word) : Nat := fld b 47 32
def barTarget (b : Word) : Nat := fld b 20 16
def barGen (b : Word) : Nat := fld b 15 0
def barWord (done wait target gen : Nat) : Word :=
  w64 (done % 65536 * 2 ^ 48 + wait % 65536 * 2 ^ 32 + target % 32 * 2 ^ 16 + gen % 65536)

/-- Number of one bits among sixteen. -/
def ones16 (n : Nat) : Nat := (List.range 16).countP n.testBit

/-- A slot of a core no longer waits on any barrier; where its task has ended (`done`), its DONE bits clear too. -/
def Core.dropBars (k : Core) (slot : Nat) (done : Bool) : Core :=
  let without (n : Nat) : Nat := if n.testBit slot then n - 2 ^ slot else n
  { k with barriers := k.barriers.map fun e =>
      let w := without (barWait e.2)
      (e.1, barWord (if done then without (barDone e.2) else barDone e.2) w (if w = 0 then 0 else barTarget e.2) (barGen e.2)) }

/-- A slot of a core leaves every barrier: its task has ended (R377). -/
def Core.leaveBars (k : Core) (slot : Nat) : Core := k.dropBars slot true

/-- A woken slot is parked on no barrier: the BAR that it issues again arrives anew (R376, R377, R491). -/
def State.unwait (s : State) (pp : Bool) (u slot : Nat) : State :=
  if pp then s else s.modCore u fun k => k.dropBars slot false

/-! ## Counter records (R58, R59) -/

/-- Applies a decrement to the counter record at a scratchpad offset. -/
def State.decrement (s : State) (core off : Nat) (amount : Nat) : State :=
  let k := s.core core
  let st := fld (k.sram.word (off + 8)) 1 0
  if st ≠ 1 then s.taskFault core 15 3 off
  else
    let n := k.sram.word off - w64 amount
    let s := s.modCore core fun k => { k with sram := k.sram.setWord off n }
    if n.toInt ≤ 0 then
      let s := s.modCore core fun k => { k with sram := k.sram.setWord (off + 8) 2 }
      let p := Packet.ofWords (k.sram.words (off + 16) 12)
      if s.packetOk core p then s.addTask core 3 p else s.taskFault core 15 1 (0xFE * 2 ^ 56 + off + 16)
    else s

/-! ## The stop spill ring (R211, R317, R325, R507; its encoding is log entry 11) -/

/-- Kinds of stop-spill entries: a message, a packet for a class list, a decrement. -/
def spillMessage : Nat := 0
def spillTask : Nat := 1
def spillDec : Nat := 2

/-- Its place in the reserved scratchpad, its bytes, and those of the longest entry. -/
def spillBase : Nat := 0x060000
def spillSize : Nat := 0x10000
def spillEntryMax : Nat := 136

/-- The dwords of an entry: its kind and how many words follow, then these. -/
def spillEntry (kind : Nat) (words : List Word) : List Word := w64 (kind + words.length * 256) :: words

/-- Appends an entry to the ring. -/
def Core.spillPut (k : Core) (ws : List Word) : Core :=
  let pos := k.stop.spillPos + k.stop.spillHeld
  { k with
    sram := ws.zipIdx.foldl (fun m x => m.setWord (spillBase + (pos + 8 * x.2) % spillSize) x.1) k.sram
    stop := { k.stop with spillHeld := k.stop.spillHeld + 8 * ws.length } }

/-- The dword of the ring at a byte position. -/
def Core.spillWord (k : Core) (pos : Nat) : Word := k.sram.word (spillBase + pos % spillSize)

/-- The entries in a number of bytes of the ring from a position, oldest first. -/
def Core.spillEntries (k : Core) (pos : Nat) : Nat → Nat → List (Nat × List Word)
  | 0, _ => []
  | n + 1, held =>
    if held = 0 then []
    else
      let h := k.spillWord pos
      let len := fld h 15 8
      (fld h 7 0, (List.range len).map fun i => k.spillWord (pos + 8 + 8 * i)) ::
        Core.spillEntries k (pos + 8 + 8 * len) n (held - (8 + 8 * len))

/-- The kind of overflow-ring entries that hold a part of a stop-spill entry: eleven of its dwords, how many of them
count, and whether more follow. -/
def kHeld : Nat := 0xF0
def heldEntries : Nat → List Word → List Packet
  | 0, _ => []
  | n + 1, ws =>
    let rest := ws.drop 11
    Packet.ofWords (w64 (kHeld + (ws.take 11).length * 256 + (if rest = [] then 0 else 65536)) ::
      (ws ++ List.replicate 11 0).take 11) :: (if rest = [] then [] else heldEntries n rest)

/-- What the overflow ring takes for an arrival of the stop spill ring: a packet of a class list itself, with SPILLED set (R61);
anything else in parts. -/
def spillPackets (kind : Nat) (words : List Word) : List Packet :=
  if kind = spillTask && (words.headD 0).toNat ≠ 5 then [(Packet.ofWords (words.drop 1)).spill]
  else heldEntries 2 (spillEntry kind words)

/-- The arrivals that entries of the overflow ring stand for, in order, each with its address (R325). -/
def keptArrivals : List (Nat × Packet) → List (Nat × Nat × List Word)
  | [] => []
  | (a, p) :: t =>
    let words (p : Packet) : List Word := (p.words.drop 1).take (fld p.hdr 15 8)
    let entry (ws : List Word) : Nat × Nat × List Word := (a, fld (ws.headD 0) 7 0, ws.drop 1)
    if p.kind ≠ kHeld then (a, spillTask, w64 (kindClass p.kind) :: p.words) :: keptArrivals t
    else if fld p.hdr 16 16 = 0 then entry (words p) :: keptArrivals t
    else match t with
      | (_, q) :: t' => entry (words p ++ words q) :: keptArrivals t'
      | [] => [entry (words p)]

/-- An arrival at or after T joins the stop spill ring; where the ring has no room for it, and for all that come later,
the overflow ring (R317). -/
def State.stopSpill (s : State) (core kind : Nat) (words : List Word) : State :=
  let k := s.core core
  if k.stop.spillHeld + spillEntryMax < spillSize then s.setCore core (k.spillPut (spillEntry kind words))
  else s.overflowPut core true (spillPackets kind words)

/-- The stop spill ring or the overflow ring can take the arrival. -/
def State.spillRoom (s : State) (core kind : Nat) (words : List Word) : Bool :=
  let k := s.core core
  decide (k.stop.spillHeld + spillEntryMax < spillSize) ||
    decide (k.work.overflow.held + (spillPackets kind words).length ≤ ringSize k.regs.ovfb)

/-- Replays one entry as if it had just arrived (R325); `a` is the address in memory that it was read from, or 0 (R62). -/
def State.replay (s : State) (core a : Nat) (e : Nat × List Word) : State :=
  if e.1 = spillMessage then
    s.send (.core core 15) (.core core 15) (((s.partOfCore core).map (·.cls)).getD 0) (s.partIdOf core) 0 (.message e.2 true)
  else if e.1 = spillDec then s.decrement core (e.2.getD 0 0).toNat (e.2.getD 1 0).toNat
  else
    let p := Packet.ofWords (e.2.drop 1)
    let cls := (e.2.headD 0).toNat
    if !s.packetOk core p then s.taskFault core 15 1 a
    else if cls = 5 then
      match s.dequePush core p with
      | some s' => s'
      | none => s.addTask core 4 p
    else s.addTask core cls p

/-- Takes the arrivals that the overflow ring kept for the restore out of it. -/
def State.takeKept (s : State) (core : Nat) : List (Nat × Nat × List Word) × State :=
  let k := s.core core
  let r := k.work.overflow
  let n := k.stop.kept
  let out (s : State) : State := s.modCore core fun k =>
    { k.modWork (fun w => { w with overflow := ⟨r.pos, r.held - n⟩ }) with stop := { k.stop with kept := 0 } }
  match s.ringGet core k.regs.ovfb (r.pos + r.held - n) n with
  | .error va => ([], (out s).taskFault core 15 2 va)
  | .ok (l, s) => (keptArrivals l, out s)

/-! ## The overflow ring gives its packets back (R61) -/

/-- Returns overflow-ring packets to their lists, in order, while entries are free (R61); those kept for a restore stay. -/
def State.overflowReturn (s : State) (core : Nat) : Nat → State
  | 0 => s
  | n + 1 =>
    let k := s.core core
    let r := k.work.overflow
    if r.held ≤ k.stop.kept then s
    else match s.ringGet core k.regs.ovfb r.pos 1 with
      | .error va => s.taskFault core 15 2 va
      | .ok (l, s') =>
        match l.head? with
        | none => s
        | some (a, p) =>
          let out (s : State) : State := s.modCore core fun k => k.modWork fun w =>
            { w with overflow := ⟨(w.overflow.pos + 1) % ringSize k.regs.ovfb, w.overflow.held - 1⟩ }
          if !s'.packetOk core p then State.overflowReturn ((out s').taskFault core 15 1 a) core n
          else
            let cls := kindClass p.kind
            if (k.work.list cls).held < 64 then
              State.overflowReturn ((out s').modCore core fun k => k.listPut cls p) core n
            else s

/-- Takes the oldest packet of a class list, and lets the overflow ring return what it can (R61, R63). -/
def State.listTake (s : State) (core cls : Nat) : Option Packet × State :=
  let k := s.core core
  let r := k.work.list cls
  if r.held = 0 then (none, s)
  else
    let p := k.listGet cls r.pos
    let s := s.modCore core fun k => k.modWork fun w => w.setList cls ⟨(r.pos + 1) % 64, r.held - 1⟩
    let s := s.overflowReturn core 64
    if s.packetOk core p then (some p, s) else (none, s.taskFault core 15 1 (0xFE * 2 ^ 56 + listBase cls + r.pos % 64 * 96))

end Sys2Proof.Machine
end

