-- ==== Sys2Proof/Machine/Rings.lean ====
section
/-! DEFINITION. The ring control of a hem and its stations: tiles and their headers, passing sets, meetings, outputs
and their completion, withdrawal and misses; the end of a task (R185 to R203, R208, R377). -/

namespace Sys2Proof.Machine

/-! ## Tile headers, tile ids and keys (R189, R190, R193) -/

def hFam (h : Word) : Nat := fld h 63 63
def hMat (h : Word) : Nat := fld h 62 56
def hX (h : Word) : Nat := fld h 55 46
def hK (h : Word) : Nat := fld h 45 40
def hLaps (h : Word) : Nat := fld h 39 36
def hPartners (h : Word) : Nat := fld h 35 26

def tileId (inj fam rec seq : Nat) : Nat := inj * 2 ^ 12 + fam * 2 ^ 11 + rec * 2 ^ 5 + seq

/-- Keys of an injector record, of a passing-set entry, of a link that leaves a station, of an output. -/
def injKey (fam st rec : Nat) : Nat := (fam * 16 + st) * 64 + rec
def passKey (fam st idx : Nat) : Nat := (fam * 16 + st) * 16 + idx
def linkKey (fam st : Nat) : Nat := fam * 16 + st
def outKey (e o : Nat) : Nat := 128 * e + o

/-- The tile-store slot of a passing-set entry (R193). -/
def passSlot (fam idx : Nat) : Nat := 480 + 16 * fam + idx

/-- The station that follows in a family's direction (R185). -/
def nextStation (fam st : Nat) : Nat := if fam = 0 then (st + 1) % 16 else (st + 15) % 16

def Injector.reset : Injector :=
  { active := false, entered := false, core := 0, hdr := 0, slot := 0, remain := 0, seq := 0, thread := 0, late := 0,
    order := 0 }
def RingDyn.inj (r : RingDyn) (key : Nat) : Injector := r.injectors.at key Injector.reset
def RingDyn.setInj (r : RingDyn) (key : Nat) (i : Injector) : RingDyn := { r with injectors := r.injectors.put key i }

/-- The live count of a family (R190). -/
def Hem.live (h : Hem) (fam : Nat) : Nat := h.ring.injectors.countP fun e => e.2.active && e.1 / 1024 = fam
/-- The live cap of a family (R186). -/
def Hem.cap (h : Hem) (fam : Nat) : Nat := if fam = 0 then fld h.hemctl 14 8 else fld h.hemctl 22 16

/-- The live tile of a family with a matrix id, X and KBLK: its key. -/
def Hem.liveTile (h : Hem) (fam mat x k : Nat) : Option Nat :=
  (h.ring.injectors.find? fun e => e.2.active && e.1 / 1024 = fam && hMat e.2.hdr = mat && hX e.2.hdr = x && hK e.2.hdr = k).map
    (·.1)

/-! ## Pattern entries (R195, R196) -/

def Pattern.ma (p : Pattern) : Nat := fld p.ctl 6 0
def Pattern.mb (p : Pattern) : Nat := fld p.ctl 14 8
def Pattern.oi (p : Pattern) : Nat := fld p.ctl 23 16
def Pattern.oj (p : Pattern) : Nat := fld p.ctl 31 24
def Pattern.kb (p : Pattern) : Nat := fld p.ctl 38 32
def Pattern.accBase (p : Pattern) : Nat := fld p.ctl 42 40
def Pattern.action (p : Pattern) : Nat := fld p.ctl 45 44
def Pattern.ordered (p : Pattern) : Bool := p.ctl.getLsbD 46
def Pattern.clr (p : Pattern) : Bool := p.ctl.getLsbD 47
def Pattern.lapb (p : Pattern) : Nat := fld p.ctl 51 48
def Pattern.compl (p : Pattern) : Nat := fld p.ctl 57 56
/-- Owner station and accumulator of an output. -/
def Pattern.owner (p : Pattern) (o : Nat) : Nat := p.owners.getD o 0 / 16
def Pattern.acc (p : Pattern) (o : Nat) : Nat := p.accBase + p.owners.getD o 0 % 8
def Pattern.out (p : Pattern) (i j : Nat) : Nat := i * p.oj + j

def Output.reset : Output := { applied := 0, pendingBits := 0, started := false, running := 0, completed := false }
def Hem.output (h : Hem) (e o : Nat) : Output := h.outputs.at (outKey e o) Output.reset
def Hem.setOutput (h : Hem) (e o : Nat) (v : Output) : Hem := { h with outputs := h.outputs.put (outKey e o) v }

/-- The active entry with a number. -/
def Hem.entry (h : Hem) (e : Nat) : Option Pattern := match h.patterns.look e with
  | some p => if p.active then some p else none
  | none => none

/-- The active entry that names a matrix id for a family (R191). -/
def Hem.entryFor (h : Hem) (fam mat : Nat) : Option (Nat × Pattern) :=
  h.patterns.find? fun e => e.2.active && (if fam = 0 then e.2.ma else e.2.mb) == mat

/-- A count that stays at its field's maximum (R447). -/
def bump (n top : Nat) : Nat := Nat.min top (n + 1)

/-! ## Decrements and completion (R59, R200) -/

/-- The core and the offset of a counter record address, for the core it is relative to (R211, R466). -/
def State.recordAt (s : State) (core : Nat) (va : Word) : Nat × Nat :=
  let off := va.toNat % 2 ^ 56
  if windowOf va.toNat == .remote then
    (((s.partOfCore core).map (·.root)).getD 0 + off / 2 ^ 24, off % 2 ^ 24)
  else (core, off)

/-- Sends a decrement message from a core; it counts as sent (R67, R466). -/
def State.sendDec (s : State) (core : Nat) (va : Word) (n : Nat) : State :=
  let (c, off) := s.recordAt core va
  (s.countSent core).send (.core core 15) (.core c 15) (((s.partOfCore core).map (·.cls)).getD 0) (s.partIdOf core) 0 (.dec off n)

/-- An output is complete: its q5 record goes to the owner core, or waits in the station; then its decrement (R200).
CADDR's window 0xFE is the owner core's (log entry 24). A record waits behind one of its station that waits already: the
order is the model's choice (log entry 56). -/
def State.complete (s : State) (h e o : Nat) : State :=
  let hem := s.hem h
  match hem.patterns.look e with
  | none => s
  | some p =>
    let out := hem.output e o
    if out.completed || out.running ≠ 0 || fld out.applied (p.kb - 1) 0 ≠ 2 ^ p.kb - 1 ||
        hem.q5waiting.any (fun w => w.2.2.1 = e && w.2.2.2 = o) then s
    else
      let st := p.owner o
      let core := h * 16 + st
      let words := [w64 (0x30 + p.acc o * 2 ^ 32 + o % p.oj * 2 ^ 40 + o / p.oj * 2 ^ 50 + e * 2 ^ 60), p.ctag]
      let dec := if 2 ≤ p.compl then [p.caddr] else []
      if p.compl % 2 = 1 && (16 ≤ (s.core core).q5.length || hem.q5waiting.any fun w => w.1 == st) then
        s.modHem h fun m => { m with q5waiting := m.q5waiting ++ [(st, words ++ dec, e, o)] }
      else
        let s := if p.compl % 2 = 1 then s.modCore core fun k => { k with q5 := k.q5 ++ [words] } else s
        let s := s.modHem h fun m => m.setOutput e o { m.output e o with completed := true }
        dec.foldl (fun s a => s.sendDec core a 1) s

/-! ## Pins and the end of applications (R198, R199) -/

/-- Changes the pin count of a passing-set entry. -/
def Hem.pin (h : Hem) (fam st idx : Nat) (up : Bool) : Hem :=
  match h.ring.passing.look (passKey fam st idx) with
  | some x => { h with ring := { h.ring with
      passing := h.ring.passing.put (passKey fam st idx) { x with pins := if up then x.pins + 1 else x.pins - 1 } } }
  | none => h

/-- An application or a spawned task of an output has finished: its pins go, and the output may be complete. -/
def State.appDone (s : State) (h st : Nat) (a : AppOf) : State :=
  let s := s.modHem h fun m => (m.pin 0 st (a.slotA - 480) false).pin 1 st (a.slotB - 496) false
  match (s.hem h).patterns.look a.entry with
  | none => s
  | some p =>
    let o := p.out a.i a.j
    let s := s.modHem h fun m => m.setOutput a.entry o { m.output a.entry o with running := (m.output a.entry o).running - 1 }
    s.complete h a.entry o

/-- A slot becomes FREE: the pins of the encounter task it ran are released (R199). -/
def State.taskGone (s : State) (core slot : Nat) : State :=
  let h := hemOf core
  match (s.hem h).spawned.find? fun x => x.1 == core && x.2.1 == slot with
  | some (_, _, a) =>
    let s := s.modHem h fun m => { m with spawned := m.spawned.filter fun x => !(x.1 == core && x.2.1 == slot) }
    s.appDone h (stationOf core) a
  | none => s

/-- A task ends: its slot is FREE and leaves every core barrier (R50, R377). -/
def State.endTask (s : State) (core slot : Nat) : State :=
  ((s.modCoreThread core slot Thread.freed).modCore core fun k => k.leaveBars slot).taskGone core slot

/-- The slot number of an encounter task that no slot has taken yet. -/
def notTaken : Nat := 16

/-- start (R199): an application joins the match unit's queue, or an ENCOUNTER packet the core's class-2 list. -/
def State.start (s : State) (h e : Nat) (p : Pattern) (i j k st ia ib : Nat) : State :=
  let o := p.out i j
  let core := h * 16 + st
  let out := (s.hem h).output e o
  let app : AppOf := ⟨e, i, j, k, passSlot 0 ia, passSlot 1 ib⟩
  let ids (fam idx : Nat) : Nat := match (s.hem h).ring.passing.look (passKey fam st idx) with
    | some x => tileId x.inj fam x.record x.seq
    | none => 0
  let s := s.modHem h fun m => m.setOutput e o { out with started := true, running := out.running + 1 }
  if p.action = 0 then
    let op : MatOp := { kind := .mma (p.acc o) (passSlot 0 ia) (passSlot 1 ib) (p.clr && !out.started) false, ctx := p.fmt,
                        late := 0, accepted := s.time, app := some app }
    s.modCore core fun c => { c with array := { c.array with queues := c.array.queues.put 16 (c.array.queues.at 16 [] ++ [op]) } }
  else
    let vals := [p.x3, p.spawnarg, w64 (e * 2 ^ 60 + i * 2 ^ 10 + j), w64 k, w64 (ids 0 ia), w64 (ids 1 ib),
                 w64 (passSlot 0 ia), w64 (passSlot 1 ib), 0, 0]
    let (pkt, s) := s.build core kEncounter p.spawnpc vals
    (s.modHem h fun m => { m with spawned := m.spawned ++ [(core, notTaken, app)] }).addTask core 2 pkt

/-- The lowest k of an output with no applied bit (R198). -/
def Output.next (o : Output) : Nat := ((List.range 64).find? fun k => !o.applied.getLsbD k).getD 64

/-- The passing-set entry of a live tile at a station. -/
def Hem.passIndex (h : Hem) (fam st key : Nat) : Option Nat :=
  (List.range 16).find? fun i => match h.ring.passing.look (passKey fam st i) with
    | some x => injKey fam x.inj x.record == key && (h.ring.inj key).seq == x.seq
    | none => false

/-- release (R198): held k blocks start in ascending order. -/
def State.releaseHeld (s : State) (h e : Nat) (p : Pattern) (i j st : Nat) : Nat → State
  | 0 => s
  | n + 1 =>
    let o := p.out i j
    let out := (s.hem h).output e o
    let k := out.next
    if k < 64 && out.pendingBits.getLsbD k then
      let bit := w64 (2 ^ k)
      let s := s.modHem h fun m => m.setOutput e o { out with applied := out.applied ||| bit, pendingBits := out.pendingBits &&& ~~~bit }
      let find (fam mat x : Nat) : Option Nat := ((s.hem h).liveTile fam mat x k).bind fun key => (s.hem h).passIndex fam st key
      match find 0 p.ma i, find 1 p.mb j with
      | some ia, some ib => State.releaseHeld (s.start h e p i j k st ia ib) h e p i j st n
      | _, _ => s
    else s

/-- A tick: the remaining-partner count goes down, and stays at 0 (R198). -/
def Hem.tick (h : Hem) (key : Nat) : Hem :=
  let r := h.ring.inj key
  { h with ring := h.ring.setInj key { r with remain := r.remain - 1 } }

/-! ## Passing sets (R193) -/

/-- The index a tile takes in a passing set: its own, a free one, or the least recently arrived that is not pinned (R193). Of several
free ones it takes the lowest (DESIGN CHOICE, log entry 97). -/
def Hem.passFor (h : Hem) (fam st key : Nat) : Nat :=
  match h.passIndex fam st key with
  | some i => i
  | none => match (List.range 16).find? fun i => (h.ring.passing.look (passKey fam st i)).isNone with
    | some i => i
    | none =>
      let l := (List.range 16).filterMap fun i => (h.ring.passing.look (passKey fam st i)).bind fun x =>
        if x.pins = 0 then some (x.rank, i) else none
      ((l.foldl (fun b x => match b with | some y => if x.1 < y.1 then some x else b | none => some x) none).map (·.2)).getD 0

/-- Enters a tile into a passing set at an index, with its contents, as the most recent. -/
def State.enterPass (s : State) (h st idx : Nat) (t : Tile) : State :=
  let hem := s.hem h
  let key := passKey t.fam st idx
  let pins := match hem.ring.passing.look key with
    | some x => if x.inj = t.inj && x.record = t.record && x.seq = t.seq then x.pins else 0
    | none => 0
  let hdr := (hem.ring.inj (injKey t.fam t.inj t.record)).hdr
  let s := s.modHem h fun m => { m with ring := { m.ring with
    passing := m.ring.passing.put key ⟨t.inj, t.record, t.seq, hdr, m.ring.rank + 1, pins⟩, rank := m.ring.rank + 1 } }
  let n := passSlot t.fam idx
  s.modCore (h * 16 + st) fun k => { k with
    sram := (k.sram.paste (0x200000 + n * 0x1000) 0x1000 t.data).paste (0x400000 + n * 0x80) 0x80 t.side }

/-- Pinned entries of a family at a station. -/
def Hem.pinned (h : Hem) (fam st : Nat) : Nat :=
  (List.range 16).countP fun i => match h.ring.passing.look (passKey fam st i) with
    | some x => x.pins ≠ 0
    | none => false

/-- Pinning the entry at an index, if the tile is there already, or a new one, keeps the family within 8 (R198). -/
def Hem.mayPin (h : Hem) (fam st idx key : Nat) : Bool :=
  let now := match h.passIndex fam st key with
    | some i => i = idx && (match h.ring.passing.look (passKey fam st i) with | some x => x.pins ≠ 0 | none => false)
    | none => false
  h.pinned fam st + (if now then 0 else 1) ≤ 8

/-! ## Meetings (R194, R198) -/

/-- meet for an arriving tile t, to be entered at `idx`, and the entry u of the other family at `iu`. -/
def State.meet (s : State) (h e : Nat) (p : Pattern) (st idx : Nat) (t : Tile) (iu ku i j k : Nat) : State :=
  let o := p.out i j
  let hem := s.hem h
  let out := hem.output e o
  if out.completed || out.applied.getLsbD k || out.pendingBits.getLsbD k then s
  else
    let kt := injKey t.fam t.inj t.record
    let fu := 1 - t.fam
    if !(hem.mayPin t.fam st idx kt && hem.mayPin fu st iu ku) then
      s.modHem h fun m => { m with deferrals := bump m.deferrals 0xFFFF }
    else
      let bit := w64 (2 ^ k)
      let s := s.enterPass h st idx t
      let s := s.modHem h fun m => ((m.pin t.fam st idx true).pin fu st iu true)
      let held := p.action = 0 && p.ordered && out.next < k
      let s :=
        if held then s.modHem h fun m => m.setOutput e o { out with pendingBits := out.pendingBits ||| bit }
        else
          let s := s.modHem h fun m => m.setOutput e o { out with applied := out.applied ||| bit }
          let (ia, ib) := if t.fam = 0 then (idx, iu) else (iu, idx)
          let s := s.start h e p i j k st ia ib
          if p.ordered then s.releaseHeld h e p i j st 64 else s
      s.modHem h fun m => (m.tick kt).tick ku

/-- An arriving tile meets the other family's entries at a station, in ascending order (R194). -/
def State.meetAll (s : State) (h st idx : Nat) (t : Tile) : List Nat → State
  | [] => s
  | iu :: rest =>
    let hem := s.hem h
    let fu := 1 - t.fam
    let th := (hem.ring.inj (injKey t.fam t.inj t.record)).hdr
    let s' := match hem.ring.passing.look (passKey fu st iu), hem.entryFor t.fam (hMat th) with
      | some u, some (e, p) =>
        let other := if t.fam = 0 then p.mb else p.ma
        let (i, j) := if t.fam = 0 then (hX th, hX u.hdr) else (hX u.hdr, hX th)
        if hMat u.hdr = other && hK u.hdr = hK th && p.owner (p.out i j) = st then
          s.meet h e p st idx t iu (injKey fu u.inj u.record) i j (hK th)
        else s
      | _, _ => s
    State.meetAll s' h st idx t rest

/-! ## What a FENCE over rings waits for (R192, R299) -/

/-- The injector record of the tile in a tile slot of a station's passing set. -/
def Hem.injectorIn (h : Hem) (st slot : Nat) : Option Injector :=
  let fam := if slot < 496 then 0 else 1
  (h.ring.passing.look (passKey fam st (slot - 480 - 16 * fam))).map fun x => h.ring.inj (injKey fam x.inj x.record)

/-- Ring instructions of a slot's thread are still to take effect: a tile of its has not entered or not passed every station, or
an application of one has not retired. What a spawned task does with it, and what waits for an earlier k block, is not waited for
(log entry 92). -/
def State.ringsOpen (s : State) (core slot : Nat) : Bool :=
  let h := s.hem (hemOf core)
  let mine (i : Injector) : Bool := i.active && i.core == core && i.thread == slot
  let inSlot (st n : Nat) : Bool := match h.injectorIn st n with | some i => mine i | none => false
  (h.ring.injectors.any fun e => mine e.2 && (!e.2.entered || hLaps e.2.hdr == 0)) ||
    (List.range 16).any fun st => ((s.core (hemOf core * 16 + st)).array.ops 16).any fun o => match o.app with
      | some a => inSlot st a.slotA || inSlot st a.slotB
      | none => false

/-! ## Removal (R201) -/

/-- A tile has a pinned entry at some station. -/
def Hem.tilePinned (h : Hem) (fam inj rec seq : Nat) : Bool :=
  h.ring.passing.any fun e => e.1 / 256 = fam && e.2.inj == inj && e.2.record == rec && e.2.seq == seq && e.2.pins ≠ 0

/-- Removes a tile: its entries, its source slot's pin, its record; the q6 record goes to the injector core, or waits in
the station, behind one that waits there already: that order is the model's choice (R201; log entry 56). -/
def State.removeTile (s : State) (h : Nat) (fam inj rec : Nat) (kind : Option Nat) : State :=
  let key := injKey fam inj rec
  let r := (s.hem h).ring.inj key
  let s := s.modHem h fun m => { m with
    ring := { m.ring with passing := m.ring.passing.filter fun e =>
      !(e.1 / 256 = fam && e.2.inj == inj && e.2.record == rec && e.2.seq == r.seq) }.freeRecord key
    misses := if kind = some 0x31 then bump m.misses 0xFFFFFFFF else m.misses }
  let core := h * 16 + inj
  let s := s.modCore core fun k => { k with pins := k.pins.put r.slot (k.pins.at r.slot 0 - 1) }
  match kind with
  | none => s
  | some n =>
    let words := [w64 (n + r.remain * 2 ^ 16 + tileId inj fam rec r.seq * 2 ^ 32), r.hdr]
    if (s.core core).q6.length < 16 && !((s.hem h).q6waiting.any fun w => w.1 == inj) then s.modCore core fun k => { k with q6 := k.q6 ++ [words] }
    else s.modHem h fun m => { m with q6waiting := m.q6waiting ++ [(inj, words)] }

/-- Cycles of one hop of a tile: the transfer and the receiving station (R24). -/
def hopCycles : Nat := 12

/-- The cycle in which a hop ends that begins in the link slot of a cycle or in the next one: link slots are 12 cycles long and
begin together in all stations (R192, R206; log entry 93). -/
def hopEnd (now : Nat) : Nat := (now + hopCycles - 1) / hopCycles * hopCycles + hopCycles

/-- The link that leaves a station takes the oldest tile that waits there for it, if it is free: at most one tile is on a
link (R24, R206). While the hem stops, a tile that would be on a link goes to the ring save buffer instead, with its next
station (R208). -/
def Hem.depart (h : Hem) (fam st now : Nat) : Hem :=
  let key := linkKey fam st
  let next := nextStation fam st
  let taken (r : RingDyn) (rest : List Tile) : RingDyn :=
    { r with departing := if rest = [] then r.departing.del key else r.departing.put key rest }
  match h.ring.links.look key, h.ring.departing.at key [] with
  | none, t :: rest =>
    if !h.stopped then { h with ring := taken { h.ring with links := h.ring.links.put key { t with due := hopEnd now } } rest }
    else if h.ring.saveBuffer.any fun e => e.1 == next && e.2.fam == fam then h
    else { h with ring := taken { h.ring with saveBuffer := h.ring.saveBuffer ++ [(next, t)] } rest }
  | _, _ => h

/-- A tile leaves a station on the next link of its direction, behind those of its family that wait for it (R185, R194). -/
def Hem.forward (h : Hem) (st now : Nat) (t : Tile) : Hem :=
  let key := linkKey t.fam st
  { h with ring := { h.ring with departing := h.ring.departing.put key (h.ring.departing.at key [] ++ [t]) } }.depart t.fam st now

/-- The processing of a tile at a station: at its first entry, or at an arrival (R194). -/
def State.arriveTile (s : State) (h st : Nat) (t : Tile) (first : Bool) : State :=
  let key := injKey t.fam t.inj t.record
  let home := st = t.inj && !first
  let s := if home then s.modHem h fun m =>
      let r := m.ring.inj key
      { m with ring := m.ring.setInj key { r with hdr := setFld r.hdr 39 36 (bump (hLaps r.hdr) 15) } }
    else s
  let idx := (s.hem h).passFor t.fam st key
  let s := s.meetAll h st idx t (List.range 16)
  let hem := s.hem h
  let r := hem.ring.inj key
  let free := home && !hem.tilePinned t.fam t.inj t.record t.seq
  let lapb := ((hem.entryFor t.fam (hMat r.hdr)).map fun e => e.2.lapb).getD 0
  if free && r.remain = 0 then s.removeTile h t.fam t.inj t.record (if r.hdr.getLsbD 18 then some 0x32 else none)
  else if free && lapb ≤ hLaps r.hdr then s.removeTile h t.fam t.inj t.record (some 0x31)
  else (s.enterPass h st idx t).modHem h fun m => m.forward st s.time { t with hdr := r.hdr }

/-! ## The contents of a tile (R158, R170, R191) -/

/-- Zeroes the code at a row and column of a tile's 4 KiB, of 8 or 4 bits. -/
def zeroCode (four : Bool) (m : Memory) (r c : Nat) : Memory :=
  if four then
    let a := (r * 64 + c) / 2
    let b := (m.byte a).toNat
    m.setByte a (BitVec.ofNat 8 (if c % 2 = 0 then b / 16 * 16 else b % 16))
  else m.setByte (r * 64 + c) 0

/-- The copy of a slot that travels: blocks whose scale is −128 hold zero codes when scales are on. -/
def tileContents (k : Core) (slot fam : Nat) (fmt : Word) : Memory × Memory :=
  let data := k.sram.slice (0x200000 + slot * 0x1000) 0x1000 0
  let side := k.sram.slice (0x400000 + slot * 0x80) 0x80 0
  let scaled := if fam = 0 then fmt.getLsbD 5 else fmt.getLsbD 13
  let four := (if fam = 0 then fld fmt 4 3 else fld fmt 12 11) = 1
  if !scaled then (data, side)
  else
    (((List.range 128).filter fun n => side.byte n = 0x80).foldl (fun m n =>
      (List.range 32).foldl (fun m q =>
        let x := n / 2
        let y := n % 2 * 32 + q
        if fam = 0 then zeroCode four m x y else zeroCode four m y x) m) data, side)

end Sys2Proof.Machine
end

