-- ==== Sys2Proof/Machine/Ops.lean ====
section
/-! DEFINITION. The operations every meaning shares: taking a trap and returning from one, parking and waiting, the
release actions, q1 and the inbound queues, and carrying out one instruction with its operand checks (R39, R45 to R50,
R77 to R79, R104, R236 to R244, R268, R277, R280, R305 to R309, R365, R505, R508). -/

namespace Sys2Proof.Machine

/-! ## Answers of a home, and the end of a handler slot -/

/-- Sends the answer to a request. -/
def State.reply (s : State) (home : Agent) (req : Flit) (type : Nat) (words : List Word) (payload : Option Line) :
    State :=
  s.post (newFlit home req.src req.cls req.part req.rseq (.msg ⟨2, type, words, payload⟩) req.merged)

/-- Word i of the message a packet carries. -/
def Flit.word (f : Flit) (i : Nat) : Word := match f.body with | .msg m => m.words.getD i 0 | _ => 0
def Flit.type (f : Flit) : Nat := match f.body with | .msg m => m.type | _ => 0
/-- The control home's RCMD: the one RCMD of the local request lane (R262, R270). -/
def Flit.closes (f : Flit) : Bool := f.type = tRcmd && f.lane = 0 && (match f.body with | .msg _ => true | _ => false)

/-- Answers a request with FAIL and a cause (R267); what a record says of poison goes with it (R235). -/
def State.failReply (s : State) (home : Agent) (req : Flit) (cause : Nat) : State :=
  s.reply home req rFail [req.word 0, w64 cause, w64 (s.poisonSrc (req.word 0).toNat)] none

/-- Directory entries are kept by block address; an absent one is zero (R276). -/
def DirEntry.reset : DirEntry :=
  { locked := false, failed := false, hslot := 0, dword0 := 0, sharers := 0, pw0 := 0, pw1 := 0 }
def State.entry (s : State) (b : Nat) : DirEntry := s.dir.at b DirEntry.reset
def State.setEntry (s : State) (b : Nat) (e : DirEntry) : State :=
  if e = DirEntry.reset then { s with dir := s.dir.del b } else { s with dir := s.dir.put b e }

/-- The handler-fault record (R281). -/
def handlerRecord (pp slot : Nat) (h : Handler) (reason cause : Nat) (eval : Word) (time : Nat) : List Word :=
  let type := (h.req.map Flit.type).getD 0
  [w64 (0x13 + h.part * 2 ^ 16 + (if reason = 2 then cause else 0) * 2 ^ 32 + reason * 2 ^ 40 + h.prot * 2 ^ 44 +
      type * 2 ^ 48 + pp * 2 ^ 52 + slot * 2 ^ 58),
    (h.req.map (·.word 0)).getD 0, w64 (Nat.min (time - h.started) 0xFFFFFFFF * 2 ^ 32 + h.issued % 2 ^ 32),
    if reason = 2 then eval else 0]

/-- The record goes to the supervisor slot of the partition's root core. -/
def State.handlerFault (s : State) (pp slot reason cause : Nat) (eval : Word) : State :=
  let h := (s.pp pp).handler slot
  match s.partById h.part with
  | some p => s.recordTo p.root (handlerRecord pp slot h reason cause eval s.time)
  | none => s

/-- The list of what a vendor protocol keeps waiting on a block until the block is WRITTEN or combined (R282, R283): its
key. Such a message holds no slot and no lock. -/
def heldKey (b : Nat) : Nat := 2 ^ 56 + b

/-- Answers every message on a block's deferred list, or on its list of what is kept waiting, with FAIL. -/
def State.failDeferred (s : State) (key cause : Nat) : State :=
  let s' := (s.deferred.at key []).foldl (fun s f => s.failReply (.pp (s.homeFor (key % 2 ^ 56))) f cause) s
  { s' with deferred := s'.deferred.del key }

/-- Frees a handler slot: answers still due to it are dropped. -/
def State.freeHandler (s : State) (pp slot : Nat) : State :=
  s.modPP pp fun p => { p with handlers := p.handlers.del slot }

/-- A home has finished its part of a region's close or combine (R263, R284). -/
def State.homeDone (s : State) (part region : Nat) : State :=
  s.modPart part fun p => { p with regionBusy := p.regionBusy.put region (p.regionBusy.at region 0 - 1) }

/-- Kills a handler slot (R280). -/
def State.killHandler (s : State) (pp slot reason cause : Nat) (eval : Word) : State :=
  let h := (s.pp pp).handler slot
  let s := s.handlerFault pp slot reason cause eval
  let s := h.locks.foldl (fun s b => s.setEntry b { s.entry b with failed := true }) s
  let s := match h.req with
    | some r => if h.answered then s else s.failReply (.pp pp) r cProtocolFailed
    | none => s
  let s := h.locks.foldl (fun s b => (s.failDeferred b cProtocolFailed).failDeferred (heldKey b) cProtocolFailed) s
  let s := { s with txns := s.txns.filter fun e => !(s.homeFor e.1 == pp && e.2.slot == slot) }
  let s := if (h.req.map Flit.closes).getD false then s.homeDone h.part h.region else s
  s.freeHandler pp slot

/-! ## Taking a trap, and returning from one (R307 to R309) -/

/-- The thread is in TRAP, or left it only to park or wait (R50). -/
def Thread.trapped (t : Thread) : Bool := t.tstate == .trap || t.inTrap

/-- The trap registers and the state that trap entry leaves in a slot (R307). -/
def Thread.enterTrap (t : Thread) (svec : Word) (cause : Nat) (val : Word) : Thread :=
  { t with
    regs := { t.regs with
      status := w64 ((if t.trapped then 16 else 0) + t.annul * 4 + (match t.priv with | .u => 0 | _ => 1))
      epc := t.pc, ecause := w64 cause, eval := val }
    priv := .s, annul := 0, tstate := .trap, pc := svec, park := .none, wait := .nothing, inTrap := false,
    tableHold := none
    lateTrap := if t.lateTrap = some (cause, val) then none else t.lateTrap
    asks := [], release := ⟨0, 0⟩, endStep := 0 }

/-- A double trap: slot 15's sends the partition to ERROR; a task slot's ends the thread and the launch (R308). -/
def State.doubleTrap (s : State) (core slot cause : Nat) : State :=
  let t := s.coreThread core slot
  if slot = 15 then s.enterError (s.partIdOf core)
  else
    let s := s.record core (doubleTrapRecord (s.partIdOf core) slot cause t.pc)
    (s.endTask core slot).launchError core (6 + cause * 256)

/-- A synchronous trap of a tile core's slot (R307, R308), with the poison record of R235 if it met poison. -/
def State.trapThread (s : State) (core slot cause : Nat) (val : Word) (poison : Option (Nat × Nat)) : State :=
  let t := s.coreThread core slot
  let s := match poison with
    | some (src, a) => s.record core (poisonRecord (s.partIdOf core) slot src a)
    | none => s
  if t.trapped && t.regs.status.getLsbD 4 then s.doubleTrap core slot cause
  else s.modCoreThread core slot fun t => t.enterTrap (s.core core).regs.svec cause val

/-- A trap of any slot: at privilege H it kills the slot (R280, R305). -/
def State.trapAt (s : State) (pp : Bool) (u slot cause : Nat) (val : Word) (poison : Option (Nat × Nat)) : State :=
  if pp then s.killHandler u slot 2 cause val else s.trapThread u slot cause val poison

/-- A trap of the instruction being carried out. -/
def State.takeTrap (s : State) (cause : Nat) (val : Word) (poison : Option (Nat × Nat)) : State :=
  s.trapAt s.cur.pp s.cur.unit s.cur.slot cause val poison

/-- The state that ERET leaves in a slot, once its checks have passed (R309, R397). -/
def Thread.leaveTrap (t : Thread) (slot : Nat) : Thread :=
  let user := fld t.regs.status 1 0 = 0
  { t with priv := if user then .u else .s, annul := fld t.regs.status 3 2, pc := t.regs.epc,
           regs := { t.regs with status := t.regs.status &&& ~~~(16 : Word) },
           tstate := if user || slot = 15 then .ready else .trap }

/-! ## Parking and waiting (R45 to R50) -/

/-- The thread parks: its park sequence goes up by one, wrapping. What it has only asked is forgotten. -/
def Thread.parked (t : Thread) (r : Park) (w : WaitFor) : Thread :=
  { t with tstate := .parked, park := r, wait := w, inTrap := t.trapped, parkSeq := (t.parkSeq + 1) % 65536,
           asks := t.asks.filter Ask.performs, release := ⟨0, 0⟩, tableHold := none }

/-- The thread is WAITING; a release under way stands only while the thread waits for it. -/
def Thread.waits (t : Thread) (w : WaitFor) : Thread :=
  { t with tstate := .waiting, wait := w, inTrap := t.trapped, release := if w = .release then t.release else ⟨0, 0⟩ }

/-- The thread may issue again: READY, or TRAP for a park or a wait of trap code (R50). -/
def Thread.resumed (t : Thread) : Thread :=
  { t with tstate := if t.inTrap then .trap else .ready, park := .none, wait := .nothing, inTrap := false }

/-- A result's mark goes, and what else its instruction was to bring: its register keeps its earlier value (R414). -/
def Thread.unmark (t : Thread) (id : Nat) : Thread := { t with pending := t.pending.filter (·.id != id) }

/-- Carries out how an instruction left its course, on the state before it (R13). -/
def State.halt (s : State) : Halt → State
  | .trap c v n => s.takeTrap c v n
  | .markTrap id c v => (s.modMe fun t => t.unmark id).takeTrap c v none
  | .park r w fx => fx (s.modMe fun t => t.parked r w)
  | .wait w fx => fx (s.modMe fun t => t.waits w)

/-! ## Release actions (R268, R302) -/

/-- Sends the FLUSH of every block of the core that has a release action, and notes the REDUCE regions to close. -/
def State.flushAll (s : State) : State :=
  let todo := s.myCore.cache.filter fun e => s.needsFlush s.cur.unit e.2
  let regions := todo.filterMap fun e => if e.2.partialCopy then some e.2.region else none
  (todo.foldl (fun s e => s.flushBlock e.1 e.2) s).modMyCore fun k => { k with closing := (k.closing ++ regions).eraseDups }

/-- Sends the CLOSE of every region whose partials were flushed. -/
def State.closeAll (s : State) : State :=
  let base := s.myCore.regs.regionbase.toNat
  (s.myCore.closing.foldl (fun s n => s.releaseMsg (base + 64 * n) tClose 0 [w64 s.cur.unit, protWord pReduce n] none) s).modMyCore
    fun k => { k with closing := [] }

/-- The next stage of the thread's release waits for all that the core has sent so far. -/
def State.releaseStage (s : State) (n : Nat) : State := s.modMe fun t => { t with release := ⟨n, s.seq⟩ }

/-- Begins a release. -/
def State.startFlush (s : State) : State := s.flushAll.releaseStage 1
/-- Its second part, once the FLUSHes are answered. -/
def State.startClose (s : State) : State := s.closeAll.releaseStage 2

/-- How a release at partition scope or wider stands: done, or held, with what it does next. -/
inductive Rel where
  | done
  | hold (fx : State → State)

/-- A FLUSH or a CLOSE of the core, whichever thread sent it, that the release of a thread waits for (R268). -/
def Core.releaseOpen (k : Core) (t : Thread) : Bool := k.flushes.any fun f => f.rseq / 4 < t.release.upTo

/-- The next step of the issuing slot's release: the FLUSHes, their answers, the CLOSEs, their answers (R268). -/
def State.release (s : State) : Rel :=
  let k := s.myCore
  let idle := k.flushes = [] && k.closing = []
  match s.me.release.stage with
  | 0 => if idle && !(k.cache.any fun e => s.needsFlush s.cur.unit e.2) then .done else .hold State.startFlush
  | 1 => if k.releaseOpen s.me then .hold id else if idle then .done else .hold State.startClose
  | _ => if k.releaseOpen s.me then .hold id else .done

/-- The trap that a late result which has come poisoned or refused stands for (R267, R414). -/
def Late.fault (l : Late) : Option (Nat × Word) :=
  match l.val with
  | .poisoned a => some (cPoison, a)
  | .failed c a => some (c, a)
  | _ => none

/-- The trap of the first late result that satisfies a condition; where that has not come yet, the thread waits for it. -/
def lateTrapOf (l : Option Late) : Exec Unit :=
  match l with
  | none => .ok ()
  | some l => match l.fault with
    | some (c, a) => .error (.markTrap l.id c a)
    | none => .error (.wait (.regs l.id) id)

/-- A late result of the thread that arrived poisoned or failed traps here (R414, R267). -/
def lateMark (t : Thread) : Exec Unit := lateTrapOf (t.pending.find? fun l => l.fault.isSome)

/-- A DTLD of another slot, its read complete, holds back work on a decode table until it has replaced it (R394). -/
def Core.tableHeld (k : Core) (slot i : Nat) : Bool :=
  k.threads.any fun e => e.1 != slot && (match e.2.tableHold with | some (j, _) => j == i | none => false)

/-- An instruction that uses decode tables waits until none of them is held back (R394). -/
def tablesFree (l : List Nat) (s : State) : Exec Unit :=
  match l.find? (s.myCore.tableHeld s.cur.slot) with
  | some i => .error (.wait (.table i) id)
  | none => .ok ()

/-- What every release waits for: the thread's matrix operations and its results under way; at partition scope or wider the
release actions of the core (R177, R268, R302, R414). A handler slot has none of them. -/
def gate (wide : Bool) (s : State) : Exec State := do
  lateMark s.me
  if s.cur.pp then .ok s
  else if s.myCore.array.ops s.cur.slot ≠ [] then .error (.wait .matrix id)
  else if s.me.pending ≠ [] then .error (.wait .results id)
  else if !wide then .ok s
  else match s.release with
    | .done => .ok (s.modMe fun t => { t with release := ⟨0, 0⟩ })
    | .hold fx => .error (.wait .release fx)

/-! ## Stopping a thread (R316) -/

/-- The state that a stop saves of a thread: never WAITING, since it looks again at its instruction (R316). -/
def Thread.savedState (t : Thread) : TState := if t.tstate == .waiting then (if t.inTrap then .trap else .ready) else t.tstate

/-- The thread leaves its slot with what a stop saves of it; its CYCLE stands still while it is saved (R84). A stop at a
PPT and a forced stop park it with reason STOP (R47), unless it is parked already. -/
def Thread.stopped (t : Thread) (live : Nat) (forced : Bool) (now : Nat) : Thread :=
  let x := t.savedState
  let parks := (forced || live ≠ 0xFF) && t.tstate != .parked
  { t with
    tstate := .free, cycles := t.cycles + (now - t.dispatched), dispatched := now, tableHold := none
    park := if parks then .stop else t.park
    wait := if t.tstate == .parked then t.wait else .nothing
    parkSeq := if parks then (t.parkSeq + 1) % 65536 else t.parkSeq
    saved := some { tstate := x, live, forced, priv := t.priv } }

/-- A stop takes a thread off its slot; a thread that holds a poisoned result, or a header that a late push refused, takes
its trap instead (R414, R505). -/
def State.stopThread (s : State) (core slot live : Nat) (forced : Bool) : State :=
  let t := s.coreThread core slot
  match t.lateTrap, t.pending.findSome? fun l => l.fault.map fun x => (l.id, x) with
  | some (c, v), _ => s.trapThread core slot c v none
  | none, some (n, c, v) => (s.modCoreThread core slot fun t => t.unmark n).trapThread core slot c v none
  | none, none => s.modCoreThread core slot fun t => t.stopped live forced s.time

/-- The core's stop time has come, and the slot is a task slot. -/
def State.stopping (s : State) : Bool := !s.cur.pp && s.cur.slot < 15 && s.myCore.stop.reached

/-- A thread of a stopping core that parks is stopped at the park (R316); one whose far atomic is under way first takes the
answer. -/
def State.afterIssue (s : State) : State :=
  if s.stopping && s.me.tstate == .parked && s.me.asks = [] then s.stopThread s.cur.unit s.cur.slot 0xFF false else s

/-! ## q1 (R236 to R238, R505) -/

/-- LEN of a message header (R236). -/
def hdrLen (h : Word) : Nat := fld h 23 20

/-- The check of a header pushed into q1: the EVAL of the first case that holds (R237). The order of the cases is the model's
(DESIGN CHOICE, log entry 101). -/
def State.headerFault (s : State) (h : Word) : Option Nat :=
  if fld h 63 46 ≠ 0 || fld h 31 24 ≠ 0 || h.getLsbD 15 || (h.getLsbD 14 && fld h 3 0 ≠ 0) then some 0x201
  else if ((s.myPart.bind fun p => p.coreFor (fld h 13 4))).isNone then some 0x200
  else if !h.getLsbD 14 && fld h 3 0 = 15 && s.me.priv == .u then some 0x202
  else none

/-- THREADID[13:0] of a slot: launch core id and slot (R84, R236). -/
def State.threadId (s : State) (core slot : Nat) : Nat := s.launchId core * 16 + slot

/-- The dword a push puts into q1: a header gets SOURCE (R236, R237). -/
def State.pushed (s : State) (v : Word) : Word :=
  if s.me.queues.q1partial = 0 then setFld v 45 32 (s.threadId s.cur.unit s.cur.slot) else v

/-- Whether pushing a dword completes a message of the thread (R237). -/
def Queues.completes (q : Queues) (v : Word) : Bool :=
  if q.q1partial = 0 then hdrLen v == 0
  else q.q1partial == hdrLen (q.q1.getD (q.q1.length - q.q1partial) 0)

/-- Appends a dword to q1. -/
def Queues.push (q : Queues) (v : Word) : Queues :=
  { q with q1 := q.q1 ++ [v], q1partial := if q.completes v then 0 else q.q1partial + 1 }

/-- Dwords of q1 reserved for values that come after issue; one that comes poisoned frees its dword (R505). -/
def Thread.q1reserved (t : Thread) : Nat := t.pending.countP fun l => l.dest == .q1 && !l.val.bad

/-- q1 has room for n more dwords beside those reserved; a handler slot's q1 has none (R238, R505). -/
def State.q1Room (s : State) (n : Nat) : Bool :=
  !s.cur.pp && s.me.queues.q1.length + s.me.q1reserved + n ≤ 32

/-- Pushes a value known at issue: QFULL, the checks of a header, the release that sends a message (R79, R237). -/
def push1 (v : Word) (s : State) : Exec State := do
  if !s.q1Room 1 then .error (.park .qfull (.q1room 1) id)
  else
    if s.me.queues.q1partial = 0 then
      match s.headerFault v with
      | some e => trapWith cQueue e
      | none => .ok ()
    let s ← if s.me.queues.completes v then gate true s else .ok s
    .ok (s.modQueues fun q => q.push (s.pushed v))

/-- Writes a scalar result known at issue: a register, or a push into q1 (R79). -/
def putX (d : Nat) (v : Word) (s : State) : Exec State := if d = 121 then push1 v s else .ok (s.setX d v)

/-- Pushes a value that comes after issue into the place reserved for it: a header that fails its checks is not
pushed, and the thread's next issue traps (R505). -/
def State.latePush (s : State) (v : Word) : State :=
  if s.me.queues.q1partial = 0 && (s.headerFault v).isSome then
    s.modMe fun t => { t with lateTrap := some (cQueue, w64 (0x1000 + (s.headerFault v).getD 0)) }
  else s.modQueues fun q => q.push (s.pushed v)

/-- Writes a scalar result that an instruction produces after issue and that is here already: the effect of the
instruction stands whatever a header's checks say (R505). -/
def lateX (d : Nat) (v : Word) (s : State) : Exec State :=
  if d = 121 then do
    let s ← if s.me.queues.completes v then gate true s else .ok s
    .ok (s.latePush v)
  else .ok (s.setX d v)

/-- Reserves the dword of q1 that a value after issue fills (R505). -/
def reserveX (d : Nat) (s : State) : Exec Unit :=
  if d = 121 && !s.q1Room 1 then .error (.park .qfull (.q1room 1) id) else .ok ()

/-- Notes a result still to come, under a request sequence (R45, R505). -/
def State.expect (s : State) (l : Late) : State :=
  s.modMe fun t => { t with pending := t.pending ++ [l] }

/-- Where a scalar result that comes later goes. -/
def lateDest (d : Nat) : LateDest := if d = 121 then .q1 else .x d

/-! ## Inbound queues (R77, R79, R243, R255) -/

/-- The message of q2 that a slot holds claimed, or else the oldest unclaimed one (R243). -/
def Core.q2Next (k : Core) (slot : Nat) : Option RingMsg :=
  match k.q2.find? fun m => m.owner == some slot && !m.spent with
  | some m => some m
  | none => k.q2.find? fun m => m.owner.isNone

/-- Base and dwords of the q2 ring (R242). -/
def q2Base (r : Word) : Nat := fld r 18 0
def q2Size (r : Word) : Nat := 2 ^ Nat.min 13 (Nat.max 4 (fld r 23 20))

/-- The dword at a position of the q2 ring. -/
def Core.q2Word (k : Core) (pos : Nat) : Word :=
  k.sram.word (q2Base k.regs.q2cfg + pos % q2Size k.regs.q2cfg * 8)

/-- Frees exhausted messages at the front of the ring (R242). -/
def dropSpent : List RingMsg → List RingMsg
  | [] => []
  | m :: t => if m.spent then dropSpent t else m :: t

/-- Dwords that a slot can pop from an inbound queue without parking, as far as one instruction can ask (R79, R244). -/
def State.held (s : State) (q : Nat) : Nat :=
  let t := s.me
  if s.cur.pp && q ≠ 0 then 0
  else match q with
  | 0 => t.queues.q0.length
  | 2 => if t.queues.q2claim ≠ [] then t.queues.q2claim.length
         else match s.myCore.q2Next s.cur.slot with | some m => m.len | none => 0
  | 3 => (t.queues.q3.map fun r => r.words.length).sum
  | 4 => t.queues.q4.length
  | 5 => (s.myCore.q5.map List.length).sum
  | 6 => (s.myCore.q6.map List.length).sum
  | 7 => (s.myCore.q7.map fun r => r.words.length).sum
  | _ => 0

/-- Marks the slot's claimed message exhausted, and frees what can be freed. -/
def Core.spendQ2 (k : Core) (slot : Nat) : Core :=
  { k with q2 := dropSpent (k.q2.map fun m => if m.owner == some slot then { m with spent := true } else m) }

/-- Pops the head of a list of records: a record leaves with its last dword. -/
def popRec : List (List Word) → Option (Word × List (List Word))
  | (w :: []) :: t => some (w, t)
  | (w :: v) :: t => some (w, v :: t)
  | _ => none

/-- The entry of a job id: its index and its sequence (R245). -/
def jobEntry (id : Nat) : Nat := id / 256 % 256
def jobSeqOf (id : Nat) : Nat := id % 256

/-- Pops one dword of an inbound queue (R79); a handler slot has only q0 (R272). -/
def State.pop (s : State) (q : Nat) : Option (Word × State) :=
  let t := s.me
  if s.cur.pp && q ≠ 0 then none
  else match q with
  | 0 => match t.queues.q0 with
    | w :: r =>
      let s := s.modQueues fun g => { g with q0 := r, payloads := (g.payloads.filter fun e => e.1 ≠ 0).map fun e => (e.1 - 1, e.2) }
      match t.queues.payloads.find? fun e => e.1 = 0 with
      | some (_, l) => some (w, s.modPP s.cur.unit fun p =>
          { p with sram := p.sram.setLine (s.cur.slot * 0x400 + 0x380) l (2 ^ 64 - 1) })
      | none => some (w, s)
    | [] => none
  | 2 => match t.queues.q2claim with
    | w :: r =>
      let s := s.modQueues fun g => { g with q2claim := r }
      some (w, if r = [] then s.modMyCore fun k => k.spendQ2 s.cur.slot else s)
    | [] => match s.myCore.q2.find? fun m => m.owner.isNone with
      | some m =>
        let k := s.myCore
        let words := (List.range m.len).map fun i => k.q2Word (m.start + i)
        let s := s.modMyCore fun k => { k with q2 := k.q2.map fun x =>
          if x.start == m.start && x.owner.isNone then { x with owner := some s.cur.slot } else x }
        let s := s.modQueues fun g => { g with q2claim := words.drop 1 }
        some (words.headD 0, if words.length ≤ 1 then s.modMyCore fun k => k.spendQ2 s.cur.slot else s)
      | none => none
  | 3 => match t.queues.q3 with
    | ⟨j, w :: []⟩ :: r =>
      let s := s.modQueues fun g => { g with q3 := r }
      some (w, s.modMyHem fun h => h.freeJob (jobEntry j))
    | ⟨j, w :: v⟩ :: r => some (w, s.modQueues fun g => { g with q3 := ⟨j, v⟩ :: r })
    | _ => none
  | 4 => match t.queues.q4 with
    | w :: r => some (w, s.modQueues fun g => { g with q4 := r })
    | [] => none
  | 5 => (popRec s.myCore.q5).map fun (w, l) => (w, s.modMyCore fun k => { k with q5 := l })
  | 6 => (popRec s.myCore.q6).map fun (w, l) => (w, s.modMyCore fun k => { k with q6 := l })
  | 7 => match s.myCore.q7 with
    | ⟨_, w :: []⟩ :: r => some (w, s.modMyCore fun k => { k with q7 := r })
    | ⟨f, w :: v⟩ :: r => some (w, s.modMyCore fun k => { k with q7 := ⟨f, v⟩ :: r })
    | _ => none
  | _ => none

/-! ## Operand fields (R39, R77, R79, R508) -/

/-- What an instruction does with one of its fields: reads a scalar, writes one, does both, names a vector register,
or (VPOP) names the queue that its own effect pops. -/
inductive Fld where
  | none
  | src (r : Nat)
  | dst (r : Nat)
  | both (r : Nat)
  | vec (r : Nat)
  | deque (r : Nat)
deriving DecidableEq, Repr

/-- The fields of an instruction in the order a, b, d, and whether only S may issue it. -/
structure Uses where
  sys : Bool
  a : Fld
  b : Fld
  d : Fld

def Uses.list (u : Uses) : List Fld := [u.a, u.b, u.d]

/-- The field names q7 (R77). -/
def Fld.q7 : Fld → Bool
  | .src r | .dst r | .both r | .deque r => r == 127
  | _ => false

/-- EVAL of a register outside its window (R39, R508). -/
def Fld.unbound (slim vlim : Nat) : Fld → Option Nat
  | .src r | .dst r | .both r => if r ≠ 0 && r < 120 && slim ≤ r then some r else Option.none
  | .vec r => if vlim ≤ r then some (0x100 + r) else Option.none
  | .deque _ | .none => Option.none

/-- EVAL of a queue register in its forbidden direction (R77, R486). -/
def Fld.wrongWay : Fld → Option Nat
  | .src r => if r = 121 then some r else Option.none
  | .dst r => if 120 ≤ r && r ≠ 121 then some r else Option.none
  | .both r => if 120 ≤ r then some r else Option.none
  | .deque r => if r = 121 || r = 122 then some r else Option.none
  | _ => Option.none

/-- The field names the register a late result goes to (R45, R505). x0 waits for no value, but takes the trap of one that has come
poisoned or refused (R414). -/
def Fld.awaits (l : Late) (f : Fld) : Bool :=
  match f with
  | .src r | .dst r | .both r => match l.dest with
    | .x q => q == r && (q != 0 || l.val.bad)
    | .q1 => r == 121
    | _ => false
  | .vec r => match l.dest with | .lane v _ _ => v == r | _ => false
  | .deque _ | .none => false

/-- Scalar and vector limits of the issuing slot. -/
def State.slim (s : State) : Nat := s.slimOf s.cur.pp s.cur.unit s.cur.slot
def State.vlim (s : State) : Nat := s.vlimOf s.cur.pp s.cur.unit s.cur.slot

/-- The checks of R104 that follow decoding: privilege, windows, queue directions. -/
def checkFields (s : State) (u : Uses) : Exec Unit := do
  must (!(s.me.priv == .u && (u.sys || u.list.any Fld.q7))) cPrivilege 0
  match u.list.findSome? (Fld.unbound s.slim s.vlim) with
  | some e => trapWith cRegBound e
  | none => .ok ()
  match u.list.findSome? Fld.wrongWay with
  | some e => trapWith cQueue e
  | none => .ok ()

/-- A field whose register has a result still to come makes the thread WAITING; a poisoned result traps (R45, R414). -/
def checkPending (s : State) (u : Uses) : Exec Unit := lateTrapOf (s.me.pending.find? fun l => u.list.any (Fld.awaits l))

/-- The field reads a register. -/
def Fld.reads (r : Nat) : Fld → Bool
  | .src q | .both q => q == r
  | _ => false

/-- The value of a field: a register, or a popped dword; zero for a field that is not read. A queue that cannot supply
every pop parks the thread; `before` are the fields read before this one (R79). -/
def readFld (f : Fld) (before : List Fld) (s : State) : Exec (Word × State) :=
  match f with
  | .src r | .both r =>
    if r < 120 then .ok (s.x r, s)
    else match s.pop (r - 120) with
      | some x => .ok x
      | none => .error (.park .qempty (.queue (r - 120) (1 + before.countP (Fld.reads r))) id)
  | _ => .ok (0, s)

/-- Pops n dwords of a queue. -/
def State.popN (s : State) (q : Nat) : Nat → Option (List Word × State)
  | 0 => some ([], s)
  | n + 1 => do
    let (w, s) ← s.pop q
    let (l, s) ← State.popN s q n
    some (w :: l, s)

/-! ## One instruction (R13, R365) -/

/-- The pc goes to an address. -/
def State.setPc (s : State) (pc : Word) : State := s.modMe fun t => { t with pc }

/-- Carries out an instruction of the issuing slot: a trap that a late push left, the checks of its fields, its
operands with their pops, then its own effect on the state whose pc is past it. A trap, a park or a wait leaves the
state before the instruction in every other respect (R13). -/
def runBody (u : Uses) (body : Word → Word → Word → State → Exec State) (s : State) : Exec State := do
  match s.me.lateTrap with
  | some (c, v) => if s.me.committed then .ok () else .error (.trap c v none)
  | none => .ok ()
  checkFields s u
  checkPending s u
  let (a, s1) ← readFld u.a [] s
  let (b, s1) ← readFld u.b [u.a] s1
  let (d, s1) ← readFld u.d [u.a, u.b] s1
  body a b d (s1.setPc s.nextPc)

/-- The instruction is past: what it asked of homes is forgotten. -/
def State.asked (s : State) (pp : Bool) (u t : Nat) : State := s.modThread pp u t fun h => { h with asks := [] }

/-- The next state of an instruction. -/
def runInstr (u : Uses) (body : Word → Word → Word → State → Exec State) (s : State) : State :=
  match runBody u body s with
  | .ok s' => if s.me.asks = [] then s' else s'.asked s.cur.pp s.cur.unit s.cur.slot
  | .error h => s.halt h

/-- Carries out an instruction, if the slot that issues it exists. -/
def issue (u : Uses) (body : Word → Word → Word → State → Exec State) (s : State) : Host.Outcome State Fault Refusal :=
  if s.cur.valid then .next (runInstr u body s) else .fault .noSuchAgent

/-- Fields of the common shapes. -/
def usesNone : Uses := ⟨false, .none, .none, .none⟩
def usesA (a : Nat) : Uses := ⟨false, .src a, .none, .none⟩
def usesD (d : Nat) : Uses := ⟨false, .none, .none, .dst d⟩
def usesDA (d a : Nat) : Uses := ⟨false, .src a, .none, .dst d⟩
def usesAB (a b : Nat) : Uses := ⟨false, .src a, .src b, .none⟩
def usesDAB (d a b : Nat) : Uses := ⟨false, .src a, .src b, .dst d⟩
/-- All three fields are read. -/
def usesRead (d a b : Nat) : Uses := ⟨false, .src a, .src b, .src d⟩
/-- d is read and written. -/
def usesRmw (d a b : Nat) : Uses := ⟨false, .src a, .src b, .both d⟩
/-- An instruction that only S may issue. -/
def Uses.sup (u : Uses) : Uses := { u with sys := true }

/-- The body of an instruction that only computes x[d] (R365). -/
def computes (d : Nat) (f : Word → Word → Word → Word) : Word → Word → Word → State → Exec State :=
  fun a b c s => putX d (f a b c) s

/-- Each event is carried out whole; one that is not enabled changes nothing (log entry 3). -/
def event (f : State → State) (s : State) : Host.Outcome State Fault Refusal := .next (f s)

/-- An event of a core, of a hem or of a protocol processor, if there is one of that number. -/
def coreEvent (core : Nat) (f : State → State) (s : State) : Host.Outcome State Fault Refusal :=
  if core < 1024 then .next (f s) else .fault .noSuchAgent
def hemEvent (hem : Nat) (f : State → State) (s : State) : Host.Outcome State Fault Refusal :=
  if hem < 64 then .next (f s) else .fault .noSuchAgent
def ppEvent (pp : Nat) (f : State → State) (s : State) : Host.Outcome State Fault Refusal :=
  if pp < 50 then .next (f s) else .fault .noSuchAgent

end Sys2Proof.Machine
end

