-- ==== Sys2Proof/Machine/Operands.lean ====
section
/-! DEFINITION. Operand forms and the integer computations on them: shifts and rotates, division, bit fields and bit
counts, immediates, skip conditions (R98, R102, R139 to R142, R366 to R495). -/

namespace Sys2Proof.Machine

/-- The low `n` bits of a dword, sign-extended (R12). -/
def sextN (n : Nat) (v : Word) : Word := wInt (Int.bmod (v.toNat % 2 ^ n : Nat) (2 ^ n))
/-- The low `n` bits of a dword, zero-extended. -/
def zextN (n : Nat) (v : Word) : Word := w64 (v.toNat % 2 ^ n)

/-- A shift count: the low six bits (R141). -/
def count6 (b : Word) : Nat := b.toNat % 64

def shl64 (a : Word) (n : Nat) : Word := a <<< n
def shr64 (a : Word) (n : Nat) : Word := a >>> n
def sra64 (a : Word) (n : Nat) : Word := a.sshiftRight n
def ror64 (a : Word) (n : Nat) : Word := a.rotateRight n

/-- Quotient and remainder of R140. -/
def divS (a b : Word) : Word := if b = 0 then BitVec.allOnes 64 else a.sdiv b
def divU (a b : Word) : Word := if b = 0 then BitVec.allOnes 64 else a / b
def remS (a b : Word) : Word := if b = 0 then a else a.srem b
def remU (a b : Word) : Word := if b = 0 then a else a % b

/-- Bits [127:64] of a product (R142). -/
def mulHi (a b : Word) : Word := wInt (a.toInt * b.toInt / 2 ^ 64)
def mulHiU (a b : Word) : Word := w64 (a.toNat * b.toNat / 2 ^ 64)

def minS (a b : Word) : Word := if a.slt b then a else b
def maxS (a b : Word) : Word := if a.slt b then b else a
def minU (a b : Word) : Word := if a < b then a else b
def maxU (a b : Word) : Word := if a < b then b else a

/-- Number of leading zero bits; 64 for zero (R381). -/
def clz64 (a : Word) : Word := w64 (((List.range 64).find? fun i => a.getLsbD (63 - i)).getD 64)
/-- Number of trailing zero bits; 64 for zero. -/
def ctz64 (a : Word) : Word := w64 (((List.range 64).find? fun i => a.getLsbD i).getD 64)
/-- Number of one bits. -/
def popc64 (a : Word) : Word := w64 ((List.range 64).countP fun i => a.getLsbD i)
/-- Bit k becomes bit 63 − k. -/
def brev64 (a : Word) : Word := a.reverse
/-- Byte k becomes byte 7 − k. -/
def bswap64 (a : Word) : Word := w64 (fromLE (bytesLE 8 a.toNat).reverse)

/-- Length of a bit field: 0 means 64 (R380). -/
def fieldLen (len : Nat) : Nat := if len = 0 then 64 else len
def extractU (a : Word) (pos len : Nat) : Word := w64 (a.toNat / 2 ^ pos % 2 ^ fieldLen len)
def extractS (a : Word) (pos len : Nat) : Word := sextN (fieldLen len) (extractU a pos len)
/-- `old` with bits [pos+len-1:pos] replaced by the low bits of `a`. -/
def insertBits (old a : Word) (pos len : Nat) : Word := setFld old (pos + fieldLen len - 1) pos a.toNat

/-- An operation on bits [31:0], sign-extended to 64 bits (R142, R369). -/
def wordOp (f : Nat → Nat → Nat) (a b : Word) : Word := sextN 32 (w64 (f (a.toNat % 2 ^ 32) (b.toNat % 2 ^ 32)))

/-- x[a] with bits [63:32] replaced by the immediate's low 32 bits (R418). -/
def highImm (old : Word) (imm : Int) : Word := w64 ((wInt imm).toNat % 2 ^ 32 * 2 ^ 32 + old.toNat % 2 ^ 32)

/-- Conditions of the integer skips (R115, R452). -/
inductive Cond where
  | eq | ne | lt | ge | ltu | geu | bs | bc
deriving DecidableEq, Repr

/-- Whether a condition holds; the bit index of SKBS and SKBC is the low six bits. -/
def Cond.holds : Cond → Word → Word → Bool
  | .eq, a, b => a == b
  | .ne, a, b => a != b
  | .lt, a, b => a.slt b
  | .ge, a, b => !a.slt b
  | .ltu, a, b => a < b
  | .geu, a, b => !(a < b)
  | .bs, a, b => a.getLsbD (count6 b)
  | .bc, a, b => !a.getLsbD (count6 b)

/-- The field of a skip's second operand (R101). -/
def skFld : SkSrc → Fld
  | .reg b => .src b
  | .imm _ => .none
/-- The value of a skip's second operand. -/
def skVal (b : SkSrc) (v : Word) : Word := match b with | .reg _ => v | .imm i => wInt i

/-- A true skip condition sets the annul count (R111). -/
def State.skip (s : State) (k : Nat) (c : Bool) : State := if c then s.modMe fun t => { t with annul := k } else s

/-- The address that a pc-relative offset names: halfwords from the base word (R102). -/
def State.pcRel (s : State) (off : Int) : Word := s.basePc + wInt (2 * off)

/-- A jump through a register (R108). -/
def jumpTo (t : Word) (s : State) : Exec State :=
  if t.getLsbD 0 then .error (.trap cMisaligned t none) else .ok (s.setPc t)

end Sys2Proof.Machine
end

