-- ==== Sys2Proof/Machine/Jobs.lean ====
section
/-! DEFINITION. Byte-count barriers, the end of a copy job, and JOBRES (R83, R245, R252 to R255). -/

namespace Sys2Proof.Machine

/-! ## Byte-count barriers (R83) -/

def bcbPend (b : Word) : Nat := fld b 62 0
def bcbOver (b : Word) : Bool := b.getLsbD 63
def bcbWord (ov : Bool) (pend : Nat) : Word := w64 ((if ov then 2 ^ 63 else 0) + pend % 2 ^ 63)

/-- A barrier of a thread. -/
def Regs.barrier (g : Regs) (i : Nat) : Word := g.bcb.at i 0
def Regs.setBarrier (g : Regs) (i : Nat) (v : Word) : Regs := { g with bcb := if v = 0 then g.bcb.del i else g.bcb.put i v }

/-- An engine's decrement: more than PEND sets OVER and leaves PEND 0. -/
def Regs.deliver (g : Regs) (i n : Nat) : Regs :=
  let b := g.barrier i
  if bcbPend b < n then g.setBarrier i (bcbWord true 0) else g.setBarrier i (bcbWord (bcbOver b) (bcbPend b - n))

/-- An addition to a barrier that would carry out of bit 62, which leaves it unchanged (R83). -/
def Regs.carries (g : Regs) (i n : Nat) : Bool := decide (2 ^ 63 ≤ bcbPend (g.barrier i) + n)

/-- Adds bytes to a barrier: BCARM's, or those that a cancelled job had delivered (R83, R320). -/
def Regs.addBarrier (g : Regs) (i n : Nat) : Regs :=
  let b := g.barrier i
  if g.carries i n then g else g.setBarrier i (bcbWord (bcbOver b) (bcbPend b + n))

/-! ## Jobs -/

def Hem.job (h : Hem) (e : Nat) : Option Job := h.jobs.look e
def Hem.setJob (h : Hem) (e : Nat) (j : Job) : Hem := { h with jobs := h.jobs.put e j }
/-- The id of the job in an entry (R245). -/
def Hem.jobId (h : Hem) (e : Nat) : Nat := e * 256 + h.jobSeq.at e 0

/-- Fields of CTL (R247). -/
def Job.ndim (j : Job) : Nat := fld j.ctl 3 0
def Job.esz (j : Job) : Nat := fld j.ctl 7 4
def Job.bcb (j : Job) : Nat := fld j.ctl 10 8
def Job.bcen (j : Job) : Bool := j.ctl.getLsbD 11
def Job.norec (j : Job) : Bool := j.ctl.getLsbD 12
def Job.zskip (j : Job) : Bool := j.ctl.getLsbD 13
def Job.z4 (j : Job) : Bool := j.ctl.getLsbD 14

/-- The job has ended (R253). -/
def JobState.ended : JobState → Bool
  | .failed | .complete | .cancelled => true
  | _ => false

/-- The q3 record of an ended job (R255). -/
def jobRecord (id kind cause : Nat) (tag : Word) : JobRec :=
  ⟨id, [w64 (kind + cause * 2 ^ 40 + id * 2 ^ 48), tag]⟩

/-- A job ends: its record goes to the thread's q3, or its entry is freed where it completes with NOREC (R245, R255). -/
def State.endJob (s : State) (hem e : Nat) (st : JobState) (cause : Nat) : State :=
  match (s.hem hem).job e with
  | none => s
  | some j =>
    if st == .complete && j.norec then s.modHem hem fun h => h.freeJob e
    else
      let id := (s.hem hem).jobId e
      let kind := match st with | .complete => 0x40 | .failed => 0x41 | _ => 0x42
      let s := s.modHem hem fun h => h.setJob e { j with state := st, cause, waiting := false }
      s.modCoreThread j.core j.slot fun t =>
        { t with queues := { t.queues with q3 := t.queues.q3 ++ [jobRecord id kind cause j.tag] } }

/-- JOBRES: retries or fails a paused job whose id is current (R252). -/
def State.jobres (s : State) (hem : Nat) (v : Word) : State :=
  let id := fld v 15 0
  let e := jobEntry id
  match (s.hem hem).job e with
  | some j =>
    if j.state == .paused && (s.hem hem).jobId e == id then
      if v.getLsbD 16 then s.endJob hem e .failed cPageInvalid
      else s.modHem hem fun h => h.setJob e { j with state := .running }
    else s
  | none => s

/-- Entries of a hem's jobs that a thread holds. -/
def Hem.heldBy (h : Hem) (core slot : Nat) : List (Nat × Job) := h.jobs.filter fun e => e.2.core == core && e.2.slot == slot

/-- JOBRES of the copy engine (R252). -/
def execJobres (hem : Nat) (val : Word) (s : State) : Host.Outcome State Fault Refusal := hemEvent hem (fun s => s.jobres hem val) s

end Sys2Proof.Machine
end

