-- ==== Sys2Proof/Machine/DevRegs.lean ====
section
/-! DEFINITION. The device-register window as cores read and write it, block by block (R212, R213, R230, R242, R329,
R332, R348, R350, R360, R363). -/

namespace Sys2Proof.Machine

/-- The codes of STOP and TRUST in PSTATE (R329). -/
def Stop.code : Stop → Nat
  | .empty => 0 | .run => 1 | .stopping => 2 | .quiesced => 3 | .saving => 4 | .saved => 5 | .restoring => 6 | .forming => 7
def Trust.code : Trust → Nat | .unlocked => 0 | .locked => 1 | .run => 2 | .error => 3

/-- PSTATE (R329). -/
def Partition.pstate (p : Partition) : Word :=
  w64 (p.trust.code + p.level * 2 ^ 4 + (if p.kiln.isSome then 2 ^ 7 else 0) + p.stop.code * 2 ^ 8 + p.id * 2 ^ 16)

/-- A dword of bytes kept by offset. -/
def byteWord (m : Map Byte) (off : Nat) : Word := w64 (fromLE ((List.range 8).map fun i => (m.at (off + i) 0).toNat))
/-- Bytes put at rising offsets. -/
def putBytes (m : Map Byte) (off : Nat) : List Byte → Map Byte
  | [] => m
  | b :: t => putBytes (m.put off b) (off + 1) t

/-! ## Reading -/

/-- Block 0x00: the core's registers; an offset that is not listed reads zero (R213). -/
def CoreRegs.read (g : CoreRegs) (off : Nat) : Word :=
  match off with
  | 0x000 => g.sprsv
  | 0x008 => g.spillb
  | 0x010 => g.ovfb
  | 0x018 => g.sweep
  | 0x020 => g.texit
  | 0x040 => g.q2cfg
  | 0x048 => g.stale
  | _ => 0

/-- Block 0x02: the residency registers (R230). -/
def PartRegs.readRes (g : PartRegs) (off : Nat) : Option Word :=
  if off = 0x080 then some g.occt
  else if off < 0x080 then some (if off / 8 % 2 = 0 then g.resb.at (off / 16) 0 else g.resl.at (off / 16) 0)
  else none

/-- Block 0x03: the partition control block (R329, R352). -/
def Partition.readCtl (p : Partition) (off : Nat) : Option Word :=
  let g := p.regs
  match off with
  | 0x000 => some p.pstate
  | 0x008 => some 0
  | 0x010 => some g.presult
  | 0x018 => some g.bindv
  | 0x020 => some g.pclass
  | 0x028 => some g.plink
  | 0x080 => some g.qlist
  | 0x088 => some g.qn
  | 0x090 => some g.quant
  | 0x098 => some (w64 g.aseq)
  | 0x0A0 => some g.kbind
  | _ =>
    if 0x040 ≤ off && off < 0x080 then
      some (g.pmem.at ((off - 0x040) / 8) (if off / 8 % 2 = 0 then w64 0xFFFFFFFFFF000 else 0))
    else if 0x0C0 ≤ off && off < 0x100 then
      some (g.hmem.at ((off - 0x0C0) / 8) (if off / 8 % 2 = 0 then w64 0xFFFFFFFFF000 else 0))
    else if 0x100 ≤ off && off < 0x180 then some (byteWord g.cone (off - 0x100))
    else if 0x180 ≤ off && off < 0x240 then some (byteWord g.report (off - 0x180))
    else if 0x240 ≤ off && off < 0x2C0 then some 0
    else none

/-- Block 0x04: weights and caps (R332). -/
def DevRegs.readQos (g : DevRegs) (off : Nat) : Option Word :=
  if off = 0 then some g.weights else if off ≤ 0x020 then some (g.caps.at (off / 8 - 1) 0) else none

/-- The effective occupancy target of a partition's class in every slice: the lesser of OCCT and CAP, where 0 is no limit (R332).
It decides only which line a slice gives up, which nothing here can see (R3, R231; log entry 16). -/
def DevRegs.occTarget (g : DevRegs) (r : PartRegs) (c : Nat) : Option Nat :=
  match (r.occt.toNat, (g.caps.at c 0).toNat) with
  | (0, 0) => none
  | (0, n) => some n
  | (n, 0) => some n
  | (n, m) => some (Nat.min n m)

/-- Block 0x05: pooled extents (R350). -/
def State.readExtent (s : State) (off : Nat) : Option Word :=
  if off < 0x200 then
    let e := s.extents.at (off / 16) ⟨0, 0⟩
    some (if off / 8 % 2 = 0 then e.first else e.last)
  else none

/-- Block 0x06: device status (R363). -/
def DevRegs.readStatus (g : DevRegs) (off : Nat) : Option Word :=
  if off = 0x000 then some (w64 g.drops)
  else if off = 0x008 then some g.retired
  else if off = 0x010 then some (w64 ((if g.replace then 1 else 0) + (if g.ovflog then 2 else 0)))
  else if off = 0x018 then some (w64 g.plog.length)
  else if off < 0x040 then some (g.temp.at ((off - 0x020) / 8) 0)
  else if off < 0x060 then some (g.throt.at ((off - 0x040) / 8) 0)
  else if 0x100 ≤ off && off < 0x200 then some (w64 (g.plog.getD ((off - 0x100) / 8) 0))
  else none

/-- Block 0x07: the boot interface (R360). -/
def DevRegs.readBoot (g : DevRegs) (off : Nat) : Option Word :=
  if off = 0x000 then some (w64 g.bootst)
  else if off = 0x008 then some g.imgaddr
  else if off = 0x010 then some 0
  else if off = 0x018 then some Config.serial
  else if 0x040 ≤ off && off < 0x060 then some (byteWord g.idkey (off - 0x040))
  else if 0x060 ≤ off && off < 0x0A0 then some (byteWord g.idsig (off - 0x060))
  else if 0x0A0 ≤ off && off < 0x0C0 then
    some (w64 (leNat (((edPublic (digest 32 Config.endSeed)).drop (off - 0x0A0)).take 8)))
  else none

/-- The register at an offset of window 0xFC, for a core; `none` where no chapter assigns the offset (R212). -/
def State.readReg (s : State) (core off : Nat) : Option Word :=
  let o := off % 2 ^ 16
  let p := s.partOfCore core
  match off / 2 ^ 16 with
  | 0 => some ((s.core core).regs.read o)
  | 1 => if o = 0x100 then some 0 else if o = 0x108 then some (s.hem (hemOf core)).hemsave else none
  | 2 => p.bind fun p => p.regs.readRes o
  | 3 => (s.ctlPart core).bind fun p => p.readCtl o
  | 4 => s.dev.readQos o
  | 5 => s.readExtent o
  | 6 => s.dev.readStatus o
  | 7 => s.dev.readBoot o
  | _ => none

/-! ## Writing -/

/-- A Q2CFG value that may be taken while q2 is empty: aligned to the ring's size, in the reserved area, outside the
stop spill ring and the class lists (R213, R242). -/
def q2cfgOk (reserved : Nat) (v : Word) : Bool :=
  let b := q2Base v
  let n := 8 * q2Size v
  b % n == 0 && reserved ≤ b && b + n ≤ 0x080000 && (b + n ≤ 0x060000 || 0x074800 ≤ b)

/-- A write to Q2CFG (R242). The ring's write position is its base afterwards: the model's choice (log entry 81). -/
def State.writeQ2cfg (s : State) (core : Nat) (v : Word) : State :=
  let v := v &&& w64 0xF7FFFF
  if (s.core core).q2 ≠ [] || !q2cfgOk (s.reservedFrom core) v then s
  else s.modCore core fun k => { k with q2next := 0, regs := { k.regs with q2cfg := v } }

def State.modCoreRegs (s : State) (core : Nat) (f : CoreRegs → CoreRegs) : State :=
  s.modCore core fun k => { k with regs := f k.regs }

/-- A write to block 0x00; RO and unlisted offsets ignore it (R213). -/
def State.writeCoreReg (s : State) (core off : Nat) (v : Word) : State :=
  match off with
  | 0x000 => s.modCoreRegs core fun g => { g with sprsv := v &&& 0xFF }
  | 0x008 => s.modCoreRegs core fun g => { g with spillb := v &&& w64 0xFFFFFFFFFFF01F }
  | 0x010 => s.modCoreRegs core fun g => { g with ovfb := v &&& w64 0xFFFFFFFFFFF01F }
  | 0x018 => s.modCoreRegs core fun g => { g with sweep := v &&& 0x1F }
  | 0x020 => s.modCoreRegs core fun g => { g with texit := v &&& ~~~(1 : Word) }
  | 0x040 => s.writeQ2cfg core v
  | _ => s

/-- A write to the residency registers (R230). -/
def PartRegs.writeRes (g : PartRegs) (off : Nat) (v : Word) : PartRegs :=
  if off = 0x080 then { g with occt := v &&& w64 0xFFFFFFFF }
  else if off / 8 % 2 = 0 then { g with resb := g.resb.put (off / 16) (v &&& w64 0xFFFFFFFFFF000) }
  else { g with resl := g.resl.put (off / 16) (v &&& w64 0xFFFFFFFFFF07F) }

/-- What a core's store to a register does: it is taken or ignored, PRIVILEGE, or WINDOW (R212, R329, R348). -/
inductive RegWrite where
  | done (s : State)
  | privilege
  | unassigned

/-- A field of block 0x03 that only the host writes (R329, R352). -/
def hostCtl (off : Nat) : Bool :=
  [0x008, 0x018, 0x020, 0x028, 0x080, 0x088, 0x090, 0x0A0].contains off || (0x040 ≤ off && off < 0x080) || (0x0C0 ≤ off && off < 0x100)

/-- A core's store to an offset of window 0xFC (R212, R329, R348). -/
def State.writeReg (s : State) (core off : Nat) (v : Word) : RegWrite :=
  let o := off % 2 ^ 16
  match off / 2 ^ 16 with
  | 0 => .done (s.writeCoreReg core o v)
  | 1 => if o = 0x100 then .done (s.jobres (hemOf core) v)
         else if o = 0x108 then .done (s.modHem (hemOf core) fun h => { h with hemsave := v &&& w64 0xFFFFFFFFF0000 })
         else .unassigned
  | 2 => match s.partOfCore core with
    | some p => if o ≤ 0x080 then .done (s.modPart p.id fun p => { p with regs := p.regs.writeRes o v }) else .unassigned
    | none => .unassigned
  | 3 => match s.ctlPart core with
    | some p => if hostCtl o then .privilege else if (p.readCtl o).isSome then .done s else .unassigned
    | none => .unassigned
  | 4 => if (s.dev.readQos o).isSome then .privilege else .unassigned
  | 5 => if (s.readExtent o).isSome then .privilege else .unassigned
  | 6 => if o = 0x010 then .privilege else if (s.dev.readStatus o).isSome then .done s else .unassigned
  | 7 => if (s.dev.readBoot o).isSome then .privilege else .unassigned
  | _ => .unassigned

/-- Q2CFG of a core (R242). -/
def execQ2cfg (core : Nat) (val : Word) (s : State) : Host.Outcome State Fault Refusal := coreEvent core (fun s => s.writeQ2cfg core val) s

end Sys2Proof.Machine
end

