-- ==== Sys2Proof/Machine/Flags.lean ====
section
/-! DEFINITION. FCSR: the rounding mode, FTZ and the sticky flags (R86, R146 to R149). -/

namespace Sys2Proof.Machine

/-- Flags at their places in FCSR (R86). -/
def fNX : Nat := 0x10
def fUF : Nat := 0x20
def fOF : Nat := 0x40
def fDZ : Nat := 0x80
def fNV : Nat := 0x100

/-- The fields of FCSR that SWR writes (R86). -/
def fcsrMask : Word := 0x1F7

/-- Rounding modes: 0 RNE, 1 RTZ, 2 RDN, 3 RUP (R86). -/
def State.rm (s : State) : Nat := fld s.me.regs.fcsr 1 0
def State.ftz (s : State) : Bool := s.me.regs.fcsr.getLsbD 2

/-- Sets flags: instructions only set them (R86, R147). -/
def State.raise (s : State) (flags : Nat) : State :=
  if flags = 0 then s else s.modRegs fun g => { g with fcsr := g.fcsr ||| w64 flags }

end Sys2Proof.Machine
end

