-- ==== Sys2Proof/Machine/Float.lean ====
section
/-! DEFINITION. Floating-point arithmetic on bit patterns: exact values, rounding with its flags, the operations, the
comparisons and the conversions (R144 to R151). -/

namespace Sys2Proof.Machine

/-- A format: exponent bits and fraction bits (R144). -/
structure Fmt where
  ebits : Nat
  fbits : Nat
deriving DecidableEq, Repr

def fmtH : Fmt := ⟨5, 10⟩
def fmtBF : Fmt := ⟨8, 7⟩
def fmtS : Fmt := ⟨8, 23⟩
def fmtD : Fmt := ⟨11, 52⟩
def fmtIF19 : Fmt := ⟨8, 10⟩

def Fmt.bias (f : Fmt) : Nat := 2 ^ (f.ebits - 1) - 1
def Fmt.width (f : Fmt) : Nat := 1 + f.ebits + f.fbits
/-- The exponent field of infinities and NaNs. -/
def Fmt.top (f : Fmt) : Nat := 2 ^ f.ebits - 1
/-- Exponent of the smallest normal magnitude, and of the largest finite one. -/
def Fmt.emin (f : Fmt) : Int := 1 - f.bias
def Fmt.emax (f : Fmt) : Int := f.bias
/-- The canonical quiet NaN (R144). -/
def Fmt.nan (f : Fmt) : Nat := f.top * 2 ^ f.fbits + 2 ^ (f.fbits - 1)
def Fmt.sign (f : Fmt) (neg : Bool) : Nat := if neg then 2 ^ (f.ebits + f.fbits) else 0
def Fmt.inf (f : Fmt) (neg : Bool) : Nat := f.sign neg + f.top * 2 ^ f.fbits
def Fmt.maxFinite (f : Fmt) (neg : Bool) : Nat := f.inf neg - 1

/-- The value of a bit pattern: a NaN, an infinity, or ± m × 2^e. -/
inductive FVal where
  | nan (signalling : Bool)
  | inf (neg : Bool)
  | fin (neg : Bool) (m : Nat) (e : Int)
deriving DecidableEq, Repr

/-- Reads a bit pattern; with `ftz` a subnormal counts as zero of its sign (R149). -/
def Fmt.unpack (f : Fmt) (ftz : Bool) (v : Nat) : FVal :=
  let neg := v.testBit (f.ebits + f.fbits)
  let x := v / 2 ^ f.fbits % 2 ^ f.ebits
  let m := v % 2 ^ f.fbits
  if x = f.top then (if m = 0 then .inf neg else .nan (!m.testBit (f.fbits - 1)))
  else if x = 0 then .fin neg (if ftz then 0 else m) (f.emin - f.fbits)
  else .fin neg (2 ^ f.fbits + m) (f.emin - f.fbits + (x - 1 : Nat))

/-- How a value is to be rounded: rounding mode, FTZ (R146, R149). -/
structure Env where
  rm : Nat
  ftz : Bool
deriving DecidableEq, Repr

/-- m × 2^e as a multiple of 2^q, rounded; and whether that was inexact. -/
def roundAt (rm : Nat) (neg : Bool) (m : Nat) (e q : Int) : Nat × Bool :=
  if q ≤ e then (m * 2 ^ (e - q).toNat, false)
  else
    let k := (q - e).toNat
    let lo := m / 2 ^ k
    let rest := m % 2 ^ k
    let half := 2 ^ (k - 1)
    let up := match rm with
      | 0 => half < rest || (rest == half && lo % 2 == 1)
      | 1 => false
      | 2 => neg && rest != 0
      | _ => !neg && rest != 0
    (if up then lo + 1 else lo, rest != 0)

/-- Number of bits of a number. -/
def bitLen (m : Nat) : Nat := if m = 0 then 0 else Nat.log2 m + 1

/-- Rounds ± m × 2^e to a format: the pattern and the flags (R146, R147, R149). -/
def Fmt.round (f : Fmt) (env : Env) (neg : Bool) (m : Nat) (e : Int) : Nat × Nat :=
  if m = 0 then (f.sign neg, 0)
  else
    let top : Int := e + bitLen m - 1
    if env.ftz && top < f.emin then (f.sign neg, fUF ||| fNX)
    else
      let q := top - f.fbits
      let free := roundAt env.rm neg m e q
      let freeTop := if free.1 = 2 ^ (f.fbits + 1) then top + 1 else top
      let q' := if q < f.emin - f.fbits then f.emin - f.fbits else q
      let (n, inexact) := roundAt env.rm neg m e q'
      let carry := n == 2 ^ (f.fbits + 1)
      let n' := if carry then n / 2 else n
      let q'' := if carry then q' + 1 else q'
      if 2 ^ f.fbits ≤ n' && q'' + f.fbits > f.emax then
        (match env.rm with
          | 0 => f.inf neg
          | 1 => f.maxFinite neg
          | 2 => if neg then f.inf true else f.maxFinite false
          | _ => if neg then f.maxFinite true else f.inf false, fOF ||| fNX)
      else
        let flags := (if inexact then fNX else 0) ||| (if inexact && freeTop < f.emin then fUF else 0)
        if n' < 2 ^ f.fbits then (f.sign neg + n', flags)
        else (f.sign neg + (q'' + f.fbits + f.bias).toNat * 2 ^ f.fbits + (n' - 2 ^ f.fbits), flags)

/-- A type of pages 5 and 9: 0 FP16, 1 BF16, 2 FP32, 3 FP64 (R472). -/
def typeFmt : Nat → Fmt | 0 => fmtH | 1 => fmtBF | 2 => fmtS | _ => fmtD

/-- Rounds to a type: BF16 goes through FP32, its last step to nearest (R145), or as `rm2` says (R146). -/
def roundType (t : Nat) (env : Env) (rm2 : Nat) (neg : Bool) (m : Nat) (e : Int) : Nat × Nat :=
  if t = 1 then
    let (v, f1) := fmtS.round env neg m e
    match fmtS.unpack false v with
    | .fin n m e => let (w, f2) := fmtBF.round { env with rm := rm2 } n m e; (w, f1 ||| f2)
    | .inf n => (fmtBF.inf n, f1)
    | .nan _ => (fmtBF.nan, f1)
  else (typeFmt t).round env neg m e

/-- A result of a type: rounded with the environment of FCSR. -/
def outFin (t : Nat) (env : Env) (neg : Bool) (m : Nat) (e : Int) : Nat × Nat := roundType t env 0 neg m e
def outNan (t flags : Nat) : Nat × Nat := ((typeFmt t).nan, flags)
def outInf (t : Nat) (neg : Bool) : Nat × Nat := ((typeFmt t).inf neg, 0)

/-- A signalling NaN among the operands sets NV (R148). -/
def FVal.snan : FVal → Bool | .nan s => s | _ => false
def FVal.isNan : FVal → Bool | .nan _ => true | _ => false
def nvOf (l : List FVal) : Nat := if l.any FVal.snan then fNV else 0
def FVal.neg : FVal → FVal
  | .fin n m e => .fin (!n) m e
  | .inf n => .inf (!n)
  | v => v

/-- The exact sum of two finite values: sign, magnitude, exponent; an exact zero of operands of opposite sign is +0,
but −0 under RDN (R146). -/
def sumFin (rm : Nat) (n1 : Bool) (m1 : Nat) (e1 : Int) (n2 : Bool) (m2 : Nat) (e2 : Int) : Bool × Nat × Int :=
  let e := if e1 < e2 then e1 else e2
  let i1 : Int := (if n1 then -1 else 1) * (m1 * 2 ^ (e1 - e).toNat : Nat)
  let i2 : Int := (if n2 then -1 else 1) * (m2 * 2 ^ (e2 - e).toNat : Nat)
  let t := i1 + i2
  if t = 0 then (if n1 == n2 then n1 else rm == 2, 0, e) else (decide (t < 0), t.natAbs, e)

/-- Addition of two values (R145 to R148). -/
def addVal (t : Nat) (env : Env) (x y : FVal) : Nat × Nat :=
  match x, y with
  | .nan _, _ | _, .nan _ => outNan t (nvOf [x, y])
  | .inf a, .inf b => if a == b then outInf t a else outNan t fNV
  | .inf a, _ => outInf t a
  | _, .inf b => outInf t b
  | .fin n1 m1 e1, .fin n2 m2 e2 => let (n, m, e) := sumFin env.rm n1 m1 e1 n2 m2 e2; outFin t env n m e

/-- Multiplication. -/
def mulVal (t : Nat) (env : Env) (x y : FVal) : Nat × Nat :=
  match x, y with
  | .nan _, _ | _, .nan _ => outNan t (nvOf [x, y])
  | .inf a, .inf b => outInf t (a != b)
  | .inf a, .fin n m _ | .fin n m _, .inf a => if m = 0 then outNan t fNV else outInf t (a != n)
  | .fin n1 m1 e1, .fin n2 m2 e2 => outFin t env (n1 != n2) (m1 * m2) (e1 + e2)

/-- x × y + z with one rounding; 0 × Inf sets NV whatever the addend (R145, R147). -/
def fmaVal (t : Nat) (env : Env) (x y z : FVal) : Nat × Nat :=
  let bad := match x, y with
    | .inf _, .fin _ m _ | .fin _ m _, .inf _ => m == 0
    | _, _ => false
  if bad then outNan t (fNV ||| nvOf [z])
  else if x.isNan || y.isNan || z.isNan then outNan t (nvOf [x, y, z])
  else match x, y, z with
    | .fin n1 m1 e1, .fin n2 m2 e2, .fin n3 m3 e3 =>
      let (n, m, e) := sumFin env.rm (n1 != n2) (m1 * m2) (e1 + e2) n3 m3 e3
      outFin t env n m e
    | .fin _ _ _, .fin _ _ _, .inf c => outInf t c
    | a, b, c =>
      let sg : FVal → Bool := fun v => match v with | .inf n => n | .fin n _ _ => n | .nan _ => false
      let p := sg a != sg b
      match c with
      | .inf c => if p == c then outInf t p else outNan t fNV
      | _ => outInf t p

/-- Division, correctly rounded. -/
def divVal (t : Nat) (env : Env) (x y : FVal) : Nat × Nat :=
  match x, y with
  | .nan _, _ | _, .nan _ => outNan t (nvOf [x, y])
  | .inf _, .inf _ => outNan t fNV
  | .inf a, .fin n _ _ => outInf t (a != n)
  | .fin n _ _, .inf a => outFin t env (n != a) 0 0
  | .fin n1 m1 e1, .fin n2 m2 e2 =>
    if m2 = 0 then
      if m1 = 0 then outNan t fNV else ((typeFmt t).inf (n1 != n2), fDZ)
    else
      let k := bitLen m2 + 64
      let q := m1 * 2 ^ k / m2
      let rest := if m1 * 2 ^ k % m2 = 0 then 0 else 1
      outFin t env (n1 != n2) (2 * q + rest) (e1 - e2 - k - 1)

/-- The integer square root, bit by bit from bit k down. -/
def isqrtFrom : Nat → Nat → Nat → Nat
  | 0, _, r => r
  | k + 1, m, r => let r' := r + 2 ^ k; isqrtFrom k m (if r' * r' ≤ m then r' else r)

/-- Square root, correctly rounded. -/
def sqrtVal (t : Nat) (env : Env) (x : FVal) : Nat × Nat :=
  match x with
  | .nan _ => outNan t (nvOf [x])
  | .inf n => if n then outNan t fNV else outInf t false
  | .fin n m e =>
    if m = 0 then ((typeFmt t).sign n, 0)
    else if n then outNan t fNV
    else
      let k := 130 + (e % 2).toNat
      let big := m * 2 ^ k
      let r := isqrtFrom (bitLen big / 2 + 1) big 0
      outFin t env false (2 * r + (if r * r = big then 0 else 1)) ((e - k) / 2 - 1)

/-- Order of two values that are no NaN: −1, 0 or 1; −0 equals +0. -/
def cmpVal (x y : FVal) : Int :=
  match x, y with
  | .inf a, .inf b => if a == b then 0 else if a then -1 else 1
  | .inf a, _ => if a then -1 else 1
  | _, .inf b => if b then 1 else -1
  | .fin n1 m1 e1, .fin n2 m2 e2 =>
    let (n, m, _) := sumFin 0 n1 m1 e1 (!n2) m2 e2
    if m = 0 then 0 else if n then -1 else 1
  | _, _ => 0

/-- The sign of a value that is no NaN. -/
def FVal.isNeg : FVal → Bool | .inf n => n | .fin n _ _ => n | .nan _ => false

/-- FMIN and FMAX on patterns: −0 is less than +0; one NaN gives the other operand (R150). -/
def minMaxVal (t : Nat) (ftz max : Bool) (a b : Nat) : Nat × Nat :=
  let f := typeFmt t
  let x := f.unpack ftz a
  let y := f.unpack ftz b
  let pat (v : FVal) (p : Nat) : Nat := match v with | .fin n 0 _ => f.sign n | _ => p
  let nv := nvOf [x, y]
  if x.isNan then (if y.isNan then f.nan else pat y b, nv)
  else if y.isNan then (pat x a, nv)
  else
    let c := cmpVal x y
    let less := c < 0 || (c == 0 && x.isNeg && !y.isNeg)
    (if less != max then pat x a else pat y b, nv)

/-- The conditions of the float comparisons (R150). -/
inductive FCond where
  | eq | ne | lt | le | un | ord | ltq | leq
deriving DecidableEq, Repr

/-- Whether a condition holds, and NV. -/
def FCond.holds (c : FCond) (x y : FVal) : Bool × Nat :=
  let un := x.isNan || y.isNan
  let k := cmpVal x y
  let quiet := nvOf [x, y]
  let loud := if un then fNV else 0
  match c with
  | .eq => (!un && k == 0, quiet)
  | .ne => (un || k != 0, quiet)
  | .lt => (!un && k < 0, loud)
  | .le => (!un && k ≤ 0, loud)
  | .un => (un, quiet)
  | .ord => (!un, quiet)
  | .ltq => (!un && k < 0, quiet)
  | .leq => (!un && k ≤ 0, quiet)

/-- Float to another float type (R151). -/
def convVal (t : Nat) (env : Env) (rm2 : Nat) (x : FVal) : Nat × Nat :=
  match x with
  | .nan _ => outNan t (nvOf [x])
  | .inf n => outInf t n
  | .fin n m e => roundType t env rm2 n m e

/-- An integer to a float type: rounded; zero is +0 (R151). -/
def intToFloat (t : Nat) (env : Env) (rm2 : Nat) (i : Int) : Nat × Nat := roundType t env rm2 (decide (i < 0)) i.natAbs 0

/-- A float to an integer between two bounds (R151). -/
def floatToInt (rm : Nat) (lo hi : Int) (x : FVal) : Int × Nat :=
  match x with
  | .nan _ => (0, fNV)
  | .inf n => (if n then lo else hi, fNV)
  | .fin n m e =>
    if 200 < e then (if n then lo else hi, fNV)
    else
      let (k, inexact) := roundAt rm n m e 0
      let v : Int := if n then -(k : Int) else k
      if v < lo then (lo, fNV) else if hi < v then (hi, fNV) else (v, if inexact then fNX else 0)

/-- x × 2^n (R146); n beyond any exponent's reach is cut. -/
def scaleVal (t : Nat) (env : Env) (n : Int) (x : FVal) : Nat × Nat :=
  let n := if n < -5000 then -5000 else if 5000 < n then 5000 else n
  match x with
  | .nan _ => outNan t (nvOf [x])
  | .inf a => outInf t a
  | .fin a m e => outFin t env a m (e + n)

/-- The addition of AMOF, of the REDUCE combine and of the canonical trees: to nearest even, subnormals kept, no flag
(R284, R373). -/
def addNearest (dbl : Bool) (a b : Nat) : Nat :=
  let t := if dbl then 3 else 2
  (addVal t ⟨0, false⟩ ((typeFmt t).unpack false a) ((typeFmt t).unpack false b)).1

end Sys2Proof.Machine
end

