-- ==== Sys2Proof/Machine/Memory.lean ====
section
/-! DEFINITION. Loads, stores, prefetches, fences and TAGQ, scalar and vector (R209 to R216, R265 to R268, R290 to
R299, R403, R412 to R415, R436 to R437, R458 to R464, R485). -/

namespace Sys2Proof.Machine

/-! ## Vector lanes (R472) -/

/-- Lane width in bits of a width code: 0 B, 1 H, 2 W, 3 D. -/
def laneBits (w : Nat) : Nat := 8 * 2 ^ w
/-- Lanes of a register at a width code. -/
def laneCount (w : Nat) : Nat := 128 / 2 ^ w
/-- Lane i of a register. -/
def laneOf (v : Vec) (w i : Nat) : Nat := v.toNat / 2 ^ (laneBits w * i) % 2 ^ laneBits w
/-- A register with lane i replaced. -/
def setLane (v : Vec) (w i x : Nat) : Vec :=
  BitVec.ofNat 1024 (v.toNat - laneOf v w i * 2 ^ (laneBits w * i) + x % 2 ^ laneBits w * 2 ^ (laneBits w * i))
/-- A register with several lanes replaced. -/
def setLanes (v : Vec) (w : Nat) (l : List (Nat × Nat)) : Vec := l.foldl (fun v x => setLane v w x.1 x.2) v
/-- Lanes that a mask makes active (R80). -/
def activeLanes (m : Mask) (w : Nat) : List Nat := (List.range (laneCount w)).filter fun i => m.getLsbD i
/-- The signed value of w bits. -/
def signedOf (bits n : Nat) : Int := Int.bmod (n % 2 ^ bits : Nat) (2 ^ bits)

/-! ## Requests that the home answers (R266) -/

/-- Width code of a size in bytes, as a request carries it. -/
def extend (size : Nat) (signed : Bool) (n : Nat) : Word := if signed then sextN (8 * size) (w64 n) else zextN (8 * size) (w64 n)

/-- Privilege S of the issuing thread. -/
def State.supBit (s : State) : Bool := s.me.priv == .s

/-- Sends an UNCACHED or WALK read; the value comes under its sequence. -/
def State.ucRead (s : State) (a : Acc) (e : El) (pa : Nat) (pte : Word) (id : Nat) (dest : LateDest) (signed : Bool) : State :=
  let (r, s) := s.newSeq 1
  let s := s.request tReadMiss pa
    [infoWord a 0 (e.size == 8) false true s.supBit, protWord (pteProt pte) (pteRegion pte), w64 e.size] none r
  s.expect ⟨id, r, dest, w64 e.va, e.size, signed, .waiting⟩

/-- Sends an UNCACHED or WALK write whose answer the instruction waits for (R223, R233); `mode` says whether it only asks
(log entry 23). -/
def State.ucWrite (kind mode : Nat) (a : Acc) (e : El) (pa : Nat) (pte : Word) (v : Nat) (s : State) : State :=
  s.ask kind e.lane (w64 e.va) tWriteMiss pa
    [infoWord a 0 (e.size == 8) false true s.supBit, protWord (pteProt pte) (pteRegion pte), w64 e.size, w64 v, w64 mode]

/-- Sends an UNCACHED or WALK read whose value the instruction needs to go on. -/
def State.ucAsk (kind key : Nat) (a : Acc) (e : El) (pa : Nat) (pte : Word) (s : State) : State :=
  s.ask kind key (w64 e.va) tReadMiss pa
    [infoWord a 0 (e.size == 8) false true s.supBit, protWord (pteProt pte) (pteRegion pte), w64 e.size]

/-! ## Loads -/

/-- Carries out a checked load: where every element is here and clean the values are written, otherwise the results
come later, all together; a poisoned element leaves only its mark (R45, R229, R233, R414). The record of R235 goes to the
issuing core, also for another core's scratchpad (DESIGN CHOICE, log entry 84). -/
def finishLoad (a : Acc) (dest : El → LateDest) (signed : Bool) (write : List (El × Nat) → State → Exec State)
    (ps : List (El × Place)) (s : State) : Exec State :=
  match ps.find? fun (e, p) => (s.poisonAt e p).isSome with
  | some (e, p) =>
    let (src, at_) := (s.poisonAt e p).getD (0, 0)
    let s := if s.cur.pp then s else s.record s.cur.unit (poisonRecord s.myPartId s.cur.slot src at_)
    .ok ({ s with seq := s.seq + 1 }.expect ⟨s.seq, 0, dest e, w64 e.va, e.size, signed, .poisoned (w64 e.va)⟩)
  | none =>
    if ps.any fun (_, p) => p.remoteHome then
      let id := s.seq
      .ok (ps.foldl (fun s (e, p) => match p with
        | .phys pa pte =>
          if uncachedProt pte then s.ucRead a e pa pte id (dest e) signed
          else s.expect ⟨id, 0, dest e, w64 e.va, e.size, signed, .ready (w64 (s.readPlace e.size p))⟩
        | _ => s.expect ⟨id, 0, dest e, w64 e.va, e.size, signed, .ready (w64 (s.readPlace e.size p))⟩) s)
    else write (ps.map fun (e, p) => (e, s.readPlace e.size p)) s

/-- An access through a leaf of space 4 is held to the rules of the device-register window (R212, R219). -/
def deviceForm (priv : Priv) (f : Form) (ps : List (El × Place)) : Exec Unit :=
  ps.forM fun (e, p) => match p with
    | .device _ => do let _ ← deviceCheck priv f e; .ok ()
    | _ => .ok ()

/-- The register a scalar load reads, if its place is one; WINDOW where no chapter assigns the offset (R212). -/
def deviceValue (s : State) : List (El × Place) → Exec (Option Word)
  | [(e, .device off)] => match s.readReg s.cur.unit off with
    | some v => .ok (some v)
    | none => trapWith cWindow e.va
  | _ => .ok none

/-- An acquire whose value is still to come holds the thread until it has come (R291). -/
def State.holdAcquire (s : State) (ord : OrdFld) : State :=
  if (ord.order == .acquire || ord.order == .acqRel) && s.me.pending ≠ [] then s.modMe fun t => t.waits .results else s

/-- An order has a release part. -/
def ordReleases (o : OrdFld) : Bool := o.order == .release || o.order == .acqRel

/-- A release order's gate: release actions at partition scope or wider (R268, R291). -/
def releaseGate (ord : OrdFld) (s : State) : Exec State := if ordReleases ord then gate (ord.scope != .core) s else .ok s

/-- A scalar load (R412). -/
def loadX (d : Nat) (va : Word) (size : Nat) (signed : Bool) (ord : OrdFld) (s : State) : Exec State := do
  reserveX d s
  let e : El := ⟨va.toNat, size, 0⟩
  let (s, ps) ← checkAccess s .load .scalar false [e]
  deviceForm s.me.priv .scalar ps
  match ← deviceValue s ps with
  | some v => lateX d v s
  | none => do
    tagAll s .load (infoWord .load 0 (size == 8) false false s.supBit) ps
    let s ← finishLoad .load (fun _ => lateDest d) signed
      (fun l s => lateX d (extend size signed ((l.map (·.2)).headD 0)) s) ps s
    .ok (s.holdAcquire ord)

/-- The elements of an access are doublewords (R270). -/
def dwords (els : List El) : Bool := match els with | e :: _ => e.size == 8 | [] => false

/-- The key of an element that is read to go on: its address and its size. -/
def readKey (e : El) : Nat := e.va * 64 + e.size

/-- The pieces, of at most eight bytes, in which a home is asked for an element, each with its place (R266). -/
def pieces (e : El) (pa : Nat) : List (El × Nat) :=
  (List.range ((e.size + 7) / 8)).map fun i => (⟨e.va + 8 * i, Nat.min 8 (e.size - 8 * i), e.lane⟩, pa + 8 * i)

/-- The answer to what the instruction asked. -/
def State.answered (s : State) (kind key : Nat) : Nat :=
  match s.askVal kind key with | some (.ready v) => v.toNat | _ => 0

/-- Checks and reads elements whose values the instruction needs to go on: a watched word, a descriptor, a table. A
poisoned one traps; for lines of UNCACHED and WALK pages the thread waits until their homes have answered (R266). -/
def readNow (a : Acc) (f : Form) (els : List El) (s : State) : Exec (List (Place × Nat) × State) := do
  let (s, ps) ← checkAccess s a f false els
  deviceForm s.me.priv f ps
  match ps.find? fun (e, p) => (s.poisonAt e p).isSome with
  | some (e, p) => .error (.trap cPoison (w64 e.va) (s.poisonAt e p))
  | none => do
    tagAll s a (infoWord a 0 (dwords els) false false s.supBit) ps
    let _ ← answers 1 (ps.flatMap fun (e, p) => match p with
      | .phys pa pte => if uncachedProt pte then
          (pieces e pa).map fun (d, pa) => (readKey d, w64 d.va, State.ucAsk 1 (readKey d) a d pa pte) else []
      | _ => []) s
    .ok (ps.map fun (e, p) => match p with
      | .phys pa pte => (p, if uncachedProt pte then
          (pieces e pa).foldr (fun (d, _) n => s.answered 1 (readKey d) % 2 ^ (8 * d.size) + 2 ^ 64 * n) 0 else s.readPlace e.size p)
      | _ => (p, s.readPlace e.size p), s)

/-- Consecutive dwords from an address, as the elements of one access. -/
def dwordEls (va : Word) (n : Nat) : List El := (List.range n).map fun i => ⟨(va + w64 (8 * i)).toNat, 8, i⟩

/-- The elements of a vector access with their addresses. -/
def elements (w : Nat) (m : Mask) (addr : Nat → Word) : List El :=
  (activeLanes m w).map fun i => ⟨(addr i).toNat, 2 ^ w, i⟩

/-- A vector load (R229, R485). -/
def loadV (d w : Nat) (f : Form) (els : List El) (ord : OrdFld) (s : State) : Exec State := do
  let (s, ps) ← checkAccess s .vload f false els
  deviceForm s.me.priv .vector ps
  tagAll s .vload (infoWord .vload 0 (dwords els) false false s.supBit) ps
  let s ← finishLoad .vload (fun e => .lane d w e.lane) false
    (fun l s => .ok (s.setV d (setLanes (s.v d) w (l.map fun (e, v) => (e.lane, v))))) ps s
  .ok (s.holdAcquire ord)

/-! ## Stores -/

/-- Writes a checked element that the core performs itself. -/
def State.storePlace (s : State) (e : El) (p : Place) (v : Nat) : State := if p.remoteHome then s else s.writePlace e.size v p

/-- What a store sends to homes: the writes, or the questions whether they would be refused (kind 4). -/
def storeAsks (kind mode : Nat) (a : Acc) (l : List ((El × Place) × (El × Nat))) : List (Nat × Word × (State → State)) :=
  l.filterMap fun ((e, p), (_, v)) => match p with
    | .phys pa pte => if uncachedProt pte then some (e.lane, w64 e.va, State.ucWrite kind mode a e pa pte v) else none
    | _ => none

/-- The elements of a store that the core performs itself are written. -/
def State.storeHere (s : State) (l : List ((El × Place) × (El × Nat))) : State :=
  l.foldl (fun s (x, y) => s.storePlace x.1 x.2 y.2) (s.unpoison (l.map (·.1)))

/-- A store whose every check has passed and whose release has acted: what the core performs is written, and what homes
perform is sent. A store that asked first says so: none of its lines refuses it any more (R13, R229). -/
def commitStore (a : Acc) (asked : Bool) (l : List ((El × Place) × (El × Nat))) (s : State) : Exec State :=
  match storeAsks 2 (if asked then 2 else 0) a l with
  | [] => .ok (s.storeHere l)
  | w => .error (.wait .asks fun t => w.foldl (fun t x => x.2.2 t) (t.storeHere l))

/-- A store of elements with their values; a release order's actions come first. UNCACHED and WALK lines are written at
their homes, and the thread waits until they have been: a WALK store until it is performed (R223, R229, R266, R458,
R485). Where a refusal must leave other bytes unwritten, or a release undone, the homes are first asked whether they would
refuse (R13, R301; log entry 88). -/
def storeAll (a : Acc) (f : Form) (vals : List (El × Nat)) (ord : OrdFld) (s : State) : Exec State :=
  match performed (.wait .asks id) s with
  | some r => do
    let _ ← r
    .ok s
  | none => do
    let (s, ps) ← checkAccess s a f true (vals.map (·.1))
    deviceForm s.me.priv f ps
    storePoison s ps
    let info := infoWord a 0 (dwords (vals.map (·.1))) false false s.supBit
    checkTags s a info ps
    let l := ps.zip vals
    let asks := decide (2 ≤ l.length) || ordReleases ord
    let _ ← answers 4 (if asks then storeAsks 4 1 a l else []) s
    let s ← releaseGate ord s
    match ps, vals with
    | [(e, .device off)], [(_, v)] => match s.writeReg s.cur.unit off (w64 v) with
      | .done s => .ok s
      | .privilege => trapWith cPrivilege e.va
      | .unassigned => trapWith cWindow e.va
    | _, _ => do
      tagAll s a info ps
      commitStore a asks l s

/-- A scalar store (R458). -/
def storeX (va v : Word) (size : Nat) (ord : OrdFld) (s : State) : Exec State :=
  storeAll .store .scalar [(⟨va.toNat, size, 0⟩, v.toNat % 2 ^ (8 * size))] ord s

/-- A vector store of v[d] (R485). -/
def storeV (d w : Nat) (f : Form) (els : List El) (ord : OrdFld) (s : State) : Exec State :=
  storeAll .vstore f (els.map fun e => (e, laneOf (s.v d) w e.lane)) ord s

/-! ## Address forms -/

/-- x[a] + imm × size (R412, R458). -/
def addrImm (a : Word) (imm : Int) (size : Nat) : Word := a + wInt (imm * size)
/-- x[a] + (x[b] << s). -/
def addrIdx (a b : Word) (sh : Nat) : Word := a + shl64 b sh

/-- The form of a scalar load with an immediate. -/
def loadImm (d a : Nat) (imm : Int) (size : Nat) (signed : Bool) (ord : OrdFld) (s : State) : Host.Outcome State Fault Refusal :=
  issue (usesDA d a) (fun x _ _ t => loadX d (addrImm x imm size) size signed ord t) s
/-- The form of a scalar load with an index. -/
def loadIdx (d a b sh size : Nat) (signed : Bool) (ord : OrdFld) (s : State) : Host.Outcome State Fault Refusal :=
  issue (usesDAB d a b) (fun x y _ t => loadX d (addrIdx x y sh) size signed ord t) s
/-- The form of a scalar store with an immediate. -/
def storeImm (d a : Nat) (imm : Int) (size : Nat) (ord : OrdFld) (s : State) : Host.Outcome State Fault Refusal :=
  issue ⟨false, .src a, .none, .src d⟩ (fun x _ v t => storeX (addrImm x imm size) v size ord t) s
/-- The form of a scalar store with an index. -/
def storeIdx (d a b sh size : Nat) (ord : OrdFld) (s : State) : Host.Outcome State Fault Refusal :=
  issue (usesRead d a b) (fun x y v t => storeX (addrIdx x y sh) v size ord t) s

/-! ## The scalar loads and stores -/

/-- LD, page 0 (R413). -/
def execLd (d a : Nat) (imm : Int) (ord : OrdFld) (s : State) : Host.Outcome State Fault Refusal := loadImm d a imm 8 false ord s
/-- LDB (R413). -/
def execLdb (d a : Nat) (imm : Int) (ord : OrdFld) (s : State) : Host.Outcome State Fault Refusal := loadImm d a imm 1 true ord s
/-- LDBU (R413). -/
def execLdbu (d a : Nat) (imm : Int) (ord : OrdFld) (s : State) : Host.Outcome State Fault Refusal := loadImm d a imm 1 false ord s
/-- LDH (R413). -/
def execLdh (d a : Nat) (imm : Int) (ord : OrdFld) (s : State) : Host.Outcome State Fault Refusal := loadImm d a imm 2 true ord s
/-- LDHU (R413). -/
def execLdhu (d a : Nat) (imm : Int) (ord : OrdFld) (s : State) : Host.Outcome State Fault Refusal := loadImm d a imm 2 false ord s
/-- LDW (R413). -/
def execLdw (d a : Nat) (imm : Int) (ord : OrdFld) (s : State) : Host.Outcome State Fault Refusal := loadImm d a imm 4 true ord s
/-- LDWU (R413). -/
def execLdwu (d a : Nat) (imm : Int) (ord : OrdFld) (s : State) : Host.Outcome State Fault Refusal := loadImm d a imm 4 false ord s
/-- LD, long form (R413). -/
def execLdLong (d a : Nat) (imm : Int) (ord : OrdFld) (s : State) : Host.Outcome State Fault Refusal := loadImm d a imm 8 false ord s
/-- ST, page 0 (R459). -/
def execSt (d a : Nat) (imm : Int) (ord : OrdFld) (s : State) : Host.Outcome State Fault Refusal := storeImm d a imm 8 ord s
/-- STB (R459). -/
def execStb (d a : Nat) (imm : Int) (ord : OrdFld) (s : State) : Host.Outcome State Fault Refusal := storeImm d a imm 1 ord s
/-- STH (R459). -/
def execSth (d a : Nat) (imm : Int) (ord : OrdFld) (s : State) : Host.Outcome State Fault Refusal := storeImm d a imm 2 ord s
/-- STW (R459). -/
def execStw (d a : Nat) (imm : Int) (ord : OrdFld) (s : State) : Host.Outcome State Fault Refusal := storeImm d a imm 4 ord s
/-- ST, long form (R459). -/
def execStLong (d a : Nat) (imm : Int) (ord : OrdFld) (s : State) : Host.Outcome State Fault Refusal := storeImm d a imm 8 ord s
/-- LDXB (R415). -/
def execLdxb (d a b sh : Nat) (ord : OrdFld) (s : State) : Host.Outcome State Fault Refusal := loadIdx d a b sh 1 true ord s
/-- LDXBU (R415). -/
def execLdxbu (d a b sh : Nat) (ord : OrdFld) (s : State) : Host.Outcome State Fault Refusal := loadIdx d a b sh 1 false ord s
/-- LDXH (R415). -/
def execLdxh (d a b sh : Nat) (ord : OrdFld) (s : State) : Host.Outcome State Fault Refusal := loadIdx d a b sh 2 true ord s
/-- LDXHU (R415). -/
def execLdxhu (d a b sh : Nat) (ord : OrdFld) (s : State) : Host.Outcome State Fault Refusal := loadIdx d a b sh 2 false ord s
/-- LDXW (R415). -/
def execLdxw (d a b sh : Nat) (ord : OrdFld) (s : State) : Host.Outcome State Fault Refusal := loadIdx d a b sh 4 true ord s
/-- LDXWU (R415). -/
def execLdxwu (d a b sh : Nat) (ord : OrdFld) (s : State) : Host.Outcome State Fault Refusal := loadIdx d a b sh 4 false ord s
/-- LDX (R415). -/
def execLdx (d a b sh : Nat) (ord : OrdFld) (s : State) : Host.Outcome State Fault Refusal := loadIdx d a b sh 8 false ord s
/-- STXB (R461). -/
def execStxb (d a b sh : Nat) (ord : OrdFld) (s : State) : Host.Outcome State Fault Refusal := storeIdx d a b sh 1 ord s
/-- STXH (R461). -/
def execStxh (d a b sh : Nat) (ord : OrdFld) (s : State) : Host.Outcome State Fault Refusal := storeIdx d a b sh 2 ord s
/-- STXW (R461). -/
def execStxw (d a b sh : Nat) (ord : OrdFld) (s : State) : Host.Outcome State Fault Refusal := storeIdx d a b sh 4 ord s
/-- STX (R461). -/
def execStx (d a b sh : Nat) (ord : OrdFld) (s : State) : Host.Outcome State Fault Refusal := storeIdx d a b sh 8 ord s

/-! ## The vector loads and stores (R485) -/

/-- Address of element i of VLD and VST. -/
def addrVec (a : Word) (imm : Int) (w i : Nat) : Word := a + wInt (128 * imm) + w64 (i * 2 ^ w)
/-- Address of element i of VLDS and VSTS. -/
def addrStride (a b : Word) (i : Nat) : Word := a + w64 i * b
/-- Address of element i of VGTH and VSCT. -/
def addrIndex (a : Word) (v : Vec) (w i : Nat) : Word := a + wInt (signedOf (laneBits w) (laneOf v w i))

/-- VLD. -/
def execVld (d a : Nat) (imm : Int) (w m : Nat) (ord : OrdFld) (s : State) : Host.Outcome State Fault Refusal :=
  issue ⟨false, .src a, .none, .vec d⟩ (fun x _ _ t => loadV d w .vector (elements w (t.mask m) (addrVec x imm w)) ord t) s
/-- VST. -/
def execVst (d a : Nat) (imm : Int) (w m : Nat) (ord : OrdFld) (s : State) : Host.Outcome State Fault Refusal :=
  issue ⟨false, .src a, .none, .vec d⟩ (fun x _ _ t => storeV d w .vector (elements w (t.mask m) (addrVec x imm w)) ord t) s
/-- VLDS. -/
def execVlds (d a b w m : Nat) (ord : OrdFld) (s : State) : Host.Outcome State Fault Refusal :=
  issue ⟨false, .src a, .src b, .vec d⟩ (fun x y _ t => loadV d w .vector (elements w (t.mask m) (addrStride x y)) ord t) s
/-- VSTS. -/
def execVsts (d a b w m : Nat) (ord : OrdFld) (s : State) : Host.Outcome State Fault Refusal :=
  issue ⟨false, .src a, .src b, .vec d⟩ (fun x y _ t => storeV d w .vector (elements w (t.mask m) (addrStride x y)) ord t) s
/-- VGTH. -/
def execVgth (d a b w m : Nat) (ord : OrdFld) (s : State) : Host.Outcome State Fault Refusal :=
  issue ⟨false, .src a, .vec b, .vec d⟩ (fun x _ _ t =>
    loadV d w .indexed (elements w (t.mask m) (addrIndex x (t.v b) w)) ord t) s
/-- VSCT. -/
def execVsct (d a b w m : Nat) (ord : OrdFld) (s : State) : Host.Outcome State Fault Refusal :=
  issue ⟨false, .src a, .vec b, .vec d⟩ (fun x _ _ t =>
    storeV d w .indexed (elements w (t.mask m) (addrIndex x (t.v b) w)) ord t) s

/-! ## PREF (R436, R437) -/

/-- The protocols of blocks that PREF acts on. -/
def prefEligible (prot : Nat) : Bool := (1 ≤ prot && prot ≤ 4) || (8 ≤ prot && prot ≤ 14)

/-- The block that PREF may act on, with its leaf: in the global window, past every check of R210 and R220, of an
eligible protocol, no partial, not BUSY, not at H. -/
def prefBlock (s : State) (va : Word) : Option (Nat × Word × State) :=
  if s.cur.pp || windowOf va.toNat != .global then none
  else match s.translate s.cur.unit s.me.priv .load va.toNat with
    | (.ok pa pte, s') =>
      let k := s'.myCore.block (blockOf pa)
      if pa / 2 ^ 48 ≤ 3 && prefEligible (pteProt pte) && !k.partialCopy && s'.myCore.tagAt (blockOf pa) != .busy &&
          !s'.myCore.asking (blockOf pa) then some (blockOf pa, pte, s') else none
    | _ => none

/-- Sends a prefetch request. -/
def State.prefetch (s : State) (type b : Nat) (pte : Word) (a : Acc) : State :=
  s.miss type b pte (infoWord a 0 false false false s.supBit) true

/-- PREFR and PREFK: in I, READ-MISS. -/
def prefRead (va : Word) (s : State) : State :=
  match prefBlock s va with
  | some (b, pte, s') => if (s'.myCore.block b).tag == .i then s'.prefetch tReadMiss b pte .load else s
  | none => s

/-- PREFW: in I, WRITE-MISS; in RO, UPGRADE. -/
def prefWrite (va : Word) (s : State) : State :=
  match prefBlock s va with
  | some (b, pte, s') => match (s'.myCore.block b).tag with
    | .i => s'.prefetch tWriteMiss b pte .store
    | .ro => s'.prefetch tUpgrade b pte .store
    | _ => s
  | none => s

/-- PREFREL: in RO, or in RW under INVALIDATE or MIGRATORY, EVICT and tag I. -/
def prefRelease (va : Word) (s : State) : State :=
  match prefBlock s va with
  | some (b, _, s') =>
    let k := s'.myCore.block b
    let rw := k.tag == .rw && (k.prot == pInvalidate || k.prot == pMigratory)
    if k.tag == .ro || rw then
      (s'.evict s'.cur.unit b k rw).setBlock s'.cur.unit b { k with tag := .i, dirty := 0 }
    else s
  | none => s

/-- PREFR (R436). -/
def execPrefr (a : Nat) (imm : Int) (s : State) : Host.Outcome State Fault Refusal :=
  issue (usesA a) (fun x _ _ t => .ok (prefRead (addrImm x imm 64) t)) s
/-- PREFW (R436). -/
def execPrefw (a : Nat) (imm : Int) (s : State) : Host.Outcome State Fault Refusal :=
  issue (usesA a) (fun x _ _ t => .ok (prefWrite (addrImm x imm 64) t)) s
/-- PREFK: as PREFR; its hint affects only timing (R216, R436). -/
def execPrefk (a : Nat) (imm : Int) (s : State) : Host.Outcome State Fault Refusal :=
  issue (usesA a) (fun x _ _ t => .ok (prefRead (addrImm x imm 64) t)) s
/-- PREFREL (R436). -/
def execPrefrel (a : Nat) (imm : Int) (s : State) : Host.Outcome State Fault Refusal :=
  issue (usesA a) (fun x _ _ t => .ok (prefRelease (addrImm x imm 64) t)) s

/-! ## FENCE (R299, R403) -/

/-- The order has an acquire part. -/
def ordAcquires (o : OrdFld) : Bool := o.order == .acquire || o.order == .acqRel

/-- The acquire part over engines: parks until every held job but a STREAM job has ended. -/
def enginesGate (s : State) : Exec Unit :=
  if (s.myHem.heldBy s.cur.unit s.cur.slot).any fun e => !e.2.state.ended && e.2.kind ≠ 5 then
    .error (.park .jobwait .jobsEnd id)
  else .ok ()

/-- The acquire part over rings: waits until the thread's ring instructions have taken effect at every station, and what they
caused is done (R192, R299). -/
def ringsGate (s : State) : Exec Unit :=
  if s.ringsOpen s.cur.unit s.cur.slot then .error (.wait .rings id) else .ok ()

/-- A FENCE over what its mod selects; at H it completes at issue. -/
def fenceOf (engines rings : Bool) (ord : OrdFld) (s : State) : Exec State := do
  if s.cur.pp then .ok s
  else
    let s ← gate (ordReleases ord && ord.scope != .core) s
    if engines && ordAcquires ord then enginesGate s
    if rings && ordAcquires ord then ringsGate s
    .ok s

/-- FENCE: all. -/
def execFence (ord : OrdFld) (s : State) : Host.Outcome State Fault Refusal := issue usesNone (fun _ _ _ t => fenceOf true true ord t) s
/-- FENCEM: memory. -/
def execFencem (ord : OrdFld) (s : State) : Host.Outcome State Fault Refusal := issue usesNone (fun _ _ _ t => fenceOf false false ord t) s
/-- FENCEE: engines. -/
def execFencee (ord : OrdFld) (s : State) : Host.Outcome State Fault Refusal := issue usesNone (fun _ _ _ t => fenceOf true false ord t) s
/-- FENCER: rings. -/
def execFencer (ord : OrdFld) (s : State) : Host.Outcome State Fault Refusal := issue usesNone (fun _ _ _ t => fenceOf false true ord t) s

/-! ## TAGQ (R463) -/

/-- What a walk or a cached entry says of an address. -/
def State.leafFor (s : State) (va : Nat) : Option (Nat × Word) :=
  match s.myPart with
  | none => none
  | some p =>
    let leaf : Option (Word × Nat) := match s.tlbLook s.cur.unit p.id va with
      | some e => some (e.pte, e.size)
      | none => match s.walk p s.myCore.regs.walkRoot va with
        | .leaf pte size _ => some (pte, size)
        | _ => none
    leaf.bind fun (pte, size) =>
      let pa := pteFrame pte * 4096 + va % size
      if s.physOk p pte pa == .good then some (pa, pte) else none

def Tag.code : Tag → Nat | .i => 0 | .ro => 1 | .rw => 2 | .busy => 3

/-- The status dword of a block, with the tag that an access would find. -/
def tagWord (t : Tag) (k : Block) (pte : Word) : Word :=
  w64 (t.code + (if k.partialCopy then 4 else 0) + (if k.dirty ≠ 0 then 8 else 0) + pteProt pte * 2 ^ 8 +
    (if ptePsn pte then 2 ^ 12 else 0))

/-- TAGQ (R463, R464). -/
def execTagq (d a : Nat) (s : State) : Host.Outcome State Fault Refusal :=
  issue (usesDA d a) (fun x _ _ t => do
    must (windowOf x.toNat == .global) cWindow x.toNat
    match t.leafFor x.toNat with
    | none => putX d (w64 0x8000) t
    | some (pa, pte) =>
      must (!(pteS pte && t.me.priv == .u)) cPageProt x.toNat
      putX d (tagWord (t.myCore.tagAt (blockOf pa)) (t.myCore.block (blockOf pa)) pte) t) s

end Sys2Proof.Machine
end

