-- ==== Sys2Proof/Machine/Fetch.lean ====
section
/-! DEFINITION. Fetching an instruction, consuming an annulled one, choosing the slot that issues, stopping a thread
(R41 to R44, R104, R112, R214, R228, R272, R316). -/

namespace Sys2Proof.Machine

/-! ## Fetch -/

/-- The halfword at a physical place that the core reads itself. -/
def halfOf (l : Line) (pa : Nat) : Nat := lineRead l (pa % 64) 2

/-- One halfword of the instruction stream; a fault names `fva` (R112, R214, R220, R228). Lines of UNCACHED and WALK
pages are read at their home, for which the thread waits (R266). A leaf of space 4 names registers, which no fetch reads: the
rules of the device-register window hold (R212, R219). A handler's pc is a physical address of space 0 (R273); a poisoned
line kills its slot (R233, R280). A fetch takes the halfword that holds the pc's byte: of an odd pc bit 0 is not looked at (DESIGN
CHOICE, log entry 100). -/
def fetchHalf (s : State) (pc fva : Word) : Exec (Nat × State) :=
  let va := pc.toNat / 2 * 2
  if s.cur.pp then
    if 2 ^ 48 ≤ va then .error (.trap cProtocol fva none)
    else if s.poisoned va then .error (.trap cPoison fva none)
    else .ok (s.mem.read va 2, s)
  else if windowOf va != .global then .error (.trap cWindow fva none)
  else match s.translate s.cur.unit s.me.priv .fetch va with
    | (.trap c pa, _) => .error (.trap c fva (if c = cPoison then some (0, pa) else none))
    | (.absent l pte, _) => .error (pageFault .fetch fva.toNat l pte)
    | (.held b, _) => .error (.wait (.line b) id)
    | (.ok pa pte, s) =>
      if pa / 2 ^ 48 = 4 then do
        let _ ← deviceCheck s.me.priv .vector ⟨va, 2, 0⟩
        .ok (0, s)
      else if uncachedProt pte then do
        let l ← answers 0 [(va, fva, State.ucAsk 0 va .fetch ⟨fva.toNat, 2, 0⟩ pa pte)] s
        .ok ((l.headD 0).toNat % 65536, s)
      else do
        let b := blockOf pa
        reduceCheck s.myCore .fetch 0 pte b fva.toNat
        match tagCheck s.myCore b .fetch with
        | .hit => .ok (halfOf (s.myCore.block b).data pa, s)
        | .send t => .error (.park .tagwait (.block b fva.toNat)
            (sendAll (infoWord .fetch 0 false false false (s.me.priv == .s)) [(b, pte, t)]))
        | .wait => .error (.park .tagwait (.block b fva.toNat) id)

/-- The halfwords from the pc up to and including the base word, or up to a fifth prefix (R104 step 1). -/
def fetchChain : Nat → State → Word → Exec (List Nat × State)
  | 0, s, _ => .ok ([], s)
  | n + 1, s, pc => do
    let (h, s) ← fetchHalf s pc pc
    if h / 4096 = 15 then
      let (l, s) ← fetchChain n s (pc + 2)
      .ok (h :: l, s)
    else .ok ([h], s)

/-- Length in halfwords of the run of prefixes at the pc with its base word (R112). -/
def fetchRun (first : Word) : Nat → State → Word → Exec (Nat × State)
  | 0, s, _ => .ok (0, s)
  | n + 1, s, pc => do
    let (h, s) ← fetchHalf s pc first
    if h / 4096 = 15 then
      let (l, s) ← fetchRun first n s (pc + 2)
      .ok (l + 1, s)
    else .ok (1, s)

/-! ## Stopping a thread (R316) -/

/-- The value of the instruction's destination comes after issue (R505). -/
def lateD : Instr → Option Nat
  | .ld d .. | .ldb d .. | .ldbu d .. | .ldh d .. | .ldhu d .. | .ldw d .. | .ldwu d .. | .ldLong d ..
  | .ldx d .. | .ldxb d .. | .ldxbu d .. | .ldxh d .. | .ldxhu d .. | .ldxw d .. | .ldxwu d ..
  | .amoadd d .. | .amoand d .. | .amoor d .. | .amoxor d .. | .amomin d .. | .amomax d .. | .amominu d ..
  | .amomaxu d .. | .amoswap d .. | .amof d .. | .waitm d .. | .cwait d .. | .div d .. | .divu d .. | .rem d ..
  | .remu d .. | .fdiv d .. | .fsqrt d .. | .mst d .. | .rinja d .. | .rinjb d .. | .rfetch d .. | .pmark d .. | .rstat d .. | .cqsc d ..
  | .tstart d .. => some d
  | _ => none

/-- The instruction always stops its thread before it issues (R316). -/
def stopsAlways : Instr → Bool
  | .ship .. | .forkh .. | .tdec .. | .rinja .. | .rinjb .. | .cpy .. => true
  | _ => false

/-- The next dword of q1 would be a header, or the last data dword of a partly pushed message. -/
def Queues.mayComplete (q : Queues) : Bool :=
  q.q1partial == 0 || q.q1partial == hdrLen (q.q1.getD (q.q1.length - q.q1partial) 0)

/-- Dwords of q1 that belong to messages sent. -/
def Queues.sentWords (q : Queues) : Nat := q.q1.length - q.q1partial

/-- A thread of a stopping core that would issue the instruction is stopped before it; `after` is the state the
instruction would leave. A late push waits, like any that names q1, until the thread's earlier ones are in (R316, R505). -/
def State.stopsBefore (s after : State) (i : Instr) : Bool :=
  s.stopping && !s.me.trapped &&
    (stopsAlways i || (lateD i == some 121 && s.me.q1reserved = 0 && s.me.queues.mayComplete) ||
      s.me.queues.sentWords < after.me.queues.sentWords)

/-! ## Issue positions (R41, R42, R272) -/

/-- A slot of a unit: the core's slot, or the handler slot at a position of a pipe. -/
def slotOf (pp : Bool) (pipe q : Nat) : Nat := if pp then q * 4 + pipe else q

/-- The slot may issue in this cycle (R41). -/
def issueCapable (t : Thread) (time : Nat) : Bool := (t.tstate == .ready || t.tstate == .trap) && t.readyAt ≤ time

/-- The position among sixteen that issues in a cycle (R42). -/
def pickPosition (thread : Nat → Thread) (time : Nat) : Option Nat :=
  let p := time % 16
  if issueCapable (thread p) time then some p
  else
    let able := (List.range 16).filter fun q =>
      q ≠ p && (q + 16 - p) % 16 ≥ 8 && issueCapable (thread q) time && !(thread q).noBorrow
    able.foldl (fun best q => match best with
      | some b => if (thread q).readyAt < (thread b).readyAt then some q else best
      | none => some q) none

/-- The unit whose issue positions a slot uses: units 0 to 1,023 are the cores, then the pipes of the protocol
processors. -/
def issueUnit (pp : Bool) (u t : Nat) : Nat := if pp then 1024 + 4 * u + t % 4 else u

/-- The slot that has the position of this cycle at a unit that has not issued in it; a retired hem issues nothing (R42,
R361). -/
def State.pick (s : State) (pp : Bool) (u pipe : Nat) : Option Nat :=
  if s.issued.contains (issueUnit pp u pipe) || (!pp && s.dev.retired.getLsbD (hemOf u)) then none
  else (pickPosition (fun q => s.thread pp u (slotOf pp pipe q)) s.time).map (slotOf pp pipe)

/-- The next slot that issues in this cycle: the cores in order, then the pipes of the protocol processors. -/
def State.nextIssue (s : State) : Option (Bool × Nat × Nat) :=
  match s.cores.findSome? fun (c, _) => (s.pick false c 0).map fun t => (false, c, t) with
  | some x => some x
  | none => s.pps.findSome? fun (n, _) => (List.range 4).findSome? fun j => (s.pick true n j).map fun t => (true, n, t)

/-- The slot is looked at for an issue. -/
def State.aim (s : State) (pp : Bool) (u t : Nat) : State := { s with cur := ⟨pp, u, t, (s.thread pp u t).pc, 1⟩ }

/-- The slot has issued: its last issue is now, and an issue in its own position ends YIELD's restraint unless the
instruction is a YIELD (R41, R494); a handler's instruction counts (R279). The position is used up (R42), but an annulled
instruction leaves it to another slot (R44). -/
def State.took (s : State) (pp : Bool) (u t : Nat) (annulled : Bool) : State :=
  let own := (if pp then t / 4 else t) = s.time % 16
  let s := s.modThread pp u t fun h => { h with readyAt := s.time + 8, noBorrow := if own then false else h.noBorrow }
  let s := if pp then s.modHandler u t fun h => { h with issued := h.issued + 1 } else s
  if annulled then s else { s with issued := issueUnit pp u t :: s.issued }

/-- The core consumes an annulled instruction (R111, R112). -/
def State.consume (s : State) : State :=
  match fetchRun s.cur.pc (2 ^ 56) s s.cur.pc with
  | .error h => s.halt h
  | .ok (n, s) => s.modMe fun t => { t with annul := t.annul - 1, pc := t.pc + w64 (2 * n), asks := [] }

end Sys2Proof.Machine
end

