-- ==== Sys2Proof/Machine/System.lean ====
section
/-! DEFINITION. Traps that software raises, return from a trap, and encodings that nothing assigns (R126, R307 to R309,
R383, R397, R468). -/

namespace Sys2Proof.Machine

/-- An instruction that fails a check of R104 steps 2 to 8: ILLEGAL with the EVAL of R105 (R126). -/
def execUnassignedEncoding (eval : Word) (s : State) : Host.Outcome State Fault Refusal :=
  issue usesNone (fun _ _ _ _ => .error (.trap cIllegal eval none)) s

/-- TRAP: SYSCALL with the immediate (R468). -/
def execTrap (imm : Nat) (s : State) : Host.Outcome State Fault Refusal :=
  issue usesNone (fun _ _ _ _ => trapWith cSyscall imm) s

/-- BRK: BREAK with the immediate (R383). -/
def execBrk (imm : Nat) (s : State) : Host.Outcome State Fault Refusal :=
  issue usesNone (fun _ _ _ _ => trapWith cBreak imm) s

/-- ERET: at H no slot is in TRAP; a WALK store has held the thread until it was performed (R223); the checks and the effect of R309 (R397). -/
def execEret (s : State) : Host.Outcome State Fault Refusal :=
  issue usesNone.sup (fun _ _ _ s => do
    must (!s.cur.pp) cIllegal 0
    must (fld s.me.regs.status 1 0 ≤ 1) cIllegal 0
    if s.me.regs.epc.getLsbD 0 then .error (.trap cMisaligned s.me.regs.epc none)
    else .ok (s.modMe fun t => t.leaveTrap s.cur.slot)) s

end Sys2Proof.Machine
end

