-- ==== Sys2Proof/Machine/Atomics.lean ====
section
/-! DEFINITION. AMO, CAS and AMOF, the watched reads WAITM and JOIN, and the barriers of a core and of a thread
(R83, R370 to R379, R409 to R410, R488 to R489). -/

namespace Sys2Proof.Machine

/-! ## The atomic step -/

/-- What an AMO function makes of the old value and the operand, at an access width of w bits (R372). -/
def amoNew (fn w old v : Nat) : Nat :=
  match fn with
  | 0 => (old + v) % 2 ^ w
  | 1 => old &&& v
  | 2 => old ||| v
  | 3 => old ^^^ v
  | 4 => if signedOf w v < signedOf w old then v else old
  | 5 => if signedOf w old < signedOf w v then v else old
  | 6 => if v < old then v else old
  | 7 => if old < v then v else old
  | _ => v

/-- An atomic operation: its code in a request's info, its operand, CAS's compare value, whether the old value is
sign-extended. -/
structure Atom where
  fn : Nat
  dbl : Bool
  amof : Bool
  operand : Word
  compare : Option Word
  signed : Bool

def Atom.size (a : Atom) : Nat := if a.dbl then 8 else 4
def Atom.form (a : Atom) : Form := if a.amof then .amof else .amo
def Atom.info (a : Atom) (uc sup : Bool) : Word := infoWord .atomic a.fn a.dbl a.amof uc sup

/-- The value after the step; `none` where CAS finds another value (R372 to R374). -/
def Atom.new (a : Atom) (old : Nat) : Option Nat :=
  let w := 8 * a.size
  let v := a.operand.toNat % 2 ^ w
  match a.compare with
  | some c => if old = c.toNat % 2 ^ w then some v else none
  | none => some (if a.amof then addNearest a.dbl old v else amoNew a.fn w old v)

/-- Performs the step at a place the core reaches itself. -/
def State.atomHere (s : State) (a : Atom) (p : Place) : State :=
  match a.new (s.readPlace a.size p) with
  | some v => s.writePlace a.size v p
  | none => s

/-- Sends FAR-AMO, whose answer the instruction waits for (R265, R266); `mode` says whether it only asks, and whether the
instruction has the far form (log entry 23). -/
def State.farAtom (kind mode : Nat) (a : Atom) (e : El) (pa : Nat) (pte : Word) (s : State) : State :=
  s.ask kind 0 (w64 e.va) tFarAmo pa
    [a.info (uncachedProt pte) s.supBit, a.operand, a.compare.getD 0, protWord (pteProt pte) (pteRegion pte), w64 mode]

/-- Sends FAR-AMO for a line that carries a tag: the block counts as BUSY (R265; log entry 74). -/
def State.farMarked (kind mode : Nat) (a : Atom) (e : El) (pa : Nat) (pte : Word) (s : State) : State :=
  let r := s.seq
  let s := s.farAtom kind mode a e pa pte
  s.modMyCore fun c => { c with far := c.far.put (blockOf pa) (((s.me.askOf kind 0).map (·.rseq)).getD r) }

/-- Sends it to be performed: the core's own bytes of a release-visible line go first, so that the thread's accesses to the
location stay in order (R265, R290; log entry 74). -/
def State.farTagged (mode : Nat) (a : Atom) (e : El) (pa : Nat) (pte : Word) (s : State) : State :=
  let b := blockOf pa
  let k := s.myCore.block b
  let own := k.tag == .rw && k.dirty ≠ 0 && (k.prot == pUpdate || (8 ≤ k.prot && s.regionClass s.cur.unit k.region == 1))
  (if own then s.flushBlock b k else s).farMarked 3 mode a e pa pte

/-- Performs an atomic at its home. With a release order the home is first asked whether it refuses, so that a refused one
orders nothing; a custom protocol's handler cannot be asked (R301; log entry 88). A tagged line's thread parks with TAGWAIT, an
UNCACHED or WALK line's waits, until the home has answered (R223, R265, R266). -/
def homeAtomic (a : Atom) (far : Bool) (ord : OrdFld) (e : El) (pa : Nat) (pte : Word) (s : State) : Exec State := do
  let form := if far then 4 else 0
  let asks := ordReleases ord && decide (pteProt pte < 8)
  let mode := if asks then form + 2 else form
  if uncachedProt pte then
    let _ ← answers 4 (if asks then [(0, w64 e.va, State.farAtom 4 (form + 1) a e pa pte)] else []) s
    let _ ← releaseGate ord s
    .error (.wait .asks (State.farAtom 2 mode a e pa pte))
  else if s.myCore.asking (blockOf pa) then .error (.park .tagwait (.block (blockOf pa) e.va) id)
  else
    let _ ← asTagwait (answers 4 (if asks then [(0, w64 e.va, State.farMarked 4 (form + 1) a e pa pte)] else []) s)
    let _ ← releaseGate ord s
    .error (.park .tagwait .asks (State.farTagged mode a e pa pte))

/-- How the thread of an atomic waits that a home performs. -/
def Thread.homeWait (t : Thread) : Halt :=
  if t.asks.any fun x => x.kind = 3 then .park .tagwait .asks id else .wait .asks id

/-- An atomic that the core performs at a place: its release comes once every check has passed, and in a REDUCE region it
synchronises with nothing (R283, R301; log entry 88). -/
def atomicHere (d : Nat) (a : Atom) (ord : OrdFld) (e : El) (p : Place) (s : State) : Exec State := do
  let ps := [(e, p)]
  let info := a.info false s.supBit
  checkTags s .atomic info ps
  let reduce := match p with | .phys _ pte => pteProt pte == pReduce | _ => false
  let s ← if reduce then (if ordReleases ord then gate false s else .ok s) else releaseGate ord s
  tagAll s .atomic info ps
  lateX d (extend a.size a.signed (s.readPlace a.size p)) (s.atomHere a p)

/-- AMO, CAS and AMOF: the checks of R370 in their order, then the step where the window and the form place it. A check
that fails comes before the release of the order (R301); one that a home has performed is not checked again (R13). -/
def atomic (d : Nat) (va : Word) (a : Atom) (far : Bool) (ord : OrdFld) (s : State) : Exec State := do
  reserveX d s
  match performed s.me.homeWait s with
  | some r => do
    let v ← r
    lateX d (extend a.size a.signed (v.toNat % 2 ^ (8 * a.size))) s
  | none => do
    let e : El := ⟨va.toNat, a.size, 0⟩
    let (s, ps) ← checkAccess s .atomic a.form true [e]
    deviceForm s.me.priv a.form ps
    storePoison s ps
    match ps with
    | [(e, .phys pa pte)] =>
      if uncachedProt pte || far then homeAtomic a far ord e pa pte s else atomicHere d a ord e (.phys pa pte) s
    | [(e, p)] => atomicHere d a ord e p s
    | _ => .ok s

/-- The form of an AMO (R372). -/
def amo (fn d a b : Nat) (dbl far : Bool) (ord : OrdFld) (s : State) : Host.Outcome State Fault Refusal :=
  issue (usesDAB d a b) (fun x y _ t => atomic d x ⟨fn, dbl, false, y, none, true⟩ far ord t) s

/-- AMOADD (R372). -/
def execAmoadd (d a b : Nat) (dbl far : Bool) (ord : OrdFld) (s : State) : Host.Outcome State Fault Refusal := amo 0 d a b dbl far ord s
/-- AMOAND (R372). -/
def execAmoand (d a b : Nat) (dbl far : Bool) (ord : OrdFld) (s : State) : Host.Outcome State Fault Refusal := amo 1 d a b dbl far ord s
/-- AMOOR (R372). -/
def execAmoor (d a b : Nat) (dbl far : Bool) (ord : OrdFld) (s : State) : Host.Outcome State Fault Refusal := amo 2 d a b dbl far ord s
/-- AMOXOR (R372). -/
def execAmoxor (d a b : Nat) (dbl far : Bool) (ord : OrdFld) (s : State) : Host.Outcome State Fault Refusal := amo 3 d a b dbl far ord s
/-- AMOMIN (R372). -/
def execAmomin (d a b : Nat) (dbl far : Bool) (ord : OrdFld) (s : State) : Host.Outcome State Fault Refusal := amo 4 d a b dbl far ord s
/-- AMOMAX (R372). -/
def execAmomax (d a b : Nat) (dbl far : Bool) (ord : OrdFld) (s : State) : Host.Outcome State Fault Refusal := amo 5 d a b dbl far ord s
/-- AMOMINU (R372). -/
def execAmominu (d a b : Nat) (dbl far : Bool) (ord : OrdFld) (s : State) : Host.Outcome State Fault Refusal := amo 6 d a b dbl far ord s
/-- AMOMAXU (R372). -/
def execAmomaxu (d a b : Nat) (dbl far : Bool) (ord : OrdFld) (s : State) : Host.Outcome State Fault Refusal := amo 7 d a b dbl far ord s
/-- AMOSWAP (R372). -/
def execAmoswap (d a b : Nat) (dbl far : Bool) (ord : OrdFld) (s : State) : Host.Outcome State Fault Refusal := amo 8 d a b dbl far ord s
/-- AMOF: one addition, to nearest (R373). -/
def execAmof (d a b : Nat) (dbl far : Bool) (ord : OrdFld) (s : State) : Host.Outcome State Fault Refusal :=
  issue (usesDAB d a b) (fun x y _ t => atomic d x ⟨0, dbl, true, y, none, false⟩ far ord t) s
/-- CAS: x[d] holds the expected value (R374); function code 9 stands for it in a request (log entry 23). -/
def execCas (d a b : Nat) (dbl : Bool) (ord : OrdFld) (s : State) : Host.Outcome State Fault Refusal :=
  issue (usesRmw d a b) (fun x y c t => atomic d x ⟨9, dbl, false, y, some c, true⟩ false ord t) s

/-! ## Watched reads (R409, R410, R488, R489) -/

/-- Checks a watched dword as an 8-byte load and reads it: its value, the place a re-read looks at, and whether only a
re-read every 1,024 cycles notices a change. -/
def watchRead (va : Word) (s : State) : Exec (Word × Nat × Bool × State) := do
  let (l, s) ← readNow .load .watch [⟨va.toNat, 8, 0⟩] s
  match l with
  | [(.phys pa pte, v)] => .ok (w64 v, pa, uncachedProt pte, s)
  | [(.slice pa, v)] => .ok (w64 v, pa, true, s)
  | [(.sram _ off, v)] | [(.handler off, v)] => .ok (w64 v, off, false, s)
  | _ => trapWith cWindow va.toNat

/-- WAITM (R488). -/
def execWaitm (d a b : Nat) (_ord : OrdFld) (s : State) : Host.Outcome State Fault Refusal :=
  issue (usesDAB d a b) (fun x y _ t => do
    reserveX d t
    let (v, pa, uc, t) ← watchRead x t
    if v = y then .error (.park .memwait (.differsAt x.toNat pa y uc t.time) id) else lateX d v t) s

/-- JOIN (R409). -/
def execJoin (a : Nat) (imm : Int) (s : State) : Host.Outcome State Fault Refusal :=
  issue (usesA a) (fun x _ _ t => do
    let p := addrImm x imm 8
    let (v, pa, uc, t) ← watchRead p t
    if v ≠ 0 then .error (.park .join (.zeroAt p.toNat pa uc t.time) id) else .ok t) s

/-- The dword a parked watcher looks at: `none` where the core no longer holds its block, so that the instruction must
read again (R410). -/
def State.watched (s : State) (pp : Bool) (u va pa : Nat) (uncached : Bool) : Option Word :=
  if windowOf va == .localW then some (if pp then (s.pp u).sram.word pa else (s.core u).sram.word pa)
  else if uncached then some (s.mem.word pa)
  else
    let k := (s.core u).block (blockOf pa)
    if k.tag == .ro || k.tag == .rw then some (w64 (lineRead k.data (pa % 64) 8)) else none

/-! ## Core barriers (R376, R377) -/

def Core.bar (k : Core) (i : Nat) : Word := k.barriers.at i 0
def State.setBar (s : State) (i : Nat) (v : Word) : State :=
  s.modMyCore fun k => { k with barriers := k.barriers.put i v }

/-- BAR: the reissue after a completion passes; the last arrival completes; another parks. -/
def arriveBar (i : Nat) (n : Word) (s : State) : Exec State := do
  let b := s.myCore.bar i
  let bit := 2 ^ s.cur.slot
  if (barDone b).testBit s.cur.slot then
    .ok (s.setBar i (barWord (barDone b - bit) (barWait b) (barTarget b) (barGen b)))
  else do
    must (1 ≤ n.toNat && n.toNat ≤ 16) cIllegal (n.toNat % 2 ^ 63)
    must (barTarget b == 0 || n.toNat == barTarget b) cIllegal n.toNat
    let s ← gate false s
    if ones16 (barWait b) + 1 = n.toNat then .ok (s.setBar i (barWord (barWait b) 0 0 (barGen b + 1)))
    else .error (.park .barrier (.barrier i)
      fun t => t.setBar i (barWord (barDone b) (barWait b ||| bit) n.toNat (barGen b)))

/-- BAR. -/
def execBar (i a : Nat) (s : State) : Host.Outcome State Fault Refusal :=
  issue (usesA a) (fun x _ _ t => arriveBar i x t) s

/-! ## Byte-count barriers (R83, R378, R379) -/

/-- BCARM. -/
def execBcarm (i a : Nat) (s : State) : Host.Outcome State Fault Refusal :=
  issue (usesA a) (fun x _ _ t => do
    must (!t.me.regs.carries i x.toNat) cEngine i
    .ok (t.modRegs fun g => g.addBarrier i x.toNat)) s

/-- The id of the thread's earliest failed job that counts at a barrier and whose record has not been consumed
(R257). -/
def State.failedAt (s : State) (core slot i : Nat) : Option Nat :=
  ((s.coreThread core slot).queues.q3.find? fun r =>
    match (s.hem (hemOf core)).job (jobEntry r.job) with
    | some j => j.state == .failed && j.bcen && j.bcb == i
    | none => false).map (·.job)

/-- BCWAIT. -/
def execBcwait (d i : Nat) (s : State) : Host.Outcome State Fault Refusal :=
  issue (usesD d) (fun _ _ _ t => do
    match t.failedAt t.cur.unit t.cur.slot i with
    | some id => trapWith cEngine id
    | none => do
      let b := t.me.regs.barrier i
      if bcbPend b ≠ 0 then .error (.park .bcount (.bytes i) id)
      else putX d b (t.modRegs fun g => g.setBarrier i (bcbWord false 0))) s

end Sys2Proof.Machine
end

