-- ==== Sys2Proof/Machine/Queue.lean ====
section
/-! DEFINITION. BTAG, QSTAT, VPOP, VPUSH, and the pushing and awaiting of copy jobs (R241, R244 to R256, R384, R388,
R390, R439, R486, R487). -/

namespace Sys2Proof.Machine

/-! ## Looking at queues -/

/-- The dword that the next pop of a queue would return. -/
def State.headOf (s : State) (q : Nat) : Option Word := (s.pop q).map (·.1)

/-- The value that BTAG takes the tag from: for q3 to q7 dword 0 of the head record, whose bits [19:16] read 0. -/
def btagTag (q : Nat) (h : Word) : Nat := if 3 ≤ q then 0 else fld h 19 16

/-- BTAG (R241, R384). -/
def execBtag (q : Nat) (off : Int) (s : State) : Host.Outcome State Fault Refusal :=
  issue usesNone (fun _ _ _ t => do
    must (q != 1) cQueue 121
    must (!(q == 7 && t.me.priv == .u)) cPrivilege 0
    match t.headOf q with
    | none => .error (.park .qempty (.queue q 1) id)
    | some h => .ok (t.setPc (s.pcRel off + w64 (8 * btagTag q h)))) s

/-- The count of QSTAT (R244, R439). -/
def State.qstat (s : State) (n : Nat) : Nat :=
  if s.cur.pp then (if n = 0 then s.me.queues.q0.length else 0)
  else match n with
    | 1 => 32 - (s.me.queues.q1.length + s.me.q1reserved)
    | 3 => s.me.queues.q3.length
    | 5 => s.myCore.q5.length
    | 6 => s.myCore.q6.length
    | 7 => s.myCore.q7.length
    | q => s.held q

/-- QSTAT. -/
def execQstat (d n : Nat) (s : State) : Host.Outcome State Fault Refusal :=
  issue ⟨false, if n = 7 then .deque 127 else .none, .none, .dst d⟩ (fun _ _ _ t => putX d (w64 (t.qstat n)) t) s

/-! ## Vectors and queues -/

/-- VPOP (R486). -/
def execVpop (d a : Nat) (s : State) : Host.Outcome State Fault Refusal :=
  issue ⟨false, .deque a, .none, .vec d⟩ (fun _ _ _ t =>
    match t.popN (a - 120) 16 with
    | some (l, t) => .ok (t.setV d (BitVec.ofNat 1024 (fromLE (l.flatMap fun w => bytesLE 8 w.toNat))))
    | none => .error (.park .qempty (.queue (a - 120) 16) id)) s

/-- The EVAL of the first header among dwords to push that fails its checks (R237). -/
def State.headersFault (s : State) : Queues → List Word → Option Nat
  | _, [] => none
  | q, v :: t =>
    match (if q.q1partial = 0 then s.headerFault v else none) with
    | some e => some e
    | none => State.headersFault s (q.push v) t

/-- Pushing dwords completes a message. -/
def Queues.sends : Queues → List Word → Bool
  | _, [] => false
  | q, v :: t => q.completes v || Queues.sends (q.push v) t

/-- VPUSH (R487). -/
def execVpush (d a : Nat) (s : State) : Host.Outcome State Fault Refusal :=
  issue ⟨false, .vec a, .none, .dst d⟩ (fun _ _ _ t => do
    let l := (List.range 16).map fun i => w64 (laneOf (t.v a) 3 i)
    if !t.q1Room 16 then .error (.park .qfull (.q1room 16) id)
    else do
      match t.headersFault t.me.queues l with
      | some e => trapWith cQueue e
      | none => .ok ()
      let t ← if t.me.queues.sends l then gate true t else .ok t
      .ok (l.foldl (fun t v => t.modQueues fun q => q.push (t.pushed v)) t)) s

/-! ## Copy jobs -/

/-- The dimension entries of a descriptor. -/
def dimsOf : List Word → List (Word × Word × Word)
  | c :: s :: d :: t => (c, s, d) :: dimsOf t
  | _ => []

/-- Bytes of a ZSKIP block (R249). -/
def Job.block (j : Job) : Nat := if j.z4 then 16 else 32

/-- The checks of R250 that follow NDIM: the EVAL of the first that fails. -/
def Job.fault (j : Job) (streams : Bool) : Option Nat :=
  let d0 := j.dims.headD (0, 0, 0)
  let total : Nat := j.dims.foldl (fun (n : Nat) d => n * d.1.toNat) (2 ^ j.esz)
  if 12 < j.esz || fld j.ctl 63 15 ≠ 0 then some 0x102
  else if j.dims.any fun d => d.1 == 0 then some 0x103
  else if 2 ^ 40 < total then some 0x104
  else if (j.kind = 0 && (j.ndim ≠ 1 || d0.2.1 ≠ 0 || d0.2.2 ≠ 0)) || (4 ≤ j.kind && 3 < j.esz) ||
      (j.kind = 4 && j.src ≠ 0) || (j.kind = 5 && j.dst ≠ 0) ||
      (j.zskip && (1 < j.kind || j.esz ≠ 0 || (j.kind = 1 && d0.2.1 ≠ 1) || d0.1.toNat % j.block ≠ 0)) then some 0x105
  else if j.kind = 5 && streams then some 0x106
  else none

/-- The lowest free entry of a hem's job queue: R245 does not say which (DESIGN CHOICE, log entry 97). -/
def Hem.freeEntry (h : Hem) : Option Nat := (List.range 256).find? fun e => (h.job e).isNone

/-- The thread may push another job. -/
def State.jobRoom (s : State) (core slot : Nat) : Bool :=
  let h := s.hem (hemOf core)
  (h.heldBy core slot).length < 16 && h.jobs.length < 256

/-- CPY (R246 to R250, R388). -/
def copyJob (d : Nat) (a b : Word) (k : Nat) (s : State) : Exec State := do
  let (h, s) ← readNow .vload .vector [⟨a.toNat, 32, 0⟩] s
  let raw := (h.map (·.2)).headD 0
  let wd (i : Nat) : Word := w64 (raw / 2 ^ (64 * i))
  let n := fld (wd 2) 3 0
  must (1 ≤ n && n ≤ 12) cEngine 0x101
  let (l, s) ← readNow .vload .vector (dwordEls (a + 32) (3 * n)) s
  let j : Job := { state := .queued, core := s.cur.unit, slot := s.cur.slot, priv := s.me.priv, kind := k, src := wd 0,
                   dst := wd 1, ctl := wd 2, aux := wd 3, dims := dimsOf (l.map fun x => w64 x.2), desc := a, tag := b,
                   pos := 0,
                   delivered := 0, cause := 0, order := s.myHem.jobOrder, index := none,
                   buf := [], wrote := 0, waiting := false, rseq := 0, asked := 0 }
  match j.fault ((s.myHem.heldBy s.cur.unit s.cur.slot).any fun e => e.2.kind == 5) with
  | some e => trapWith cEngine e
  | none => .ok ()
  let s ← gate true s
  match if s.jobRoom s.cur.unit s.cur.slot then s.myHem.freeEntry else none with
  | none => .error (.wait .jobRoom id)
  | some e =>
    putX d (w64 (s.myHem.jobId e)) (s.modMyHem fun h => { h.setJob e j with jobOrder := h.jobOrder + 1 })

/-- CPY. -/
def execCpy (d a b k : Nat) (s : State) : Host.Outcome State Fault Refusal :=
  issue (usesDAB d a b) (fun x y _ t => copyJob d x y k t) s

/-- KIND of the record of an ended job (R255). -/
def JobState.kind : JobState → Nat | .complete => 0x40 | .failed => 0x41 | _ => 0x42

/-- The thread holds the job of an id. -/
def State.jobOf (s : State) (core slot id : Nat) : Option Job :=
  let h := s.hem (hemOf core)
  match h.job (jobEntry id) with
  | some j => if h.jobId (jobEntry id) = id && j.core = core && j.slot = slot then some j else none
  | none => none

/-- CWAIT (R256, R390). -/
def awaitJob (d : Nat) (a : Word) (s : State) : Exec State := do
  reserveX d s
  let id := fld a 15 0
  match s.jobOf s.cur.unit s.cur.slot id with
  | none => lateX d 0x40 s
  | some j =>
    if !j.state.ended then .error (.park .jobwait (.jobEnd id) fun t => t)
    else
      let s := s.modQueues fun q => { q with q3 := q.q3.filter fun r => r.job ≠ id }
      lateX d ((jobRecord id j.state.kind j.cause j.tag).words.headD 0) (s.modMyHem fun h => h.freeJob (jobEntry id))

/-- CWAIT. -/
def execCwait (d a : Nat) (s : State) : Host.Outcome State Fault Refusal :=
  issue (usesDA d a) (fun x _ _ t => awaitJob d x t) s

end Sys2Proof.Machine
end

