-- ==== Sys2Proof/Machine/FloatOps.lean ====
section
/-! DEFINITION. The scalar floating-point instructions of page 9 (R398 to R402, R406). -/

namespace Sys2Proof.Machine

/-- The float type of page 9: FP32 or FP64. -/
def scalarType (dbl : Bool) : Nat := if dbl then 3 else 2

/-- The rounding environment of FCSR. -/
def State.env (s : State) : Env := ⟨s.rm, s.ftz⟩

/-- The value of a type in a register or lane: bits above it are ignored; FTZ flushes subnormal inputs (R149, R398). -/
def readF (t : Nat) (ftz : Bool) (x : Word) : FVal := (typeFmt t).unpack ftz (x.toNat % 2 ^ (typeFmt t).width)

/-- Writes a float result, zero-extended, and sets its flags. -/
def putF (d : Nat) (r : Nat × Nat) (s : State) : Exec State := putX d (w64 r.1) (s.raise r.2)

/-- Writes the result of FDIV and FSQRT, which arrives like an integer divide's: q1 takes it under R505 (R398). -/
def lateF (d : Nat) (r : Nat × Nat) (s : State) : Exec State := do
  reserveX d s
  lateX d (w64 r.1) (s.raise r.2)

/-- The body of an arithmetic form with two operands. -/
def float2 (d a b : Nat) (dbl : Bool) (f : Nat → Env → FVal → FVal → Nat × Nat) (s : State) : Host.Outcome State Fault Refusal :=
  issue (usesDAB d a b) (fun x y _ s =>
    let t := scalarType dbl
    putF d (f t s.env (readF t s.ftz x) (readF t s.ftz y)) s) s

/-- FADD (R399). -/
def execFadd (d a b : Nat) (dbl : Bool) (s : State) : Host.Outcome State Fault Refusal := float2 d a b dbl addVal s
/-- FSUB (R399). -/
def execFsub (d a b : Nat) (dbl : Bool) (s : State) : Host.Outcome State Fault Refusal :=
  float2 d a b dbl (fun t env x y => addVal t env x y.neg) s
/-- FMUL (R399). -/
def execFmul (d a b : Nat) (dbl : Bool) (s : State) : Host.Outcome State Fault Refusal := float2 d a b dbl mulVal s
/-- FDIV (R399). -/
def execFdiv (d a b : Nat) (dbl : Bool) (s : State) : Host.Outcome State Fault Refusal :=
  issue (usesDAB d a b) (fun x y _ s =>
    let t := scalarType dbl
    lateF d (divVal t s.env (readF t s.ftz x) (readF t s.ftz y)) s) s
/-- FMA: x[d] + x[a] × x[b], rounded once (R399). -/
def execFma (d a b : Nat) (dbl : Bool) (s : State) : Host.Outcome State Fault Refusal :=
  issue (usesRmw d a b) (fun x y z s =>
    let t := scalarType dbl
    putF d (fmaVal t s.env (readF t s.ftz x) (readF t s.ftz y) (readF t s.ftz z)) s) s
/-- FSQRT (R399). -/
def execFsqrt (d a : Nat) (dbl : Bool) (s : State) : Host.Outcome State Fault Refusal :=
  issue (usesDA d a) (fun x _ _ s => lateF d (sqrtVal (scalarType dbl) s.env (readF (scalarType dbl) s.ftz x)) s) s

/-- The body of FMIN and FMAX (R150). -/
def floatMinMax (max : Bool) (d a b : Nat) (dbl : Bool) (s : State) : Host.Outcome State Fault Refusal :=
  issue (usesDAB d a b) (fun x y _ s =>
    let t := scalarType dbl
    let n := 2 ^ (typeFmt t).width
    putF d (minMaxVal t s.ftz max (x.toNat % n) (y.toNat % n)) s) s
/-- FMIN (R399). -/
def execFmin (d a b : Nat) (dbl : Bool) (s : State) : Host.Outcome State Fault Refusal := floatMinMax false d a b dbl s
/-- FMAX (R399). -/
def execFmax (d a b : Nat) (dbl : Bool) (s : State) : Host.Outcome State Fault Refusal := floatMinMax true d a b dbl s

/-- The body of the float skips (R406). -/
def floatSkip (c : FCond) (k a b : Nat) (dbl : Bool) (s : State) : Host.Outcome State Fault Refusal :=
  issue (usesAB a b) (fun x y _ s =>
    let t := scalarType dbl
    let r := c.holds (readF t s.ftz x) (readF t s.ftz y)
    .ok ((s.raise r.2).skip k r.1)) s
/-- FSKEQ (R406). -/
def execFskeq (k a b : Nat) (dbl : Bool) (s : State) : Host.Outcome State Fault Refusal := floatSkip .eq k a b dbl s
/-- FSKLT (R406). -/
def execFsklt (k a b : Nat) (dbl : Bool) (s : State) : Host.Outcome State Fault Refusal := floatSkip .lt k a b dbl s
/-- FSKLE (R406). -/
def execFskle (k a b : Nat) (dbl : Bool) (s : State) : Host.Outcome State Fault Refusal := floatSkip .le k a b dbl s
/-- FSKUN (R406). -/
def execFskun (k a b : Nat) (dbl : Bool) (s : State) : Host.Outcome State Fault Refusal := floatSkip .un k a b dbl s
/-- FSKLTQ (R406). -/
def execFskltq (k a b : Nat) (dbl : Bool) (s : State) : Host.Outcome State Fault Refusal := floatSkip .ltq k a b dbl s
/-- FSKLEQ (R406). -/
def execFskleq (k a b : Nat) (dbl : Bool) (s : State) : Host.Outcome State Fault Refusal := floatSkip .leq k a b dbl s

/-- Bounds of the integer a conversion gives: signed or not, of a width. -/
def intBounds (signed : Bool) (w : Nat) : Int × Int :=
  if signed then (-(2 ^ (w - 1) : Nat), (2 ^ (w - 1) : Nat) - 1) else (0, (2 ^ w : Nat) - 1)

/-- The conversions of FCVT: a value of type t, or an integer or a narrow float, to x[d] (R401, R402). `rm` rounds, and
`rm2` the last step to BF16. -/
def fcvtVal (t f : Nat) (env : Env) (rm2 : Nat) (x : Word) : Nat × Nat :=
  let v := readF t env.ftz x
  let toInt (signed : Bool) (w : Nat) : Nat × Nat :=
    let b := intBounds signed w
    let r := floatToInt env.rm b.1 b.2 v
    ((wInt r.1).toNat, r.2)
  match f with
  | 0 => convVal (if t = 2 then 3 else 2) env rm2 v
  | 1 => toInt true 64
  | 2 => toInt false 64
  | 3 => toInt true 32
  | 4 => toInt false 32
  | 5 => intToFloat t env rm2 x.toInt
  | 6 => intToFloat t env rm2 x.toNat
  | 7 => intToFloat t env rm2 (sextN 32 x).toInt
  | 8 => intToFloat t env rm2 (zextN 32 x).toNat
  | 9 => convVal t env rm2 (readF 0 env.ftz x)
  | 10 => convVal t env rm2 (readF 1 env.ftz x)
  | 11 => convVal 0 env rm2 v
  | _ => convVal 1 env rm2 v

/-- FCVT (R401, R402). -/
def execFcvt (d a f : Nat) (dbl rtz : Bool) (s : State) : Host.Outcome State Fault Refusal :=
  issue (usesDA d a) (fun x _ _ s =>
    putF d (fcvtVal (scalarType dbl) f ⟨if rtz then 1 else s.rm, s.ftz⟩ (if rtz then 1 else 0) x) s) s

/-- The class bit of a pattern (R400). -/
def classOf (f : Fmt) (v : Nat) : Nat :=
  match f.unpack false v with
  | .nan sig => if sig then 9 else 8
  | .inf n => if n then 7 else 6
  | .fin n m _ =>
    if m = 0 then (if n then 1 else 0)
    else if m < 2 ^ f.fbits then (if n then 3 else 2)
    else if n then 5 else 4

/-- FCLASS (R400). -/
def execFclass (d a : Nat) (dbl : Bool) (s : State) : Host.Outcome State Fault Refusal :=
  issue (usesDA d a) (computes d fun x _ _ =>
    let f := typeFmt (scalarType dbl)
    w64 (2 ^ classOf f (x.toNat % 2 ^ f.width))) s

end Sys2Proof.Machine
end

