-- ==== Sys2Proof/Machine/Codes.lean ====
section
/-! DEFINITION. IF19 values, decode tables, encoding into a table, block scales (R152 to R159). -/

namespace Sys2Proof.Machine

/-- The word of a decode table for a code (R154). -/
def Core.entry (k : Core) (t c : Nat) : Nat := (k.dt.at (256 * t + c) 0).toNat % 2 ^ 19

/-- The value of a table's entry (R152). -/
def Core.entryVal (k : Core) (t c : Nat) : FVal := fmtIF19.unpack false (k.entry t c)

/-- An IF19 pattern as FP32 (R153). -/
def if19ToS (v : Nat) : Nat :=
  match fmtIF19.unpack false v with
  | .nan _ => fmtS.nan
  | _ => v / 2 ^ 18 * 2 ^ 31 + v / 2 ^ 10 % 256 * 2 ^ 23 + v % 2 ^ 10 * 2 ^ 13

/-- dec: a code's FP32 pattern (R156). -/
def Core.dec (k : Core) (t c : Nat) : Nat := if19ToS (k.entry t c)

/-- A finite value as a multiple of 2^−400. -/
def FVal.scaled : FVal → Int
  | .fin n m e => (if n then -1 else 1) * (m * 2 ^ (e + 400).toNat : Nat)
  | _ => 0
def FVal.isFin : FVal → Bool | .fin _ _ _ => true | _ => false

/-- The entries that codes of a width can name. -/
def Core.codes (k : Core) (t : Nat) (four : Bool) : List (Nat × FVal) :=
  (List.range (if four then 16 else 256)).map fun c => (c, k.entryVal t c)

/-- The candidates of an encoding: finite entries with their values (R157). -/
def Core.candidates (k : Core) (t : Nat) (four : Bool) : List (Nat × Int) :=
  (k.codes t four).filterMap fun e => if e.2.isFin then some (e.1, e.2.scaled) else none

/-- The nearer of two candidates to a value: then the smaller magnitude, then the smaller code. -/
def nearer (x : Int) (p q : Nat × Int) : Nat × Int :=
  let dp := (p.2 - x).natAbs
  let dq := (q.2 - x).natAbs
  if dq < dp || (dq == dp && q.2.natAbs < p.2.natAbs) then q else p

/-- The smallest code of the greatest, or of the least, candidate value. -/
def extreme (hi : Bool) (l : List (Nat × Int)) : Nat × Int :=
  l.foldl (fun best e => if (if hi then best.2 < e.2 else e.2 < best.2) then e else best) (l.headD (0, 0))

/-- enc, among given entries: the code and the flags (R157). -/
def encWith (codes : List (Nat × FVal)) (cands : List (Nat × Int)) (x : FVal) : Nat × Nat :=
  match x with
  | .nan _ => match codes.find? fun e => e.2.isNan with
    | some e => (e.1, 0)
    | none => (((codes.find? fun e => match e.2 with | .fin false 0 _ => true | _ => false).map (·.1)).getD 0, fNV)
  | .inf n => match codes.find? fun e => e.2 == .inf n with
    | some e => (e.1, 0)
    | none => ((extreme (!n) cands).1, fOF)
  | v =>
    let i := v.scaled
    let hi := extreme true cands
    let lo := extreme false cands
    if hi.2 < i then (hi.1, fOF)
    else if i < lo.2 then (lo.1, fOF)
    else ((cands.foldl (nearer i) (cands.headD (0, 0))).1, 0)

/-- enc into a table of a core. -/
def Core.enc (k : Core) (t : Nat) (four : Bool) (x : FVal) : Nat × Nat := encWith (k.codes t four) (k.candidates t four) x

/-- The largest finite magnitude of a table. -/
def Core.greatest (k : Core) (t : Nat) : Nat := (k.candidates t false).foldl (fun g e => Nat.max g e.2.natAbs) 0

/-- m × 2^−s is at most g. -/
def fitsScale (m g : Nat) (s : Int) : Bool := if 0 ≤ s then m ≤ g * 2 ^ s.toNat else m * 2 ^ (-s).toNat ≤ g

/-- bscale for a greatest magnitude g: the scale and OF (R159). -/
def bscaleWith (g : Nat) (block : List FVal) : Int × Nat :=
  if block.all fun v => match v with | .fin _ 0 _ => true | _ => false then (-128, 0)
  else
    let mx := block.foldl (fun m v => Nat.max m v.scaled.natAbs) 0
    if mx = 0 then (-127, 0)
    else if !fitsScale mx g 127 then (127, fOF)
    else (((List.range 255).find? fun i => fitsScale mx g (i - 127 : Int)).map fun i => (i - 127 : Int)).getD 127 |> (·, 0)

def Core.bscale (k : Core) (t : Nat) (block : List FVal) : Int × Nat := bscaleWith (k.greatest t) block

/-- A 4-bit use of a table needs a finite entry among 0 to 15 (R155). -/
def Core.fourOk (k : Core) (t : Nat) : Bool := k.candidates t true ≠ []

end Sys2Proof.Machine
end

