-- ==== Sys2Proof/Machine/Vector.lean ====
section
/-! DEFINITION. The integer lane operations, lane moves, and the mask instructions: pages 4 and 11 (R80, R143, R420,
R421, R427, R472 to R474, R483, R484). -/

namespace Sys2Proof.Machine

/-! ## Lane by lane (R472) -/

/-- Writes the active lanes of v[d] at a width. -/
def State.setActive (s : State) (d w m : Nat) (f : Nat → Nat) : State :=
  s.setV d (setLanes (s.v d) w ((activeLanes (s.mask m) w).map fun i => (i, f i)))

/-- Fields of a lane operation. -/
def usesVAB (d a b : Nat) : Uses := ⟨false, .vec a, .vec b, .vec d⟩
def usesVA (d a : Nat) : Uses := ⟨false, .vec a, .none, .vec d⟩

/-- The body of a lane operation with two operands: `f` is given the lane's bits. -/
def lane2 (d a b w m : Nat) (f : Nat → Nat → Nat → Nat) (s : State) : Host.Outcome State Fault Refusal :=
  issue (usesVAB d a b) (fun _ _ _ s =>
    let x := s.v a
    let y := s.v b
    .ok (s.setActive d w m fun i => f (laneBits w) (laneOf x w i) (laneOf y w i))) s

/-- Saturates a signed value to a width (R143). -/
def saturate (n : Nat) (x : Int) : Nat :=
  let hi : Int := (2 ^ (n - 1) : Nat) - 1
  let lo : Int := -(2 ^ (n - 1) : Nat)
  let y := if hi < x then hi else if x < lo then lo else x
  (y % (2 ^ n : Nat)).toNat

/-- VADD (R473). -/
def execVadd (d a b w m : Nat) (s : State) : Host.Outcome State Fault Refusal := lane2 d a b w m (fun _ x y => x + y) s
/-- VADD.SAT (R473). -/
def execVaddSat (d a b w m : Nat) (s : State) : Host.Outcome State Fault Refusal :=
  lane2 d a b w m (fun n x y => saturate n (signedOf n x + signedOf n y)) s
/-- VSUB (R473). -/
def execVsub (d a b w m : Nat) (s : State) : Host.Outcome State Fault Refusal := lane2 d a b w m (fun n x y => x + 2 ^ n - y) s
/-- VSUB.SAT (R473). -/
def execVsubSat (d a b w m : Nat) (s : State) : Host.Outcome State Fault Refusal :=
  lane2 d a b w m (fun n x y => saturate n (signedOf n x - signedOf n y)) s
/-- VMUL (R473). -/
def execVmul (d a b w m : Nat) (s : State) : Host.Outcome State Fault Refusal := lane2 d a b w m (fun _ x y => x * y) s
/-- VAND (R473). -/
def execVand (d a b w m : Nat) (s : State) : Host.Outcome State Fault Refusal := lane2 d a b w m (fun _ x y => x &&& y) s
/-- VOR (R473). -/
def execVor (d a b w m : Nat) (s : State) : Host.Outcome State Fault Refusal := lane2 d a b w m (fun _ x y => x ||| y) s
/-- VXOR (R473). -/
def execVxor (d a b w m : Nat) (s : State) : Host.Outcome State Fault Refusal := lane2 d a b w m (fun _ x y => x ^^^ y) s
/-- VSHL (R473). -/
def execVshl (d a b w m : Nat) (s : State) : Host.Outcome State Fault Refusal := lane2 d a b w m (fun n x y => x * 2 ^ (y % n)) s
/-- VSHR (R473). -/
def execVshr (d a b w m : Nat) (s : State) : Host.Outcome State Fault Refusal := lane2 d a b w m (fun n x y => x / 2 ^ (y % n)) s
/-- VSRA (R473). -/
def execVsra (d a b w m : Nat) (s : State) : Host.Outcome State Fault Refusal :=
  lane2 d a b w m (fun n x y => ((signedOf n x / (2 ^ (y % n) : Nat)) % (2 ^ n : Nat)).toNat) s
/-- VMIN (R473). -/
def execVmin (d a b w m : Nat) (s : State) : Host.Outcome State Fault Refusal :=
  lane2 d a b w m (fun n x y => if signedOf n y < signedOf n x then y else x) s
/-- VMINU (R473). -/
def execVminu (d a b w m : Nat) (s : State) : Host.Outcome State Fault Refusal := lane2 d a b w m (fun _ x y => Nat.min x y) s
/-- VMAX (R473). -/
def execVmax (d a b w m : Nat) (s : State) : Host.Outcome State Fault Refusal :=
  lane2 d a b w m (fun n x y => if signedOf n x < signedOf n y then y else x) s
/-- VMAXU (R473). -/
def execVmaxu (d a b w m : Nat) (s : State) : Host.Outcome State Fault Refusal := lane2 d a b w m (fun _ x y => Nat.max x y) s

/-! ## Comparison into a mask (R474) -/

/-- A mask whose bit i is set where the predicate holds of lane i, zero above the lane count. -/
def maskOf (n : Nat) (p : Nat → Bool) : Mask :=
  BitVec.ofNat 128 ((List.range n).foldl (fun m i => if p i then m + 2 ^ i else m) 0)

/-- The condition of VCMP on two lanes of n bits. -/
def laneCond (c n x y : Nat) : Bool :=
  match c with
  | 0 => x == y
  | 1 => x != y
  | 2 => signedOf n x < signedOf n y
  | 3 => signedOf n y ≤ signedOf n x
  | 4 => x < y
  | _ => y ≤ x

/-- VCMP (R474). -/
def execVcmp (d a b c w : Nat) (s : State) : Host.Outcome State Fault Refusal :=
  issue ⟨false, .vec a, .vec b, .none⟩ (fun _ _ _ s =>
    .ok (s.setMask d (maskOf (laneCount w) fun i => laneCond c (laneBits w) (laneOf (s.v a) w i) (laneOf (s.v b) w i)))) s

/-! ## Lane moves (R483, R484) -/

/-- VSEL: every lane is written. -/
def execVsel (d a b w m : Nat) (s : State) : Host.Outcome State Fault Refusal :=
  issue (usesVAB d a b) (fun _ _ _ s =>
    .ok (s.setActive d w 0 fun i => laneOf (if (s.mask m).getLsbD i then s.v a else s.v b) w i)) s
/-- VPERM. -/
def execVperm (d a b w m : Nat) (s : State) : Host.Outcome State Fault Refusal :=
  issue (usesVAB d a b) (fun _ _ _ s =>
    .ok (s.setActive d w m fun i => laneOf (s.v a) w (laneOf (s.v b) w i % laneCount w))) s
/-- VBCAST. -/
def execVbcast (d a w m : Nat) (s : State) : Host.Outcome State Fault Refusal :=
  issue ⟨false, .src a, .none, .vec d⟩ (fun x _ _ s => .ok (s.setActive d w m fun _ => x.toNat)) s
/-- VIDX. -/
def execVidx (d w m : Nat) (s : State) : Host.Outcome State Fault Refusal :=
  issue ⟨false, .none, .none, .vec d⟩ (fun _ _ _ s => .ok (s.setActive d w m fun i => i)) s
/-- VMOV. -/
def execVmov (d a w m : Nat) (s : State) : Host.Outcome State Fault Refusal :=
  issue (usesVA d a) (fun _ _ _ s => .ok (s.setActive d w m fun i => laneOf (s.v a) w i)) s
/-- VEXT. -/
def execVext (d a b w : Nat) (s : State) : Host.Outcome State Fault Refusal :=
  issue ⟨false, .vec a, .src b, .dst d⟩ (fun _ y _ s => putX d (w64 (laneOf (s.v a) w (y.toNat % laneCount w))) s) s
/-- VINS. -/
def execVins (d a b w : Nat) (s : State) : Host.Outcome State Fault Refusal :=
  issue ⟨false, .src a, .src b, .vec d⟩ (fun x y _ s =>
    .ok (s.setV d (setLane (s.v d) w (y.toNat % laneCount w) x.toNat))) s

/-! ## Masks (R420, R421, R427) -/

/-- The body of a mask operation. -/
def maskOp (d : Nat) (f : State → Mask) (s : State) : Host.Outcome State Fault Refusal :=
  issue usesNone (fun _ _ _ s => .ok (s.setMask d (f s))) s

/-- MAND. -/
def execMand (d a b : Nat) (s : State) : Host.Outcome State Fault Refusal := maskOp d (fun s => s.mask a &&& s.mask b) s
/-- MOR. -/
def execMor (d a b : Nat) (s : State) : Host.Outcome State Fault Refusal := maskOp d (fun s => s.mask a ||| s.mask b) s
/-- MXOR. -/
def execMxor (d a b : Nat) (s : State) : Host.Outcome State Fault Refusal := maskOp d (fun s => s.mask a ^^^ s.mask b) s
/-- MNOT. -/
def execMnot (d a : Nat) (s : State) : Host.Outcome State Fault Refusal := maskOp d (fun s => ~~~(s.mask a)) s
/-- MPOP: all 128 bits. -/
def execMpop (d a : Nat) (s : State) : Host.Outcome State Fault Refusal :=
  issue (usesD d) (fun _ _ _ s => putX d (w64 ((List.range 128).countP fun i => (s.mask a).getLsbD i)) s) s
/-- MFROMX: one half of the mask. -/
def execMfromx (d a : Nat) (hi : Bool) (s : State) : Host.Outcome State Fault Refusal :=
  issue (usesA a) (fun x _ _ s =>
    let old := s.mask d
    .ok (s.setMask d (if hi then BitVec.ofNat 128 (old.toNat % 2 ^ 64 + x.toNat * 2 ^ 64)
      else BitVec.ofNat 128 (old.toNat / 2 ^ 64 * 2 ^ 64 + x.toNat)))) s
/-- MTOX: one half of the mask. -/
def execMtox (d a : Nat) (hi : Bool) (s : State) : Host.Outcome State Fault Refusal :=
  issue (usesD d) (fun _ _ _ s => putX d (w64 ((s.mask a).toNat / (if hi then 2 ^ 64 else 1))) s) s

end Sys2Proof.Machine
end

