-- ==== Sys2Proof/Machine/VectorFloat.lean ====
section
/-! DEFINITION. The float lane operations, conversions, table codes, scales and reductions: page 5 (R145 to R151, R156
to R159, R165, R475 to R482). -/

namespace Sys2Proof.Machine

/-- Width code of a float type: H and BF 16 bits, S 32, D 64 (R472). -/
def typeWidth (t : Nat) : Nat := if t ≤ 1 then 1 else t

/-- Lane i as a float. -/
def laneF (t : Nat) (ftz : Bool) (v : Vec) (i : Nat) : FVal := (typeFmt t).unpack ftz (laneOf v (typeWidth t) i)

/-- The OR of flags. -/
def orFlags (l : List Nat) : Nat := l.foldl (· ||| ·) 0

/-- Writes lanes with their results, and sets the OR of their flags (R147). -/
def State.setFloats (s : State) (d w : Nat) (l : List (Nat × Nat × Nat)) : State :=
  (s.setV d (setLanes (s.v d) w (l.map fun x => (x.1, x.2.1)))).raise (orFlags (l.map (·.2.2)))

/-- The body of a float lane operation. -/
def floatLanes (u : Uses) (d t m : Nat) (f : State → Nat → Nat × Nat) (s : State) : Host.Outcome State Fault Refusal :=
  issue u (fun _ _ _ s =>
    .ok (s.setFloats d (typeWidth t) ((activeLanes (s.mask m) (typeWidth t)).map fun i => (i, f s i)))) s

/-- The form with two operands. -/
def floatLane2 (d a b t m : Nat) (f : Nat → Env → FVal → FVal → Nat × Nat) (s : State) : Host.Outcome State Fault Refusal :=
  floatLanes (usesVAB d a b) d t m (fun s i => f t s.env (laneF t s.ftz (s.v a) i) (laneF t s.ftz (s.v b) i)) s

/-- VFADD (R480). -/
def execVfadd (d a b t m : Nat) (s : State) : Host.Outcome State Fault Refusal := floatLane2 d a b t m addVal s
/-- VFSUB (R480). -/
def execVfsub (d a b t m : Nat) (s : State) : Host.Outcome State Fault Refusal :=
  floatLane2 d a b t m (fun t env x y => addVal t env x y.neg) s
/-- VFMUL (R480). -/
def execVfmul (d a b t m : Nat) (s : State) : Host.Outcome State Fault Refusal := floatLane2 d a b t m mulVal s
/-- VFDIV (R480). -/
def execVfdiv (d a b t m : Nat) (s : State) : Host.Outcome State Fault Refusal := floatLane2 d a b t m divVal s
/-- VFMA (R480). -/
def execVfma (d a b t m : Nat) (s : State) : Host.Outcome State Fault Refusal :=
  floatLanes (usesVAB d a b) d t m (fun s i =>
    fmaVal t s.env (laneF t s.ftz (s.v a) i) (laneF t s.ftz (s.v b) i) (laneF t s.ftz (s.v d) i)) s
/-- VFSQRT (R480). -/
def execVfsqrt (d a t m : Nat) (s : State) : Host.Outcome State Fault Refusal :=
  floatLanes (usesVA d a) d t m (fun s i => sqrtVal t s.env (laneF t s.ftz (s.v a) i)) s

/-- The form of VFMIN and VFMAX. -/
def floatLaneMinMax (max : Bool) (d a b t m : Nat) (s : State) : Host.Outcome State Fault Refusal :=
  floatLanes (usesVAB d a b) d t m (fun s i =>
    minMaxVal t s.ftz max (laneOf (s.v a) (typeWidth t) i) (laneOf (s.v b) (typeWidth t) i)) s
/-- VFMIN (R480). -/
def execVfmin (d a b t m : Nat) (s : State) : Host.Outcome State Fault Refusal := floatLaneMinMax false d a b t m s
/-- VFMAX (R480). -/
def execVfmax (d a b t m : Nat) (s : State) : Host.Outcome State Fault Refusal := floatLaneMinMax true d a b t m s

/-- The condition of VFCMP (R481). -/
def vfCond : Nat → FCond
  | 0 => .eq | 1 => .ne | 2 => .lt | 3 => .le | 4 => .un | _ => .ord

/-- VFCMP (R481). -/
def execVfcmp (d a b c t : Nat) (s : State) : Host.Outcome State Fault Refusal :=
  issue ⟨false, .vec a, .vec b, .none⟩ (fun _ _ _ s =>
    let n := laneCount (typeWidth t)
    let r (i : Nat) : Bool × Nat := (vfCond c).holds (laneF t s.ftz (s.v a) i) (laneF t s.ftz (s.v b) i)
    .ok ((s.setMask d (maskOf n fun i => (r i).1)).raise (orFlags ((List.range n).map fun i => (r i).2)))) s

/-! ## VCVT (R478, R479) -/

/-- Width codes of the source and of the destination. -/
def vcvtWidths (f t : Nat) : Nat × Nat :=
  let int (k : Nat) : Nat := if k < 2 then 2 else 3
  if f < 4 then (typeWidth t, typeWidth f) else if f < 8 then (typeWidth t, int (f - 4)) else (int (f - 8), typeWidth t)

/-- The conversion of one lane. -/
def vcvtVal (f t : Nat) (env : Env) (x : Nat) : Nat × Nat :=
  let v := (typeFmt t).unpack env.ftz x
  if f < 4 then convVal f env 0 v
  else if f < 8 then
    let w := if f < 6 then 32 else 64
    let b := intBounds (f % 2 = 0) w
    let r := floatToInt env.rm b.1 b.2 v
    ((r.1 % (2 ^ w : Nat)).toNat, r.2)
  else
    let w := if f < 10 then 32 else 64
    intToFloat t env 0 (if f % 2 = 0 then signedOf w x else x)

/-- VCVT: a narrowing one writes its upper lanes zero. -/
def execVcvt (d a f t m : Nat) (s : State) : Host.Outcome State Fault Refusal :=
  issue (usesVA d a) (fun _ _ _ s =>
    let (ws, wd) := vcvtWidths f t
    let e := laneCount (Nat.max ws wd)
    let old := s.v d
    let src := s.v a
    let low := ((List.range e).filter fun i => (s.mask m).getLsbD i).map fun i => (i, vcvtVal f t s.env (laneOf src ws i))
    let high := if wd < ws then ((List.range (laneCount wd - e)).map fun i => (e + i, 0)) else []
    .ok ((s.setV d (setLanes old wd (low.map (fun x => (x.1, x.2.1)) ++ high))).raise (orFlags (low.map (·.2.2))))) s

/-! ## Table codes (R475) -/

/-- Bits of a code. -/
def codeBits (four : Bool) : Nat := if four then 4 else 8
/-- Code j of a register. -/
def codeOf (v : Vec) (four : Bool) (j : Nat) : Nat := v.toNat / 2 ^ (codeBits four * j) % 2 ^ codeBits four
/-- A register with code j replaced. -/
def setCode (v : Vec) (four : Bool) (j c : Nat) : Vec :=
  let n := codeBits four
  BitVec.ofNat 1024 (v.toNat - codeOf v four j * 2 ^ (n * j) + c % 2 ^ n * 2 ^ (n * j))

/-- The use of a table by a vector instruction: it waits while a DTLD of another slot holds the table back (R394), then a 4-bit
use meets the check of R155. -/
def tableCheck (s : State) (tab : Nat) (four : Bool) : Exec Unit := do
  tablesFree [tab] s
  must (!four || s.myCore.fourOk tab) cFormat 16

/-- VDEC (R475). -/
def execVdec (d a tab : Nat) (four : Bool) (q : Nat) (s : State) : Host.Outcome State Fault Refusal :=
  issue (usesVA d a) (fun _ _ _ s => do
    tableCheck s tab four
    .ok (s.setActive d 2 0 fun l => s.myCore.dec tab (codeOf (s.v a) four (32 * q + l)))) s

/-- VENC (R475). -/
def execVenc (d a tab : Nat) (four : Bool) (q : Nat) (s : State) : Host.Outcome State Fault Refusal :=
  issue (usesVA d a) (fun _ _ _ s => do
    tableCheck s tab four
    let codes := s.myCore.codes tab four
    let cands := s.myCore.candidates tab four
    let r := (List.range 32).map fun l => (l, encWith codes cands (fmtS.unpack false (laneOf (s.v a) 2 l)))
    .ok ((s.setV d (r.foldl (fun v x => setCode v four (32 * q + x.1) x.2.1) (s.v d))).raise (orFlags (r.map (·.2.2))))) s

/-- VBSC (R476). -/
def execVbsc (d a tab t m : Nat) (s : State) : Host.Outcome State Fault Refusal :=
  issue ⟨false, .vec a, .none, .dst d⟩ (fun _ _ _ s => do
    tableCheck s tab false
    let n := laneCount (typeWidth t)
    let active := activeLanes (s.mask m) (typeWidth t)
    let r := (List.range (n / 32)).map fun k =>
      s.myCore.bscale tab ((active.filter fun i => i / 32 = k).map fun i => laneF t false (s.v a) i)
    putX d (w64 (fromLE (r.map fun x => (x.1 % 256).toNat))) (s.raise (orFlags (r.map (·.2))))) s

/-- VFSCL (R477). -/
def execVfscl (d a b t m : Nat) (s : State) : Host.Outcome State Fault Refusal :=
  issue ⟨false, .vec a, .src b, .vec d⟩ (fun _ y _ s =>
    .ok (s.setFloats d (typeWidth t) ((activeLanes (s.mask m) (typeWidth t)).map fun i =>
      (i, scaleVal t s.env y.toInt (laneF t s.ftz (s.v a) i))))) s

/-! ## Reductions (R165, R482) -/

/-- One level of the pairwise tree, with the flags so far. -/
def pairUp (op : Nat → Nat → Nat × Nat) : List Nat → List Nat × Nat
  | x :: y :: t => let r := op x y; let (l, f) := pairUp op t; (r.1 :: l, r.2 ||| f)
  | l => (l, 0)

/-- The tree, level by level. -/
def tree (op : Nat → Nat → Nat × Nat) : Nat → List Nat → Nat × Nat
  | 0, l => (l.headD 0, 0)
  | n + 1, l => let (l', f) := pairUp op l; let (r, g) := tree op n l'; (r, f ||| g)

/-- The operation of a tree's node: 0 add, 1 min, 2 max. -/
def redOp (i t : Nat) (env : Env) (x y : Nat) : Nat × Nat :=
  if i = 0 then addVal t env ((typeFmt t).unpack env.ftz x) ((typeFmt t).unpack env.ftz y) else minMaxVal t env.ftz (i == 2) x y

/-- The identity of an operation. -/
def redIdentity (i t : Nat) : Nat :=
  let f := typeFmt t
  if i = 0 then f.sign true else f.inf (i == 2)

/-- The body of VRED. -/
def reduceV (i d a t m : Nat) (s : State) : Host.Outcome State Fault Refusal :=
  issue ⟨false, .vec a, .none, .dst d⟩ (fun _ _ _ s =>
    let w := typeWidth t
    let l := (List.range (laneCount w)).map fun k => if (s.mask m).getLsbD k then laneOf (s.v a) w k else redIdentity i t
    putF d (tree (redOp i t s.env) (7 - w) l) s) s
/-- VREDADD (R482). -/
def execVredadd (d a t m : Nat) (s : State) : Host.Outcome State Fault Refusal := reduceV 0 d a t m s
/-- VREDMIN (R482). -/
def execVredmin (d a t m : Nat) (s : State) : Host.Outcome State Fault Refusal := reduceV 1 d a t m s
/-- VREDMAX (R482). -/
def execVredmax (d a t m : Nat) (s : State) : Host.Outcome State Fault Refusal := reduceV 2 d a t m s

end Sys2Proof.Machine
end

