-- ==== Sys2Proof/Machine/Matrix.lean ====
section
/-! DEFINITION. The matrix unit: the issue checks and acceptance of matrix operations, what each does when it retires,
the grant of the array, MFMT and DTLD (R87, R154, R155, R158 to R164, R168 to R184, R393, R394, R423 to R431, R471). -/

namespace Sys2Proof.Machine

/-! ## The format context (R87) -/

def ctxAKind (c : Word) : Nat := fld c 4 3
def ctxBKind (c : Word) : Nat := fld c 12 11
def ctxASclOn (c : Word) : Bool := c.getLsbD 5
def ctxBSclOn (c : Word) : Bool := c.getLsbD 13
def ctxATab (c : Word) : Nat := fld c 2 0
def ctxBTab (c : Word) : Nat := fld c 10 8
def ctxOTab (c : Word) : Nat := fld c 18 16
def ctxO4 (c : Word) : Bool := c.getLsbD 19

/-- A reserved bit of a format context is set. -/
def ctxReserved (c : Word) : Bool := fld c 63 20 ≠ 0 || fld c 15 14 ≠ 0 || fld c 7 6 ≠ 0
/-- A scale bit is set for a 16-bit kind. -/
def ctxScale16 (c : Word) : Bool := (ctxASclOn c && 2 ≤ ctxAKind c) || (ctxBSclOn c && 2 ≤ ctxBKind c)

/-- The decode tables that an MMA uses: those of its operands of code kinds. -/
def mmaTables (c : Word) : List Nat :=
  (if ctxAKind c ≤ 1 then [ctxATab c] else []) ++ (if ctxBKind c ≤ 1 then [ctxBTab c] else [])

/-! ## Acceptance (R173 to R176) -/

/-- The slot an x value names (R173). -/
def slotNum (x : Word) : Nat := x.toNat % 512

/-- Slots an operand of a kind takes. -/
def kindSlots (kind : Nat) : Nat := if 2 ≤ kind then 2 else 1

/-- Order 2 of R175: the alignment of a group. -/
def groupCheck (n k : Nat) : Exec Unit := must (n % k == 0) cFormat (0x200 + n)

/-- Order 3 of R175: ring-reserved slots; for a write also pinned ones. EVAL names the lowest such slot of the group: the model's
choice (log entry 78). -/
def ringCheck (s : State) (write : Bool) (n k : Nat) : Exec Unit :=
  match (List.range k).find? fun i =>
      (s.ringOn s.cur.unit && 480 ≤ n + i) || (write && s.myCore.pins.at (n + i) 0 ≠ 0) with
  | some i => trapWith cRing (n + i)
  | none => .ok ()

/-- Accepts an operation into the thread's queue of the array, unless four are unretired. -/
def acceptOp (kind : MatKind) (late : Nat) (s : State) : Exec State :=
  if 4 ≤ (s.myCore.array.ops s.cur.slot).length then .error (.wait .matrix id)
  else
    let op : MatOp := { kind, ctx := s.me.regs.fmtctx, late, accepted := s.time, app := none }
    .ok (s.modMyCore fun k => { k with array := { k.array with
      queues := k.array.queues.put s.cur.slot (k.array.queues.at s.cur.slot [] ++ [op]) } })

/-- MMA (R425, R426). Where A and B fail the same check, EVAL names A's slot: the model's choice (R175; log entry 78). -/
def execMma (d a b : Nat) (clear trans : Bool) (s : State) : Host.Outcome State Fault Refusal :=
  issue (usesAB a b) (fun x y _ s => do
    let c := s.me.regs.fmtctx
    let na := slotNum x
    let nb := slotNum y
    groupCheck na (kindSlots (ctxAKind c))
    groupCheck nb (kindSlots (ctxBKind c))
    ringCheck s false na (kindSlots (ctxAKind c))
    ringCheck s false nb (kindSlots (ctxBKind c))
    must (!ctxScale16 c) cFormat 17
    tablesFree (mmaTables c) s
    must (!(ctxAKind c == 1) || s.myCore.fourOk (ctxATab c)) cFormat 16
    must (!(ctxBKind c == 1) || s.myCore.fourOk (ctxBTab c)) cFormat 16
    acceptOp (.mma d na nb clear trans) 0 s) s

/-- MZERO (R431). -/
def execMzero (d : Nat) (s : State) : Host.Outcome State Fault Refusal :=
  issue usesNone (fun _ _ _ s => acceptOp (.mzero d) 0 s) s

/-- MLD (R424). -/
def execMld (d a : Nat) (s : State) : Host.Outcome State Fault Refusal :=
  issue (usesA a) (fun x _ _ s => do
    groupCheck (slotNum x) 4
    ringCheck s false (slotNum x) 4
    acceptOp (.mld d (slotNum x)) 0 s) s

/-- Slots of the destination of a format of MST. -/
def mstSlots (fmt : Nat) : Nat := if fmt = 0 then 4 else if fmt = 3 then 1 else 2

/-- MST: x[d] comes when it retires (R428, R429). -/
def execMst (d a b fmt : Nat) (s : State) : Host.Outcome State Fault Refusal :=
  issue ⟨false, .none, .src b, .dst d⟩ (fun _ y _ s => do
    let n := slotNum y
    groupCheck n (mstSlots fmt)
    ringCheck s true n (mstSlots fmt)
    let c := s.me.regs.fmtctx
    tablesFree (if fmt = 3 then [ctxOTab c] else []) s
    must (!(fmt == 3 && ctxO4 c) || s.myCore.fourOk (ctxOTab c)) cFormat 16
    reserveX d s
    let id := s.seq
    let s ← acceptOp (.mst fmt a n) id { s with seq := s.seq + 1 }
    .ok (s.expect ⟨id, 0, lateDest d, 0, 8, false, .waiting⟩)) s

/-- TTRN (R471). Where the source and the destination fail the same check, EVAL names the source's slot: the model's choice (R175;
log entry 78). -/
def execTtrn (d a : Nat) (s : State) : Host.Outcome State Fault Refusal :=
  issue ⟨false, .src a, .none, .src d⟩ (fun x _ y s => do
    let c := s.me.regs.fmtctx
    let k := kindSlots (ctxAKind c)
    groupCheck (slotNum x) k
    groupCheck (slotNum y) k
    ringCheck s false (slotNum x) k
    ringCheck s true (slotNum y) k
    must (!(ctxASclOn c && 2 ≤ ctxAKind c)) cFormat 17
    acceptOp (.ttrn (slotNum y) (slotNum x)) 0 s) s

/-- MFMT (R174, R423). -/
def execMfmt (d a : Nat) (s : State) : Host.Outcome State Fault Refusal :=
  issue (usesDA d a) (fun x _ _ s => do
    must (!ctxReserved x) cFormat 18
    must (!ctxScale16 x) cFormat 17
    putX d s.me.regs.fmtctx (s.modRegs fun g => { g with fmtctx := x })) s

/-! ## DTLD (R155, R393, R394) -/

/-- The least offending code of 256 words: a reserved bit is set, or none is finite (R155). -/
def tableFault (l : List Nat) : Option Nat :=
  match (List.range 256).find? fun c => l.getD c 0 / 2 ^ 19 ≠ 0 with
  | some c => some c
  | none => if l.all fun w => w / 2 ^ 10 % 256 = 255 then some 256 else none

/-- An operation's context names a table, whether a matrix operation or an application. -/
def MatOp.usesTable (o : MatOp) (t : Nat) : Bool :=
  match o.kind with
  | .mma _ _ _ _ _ => (mmaTables o.ctx).contains t
  | .mst 3 _ _ => ctxOTab o.ctx = t
  | _ => false

/-- Every operation the array of a core holds. -/
def Array.all (a : Array) : List MatOp :=
  (match a.running with | some (_, o, _) => [o] | none => []) ++ a.queues.flatMap (·.2)

/-- An operation on a table that the array took up to a cycle has not retired (R394). -/
def Array.uses (a : Array) (i since : Nat) : Bool := a.all.any fun o => o.usesTable i && decide (o.accepted ≤ since)

/-- The cycle in which the read of the thread's DTLD of a table was complete: now, unless it waits since then (R394). -/
def State.heldSince (s : State) (i : Nat) : Nat :=
  match s.me.tableHold with
  | some (j, since) => if j = i then since else s.time
  | none => s.time

/-- DTLD: the read and its checks. From then on others are held back, and the operations on the table that were accepted or
queued up to that cycle retire; then the replacement, in one step (R393, R394). -/
def execDtld (i a : Nat) (s : State) : Host.Outcome State Fault Refusal :=
  issue (usesA a) (fun x _ _ s => do
    must (x.toNat % 64 == 0) cMisaligned x.toNat
    let w := windowOf x.toNat
    must (!(w == .device || w == .remote)) cWindow x.toNat
    let (l, s) ← readNow .vload .vector ((List.range 256).map fun c => ⟨(x + w64 (4 * c)).toNat, 4, c⟩) s
    let words := l.map (·.2)
    match tableFault words with
    | some c => trapWith cFormat c
    | none =>
      let since := s.heldSince i
      if s.myCore.array.uses i since then
        .error (.wait (.tableUsers i since) fun s => s.modMe fun t => { t with tableHold := some (i, since) })
      else .ok ((s.modMe fun t => { t with tableHold := none }).modMyCore fun k => { k with
        dt := (List.range 256).foldl (fun m c => m.put (256 * i + c) (BitVec.ofNat 32 (words.getD c 0))) k.dt })) s

/-! ## Tiles in the tile store (R158, R168 to R170, R184) -/

/-- The bits of the element at a row and column of a tile of a kind (R169). -/
def Core.code (k : Core) (kind n r c : Nat) : Nat :=
  let base := slotData n
  let i := r * 64 + c
  match kind with
  | 0 => k.sram.read (base + i) 1
  | 1 => k.sram.read (base + i / 2) 1 / (if c % 2 = 0 then 1 else 16) % 16
  | _ => k.sram.read (base + 2 * i) 2

/-- The scale of block b of a line (R170). -/
def Core.scale (k : Core) (n line b : Nat) : Int := signedOf 8 (k.sram.read (slotSide n + line * 2 + b) 1)

/-- A value times a power of two. -/
def FVal.scaleBy (v : FVal) (s : Int) : FVal := match v with | .fin n m e => .fin n m (e + s) | x => x

/-- The value of an element: its bits, and the line and block of its scale (R160). -/
def Core.element (k : Core) (kind tab : Nat) (scaled : Bool) (n r c line b : Nat) : FVal :=
  let v := k.code kind n r c
  if kind = 2 then fmtH.unpack false v
  else if kind = 3 then fmtBF.unpack false v
  else if !scaled then k.entryVal tab v
  else
    let s := k.scale n line b
    if s = -128 then .fin false 0 0 else (k.entryVal tab v).scaleBy s

/-- a(i, k) and b(k, j) of an MMA (R160 to R162). -/
def Core.aVal (k : Core) (ctx : Word) (n i q : Nat) : FVal :=
  k.element (ctxAKind ctx) (ctxATab ctx) (ctxASclOn ctx) n i q i (q / 32)
def Core.bVal (k : Core) (ctx : Word) (trans : Bool) (n q j : Nat) : FVal :=
  if trans then k.element (ctxBKind ctx) (ctxBTab ctx) (ctxBSclOn ctx) n j q j (q / 32)
  else k.element (ctxBKind ctx) (ctxBTab ctx) (ctxBSclOn ctx) n q j j (q / 32)

/-! ## One block of one output (R161) -/

/-- An exact product. -/
def mulExact (x y : FVal) : FVal :=
  match x, y with
  | .nan s, _ | _, .nan s => .nan s
  | .inf a, .inf b => .inf (a != b)
  | .inf a, .fin n m _ | .fin n m _, .inf a => if m = 0 then .nan false else .inf (a != n)
  | .fin n1 m1 e1, .fin n2 m2 e2 => .fin (n1 != n2) (m1 * m2) (e1 + e2)

/-- floor(log2 |p|) of a nonzero finite value. -/
def FVal.topBit : FVal → Int | .fin _ m e => e + bitLen m - 1 | _ => 0
def FVal.isZero : FVal → Bool | .fin _ 0 _ => true | _ => false

/-- sign(p) × floor(|p| / 2^q). -/
def FVal.truncAt (q : Int) : FVal → Int
  | .fin n m e => (if n then -1 else 1) * (if q ≤ e then (m * 2 ^ (e - q).toNat : Nat) else (m / 2 ^ (q - e).toNat : Nat))
  | _ => 0

/-- The FP32 accumulator after one block of products. -/
def blockSum (acc : Nat) (ps : List FVal) : Nat :=
  let pos := ps.any (· == .inf false)
  let neg := ps.any (· == .inf true)
  let a := fmtS.unpack false acc
  if ps.any FVal.isNan || (pos && neg) then fmtS.nan
  else if pos || neg then
    if a.isNan || a == .inf pos then fmtS.nan else fmtS.inf neg
  else if ps.all FVal.isZero then acc
  else
    let tops := (ps.filter fun p => !p.isZero).map FVal.topBit
    let q := tops.foldl (fun m t => if m < t then t else m) (tops.headD 0) - 100
    let sb := (ps.map (FVal.truncAt q)).sum
    match a with
    | .nan _ => fmtS.nan
    | .inf _ => acc
    | .fin n m e =>
      let lo := if e < q then e else q
      let t : Int := (if n then -1 else 1) * (m * 2 ^ (e - lo).toNat : Nat) + sb * (2 ^ (q - lo).toNat : Nat)
      if t = 0 then 0 else (fmtS.round ⟨0, false⟩ (decide (t < 0)) t.natAbs lo).1

def accKey (acc i j : Nat) : Nat := 4096 * acc + 64 * i + j
def Core.accWord (k : Core) (acc i j : Nat) : Nat := (k.acc.at (accKey acc i j) 0).toNat

/-- Replaces a whole accumulator. -/
def Core.setAcc (k : Core) (acc : Nat) (f : Nat → Nat → Nat) : Core :=
  { k with acc := k.acc.filter (fun e => e.1 < 4096 * acc) ++
      ((List.range 4096).filterMap fun n =>
        let v := f (n / 64) (n % 64)
        if v = 0 then none else some (4096 * acc + n, BitVec.ofNat 32 v)) ++
      k.acc.filter fun e => 4096 * acc + 4096 ≤ e.1 }

/-- The accumulator after an MMA (R161). -/
def Core.mma (k : Core) (ctx : Word) (acc a b : Nat) (clear trans : Bool) : Core :=
  let rows := (List.range 64).map fun i => (List.range 64).map fun q => k.aVal ctx a i q
  let cols := (List.range 64).map fun j => (List.range 64).map fun q => k.bVal ctx trans b q j
  k.setAcc acc fun i j =>
    let ps := List.zipWith mulExact (rows.getD i []) (cols.getD j [])
    let start := if clear then 0 else k.accWord acc i j
    blockSum (blockSum start (ps.take 32)) (ps.drop 32)

/-! ## Poison (R181, R235) -/

/-- An element's granule of a slot is poisoned, and its block is read. -/
def Core.poisonAtCode (k : Core) (kind n r c : Nat) (skip : Bool) : Option Nat :=
  let i := r * 64 + c
  let off := slotData n + (match kind with | 0 => i | 1 => i / 2 | _ => 2 * i)
  if !skip && k.sramPoison.at (off / 64) false then some off else none

/-- The first poisoned local offset that an operand of an MMA reads; `line` gives an element's scale line and block. -/
def Core.poisonOperand (k : Core) (kind n : Nat) (scaled : Bool) (line : Nat → Nat → Nat × Nat) : Option Nat :=
  if k.sramPoison = [] then none
  else
    let side := if scaled && kind ≤ 1 then
        (List.range 2).findSome? fun g =>
          if k.sramPoison.at (slotSide n / 64 + g) false then some (slotSide n + 64 * g) else none
      else none
    match side with
    | some o => some o
    | none => (List.range 4096).findSome? fun i =>
      let (l, b) := line (i / 64) (i % 64)
      k.poisonAtCode kind n (i / 64) (i % 64) (scaled && kind ≤ 1 && k.scale n l b == -128)

/-- The first poisoned local offset of n granules from an offset. -/
def Core.poisonRange (k : Core) (lo n : Nat) : Option Nat :=
  (List.range n).findSome? fun g => if k.sramPoison.at (lo / 64 + g) false then some (lo + 64 * g) else none

/-- The first poisoned local offset of whole slots. -/
def Core.poisonSlots (k : Core) (n count : Nat) : Option Nat := k.poisonRange (slotData n) (64 * count)

/-- Local offsets written whole: their granules are clean, or all poisoned. -/
def Core.markRange (k : Core) (lo n : Nat) (bad : Bool) : Core :=
  let m := k.sramPoison.delRange (lo / 64) ((lo + n) / 64)
  { k with sramPoison := if bad then (List.range (n / 64)).foldl (fun m i => m.put (lo / 64 + i) true) m else m }

/-! ## Retirement (R161, R178, R182 to R184) -/

/-- Writes bytes of a slot group, listed from its first byte, and marks the slots written (R322). -/
def Core.writeSlots (k : Core) (n count : Nat) (bytes : List (Nat × Nat)) : Core :=
  let k := (List.range count).foldl (fun k i => k.touch (slotData (n + i))) k
  { k with sram := bytes.foldl (fun m e => m.setByte (slotData n + e.1) (BitVec.ofNat 8 e.2)) k.sram }

/-- The bytes of values of a width, element by element. -/
def elementBytes (width : Nat) (f : Nat → Nat) : List (Nat × Nat) :=
  (List.range 4096).flatMap fun i => (List.range width).map fun b => (i * width + b, f i / 256 ^ b % 256)

/-- An FP32 accumulator word rounded to FP16 or BF16, and whether a finite value became infinite (R182). -/
def narrow (f : Fmt) (v : Nat) : Nat × Bool :=
  match fmtS.unpack false v with
  | .nan _ => (f.nan, false)
  | .inf n => (f.inf n, false)
  | .fin n m e => let r := (f.round ⟨0, false⟩ n m e).1; (r, r == f.inf n)

/-- The codes, scales and saturations of MST with `.B` (R182). -/
def Core.codeTile (k : Core) (ctx : Word) (acc : Nat) : List (Nat × Int × List (Nat × Bool)) :=
  let t := ctxOTab ctx
  let g := k.greatest t
  let codes := k.codes t (ctxO4 ctx)
  let cands := k.candidates t (ctxO4 ctx)
  (List.range 128).map fun n =>
    let vals := (List.range 32).map fun q => fmtS.unpack false (k.accWord acc (n / 2) (n % 2 * 32 + q))
    let s := (bscaleWith g vals).1
    (n, s, vals.map fun v =>
      let x := if s = -128 then .fin false 0 0 else v.scaleBy (-s)
      let r := encWith codes cands x
      (r.1, x.isFin && r.2 == fOF))

/-- MST: the core after it, and the saturation count. -/
def Core.mstEffect (k : Core) (ctx : Word) (fmt acc n : Nat) : Core × Nat :=
  let word (i : Nat) : Nat := k.accWord acc (i / 64) (i % 64)
  if fmt = 0 then
    ((k.writeSlots n 4 (elementBytes 4 word)).markRange (slotData n) 0x4000 false, 0)
  else if fmt = 3 then
    let tile := k.codeTile ctx acc
    let code (i : Nat) : Nat := ((tile.getD (i / 64 * 2 + i % 64 / 32) (0, 0, [])).2.2.getD (i % 32) (0, false)).1
    let bytes := if ctxO4 ctx then
        (List.range 4096).map fun b => (b, if b < 2048 then code (2 * b) % 16 + code (2 * b + 1) % 16 * 16 else 0)
      else (List.range 4096).map fun b => (b, code b)
    let k := (k.writeSlots n 1 bytes).markRange (slotData n) 0x1000 false
    let k := { k with sram := tile.foldl (fun m (x : Nat × Int × List (Nat × Bool)) =>
      Memory.setByte m (slotSide n + x.1) (BitVec.ofInt 8 x.2.1)) k.sram }
    (k.markRange (slotSide n) 0x80 false, (tile.map fun x => x.2.2.countP (·.2)).sum)
  else
    let f := if fmt = 1 then fmtBF else fmtH
    ((k.writeSlots n 2 (elementBytes 2 fun i => (narrow f (word i)).1)).markRange (slotData n) 0x2000 false,
      (List.range 4096).countP fun i => (narrow f (word i)).2)

/-- TTRN (R184). -/
def Core.ttrnEffect (k : Core) (ctx : Word) (d a : Nat) : Core :=
  let kind := ctxAKind ctx
  let get (i : Nat) : Nat := k.code kind a (i % 64) (i / 64)
  let slots := kindSlots kind
  let bytes := match kind with
    | 0 => (List.range 4096).map fun b => (b, get b)
    | 1 => (List.range 4096).map fun b => (b, if b < 2048 then get (2 * b) + get (2 * b + 1) * 16 else 0)
    | _ => elementBytes 2 get
  let k' := k.writeSlots d slots bytes
  if kind ≤ 1 then { k' with sram := k'.sram.paste (slotSide d) 0x80 (k.sram.slice (slotSide a) 0x80 0) } else k'

/-- The late result of an accepted operation is known. -/
def Thread.settle (t : Thread) (id : Nat) (v : LateVal) : Thread :=
  { t with pending := t.pending.map fun l => if l.id = id then { l with val := v } else l }

/-- A poisoned operand's offset, of an MMA or of an application (R181). -/
def Core.mmaPoison (k : Core) (ctx : Word) (a b : Nat) (trans : Bool) : Option Nat :=
  match k.poisonOperand (ctxAKind ctx) a (ctxASclOn ctx) fun r c => (r, c / 32) with
  | some o => some o
  | none => k.poisonOperand (ctxBKind ctx) b (ctxBSclOn ctx) fun r c => if trans then (r, c / 32) else (c, r / 32)

/-- An operation retires: it reads and writes tile slots and accumulators (R177). Poison that no thread traps for is recorded with
slot 0xF (R181, R235); bytes 2,048 to 4,095 of a 4-bit source are not read (R169). -/
def State.retire (s : State) (core req : Nat) (o : MatOp) : State :=
  let k := s.core core
  let bad (off acc : Nat) (s : State) : State :=
    (s.record core (poisonRecord (s.partIdOf core) 15 4 off)).modCore core fun k => { k with accPoison := k.accPoison.put acc true }
  match o.kind with
  | .mma acc a b clear tr =>
    let s := match k.mmaPoison o.ctx a b tr with
      | some off => bad off acc s
      | none =>
        if k.accPoison.at acc false && !clear then s
        else s.setCore core { (k.mma o.ctx acc a b clear tr) with accPoison := k.accPoison.del acc }
    match o.app with
    | some x => s.appDone (hemOf core) (stationOf core) x
    | none => s
  | .mzero acc => s.setCore core { (k.setAcc acc fun _ _ => 0) with accPoison := k.accPoison.del acc }
  | .mld acc n =>
    match k.poisonSlots n 4 with
    | some off => bad off acc s
    | none => s.setCore core
        { (k.setAcc acc fun i j => k.sram.read (slotData n + 4 * (i * 64 + j)) 4) with accPoison := k.accPoison.del acc }
  | .mst fmt acc n =>
    if k.accPoison.at acc false then
      (s.record core (poisonRecord (s.partIdOf core) req 5 acc)).modCoreThread core req fun t =>
        t.settle o.late (.poisoned (w64 (0x100 + acc)))
    else
      let (k', count) := k.mstEffect o.ctx fmt acc n
      (s.setCore core k').modCoreThread core req fun t => t.settle o.late (.ready (w64 count))
  | .ttrn d a =>
    let kind := ctxAKind o.ctx
    let slots := kindSlots kind
    let side := if kind ≤ 1 && (k.sramPoison.at (slotSide a / 64) false || k.sramPoison.at (slotSide a / 64 + 1) false)
      then some (slotSide a) else none
    let data := if kind = 1 then k.poisonRange (slotData a) 32 else k.poisonSlots a slots
    let found := match data with | some x => some x | none => side
    let k' := (k.ttrnEffect o.ctx d a).markRange (slotData d) (0x1000 * slots) found.isSome
    let k' := if kind ≤ 1 then k'.markRange (slotSide d) 0x80 found.isSome else k'
    let s := s.setCore core k'
    match found with
    | some off => s.record core (poisonRecord (s.partIdOf core) 15 4 off)
    | none => s

/-! ## Sharing the array (R179, R180) -/

/-- Cycles that an operation occupies the array. -/
def MatOp.occupancy (o : MatOp) : Nat :=
  match o.kind with
  | .mzero _ => 16
  | .mst 3 _ _ => 96
  | .ttrn _ _ => if ctxAKind o.ctx ≤ 1 then 32 else 64
  | _ => 64

/-- A DTLD holds back an application: it was queued after the DTLD's read was complete (R394). -/
def Core.appHeld (k : Core) (o : MatOp) : Bool :=
  k.threads.any fun e => match e.2.tableHold with
    | some (i, since) => o.usesTable i && decide (since < o.accepted)
    | none => false

/-- The first requester after the last one granted whose oldest operation may start; at a stop the match unit's queued
applications stay (R208), and while a DTLD holds back a table those that use it (R394). -/
def Core.grantee (k : Core) (time : Nat) : Option (Nat × MatOp) :=
  (List.range 17).findSome? fun i =>
    let q := (k.array.last + 1 + i) % 17
    match k.array.queues.at q [] with
    | o :: _ => if o.accepted < time && !(q = 16 && (k.stop.reached || k.appHeld o)) then some (q, o) else none
    | [] => none

/-- A free array takes the next requester's oldest operation. -/
def Core.arrayGrant (k : Core) (time : Nat) : Core :=
  match k.array.running, k.grantee time with
  | none, some (q, o) => { k with array := { queues := k.array.queues.put q ((k.array.queues.at q []).drop 1),
                                             running := some (q, o, time + o.occupancy), last := q } }
  | _, _ => k

/-- ARRAY_GRANT; none while the Kiln has taken the array's structures in hand (R338). -/
def execArrayGrant (core : Nat) (s : State) : Host.Outcome State Fault Refusal :=
  coreEvent core (fun s => if s.fenced (s.partIdOf core) then s else s.modCore core fun k => k.arrayGrant s.time) s

/-- MATRIX_RETIRE: the running operation ends and writes its results. -/
def execMatrixRetire (core : Nat) (s : State) : Host.Outcome State Fault Refusal :=
  coreEvent core (fun s => match (s.core core).array.running with
    | some (q, o, done) =>
      if done ≤ s.time then
        let s := (s.retire core q o).modCore core fun k => { k with array := { k.array with running := none } }
        if q = 16 then s
        else s.modCoreThread core q fun t => if t.tstate == .waiting && t.wait == .matrix then t.resumed else t
      else s
    | none => s) s

end Sys2Proof.Machine
end

