-- ==== Sys2Proof/Machine/RingOps.lean ====
section
/-! DEFINITION. The ring instructions (R186 to R205, R434, R438, R443, R445, R447). -/

namespace Sys2Proof.Machine

/-- A RING trap of a ring instruction (R187). -/
def ringMust (ok : Bool) (v : Nat) : Exec Unit := must ok cRing v

/-! ## RINJ (R191, R445) -/

/-- The lowest inactive record of a station and family: R190 does not say which (DESIGN CHOICE, log entry 97). -/
def Hem.freeInj (h : Hem) (fam st : Nat) : Option Nat :=
  (List.range 64).find? fun r => !(h.ring.inj (injKey fam st r)).active

/-- RINJ: the checks, the live cap, the release, then acceptance. -/
def inject (fam d : Nat) (a h : Word) (s : State) : Exec State := do
  let slot := slotNum a
  let hem := s.myHem
  let st := stationOf s.cur.unit
  ringMust (hem.hemctl.getLsbD 0) 0x1001
  ringMust (slot < 480) slot
  ringMust (hFam h == fam) 0x1002
  ringMust (hPartners h != 0 && fld h 21 19 == 0) 0x1003
  match hem.entryFor fam (hMat h) with
  | none => trapWith cRing 0x1004
  | some (_, p) => do
    ringMust (decide (hX h < (if fam = 0 then p.oi else p.oj)) && decide (hK h < p.kb)) 0x1005
    ringMust ((hem.liveTile fam (hMat h) (hX h) (hK h)).isNone) 0x100C
    reserveX d s
    match if hem.cap fam ≤ hem.live fam || hem.stopped then none else hem.freeInj fam st with
    | none => .error (.park .livecap (.liveCap fam) id)
    | some rec => do
      let s ← gate true s
      let id := s.seq
      let key := injKey fam st rec
      let old := hem.ring.inj key
      let hdr := setFld (setFld (setFld (setFld (setFld h 39 36 0) 25 22 st) 17 12 rec) 11 7 old.seq) 6 0 0
      let s := { s with seq := s.seq + 1 }.modMyHem fun m => { m with ring := { m.ring.setInj key
        { active := true, entered := false, core := s.cur.unit, hdr, slot, remain := hPartners h, seq := old.seq,
          thread := s.cur.slot, late := id, order := m.ring.order } with order := m.ring.order + 1 } }
      let s := s.modMyCore fun k => { k with pins := k.pins.put slot (k.pins.at slot 0 + 1) }
      .ok (s.expect ⟨id, 0, lateDest d, 0, 8, false, .waiting⟩)

/-- RINJA. -/
def execRinja (d a b : Nat) (s : State) : Host.Outcome State Fault Refusal :=
  issue (usesDAB d a b) (fun x y _ s => inject 0 d x y s) s
/-- RINJB. -/
def execRinjb (d a b : Nat) (s : State) : Host.Outcome State Fault Refusal :=
  issue (usesDAB d a b) (fun x y _ s => inject 1 d x y s) s

/-! ## PSET and PCLR (R195, R197, R438) -/

/-- A counter record address that TDEC accepts without a trap: aligned, in the scratchpad extent of window 0xFE or
0xFD, of a core of the partition, at U outside the reserved scratchpad (R211, R466). -/
def State.recordCheck (s : State) (p : Word) : Exec (Nat × Nat) := do
  let va := p.toNat
  must (va % 128 == 0) cMisaligned va
  let w := windowOf va
  let (core, off) := s.recordAt s.cur.unit p
  let idx := va % 2 ^ 56 / 2 ^ 24
  let inside := decide (off < 0x080000) && (w == .localW || (w == .remote &&
    (match s.myPart with | some q => decide (idx < 16 * q.hemCount) | none => false)))
  must inside cWindow va
  must (!(s.me.priv == .u && s.reservedFrom core ≤ off + 127)) cPageProt va
  .ok (core, off)

/-- Step 5 of PSET: a descriptor field breaks R195. -/
def State.patternBad (s : State) (p : Pattern) (reserved : Word) : Bool :=
  let c := p.ctl
  let f := p.fmt
  fld c 63 58 ≠ 0 || fld c 55 52 ≠ 0 || c.getLsbD 43 || c.getLsbD 39 || c.getLsbD 15 || c.getLsbD 7 || reserved ≠ 0 ||
    p.lapb = 0 || 2 ≤ p.action || p.kb = 0 || 64 < p.kb || p.oj = 0 || 128 < p.oj || p.oi = 0 || 128 < p.oi ||
    128 < p.oi * p.oj || (p.action = 1 && (p.ordered || p.clr)) ||
    ctxReserved f || 2 ≤ ctxAKind f || 2 ≤ ctxBKind f ||
    (s.myHem.entryFor 0 p.ma).isSome || (s.myHem.entryFor 1 p.mb).isSome ||
    (2 ≤ p.compl && (match s.recordCheck p.caddr with | .ok _ => false | .error _ => true))

/-- Step 7 of PSET: the owner map breaks R195. -/
def Pattern.mapBad (p : Pattern) : Bool :=
  p.owners.any (fun b => b / 8 % 2 = 1 || 7 < p.accBase + b % 8) || !p.owners.Nodup ||
    (List.range 16).any fun st => 8 < p.owners.countP fun b => b / 16 = st

/-- PSET; it reads x3 too, so that a result still to come there is waited for (R45, R199, R414). -/
def execPset (a b : Nat) (s : State) : Host.Outcome State Fault Refusal :=
  issue (usesAB a b) (fun x y _ s => do
    checkPending s (usesA 3)
    ringMust (s.myHem.hemctl.getLsbD 0) 0x1001
    must (x.toNat % 64 == 0) cMisaligned x.toNat
    let (l, s) ← readNow .vload .vector (dwordEls x 8) s
    let wd (i : Nat) : Word := w64 ((l.map (·.2)).getD i 0)
    let e := fld y 3 0
    ringMust ((s.myHem.entry e).isNone) 0x1006
    let p : Pattern := { active := true, ctl := wd 0, ownmap := wd 1, fmt := wd 2, spawnpc := wd 3, spawnarg := wd 4,
                         caddr := wd 5, ctag := wd 6, owners := [], x3 := s.x 3 }
    ringMust (!s.patternBad p (wd 7)) 0x1007
    let (m, s) ← readNow .vload .vector ((List.range (p.oi * p.oj)).map fun i => ⟨(p.ownmap + w64 i).toNat, 1, i⟩) s
    let p := { p with owners := m.map (·.2) }
    ringMust (!p.mapBad) 0x1007
    .ok (s.modMyHem fun h => { h with patterns := h.patterns.put e p, outputs := h.outputs.delRange (128 * e) (128 * e + 128),
                                      deferrals := 0, misses := 0 })) s

/-- An entry cannot be cleared yet: a live tile carries one of its matrix ids, or an output has a pin or a queued
application. -/
def Hem.entryBusy (h : Hem) (e : Nat) (p : Pattern) : Bool :=
  h.ring.injectors.any (fun i => i.2.active && hMat i.2.hdr == (if i.1 / 1024 = 0 then p.ma else p.mb)) ||
    h.outputs.any fun o => o.1 / 128 == e && (o.2.running ≠ 0 || o.2.pendingBits ≠ 0)

/-- The entry number that a waiting q5 record has once its entry has been cleared: its push completes no output of a later
load (R196, R200). -/
def noEntry : Nat := 16

/-- PCLR. -/
def execPclr (b : Nat) (s : State) : Host.Outcome State Fault Refusal :=
  issue ⟨false, .none, .src b, .none⟩ (fun _ y _ s => do
    ringMust (s.myHem.hemctl.getLsbD 0) 0x1001
    let e := fld y 3 0
    match s.myHem.entry e with
    | none => trapWith cRing 0x1004
    | some p =>
      ringMust (!s.myHem.entryBusy e p) 0x1008
      .ok (s.modMyHem fun h => { h with
        patterns := h.patterns.put e { p with active := false }
        q5waiting := h.q5waiting.map fun w => if w.2.2.1 = e then (w.1, w.2.1, noEntry, 0) else w })) s

/-! ## PMARK and RSTAT (R203, R205, R434, R447) -/

/-- The output that a query names, with its entry: RING 0x1004 or 0x1005 (R203, R205). -/
def outputOf (e i j : Nat) (k : Nat) (s : State) : Exec Pattern :=
  match s.myHem.entry e with
  | none => trapWith cRing 0x1004
  | some p => do
    ringMust (decide (i < p.oi) && decide (j < p.oj) && decide (k < p.kb)) 0x1005
    .ok p

/-- PMARK. -/
def execPmark (d a b : Nat) (s : State) : Host.Outcome State Fault Refusal :=
  issue (usesDAB d a b) (fun x y _ s => do
    let e := fld x 63 60
    let i := fld x 19 10
    let j := fld x 9 0
    let k := fld y 5 0
    let p ← outputOf e i j k s
    reserveX d s
    if s.myCore.array.ops s.cur.slot ≠ [] then .error (.wait .matrix id)
    else
      let h := hemOf s.cur.unit
      let o := p.out i j
      let out := s.myHem.output e o
      if out.applied.getLsbD k || out.pendingBits.getLsbD k then lateX d 1 s
      else
        let s := s.modHem h fun m => m.setOutput e o { out with applied := out.applied ||| w64 (2 ^ k) }
        let tickTile (fam mat x : Nat) (m : Hem) : Hem := match m.liveTile fam mat x k with
          | some key => m.tick key
          | none => m
        let s := s.modHem h fun m => tickTile 1 p.mb j (tickTile 0 p.ma i m)
        let s := if p.ordered then s.releaseHeld h e p i j (p.owner o) 64 else s
        lateX d 0 (s.complete h e o)) s

/-- The record that a tile id names at its current sequence. -/
def Hem.tileRecord (h : Hem) (id : Word) : Option (Nat × Injector) :=
  let key := injKey (fld id 11 11) (fld id 15 12) (fld id 10 5)
  let r := h.ring.inj key
  if r.seq = fld id 4 0 then some (key, r) else none

/-- The ring state a query selects; RING where it may not be asked (R205). -/
def ringQuery (x : Word) (s : State) : Exec Word := do
  let h := s.myHem
  let e := fld x 59 56
  let i := fld x 19 10
  let j := fld x 9 0
  match fld x 63 60 with
  | 0 => do let p ← outputOf e i j 0 s; .ok (h.output e (p.out i j)).applied
  | 1 => do let p ← outputOf e i j 0 s; .ok (h.output e (p.out i j)).pendingBits
  | 2 => .ok (w64 (h.live 0 + h.live 1 * 2 ^ 8 + h.deferrals * 2 ^ 16 + h.misses * 2 ^ 32))
  | 3 => match h.tileRecord x with
    | some (_, r) =>
      if r.active then
        let held := h.tilePinned (fld x 11 11) (fld x 15 12) (fld x 10 5) r.seq
        .ok (w64 (r.remain + hLaps r.hdr * 2 ^ 10 + 2 ^ 14 + (if held then 2 ^ 15 else 0)))
      else .ok 0
    | none => .ok 0
  | _ => trapWith cRing 0x100B

/-- RSTAT. -/
def execRstat (d a : Nat) (s : State) : Host.Outcome State Fault Refusal :=
  issue (usesDA d a) (fun x _ _ s => do
    let v ← ringQuery x s
    reserveX d s
    lateX d v s) s

/-! ## RFETCH (R204, R443) -/

/-- Where the copy of a tile is taken from: core, slot, and whether the contents are its source's. -/
def State.tileSource (s : State) (h : Nat) (id : Word) : Option (Nat × Nat) :=
  let hem := s.hem h
  let fam := fld id 11 11
  match hem.tileRecord id with
  | some (_, r) =>
    if r.active then some (r.core, r.slot)
    else none
  | none =>
    (List.range 16).findSome? fun st => (List.range 16).findSome? fun i =>
      match hem.ring.passing.look (passKey fam st i) with
      | some x => if x.inj = fld id 15 12 && x.record = fld id 10 5 && x.seq = fld id 4 0 then some (h * 16 + st, passSlot fam i) else none
      | none => none

/-- RFETCH. -/
def execRfetch (d a b : Nat) (s : State) : Host.Outcome State Fault Refusal :=
  issue (usesDAB d a b) (fun x y _ s => do
    let n := slotNum y
    ringCheck s true n 1
    reserveX d s
    if s.slotBusy s.cur.unit s.cur.slot n then .error (.wait .matrix id)
    else
      let h := hemOf s.cur.unit
      match s.tileSource h x with
      | none => lateX d 1 s
      | some (core, slot) =>
        let fam := fld x 11 11
        let fmt := (((s.hem h).tileRecord x).bind fun r => (s.hem h).entryFor fam (hMat r.2.hdr)).map (·.2.fmt) |>.getD 0
        let (data, side) := tileContents (s.core core) slot fam fmt
        lateX d 0 (s.modMyCore fun k =>
          let k := k.touch (slotData n)
          let k := { k with sram := (k.sram.paste (slotData n) 0x1000 data).paste (slotSide n) 0x80 side }
          (k.markRange (slotData n) 0x1000 false).markRange (slotSide n) 0x80 false)) s

/-! ## The rings between instructions (R192, R194, R200, R201) -/

/-- The oldest accepted record of a station and family that has not entered. -/
def Hem.waitingInj (h : Hem) (fam st : Nat) : Option (Nat × Injector) :=
  (List.range 64).foldl (fun best r =>
    let i := h.ring.inj (injKey fam st r)
    if i.active && !i.entered then
      match best with
      | some (_, j) => if i.order < j.order then some (r, i) else best
      | none => some (r, i)
    else best) none

/-- The link into a station in a family's direction. -/
def linkInto (fam st : Nat) : Nat := linkKey fam (if fam = 0 then (st + 15) % 16 else (st + 1) % 16)

/-- A link slot begins in this cycle. -/
def slotBegins (now : Nat) : Bool := now % hopCycles == 0

/-- A tile of a family is to be processed at a station now: one that a restore returns there, or one whose hop has ended
(R24, R208). -/
def Hem.arrivingTile (h : Hem) (fam st now : Nat) : Option Tile :=
  match if h.stopped || !slotBegins now then none else h.ring.saveBuffer.find? fun e => e.1 == st && e.2.fam == fam with
  | some (_, t) => some t
  | none => match h.ring.links.look (linkInto fam st) with
    | some t => if t.due ≤ now then some t else none
    | none => none

/-- An accepted tile may enter its station: a link slot begins in which no through tile of its family leaves the station (R192),
and no tile that a restore returns is still to re-enter (R208). -/
def Hem.mayEnter (h : Hem) (fam st now : Nat) : Bool :=
  slotBegins now && h.ring.saveBuffer == [] && (h.arrivingTile fam st now).isNone && (h.ring.links.look (linkKey fam st)).isNone &&
    h.ring.departing.at (linkKey fam st) [] == []

/-- The thread of an accepted tile gets its tile id. -/
def State.giveId (s : State) (st fam r : Nat) (i : Injector) : State :=
  s.modCoreThread i.core i.thread fun t => t.settle i.late (.ready (w64 (tileId st fam r i.seq)))

/-- TILE_ENTRY: an accepted tile enters its injector station; the thread gets its tile id (R191, R192, R445). While the hem stops
no tile enters: an accepted one stays in its record for the save, and only its id goes to the thread (R208, R316; log entry
93). -/
def State.tileEntry (s : State) (h st fam : Nat) : State :=
  if (s.hem h).stopped then
    (List.range 64).foldl (fun s r =>
      let i := (s.hem h).ring.inj (injKey fam st r)
      if i.active && !i.entered then s.giveId st fam r i else s) s
  else match (s.hem h).waitingInj fam st with
  | none => s
  | some (r, i) =>
    if !(s.hem h).mayEnter fam st s.time then s
    else
      let key := injKey fam st r
      let fmt := (((s.hem h).entryFor fam (hMat i.hdr)).map (·.2.fmt)).getD 0
      let (data, side) := tileContents (s.core i.core) i.slot fam fmt
      let s := (s.modHem h fun m => { m with ring := m.ring.setInj key { i with entered := true } }).giveId st fam r i
      s.arriveTile h st { hdr := i.hdr, due := 0, fam, inj := st, record := r, seq := i.seq, data, side } true

/-- TILE_ENTRY. -/
def execTileEntry (hem station fam : Nat) (s : State) : Host.Outcome State Fault Refusal :=
  hemEvent hem (fun s => if station < 16 && fam < 2 then s.tileEntry hem station fam else s) s

/-- Takes the tile that is to be processed at a station from where it is; a link that it leaves takes the next tile. -/
def Hem.takeTile (h : Hem) (fam st now : Nat) (t : Tile) : Hem :=
  if !h.stopped && slotBegins now && h.ring.saveBuffer.contains (st, t) then { h with ring := { h.ring with saveBuffer := h.ring.saveBuffer.erase (st, t) } }
  else
    let link := linkInto fam st
    { h with ring := { h.ring with links := h.ring.links.del link } }.depart fam (link % 16) now

/-- TILE_ARRIVAL: the tile whose hop into a station has ended is processed there. Of two arrivals in one cycle the
clockwise one comes first (R194). -/
def State.tileArrival (s : State) (h st fam : Nat) : State :=
  match (s.hem h).arrivingTile fam st s.time with
  | none => s
  | some t =>
    if fam = 1 && ((s.hem h).arrivingTile 0 st s.time).isSome then s
    else (s.modHem h fun m => m.takeTile fam st s.time t).arriveTile h st t false

/-- TILE_ARRIVAL. -/
def execTileArrival (hem station fam : Nat) (s : State) : Host.Outcome State Fault Refusal :=
  hemEvent hem (fun s => if station < 16 && fam < 2 then s.tileArrival hem station fam else s) s

/-- Q5_RECORD_PUSH: the oldest q5 record that waits in a station enters the queue; then its decrement goes (R200). -/
def execQ5RecordPush (hem station : Nat) (s : State) : Host.Outcome State Fault Refusal :=
  hemEvent hem (fun s =>
    match (s.hem hem).q5waiting.find? fun w => w.1 == station with
    | some (st, words, e, o) =>
      let core := hem * 16 + st
      if 16 ≤ (s.core core).q5.length then s
      else
        let s := s.modHem hem fun m =>
          let m := { m with q5waiting := m.q5waiting.erase (st, words, e, o) }
          if e = noEntry then m else m.setOutput e o { m.output e o with completed := true }
        let s := s.modCore core fun k => { k with q5 := k.q5 ++ [words.take 2] }
        (words.drop 2).foldl (fun s a => s.sendDec core a 1) s
    | none => s) s

/-- Q6_RECORD_PUSH: the oldest q6 record that waits in a station enters the queue (R201). -/
def execQ6RecordPush (hem station : Nat) (s : State) : Host.Outcome State Fault Refusal :=
  hemEvent hem (fun s =>
    match (s.hem hem).q6waiting.find? fun w => w.1 == station with
    | some (st, words) =>
      let core := hem * 16 + st
      if 16 ≤ (s.core core).q6.length then s
      else
        let s := s.modHem hem fun m => { m with q6waiting := m.q6waiting.erase (st, words) }
        s.modCore core fun k => { k with q6 := k.q6 ++ [words] }
    | none => s) s

end Sys2Proof.Machine
end

