-- ==== Sys2Proof/Machine/Tasks.lean ====
section
/-! DEFINITION. The task instructions: FORK, FORKH, SHIP, TARM, TDEC, PPT, TID and END (R56 to R59, R313 to R316, R395,
R396, R404, R405, R435, R449, R450, R465 to R467). -/

namespace Sys2Proof.Machine

/-! ## FORK and FORKH -/

/-- FORK (R404). -/
def execFork (off : Int) (s : State) : Host.Outcome State Fault Refusal :=
  issue usesNone (fun _ _ _ s => do
    let target := s.pcRel off
    let s ← gate true s
    let (p, s) := s.build s.cur.unit kFork target s.taskVals
    match s.dequePush s.cur.unit p with
    | some s => .ok s
    | none => trapWith cTask 1) s

/-- The physical core that a placement names; `none` for a reserved bit or a core outside the partition (R405). -/
def State.placement (s : State) (b : Word) : Option Nat :=
  if fld b 63 22 ≠ 0 || fld b 15 13 ≠ 0 || fld b 7 5 ≠ 0 then none
  else s.myPart.bind fun p => p.coreFor (coreAt (fld b 4 0) (fld b 12 8))

/-- FORKH: the packet is counted as sent when it leaves the core (R56, R67, R405). -/
def execForkh (a b : Nat) (s : State) : Host.Outcome State Fault Refusal :=
  issue (usesAB a b) (fun x y _ s => do
    must (!x.getLsbD 0) cMisaligned x.toNat
    match s.placement y with
    | none => trapWith cTask 2
    | some c => do
      let s ← gate true s
      let u := s.cur.unit
      let (p, s) := s.build u kPlaced x s.taskVals
      .ok (s.send (.core u s.cur.slot) (.core c 15) ((s.myPart.map (·.cls)).getD 0) s.myPartId 0
        (.placed p (fld y 21 16)))) s

/-! ## Counter records (R58, R59) -/

/-- TARM's effect once its checks have passed and the release is done. -/
def armRecord (off : Nat) (pc count : Word) (s : State) : Exec State := do
  let u := s.cur.unit
  must (fld (s.myCore.sram.word (off + 8)) 1 0 ≠ 1) cTask 4
  let (p, s) := s.build u kCounter pc s.taskVals
  let fires := decide (count.toInt ≤ 0)
  let s := s.modCore u fun k => { k with
    sram := k.sram.setWords off (count :: (if fires then 2 else 1) :: p.words) }
  .ok (if fires then s.addTask u 3 p else s)

/-- TARM (R465). -/
def execTarm (d a b : Nat) (s : State) : Host.Outcome State Fault Refusal :=
  issue (usesRead d a b) (fun x y z s => do
    must (x.toNat % 128 == 0) cMisaligned x.toNat
    must (windowOf x.toNat == .localW) cWindow x.toNat
    let (_, off) ← s.recordCheck x
    must (!z.getLsbD 0) cMisaligned z.toNat
    let s ← gate true s
    armRecord off z y s) s

/-- TDEC (R466). -/
def execTdec (a n : Nat) (s : State) : Host.Outcome State Fault Refusal :=
  issue (usesA a) (fun x _ _ s => do
    let _ ← s.recordCheck x
    let s ← gate true s
    .ok (s.sendDec s.cur.unit x n)) s

/-! ## END and SHIP (R395, R450) -/

/-- Every copy job the thread holds has ended, or is a STREAM job. -/
def State.jobsOver (s : State) : Bool :=
  (s.myHem.heldBy s.cur.unit s.cur.slot).all fun e => e.2.state.ended || e.2.kind == 5

/-- Frees the entries the thread holds and discards the records nothing has consumed, with a STREAM job's elements. -/
def State.freeHeld (s : State) : State :=
  let l := s.myHem.heldBy s.cur.unit s.cur.slot
  (s.modMyHem fun h => l.foldl (fun h e => h.freeJob e.1) h).modQueues fun q => { q with q3 := [], q4 := [] }

/-- Steps 1 to 4 of END, and what SHIP waits for like it: the matrix operations, the release, q1 empty, the copy jobs. Past the
release END is not stopped (R396); SHIP is, until its packet has left (R450). -/
def endGate (ends : Bool) (s : State) : Exec State := do
  must (s.me.queues.q1partial == 0) cQueue 0x203
  let s ← if s.me.endStep = 0 then gate true s else .ok s
  if s.me.queues.q1 = [] && s.jobsOver then .ok s
  else .error (.wait (.ending (if ends then 1 else 0)) fun s =>
    if ends then s.modMe fun t => { t with endStep := 1, release := ⟨0, 0⟩ } else s)

/-- The packet of a SHIP to another core, as its slot would send it now (R57). -/
def State.shipFlit (s : State) (c : Nat) (p : Packet) : Flit :=
  newFlit (.core s.cur.unit s.cur.slot) (.core c 15) ((s.myPart.map (·.cls)).getD 0) s.myPartId 0 (.ship p) []

/-- The router takes the packet of a SHIP now: it has left the core (R450). -/
def State.mayDepart (s : State) (c : Nat) : Bool := s.mayLeave (s.shipFlit c ⟨0, 0, []⟩)

/-- The packet of a SHIP leaves the core, counted as sent (R67). -/
def State.depart (s : State) (c : Nat) (p : Packet) : State :=
  let f := s.shipFlit c p
  let s := s.countSent s.cur.unit
  if s.fenced f.part then s else { s with net := s.net ++ [(f.placed s.net).hop s.time] }

/-- The micro-kernel ends a task in TRAP: the launch ends with status 6 and the cause of the trap (R310, R396). -/
def State.endTrapped (s : State) (core slot : Nat) : State :=
  let t := s.coreThread core slot
  if t.trapped then s.launchError core (6 + t.regs.ecause.toNat % 256 * 256) else s

/-- END: ILLEGAL in slot 15 and at H; otherwise the slot becomes FREE (R395, R396). -/
def execEndTask (s : State) : Host.Outcome State Fault Refusal :=
  issue usesNone (fun _ _ _ s => do
    must (!s.cur.pp && s.cur.slot != 15) cIllegal 0
    let s ← endGate true s
    .ok ((s.freeHeld.endTrapped s.cur.unit s.cur.slot).endTask s.cur.unit s.cur.slot)) s

/-- SHIP (R450): it changes nothing until its packet leaves the core, in the step that frees the slot. -/
def execShip (d a : Nat) (s : State) : Host.Outcome State Fault Refusal :=
  issue ⟨false, .src a, .none, .src d⟩ (fun x _ z s => do
    must (s.me.priv == .u) cPrivilege 0
    must (!z.getLsbD 0) cMisaligned z.toNat
    match (if fld x 63 10 = 0 then s.myPart.bind fun p => p.coreFor x.toNat else none) with
    | none => trapWith cTask 3
    | some c => do
      let s ← endGate false s
      let u := s.cur.unit
      if c ≠ u && !s.mayDepart c then .error (.wait (.departure c) id)
      else
        let (p, s) := s.freeHeld.build u kShip z s.taskVals
        let s := if c = u then s.addTask u 4 p else s.depart c p
        .ok (s.endTask u s.cur.slot)) s

/-! ## PPT (R313, R314, R316, R435) -/

/-- The scalar registers of a thread's window in the groups that a mask marks dead (R40, R435). -/
def deadScalars (mask slim : Nat) : List Nat :=
  ((if mask.testBit 0 then [] else (List.range 8).map (5 + ·)) ++
    (if mask.testBit 1 then [] else (List.range 8).map (13 + ·)) ++
    (if mask.testBit 2 then [] else (List.range (slim - 32)).map (32 + ·))).filter (· < slim)

/-- The result still to come goes to a register that PPT zeroes. -/
def deadLate (mask slim : Nat) (l : Late) : Bool :=
  match l.dest with
  | .x r => (deadScalars mask slim).contains r
  | .lane .. => !mask.testBit 3
  | _ => false

/-- Zeroes the dead groups of the issuing thread. -/
def State.zeroDead (s : State) (mask : Nat) : State :=
  let s := (deadScalars mask s.slim).foldl (fun s r => s.setX r 0) s
  let b := vectorBase s.cur.slot
  let s := if mask.testBit 3 then s else s.modMyCore fun k => { k with vrf := k.vrf.delRange b (b + s.vlim) }
  s.modRegs fun g => { g with masks := if mask.testBit 4 then g.masks else [],
                              fmtctx := if mask.testBit 5 then g.fmtctx else 0 }

/-- PPT. -/
def execPpt (mask : Nat) (s : State) : Host.Outcome State Fault Refusal :=
  issue usesNone (fun _ _ _ s =>
    if s.me.priv != .u then .ok s
    else do
      lateTrapOf (s.me.pending.find? (deadLate mask s.slim))
      let s := s.zeroDead mask
      .ok (if s.stopping then s.stopThread s.cur.unit s.cur.slot mask false else s)) s

/-- TID (R467). -/
def execTid (d f : Nat) (s : State) : Host.Outcome State Fault Refusal :=
  issue (usesD d) (fun _ _ _ s =>
    let c := s.launchId s.cur.unit
    putX d (w64 (match f with
      | 0 => s.threadId s.cur.unit s.cur.slot
      | 1 => c
      | 2 => hemOf c
      | _ => stationOf c)) s) s

end Sys2Proof.Machine
end

