-- ==== Sys2Proof/Machine/SysRegs.lean ====
section
/-! DEFINITION. The system registers, the wakes, XINV, and the instructions of stops, restores and the cone (R84 to R89,
R186, R223, R315, R320, R344, R387, R389, R408, R440, R454 to R457, R469, R470, R490 to R492). -/

namespace Sys2Proof.Machine

/-! ## System registers (R84, R85) -/

/-- Numbers of the table that U may name, and that only S may. -/
def sysUser (n : Nat) : Bool := n ≤ 5 || (8 ≤ n && n ≤ 0xA) || (0x10 ≤ n && n ≤ 0x17) || n = 0x20 || n = 0x21
def sysSuper (n : Nat) : Bool := (0x100 ≤ n && n ≤ 0x105) || (0x110 ≤ n && n ≤ 0x113) || n = 0x120 || n = 0x130

/-- A supervisor register named at U. -/
def State.sysDenied (s : State) (n : Nat) : Bool := s.me.priv == .u && sysSuper n

/-- CYCLE: cycles since dispatch, without those while saved. -/
def State.cycle (s : State) : Word := w64 (s.me.cycles + (s.time - s.me.dispatched))

/-- REGWIN of the issuing slot (R88). -/
def State.regwin (s : State) : Word :=
  w64 (s.vlim * 2 ^ 48 + vectorBase s.cur.slot * 2 ^ 32 + s.slim * 2 ^ 16 + scalarBase s.cur.slot)

/-- The value of a system register for a tile core's thread (R84). -/
def State.readSys (s : State) (n : Nat) : Option Word :=
  let g := s.me.regs
  let k := s.myCore.regs
  match n with
  | 0x000 => some g.fcsr
  | 0x001 => some g.fmtctx
  | 0x002 => some g.uhvec
  | 0x003 => some g.uhpc
  | 0x004 => some g.uhcause
  | 0x005 => some g.uhval
  | 0x008 => some (w64 (s.threadId s.cur.unit s.cur.slot))
  | 0x009 => some s.regwin
  | 0x00A => some g.launchid
  | 0x020 => some s.cycle
  | 0x021 => some (w64 s.time)
  | 0x100 => some g.status
  | 0x101 => some g.epc
  | 0x102 => some g.ecause
  | 0x103 => some g.eval
  | 0x104 => some k.svec
  | 0x105 => some g.ssave
  | 0x110 => some (w64 s.myPartId)
  | 0x111 => some k.ptroot
  | 0x112 => some k.regionbase
  | 0x113 => some k.savearea
  | 0x120 => some s.myHem.hemctl
  | 0x130 => some (w64 ((s.myPart.map (·.cls)).getD 0))
  | _ => if 0x10 ≤ n && n ≤ 0x17 then some (g.barrier (n - 0x10)) else none

/-- The value of a system register for a handler slot (R456). -/
def State.readSysH (s : State) (n : Nat) : Option Word :=
  match n with
  | 0x000 => some s.me.regs.fcsr
  | 0x008 => some (w64 (s.cur.unit * 64 + s.cur.slot))
  | 0x020 => some s.cycle
  | 0x021 => some (w64 s.time)
  | _ => none

/-- SRD (R454, R456). -/
def execSrd (d n : Nat) (s : State) : Host.Outcome State Fault Refusal :=
  issue (if s.sysDenied n then usesNone else usesD d) (fun _ _ _ s => do
    must (!s.sysDenied n) cPrivilege n
    match if s.cur.pp then s.readSysH n else s.readSys n with
    | some v => putX d v s
    | none => trapWith cIllegal n) s

/-- A write to HEMCTL: RING for a cap out of range and for clearing RINGEN while a tile is live or an entry active;
a change of RINGEN zeroes slots 480 to 511 of the hem's cores (R186). -/
def State.writeHemctl (s : State) (v : Word) : Exec State := do
  let h := hemOf s.cur.unit
  let m := s.hem h
  let capOk (n : Nat) : Bool := decide (1 ≤ n) && decide (n ≤ 64)
  must (capOk (fld v 14 8) && capOk (fld v 22 16)) cRing 0x100A
  must (!(m.hemctl.getLsbD 0 && !v.getLsbD 0 &&
    (m.ring.injectors.any (fun e => e.2.active) || m.patterns.any fun e => e.2.active))) cRing 0x100A
  let zero (k : Core) : Core :=
    { k with sram := (k.sram.clearRange (slotData 480) (slotData 512)).clearRange (slotSide 480) (slotSide 512)
             sramPoison := (k.sramPoison.delRange (slotData 480 / 64) (slotData 512 / 64)).delRange
               (slotSide 480 / 64) (slotSide 512 / 64) }
  let s := if m.hemctl.getLsbD 0 == v.getLsbD 0 then s
    else (List.range 16).foldl (fun s st => s.modCore (h * 16 + st) zero) s
  .ok (s.modHem h fun m => { m with hemctl := v &&& w64 0x7F7F01 })

/-- The fields of FMTCTX that SWR sets (R87). -/
def fmtctxMask : Word := w64 0xF3F3F

/-- The effect of SWR on a tile core's thread; ILLEGAL for a register whose fields are all RO (R85, R455). -/
def State.writeSys (s : State) (n : Nat) (v : Word) : Exec State :=
  let core (f : CoreRegs → CoreRegs) : Exec State := .ok (s.modCoreRegs s.cur.unit f)
  let slot (f : Regs → Regs) : Exec State := .ok (s.modRegs f)
  match n with
  | 0x000 => slot fun g => { g with fcsr := v &&& fcsrMask }
  | 0x001 => slot fun g => { g with fmtctx := v &&& fmtctxMask }
  | 0x002 => slot fun g => { g with uhvec := v &&& ~~~(1 : Word) }
  | 0x003 => slot fun g => { g with uhpc := v }
  | 0x004 => slot fun g => { g with uhcause := v &&& 0xFF }
  | 0x005 => slot fun g => { g with uhval := v }
  | 0x100 => slot fun g => { g with status := (g.status &&& 16) ||| (v &&& 15) }
  | 0x101 => slot fun g => { g with epc := v }
  | 0x102 => slot fun g => { g with ecause := v &&& 0xFF }
  | 0x103 => slot fun g => { g with eval := v }
  | 0x104 => core fun k => { k with svec := v }
  | 0x105 => slot fun g => { g with ssave := v }
  | 0x110 | 0x130 => .ok s
  | 0x111 => core fun k => { k with ptroot := v &&& w64 0xFFFFFFFFFF000 }
  | 0x112 => core fun k => { k with regionbase := v &&& w64 0xFFFFFFFFFC000 }
  | 0x113 => core fun k => { k with savearea := v &&& w64 0xFFFFFFFFF0000 }
  | 0x120 => s.writeHemctl v
  | _ => if 0x10 ≤ n && n ≤ 0x17 && s.me.priv == .s then slot fun g => g.setBarrier (n - 0x10) v else trapWith cIllegal n

/-- SWR (R454 to R456). -/
def execSwr (n a : Nat) (s : State) : Host.Outcome State Fault Refusal :=
  issue (if s.sysDenied n then usesNone else usesA a) (fun x _ _ s => do
    must (!s.sysDenied n) cPrivilege n
    if s.cur.pp then
      if n = 0 then .ok (s.modRegs fun g => { g with fcsr := x &&& fcsrMask }) else trapWith cIllegal n
    else s.writeSys n x) s

/-- RDC (R440). -/
def execRdc (d f : Nat) (s : State) : Host.Outcome State Fault Refusal :=
  issue (usesD d) (fun _ _ _ s => putX d (if f = 0 then s.cycle else w64 s.time) s) s

/-! ## WAKE and WAKET (R48, R490, R491) -/

/-- A wake that names no park of now is stale. -/
def State.stale (s : State) (core : Nat) : State :=
  s.modCoreRegs core fun g => { g with stale := w64 (Nat.min 0xFFFFFFFF (g.stale.toNat + 1)) }

/-- The park may be turned into a trap. -/
def Park.trappable (p : Park) : Bool := p == .pagefault || p == .tagwait

/-- A wake reaches a slot of a tile core. -/
def State.wakeCore (s : State) (core slot seq : Nat) (cause : Option (Nat × Word)) : State :=
  let t := s.coreThread core slot
  if t.tstate == .parked && t.parkSeq == seq then
    match cause with
    | none => (s.modCoreThread core slot Thread.resumed).unwait false core slot
    | some (c, v) => if t.park.trappable then s.trapThread core slot c v none else s.stale core
  else if (t.tstate == .ready || t.tstate == .trap) && (t.parkSeq + 1) % 65536 == seq then
    s.modCoreThread core slot fun t => { t with wakePending := true, wakeTrap := cause }
  else s.stale core

/-- A wake reaches a handler slot: WAKET kills it. -/
def State.wakeHandler (s : State) (pp slot seq : Nat) (cause : Option (Nat × Word)) : State :=
  let t := s.thread true pp slot
  if t.tstate == .parked && t.parkSeq == seq then
    match cause with
    | none => s.modThread true pp slot Thread.resumed
    | some (c, v) => s.killHandler pp slot 2 c v
  else if t.tstate == .ready && (t.parkSeq + 1) % 65536 == seq then
    s.modThread true pp slot fun t => { t with wakePending := true, wakeTrap := cause }
  else s

/-- x[a] names a park that a wake may name (R490). -/
def State.wakeOk (s : State) (x : Word) : Bool :=
  if s.cur.pp then fld x 47 6 = 0 else fld x 47 4 = 0 && fld x 3 0 ≠ 15

/-- The checks and the release of WAKE and WAKET, then the wake. -/
def wake (x : Word) (cause : Option (Nat × Word)) (s : State) : Exec State := do
  let slot := if s.cur.pp then fld x 5 0 else fld x 3 0
  must (s.wakeOk x) cIllegal (x.toNat % 2 ^ 63)
  let s ← gate true s
  .ok (if s.cur.pp then s.wakeHandler s.cur.unit slot (fld x 63 48) cause
       else s.wakeCore s.cur.unit slot (fld x 63 48) cause)

/-- WAKE. -/
def execWake (a : Nat) (s : State) : Host.Outcome State Fault Refusal :=
  issue (usesA a).sup (fun x _ _ s => wake x none s) s

/-- WAKET. -/
def execWaket (d a b : Nat) (s : State) : Host.Outcome State Fault Refusal :=
  issue (usesRead d a b).sup (fun x y z s => do
    must (s.wakeOk x) cIllegal (x.toNat % 2 ^ 63)
    must (fld y 63 8 == 0 && decide (1 ≤ y.toNat) && decide (y.toNat ≤ 0x12)) cIllegal (y.toNat % 2 ^ 63)
    wake x (some (y.toNat, z)) s) s

/-! ## XINV (R492) -/

/-- An access sent to a home has not been performed: its request is still on its way to the home, or to the home of a remote
device, or, where it only reads, waits there; a store and an atomic at their home are ordered (R222). -/
def State.unperformed (s : State) (r : Nat) : Bool :=
  let mine (f : Flit) : Bool := (f.rseq == r || f.merged.any fun m => m.rseq == r) && f.lane == 0
  (s.net.any fun f => (match f.body with | .msg _ => mine f | _ => false)) ||
    (s.deferred.any fun e => e.2.any fun f => mine f && (f.type = tReadMiss || f.type = tEngineRead)) ||
    s.links.sent.any fun e => mine e.2

/-- The accesses that threads and the copy engine of a hem have sent to homes, with the addresses they translated. -/
def State.sentAccesses (s : State) (hem : Nat) : List (Nat × Nat) :=
  ((List.range 16).flatMap fun st => (s.core (hem * 16 + st)).threads.flatMap fun (_, (t : Thread)) =>
      (t.asks.filter fun a => a.val == .waiting).map (fun a => (a.rseq, a.va.toNat)) ++
      (t.pending.filter fun l => l.val == .waiting && l.rseq != 0).map (fun l => (l.rseq, l.va.toNat))) ++
    ((s.hem hem).jobs.filter fun e => e.2.waiting).map fun (_, (j : Job)) => (j.rseq, j.asked.toNat)

/-- The physical address lies in what a cached leaf maps. -/
def TlbEntry.maps (e : TlbEntry) (pa : Nat) : Bool := pteFrame e.pte * 4096 ≤ pa && pa < pteFrame e.pte * 4096 + e.size

/-- Those of a hem that entries of a predicate translated, and that are not yet performed (R222 step 3). A far atomic counts also
when a wake has taken its thread away from it. -/
def State.translated (s : State) (hem : Nat) (gone : TlbEntry → Bool) : List Nat :=
  let l := ((List.range 16).flatMap fun st => (s.core (hem * 16 + st)).tlb.filter gone) ++ (s.hem hem).tlb.filter gone
  let far := (List.range 16).flatMap fun st => (s.core (hem * 16 + st)).far
  ((s.sentAccesses hem).filter fun a => (l.any fun e => e.va ≤ a.2 && a.2 < e.va + e.size) && s.unperformed a.1).map (·.1) ++
    (far.filter fun a => (l.any (·.maps a.1)) && s.unperformed a.2).map (·.2)

/-- XINV removes the cached translation: it meets the range, or all of the partition's go. -/
def TlbEntry.meets (e : TlbEntry) (lo hi part : Nat) (all : Bool) : Bool :=
  e.part == part && (all || (e.va < hi && lo < e.va + e.size))

/-- XINV: the entries go at once; the thread waits until the accesses translated with them are done. At H it completes
with no effect. -/
def execXinv (a b : Nat) (s : State) : Host.Outcome State Fault Refusal :=
  issue (usesAB a b).sup (fun x y _ s => do
    if s.cur.pp then .ok s
    else do
      let lo := x.toNat / 4096 * 4096
      let hi := (x.toNat + y.toNat + 4095) / 4096 * 4096
      must (windowOf x.toNat == .global && decide (hi ≤ 2 ^ 56)) cWindow x.toNat
      match s.myPart with
      | none => .ok s
      | some p =>
        let gone (e : TlbEntry) : Bool := e.meets lo hi p.id (y == 0)
        let reqs := p.hemList.flatMap fun h => s.translated h gone
        let root := s.myCore.regs.ptroot
        let s := s.mapCores p fun k => { k with
          tlb := k.tlb.filter fun e => !gone e
          regs := if y == 0 then { k.regs with walkRoot := root } else k.regs }
        let s := s.mapHems p fun h => { h with tlb := h.tlb.filter fun e => !gone e }
        .ok (s.modMe fun t => t.waits (.invalidations reqs))) s

/-! ## SSTOP, CQSC, TSTART, CONERD, IDLE -/

/-- SSTOP (R315, R457): the stop time goes to every core. -/
def execSstop (d a : Nat) (s : State) : Host.Outcome State Fault Refusal :=
  issue (usesDA d a).sup (fun x _ _ s =>
    match s.myPart with
    | none => trapWith cTask 5
    | some p => do
      must (p.root == s.cur.unit) cTask 5
      must (p.stop == .run) cTask 6
      let n := p.stopSeq + 1
      let t := Nat.max x.toNat s.time
      let s := s.modPart p.id fun p => { p with stop := .stopping, stopSeq := n, stopAt := t, lastSweep := none }
      let s := p.cores.foldl (fun s c => s.modCore c fun k => { k with stop := { k.stop with stopAt := some t } }) s
      let s := (s.queuesMove p qRunning qStopped).modPart p.id fun p => { p with queues := [] }
      putX d n s) s

/-- The job is between two elements; the scale byte of a ZSKIP block stays over its bytes (R249). -/
def Job.between (j : Job) : Bool :=
  j.buf = [] && j.wrote = 0 && !j.waiting && (j.index.isNone || (j.zskip && j.pos % j.block ≠ 0))

/-- What CQSC makes of a job: `none` where it runs in the middle of an element (R320). -/
def Job.quiesce (j : Job) : Option JobState :=
  match j.state with
  | .queued | .paused => some .cancelled
  | .running => if j.between then some .cancelled else none
  | _ => none

/-- ENGINE with a barrier's number at the thread whose CQSC made the addition, at its next issue (R83; DESIGN CHOICE, log
entry 83: the spec does not say which thread takes it). -/
def State.carryTrap (s : State) (hem i : Nat) : State :=
  match (s.partOfHem hem).bind (·.cqsc) with
  | some (c, t, _, _) => s.modCoreThread c t fun h => { h with lateTrap := h.lateTrap.orElse fun _ => some (cEngine, w64 i) }
  | none => s

/-- A job is cancelled: the bytes it delivered are owed again (R320). -/
def State.cancelJob (s : State) (hem e : Nat) : State :=
  match (s.hem hem).job e with
  | some j =>
    let carry := j.bcen && (s.coreThread j.core j.slot).regs.carries j.bcb j.delivered
    let s := if j.bcen then s.modCoreThread j.core j.slot fun t => { t with regs := t.regs.addBarrier j.bcb j.delivered } else s
    let s := if carry then s.carryTrap hem j.bcb else s
    s.endJob hem e .cancelled 0
  | none => s

/-- CQSC acts on the jobs of a hem that are between elements; the number it cancels. -/
def State.quiesceHem (s : State) (hem : Nat) : Nat × State :=
  (s.hem hem).jobs.foldl (fun (n, s) e => match e.2.quiesce with
    | some _ => (n + 1, s.cancelJob hem e.1)
    | none => (n, s)) (0, s)

/-- CQSC (R320, R389): x[d] comes, and STOP becomes SAVING, when every engine has reported. A CQSC before that is one too
many, as R389 says of two. -/
def execCqsc (d a : Nat) (s : State) : Host.Outcome State Fault Refusal :=
  issue (usesDA d a).sup (fun x _ _ s => do
    must (x == 0) cIllegal (x.toNat % 2 ^ 63)
    match s.myPart with
    | none => trapWith cTask 6
    | some p => do
      must (p.stop == .quiesced && p.cqsc.isNone) cTask 6
      reserveX d s
      let late := s.seq
      let s := { s with seq := s.seq + 1 }.modPart p.id fun p => { p with cqsc := some (s.cur.unit, s.cur.slot, late, 0) }
      let (n, s) := p.hemList.foldl (fun (n, s) h =>
        let (m, s) := State.quiesceHem s h
        (n + m, s)) (0, s)
      let s := s.modPart p.id fun p => { p with cqsc := some (s.cur.unit, s.cur.slot, late, n) }
      .ok (s.expect ⟨late, 0, lateDest d, 0, 8, false, .waiting⟩)) s

/-- The lists of a restore descriptor: the areas, or nothing where one is misaligned or outside
space 0 (R469, R470). -/
def State.areaList (s : State) (base : Word) (n : Nat) : Option (List Nat) :=
  let l := (s.devWords base.toNat n).map (·.toNat)
  if base.toNat % 8 = 0 && l.all fun a => a % 65536 = 0 && a / 2 ^ 48 = 0 then some l else none

/-- The status of TSTART, with the lists where it is 0 (R470). -/
def tstartStatus (x : Word) (s : State) : Exec (Nat × Option (Partition × List Nat × List Nat) × State) :=
  match s.myPart with
  | none => .ok (4, none, s)
  | some p =>
    if p.root ≠ s.cur.unit then .ok (4, none, s)
    else if !(p.stop == .empty || p.stop == .saved) || p.kiln.isSome || p.trust == .error then .ok (3, none, s)
    else do
      let (l, s) ← readNow .vload .vector (dwordEls x 8) s
      let wd (i : Nat) : Word := w64 ((l.map (·.2)).getD i 0)
      if fld (wd 2) 2 0 ≠ p.level then .ok (1, none, s)
      else if fld (wd 2) 63 3 ≠ 0 || (List.range 5).any fun i => wd (3 + i) != 0 then .ok (2, none, s)
      else match s.areaList (wd 0) p.hemCount, s.areaList (wd 1) (16 * p.hemCount) with
        | some hs, some cs => .ok (0, some (p, hs, cs), s)
        | _, _ => .ok (2, none, s)

/-- TSTART. -/
def execTstart (d a : Nat) (s : State) : Host.Outcome State Fault Refusal :=
  issue (usesDA d a).sup (fun x _ _ s => do
    reserveX d s
    let (n, go, s) ← tstartStatus x s
    lateX d (w64 n) (match go with
      | some (p, hems, cores) =>
        s.modPart p.id fun q => { q with stop := .restoring, restore := some ⟨p.stop, hems, cores⟩ }
      | none => s)) s

/-- CONERD (R344, R387). -/
def execConerd (d a : Nat) (s : State) : Host.Outcome State Fault Refusal :=
  issue (usesDA d a) (fun x _ _ s => do
    must (x.toNat % 64 == 0) cMisaligned x.toNat
    let g := (s.myPart.map (·.regs)).getD PartRegs.reset
    let vals := (dwordEls x 16).map fun e => (e, (byteWord g.cone (8 * e.lane)).toNat)
    let s ← storeAll .vstore .vector vals OrdFld.plain s
    putX d (byteWord g.cone 16) s) s

/-- IDLE (R408). -/
def execIdle (s : State) : Host.Outcome State Fault Refusal :=
  issue usesNone.sup (fun _ _ _ s => do
    must (s.cur.slot == 15) cIllegal 0
    if s.myCore.q7 = [] then .error (.park .idle .q7 id) else .ok s) s

end Sys2Proof.Machine
end

