-- ==== Sys2Proof/Machine/Messages.lean ====
section
/-! DEFINITION. Protocol messages as a handler sees and names them: headers, agents, control words; the region table
(R259, R269 to R271, R346). -/

namespace Sys2Proof.Machine

/-! ## Agents as AGENT names them (R269, R346) -/

/-- AGENT of an agent. -/
def State.agentCode (s : State) : Agent → Nat
  | .core c slot => s.threadId c slot % 2 ^ 14
  | .pp n => 2 ^ 14 + n
  | .hem h => 2 * 2 ^ 14 + h
  | .engine h => 2 * 2 ^ 14 + h
  | .port n => 3 * 2 ^ 14 + n

/-- The partition may use a port: the host link's, which names no remote device, or a fabric port (R329, R346). -/
def Partition.portOk (p : Partition) (n : Nat) : Bool :=
  if n / 4096 = 0 then p.regs.plink.getLsbD 16 && n / 256 % 16 < 2 && n % 256 = 0
  else n / 4096 = 1 && p.regs.plink.getLsbD (n / 256 % 16)

/-- The agent that a handler's AGENT names for a message; `none` where it lies outside the partition. An INVALIDATE,
RECALL or PUSH to a copy engine's hem goes to the cores of that hem (R276; log entry 25). -/
def Partition.agentFor (p : Partition) (code lane type : Nat) : Option Agent :=
  match code / 2 ^ 14 % 4 with
  | 0 => (p.coreFor (code / 16 % 1024)).map fun c => .core c (code % 16)
  | 1 => if code % 64 < 50 then some (.pp (code % 64)) else none
  | 2 =>
    let h := code % 64
    if !p.covers h then none
    else if lane = 2 && rInvalidate ≤ type && type ≤ rPush then some (.hem h) else some (.engine h)
  | _ =>
    let n := code % 2 ^ 14
    if p.portOk n then some (.port n) else none

/-! ## Control words (R270; log entry 23) -/

/-- Control words that the manual gives a request of a type. -/
def wordCount (lane type : Nat) (words : List Word) : Nat :=
  if lane = 2 then words.length
  else match type with
  | 0 | 1 | 2 | 4 | 5 | 7 | 8 | 9 => 2
  | 3 => if fld (words.getD 1 0) 7 4 = 9 then 4 else 3
  | 6 => 1
  | _ => words.length

/-- The control words that a handler sees. -/
def Flit.words (f : Flit) : List Word :=
  match f.body with
  | .msg m => m.words.take (wordCount m.lane m.type m.words)
  | _ => []

/-- The payload. -/
def Flit.payload (f : Flit) : Option Line := match f.body with | .msg m => m.payload | _ => none

/-- The place among the words of a request of a type that its protocol and region take. -/
def protPlace (type : Nat) : Nat := match type with | 3 => 4 | 6 => 1 | _ => 2
/-- Protocol and region of the page a request came through, which follow its words on the mesh. The spec gives them no carrier: of a
request that a handler or a port sends, the model takes the word at that place, 0 where there is none (log entry 23). -/
def Flit.protWord (f : Flit) : Word :=
  match f.body with
  | .msg m => m.words.getD (protPlace m.type) 0
  | _ => 0
def Flit.prot (f : Flit) : Nat := fld f.protWord 3 0
def Flit.region (f : Flit) : Nat := fld f.protWord 11 4

/-- The header of a message, with its source in AGENT (R269). -/
def State.headerOf (s : State) (f : Flit) : Word :=
  w64 ((if f.payload.isSome then 2 ^ 52 else 0) + f.type % 16 * 2 ^ 48 + f.lane % 4 * 2 ^ 46 + f.cls % 4 * 2 ^ 44 +
    f.words.length % 16 * 2 ^ 40 + s.agentCode f.src * 2 ^ 24 + f.part % 65536 * 2 ^ 8 + f.rseq % 256)

/-! ## The region table (R259) -/

/-- Where a partition's descriptors are: REGIONBASE of its root core (log entry 9). -/
def State.regionBase (s : State) (p : Partition) : Nat := (s.core p.root).regs.regionbase.toNat
/-- Physical address of descriptor n. -/
def State.descAt (s : State) (p : Partition) (n : Nat) : Nat := s.regionBase p + 64 * n
/-- Dword i of descriptor n. -/
def State.desc (s : State) (p : Partition) (n i : Nat) : Word := s.partWord p (s.descAt p n + 8 * i)
/-- Writes dword i of descriptor n. A table outside the partition's own frames is not written (R2; log entry 75). -/
def State.setDesc (s : State) (p : Partition) (n i : Nat) (v : Word) : State :=
  if p.ownsWord (s.descAt p n + 8 * i) then s.devSetWord (s.descAt p n + 8 * i) v else s

/-- Fields of CTL. -/
def ctlProt (c : Word) : Nat := fld c 3 0
def ctlExt (c : Word) : Bool := c.getLsbD 8
def ctlState (c : Word) : Nat := fld c 15 12
def ctlRsub (c : Word) : Nat := fld c 23 20
def ctlClass (c : Word) : Nat := fld c 35 32
def ctlRop (c : Word) : Nat := fld c 39 36
def ctlRtype (c : Word) : Nat := fld c 41 40
def ctlNpart (c : Word) : Nat := fld c 47 42

/-- Sets STATE and RSUB of a region. -/
def State.setRegion (s : State) (p : Partition) (n state rsub : Nat) : State :=
  s.setDesc p n 2 (setFld (setFld (s.desc p n 2) 15 12 state) 23 20 rsub)

/-- Entry i of a region's extension list, with its reserved bits (R260). -/
def State.extEntry (s : State) (p : Partition) (n i : Nat) : Nat :=
  (s.partWord p ((s.desc p n 3).toNat + i / 4 * 8)).toNat / 2 ^ (16 * (i % 4)) % 2 ^ 16
def State.extCore (s : State) (p : Partition) (n i : Nat) : Nat := s.extEntry p n i % 1024

/-- A region of the partition that is bound, being bound or being closed, and that holds an address. -/
def State.regionAt (s : State) (p : Partition) (pa : Nat) : Option Nat :=
  (List.range 256).find? fun n => decide (ctlState (s.desc p n 2) ≠ 0) && decide ((s.desc p n 0).toNat ≤ pa) &&
    decide (pa ≤ (s.desc p n 1).toNat)

/-- Sets the word that names protocol and region. -/
def Flit.under (f : Flit) (prot region : Nat) : Flit :=
  match f.body with
  | .msg m =>
    let words := m.words ++ List.replicate (protPlace m.type + 1 - m.words.length) 0
    { f with body := .msg { m with words := words.set (protPlace m.type) (w64 (prot + region * 16)) } }
  | _ => f

/-- A request as its home serves it. One that comes over a port carries only R270's words: unless it is a UC access, the region
that holds its address says under which protocol it is served, UNCACHED where none does (R263, R347; log entry 23). -/
def State.asServed (s : State) (p : Partition) (f : Flit) : Flit :=
  match f.src with
  | .port _ =>
    if f.type ≤ 3 && (f.word 1).getLsbD 10 then f
    else match s.regionAt p (f.word 0).toNat with
      | some n => f.under (ctlProt (s.desc p n 2)) n
      | none => f.under 0 0
  | _ => f

end Sys2Proof.Machine
end

