-- ==== Sys2Proof/Machine/Handlers.lean ====
section
/-! DEFINITION. The instructions of page 13, which only protocol processors run (R273, R276, R277, R385, R392, R407,
R444). A kill with a number is a PROTOCOL trap at privilege H. -/

namespace Sys2Proof.Machine

/-- Kills the slot with PROTOCOL and an EVAL (R277). -/
def kill {α : Type} (n : Nat) : Exec α := trapWith cProtocol n

/-- The handler slot of the issuing thread. -/
def State.handler (s : State) : Handler := (s.pp s.cur.unit).handler s.cur.slot
def State.modMyHandler (s : State) (f : Handler → Handler) : State := s.modHandler s.cur.unit s.cur.slot f

/-- The handler was dispatched on the inbound request lane. -/
def Handler.inbound (h : Handler) : Bool := (h.req.map Flit.lane).getD 0 == 1

/-- The data buffer and the reply buffer of a slot (R273). -/
def dataBuffer (slot : Nat) : Nat := slot * 0x400 + 0x3C0
def replyBuffer (slot : Nat) : Nat := slot * 0x400 + 0x380

/-! ## HSEND and GRANT -/

/-- A message type that a handler may not send on a lane (R270). -/
def typeReserved (lane type : Nat) : Bool := if lane = 2 then 8 ≤ type else 11 ≤ type

/-- The message expects an answer (R270): every request but RCMD, and INVALIDATE, RECALL and PUSH. -/
def expectsAnswer (lane type : Nat) : Bool := (lane = 1 && type ≠ tRcmd) || (lane = 2 && rInvalidate ≤ type && type ≤ rPush)

/-- Sends a message of the handler. A reply goes under the sequence its header names, the request's own where it answers
that, and to all that a router combined with it (R33); a second answer is dropped and counted. -/
def State.handlerSend (s : State) (h : Word) (dst : Agent) (words : List Word) (payload : Option Line) (seq : Nat) : State :=
  let u := s.cur.unit
  let lane := fld h 47 46
  let type := fld h 51 48
  let me := s.handler
  let cls := ((s.partById me.part).map (·.cls)).getD 0
  let body : Body := .msg ⟨lane, type, words, payload⟩
  if expectsAnswer lane type then s.send (.pp u) dst cls me.part seq body
  else
    let own := match me.req with
      | some r => lane == 2 && s.agentCode r.src == fld h 39 24 && r.rseq % 256 == fld h 7 0
      | none => false
    if own && me.answered then s.modPP u fun p => { p with dropped := p.dropped + 1 }
    else if own then
      match me.req with
      | some r => (s.reply (.pp u) r type words payload).modMyHandler fun m => { m with answered := true }
      | none => s
    else s.send (.pp u) dst cls me.part (fld h 7 0) body

/-- The output buffer of the protocol processor is full: what its slots have sent and no router has taken in yet fills its
places, whose number the spec does not give (R277; log entry 90). -/
def State.outputFull (s : State) (u : Nat) : Bool :=
  Config.outputDepth ≤ s.net.countP fun f => !f.entered && f.src == .pp u

/-- HSEND (R277, R407). -/
def execHsend (d a b : Nat) (s : State) : Host.Outcome State Fault Refusal :=
  issue ⟨false, .src a, if b < 120 then .src b else .none, .dst d⟩ (fun x _ _ s => do
    let lane := fld x 47 46
    let type := fld x 51 48
    let len := fld x 43 40
    if lane = 0 || lane = 3 || (s.handler.inbound && lane = 1) then kill 1
    else if 8 < len || 31 < b + len - 1 || typeReserved lane type then kill 2
    else match (s.partById s.handler.part).bind fun p => p.agentFor (fld x 39 24) lane type with
      | none => kill 3
      | some dst =>
        if 8 ≤ s.handler.awaiting.length || s.outputFull s.cur.unit then .error (.park .qfull .answers id)
        else do
          let words := (List.range len).map fun i => s.x (b + i)
          let data := if x.getLsbD 52 then some ((s.pp s.cur.unit).sram.line (dataBuffer s.cur.slot)) else none
          let vis := s.handler.nextSeq % 256
          let seq := s.seq * 16384 + s.cur.slot * 256 + vis
          let s := s.handlerSend x dst words data seq
          if expectsAnswer lane type then
            let s := { s with seq := s.seq + 1 }.modMyHandler fun m =>
              { m with awaiting := m.awaiting ++ [seq], nextSeq := (m.nextSeq + 1) % 256 }
            putX d (w64 vis) s
          else putX d 0 s) s

/-- The 64 bytes that a handler names: its data buffer for 0, a slice line, or handler memory; kills with EVAL 4 what
R273 does not allow. -/
def handlerBlock (x : Word) (s : State) : Exec Place :=
  if x = 0 then .ok (.handler (dataBuffer s.cur.slot))
  else if x.toNat % 64 ≠ 0 then kill 4
  else match handlerCheck s ⟨x.toNat, 64, 0⟩ with
    | .ok p => .ok p
    | .error _ => kill 4

/-- Reads a block that a handler named. -/
def blockRead (p : Place) (s : State) : Exec Line :=
  match s.poisonAt ⟨0, 64, 0⟩ p with
  | some (_, a) => .error (.trap cPoison (w64 a) none)
  | none => .ok (BitVec.ofNat 512 (s.readPlace 64 p))

/-- GRANT: LEN 1, DATA 1 (R277, R407). -/
def execGrant (d a b : Nat) (s : State) : Host.Outcome State Fault Refusal :=
  issue (usesRead d a b) (fun x y z s => do
    if fld x 47 46 ≠ 2 || 8 ≤ fld x 51 48 then kill 8
    else do
      let l ← handlerBlock y s >>= fun p => blockRead p s
      match (s.partById s.handler.part).bind fun p => p.agentFor (fld x 39 24) 2 (fld x 51 48) with
      | none => kill 3
      | some dst => .ok (s.handlerSend x dst [z] (some l) 0)) s

/-- The handler writes the block of the whole-line ENGINE-WRITE that it serves, with the bytes that came with it (R234). -/
def Handler.writesLine (h : Handler) (slot : Nat) (src dst : Place) : Bool :=
  src == .handler (dataBuffer slot) && (match h.req, dst with
    | some r, .slice pa => r.type = tEngineWrite && (r.word 1).toNat = 2 ^ 64 - 1 && h.block == pa
    | _, _ => false)

/-- Writes a block that a handler named: a poisoned line takes only a copy engine's write of the whole of it, which clears its
poison (R233, R234). -/
def blockWrite (src dst : Place) (l : Line) (s : State) : Exec State :=
  match s.poisonAt ⟨0, 64, 0⟩ dst with
  | some (_, a) =>
    if s.handler.writesLine s.cur.slot src dst then .ok { s.writePlace 64 l.toNat dst with poison := s.poison.del (a / 64) }
    else .error (.trap cPoison (w64 a) none)
  | none => .ok (s.writePlace 64 l.toNat dst)

/-- BXF (R385). -/
def execBxf (d a b : Nat) (s : State) : Host.Outcome State Fault Refusal :=
  issue (usesDAB d a b) (fun x y _ s => do
    let src ← handlerBlock x s
    let dst ← handlerBlock y s
    let l ← blockRead src s
    let s ← if src = dst then .ok s else blockWrite src dst l s
    putX d 0 s) s

/-! ## Directory entries (R276, R277, R392) -/

/-- Dword i of an entry. -/
def DirEntry.dword (e : DirEntry) (i : Nat) : Word :=
  match i with
  | 0 => w64 (e.dword0.toNat % 2 ^ 56 + e.hslot % 64 * 2 ^ 56 + (if e.failed then 2 ^ 62 else 0) + (if e.locked then 2 ^ 63 else 0))
  | 1 => e.sharers
  | 2 => e.pw0
  | _ => e.pw1

/-- Writes dword i; LOCK, FAILED and HSLOT stay. -/
def DirEntry.setDword (e : DirEntry) (i : Nat) (v : Word) : DirEntry :=
  match i with
  | 0 => { e with dword0 := w64 (v.toNat % 2 ^ 56) }
  | 1 => { e with sharers := v }
  | 2 => { e with pw0 := v }
  | _ => { e with pw1 := v }

/-- The checks of DLD and DST, and the lock they take: the state, the block and the dword. -/
def dirAccess (x : Word) (imm : Int) (s : State) : Exec (State × Nat × Nat) :=
  let p := x.toNat
  if p % 64 ≠ 0 || 2 ^ 52 ≤ p || s.homeFor p ≠ s.cur.unit then kill 4
  else if imm < 0 || 3 < imm then kill 5
  else if s.handler.locks.contains p then .ok (s, p, imm.toNat)
  else if s.handler.locks.any fun q => p < q then kill 6
  else if (s.entry p).locked then .error (.park .tagwait (.lock p) id)
  else
    let s := s.setEntry p { s.entry p with locked := true, hslot := s.cur.slot }
    .ok (s.modMyHandler fun m => { m with locks := m.locks ++ [p] }, p, imm.toNat)

/-- DLD. -/
def execDld (d a : Nat) (imm : Int) (s : State) : Host.Outcome State Fault Refusal :=
  issue (usesDA d a) (fun x _ _ s => do
    let (s, p, i) ← dirAccess x imm s
    putX d ((s.entry p).dword i) s) s

/-- DST. -/
def execDst (d a : Nat) (imm : Int) (s : State) : Host.Outcome State Fault Refusal :=
  issue ⟨false, .src a, .none, .src d⟩ (fun x _ z s => do
    let (s, p, i) ← dirAccess x imm s
    .ok (s.setEntry p ((s.entry p).setDword i z))) s

/-! ## HEND and HDEFER -/

/-- Messages that waited for a block take their places at the home again, before every later one (R277). -/
def State.redispatch (s : State) (b : Nat) : State :=
  { s with net := (s.deferred.at b []).filter (fun f => !s.fenced f.part) ++ s.net, deferred := s.deferred.del b }

/-- Unlocks an entry; its deferred messages are dispatched again. -/
def State.unlock (s : State) (b : Nat) : State := (s.setEntry b { s.entry b with locked := false, hslot := 0 }).redispatch b

/-- The slot ends: its entries are unlocked, it is free. -/
def State.endHandler (s : State) (pp slot : Nat) : State :=
  (((s.pp pp).handler slot).locks.foldl State.unlock s).freeHandler pp slot

/-- The handler was dispatched for a home's part of a region's close (R263). -/
def Handler.closes (h : Handler) : Bool := (h.req.map Flit.closes).getD false

/-- HEND: a request nothing has answered is answered FAIL, with a record of reason 3. A handler of RCMD has finished its
home's part of the close. -/
def execHend (s : State) : Host.Outcome State Fault Refusal :=
  issue usesNone (fun _ _ _ s =>
    let u := s.cur.unit
    let t := s.cur.slot
    let s := match s.handler.req with
      | some r =>
        if s.handler.answered || r.type = tRcmd then s
        else (s.handlerFault u t 3 0 0).failReply (.pp u) r cProtocolFailed
      | none => s
    let s' := s.endHandler u t
    .ok (if s.handler.closes then s'.homeDone s.handler.part s.handler.region else s')) s

/-- HDEFER: the message goes to the tail of its block's deferred list. -/
def execHdefer (s : State) : Host.Outcome State Fault Refusal :=
  issue usesNone (fun _ _ _ s =>
    let h := s.handler
    let s := match h.req with
      | some r => { s with deferred := s.deferred.put h.block (s.deferred.at h.block [] ++ [r]) }
      | none => s
    .ok ((s.endHandler s.cur.unit s.cur.slot).redispatch h.block)) s

/-! ## RGN (R277, R444) -/

/-- RGN. -/
def execRgn (d a : Nat) (s : State) : Host.Outcome State Fault Refusal :=
  issue (usesDA d a) (fun x _ _ s =>
    let i := fld x 5 0
    let n := fld x 15 8
    if 40 ≤ i then kill 9
    else match s.partById s.handler.part with
      | none => kill 9
      | some p => putX d (if i < 8 then s.desc p n i
          else if ctlExt (s.desc p n 2) then s.partWord p ((s.desc p n 3).toNat + 8 * (i - 8)) else 0) s) s

end Sys2Proof.Machine
end

