-- ==== Sys2Proof/Machine/ThreadEvents.lean ====
section
/-! DEFINITION. What comes to a thread between its instructions: results, wakes, re-reads, walks; errors found in
storage; records entering q7 (R45 to R50, R78, R181, R220 to R228, R232 to R235, R312, R361, R410, R414, R488, R489,
R505). -/

namespace Sys2Proof.Machine

/-- Carries out something in the place of a slot, between instructions. -/
def State.asSlot (s : State) (pp : Bool) (u t : Nat) (f : State → State) : State :=
  { f { s with cur := ⟨pp, u, t, (s.thread pp u t).pc, 1⟩ } with cur := s.cur }

/-- An event of a slot: cores 0 to 1,023, then the protocol processors. -/
def slotEvent (core slot : Nat) (f : State → State) (s : State) : Host.Outcome State Fault Refusal :=
  let pp := decide (1024 ≤ core)
  let u := if pp then core - 1024 else core
  if (⟨pp, u, slot, 0, 0⟩ : Actor).valid then .next (s.asSlot pp u slot f) else .fault .noSuchAgent

/-! ## Results that come after issue (R45, R414, R505) -/

/-- Puts a result where it goes. -/
def State.deliver (s : State) (l : Late) : State :=
  match l.val with
  | .ready v =>
    let x := extend l.size l.signed v.toNat
    match l.dest with
    | .x r => s.setX r x
    | .lane d w i => s.setV d (setLane (s.v d) w i x.toNat)
    | .q1 => s.latePush x
  | _ => s

/-- The first instruction all of whose results have come unharmed. -/
def Thread.arrived (t : Thread) : Option Nat :=
  (t.pending.find? fun l => t.pending.all fun m => m.id != l.id || (match m.val with | .ready _ => true | _ => false)).map (·.id)

/-- A thread that is WAITING goes on (R50). -/
def Thread.goOn (t : Thread) (ok : WaitFor → Bool) : Thread := if t.tstate == .waiting && ok t.wait then t.resumed else t

/-- A value that has come for q1 completes a message, so that it is sent (R505). -/
def State.completesLate (s : State) (l : Late) : Bool :=
  match l.dest, l.val with
  | .q1, .ready v =>
    let x := extend l.size l.signed v.toNat
    s.me.queues.completes x && !(s.me.queues.q1partial = 0 && (s.headerFault x).isSome)
  | _, _ => false

/-- What the send of a message that a late value completes still waits for: earlier results and matrix operations of the
thread, the release actions of the core (R177, R302, R505). -/
def State.lateGate (s : State) (n : Nat) : Rel :=
  let l := s.me.pending.filter (·.id == n)
  if !(l.any s.completesLate) then .done
  else if (s.me.pending.any fun m => m.id < n) || s.myCore.array.ops s.cur.slot ≠ [] then .hold id
  else s.release

/-- The results of the first such instruction are delivered, and a thread that waits for them goes on (R45, R50); a value
that sends a message first lets the send's release act (R302). -/
def State.arriveResult (s : State) : State :=
  match s.me.arrived with
  | none => s
  | some n =>
    match s.lateGate n with
    | .hold fx => fx s
    | .done =>
      let sends := (s.me.pending.filter (·.id == n)).any s.completesLate
      let s' := (s.me.pending.filter (·.id == n)).foldl State.deliver s
      s'.modMe fun t =>
        let t := { t with pending := t.pending.filter (·.id != n), release := if sends then ⟨0, 0⟩ else t.release }
        t.goOn fun w => w == .regs n || (w == .results && t.pending.isEmpty)

/-- RESULT_ARRIVAL. -/
def execResultArrival (core slot : Nat) (s : State) : Host.Outcome State Fault Refusal := slotEvent core slot State.arriveResult s

/-- The mark of the first instruction, among those asked for, whose results have all come, one of them poisoned or
refused: its number, and the trap. -/
def Thread.lateFault (t : Thread) (ok : Nat → Bool) : Option (Nat × Nat × Word) :=
  (t.pending.filter fun l => ok l.id && t.pending.all fun m => m.id != l.id || m.val != .waiting).findSome? fun l =>
    l.fault.map fun x => (l.id, x)

/-- The mark at which a thread traps as its awaited result comes poisoned, or at the point where a stop would save it (R50,
R414). -/
def Thread.dueFault (t : Thread) : Option (Nat × Nat × Word) :=
  if t.saved.isSome then t.lateFault fun _ => true
  else if t.tstate == .waiting then
    match t.wait with
    | .regs n => t.lateFault (· == n)
    | .results => t.lateFault fun _ => true
    | _ => none
  else none

/-- A thread that a stop has taken off its slot is back in it, to take its trap there. -/
def Thread.unsaved (t : Thread) : Thread :=
  match t.saved with
  | some x => { t with tstate := x.tstate, saved := none }
  | none => t

/-- POISONED_RESULT: a thread that waits for it traps; any other keeps the mark. A saved thread takes the trap, too, of a header
that a late push refused (R414, R505). -/
def State.poisonedResult (s : State) : State :=
  match if s.me.saved.isSome then s.me.lateTrap else none, s.me.dueFault with
  | some (c, v), _ => (s.modMe Thread.unsaved).takeTrap c v none
  | none, some (n, c, v) => (s.modMe Thread.unsaved).halt (.markTrap n c v)
  | none, none => s

/-- POISONED_RESULT. -/
def execPoisonedResult (core slot : Nat) (s : State) : Host.Outcome State Fault Refusal := slotEvent core slot State.poisonedResult s

/-! ## Wakes (R47, R48, R410, R489) -/

/-- The watched dword makes a JOIN or a WAITM go on. -/
def watchOver (w : WaitFor) (v : Word) : Bool :=
  match w with
  | .zeroAt .. => v == 0
  | .differsAt _ _ x _ _ => v != x
  | _ => false

/-- The condition that the slot's thread is parked or WAITING for holds (R47). -/
def State.waitOver (s : State) : Bool :=
  let t := s.me
  let u := s.cur.unit
  match t.wait with
  | .nothing | .page _ => false
  | .regs n => t.pending.all (·.id != n)
  | .results => t.pending = []
  | .queue q n => (s.popN q n).isSome
  | .q1room n => s.q1Room n
  | .block pa _ => (s.core u).tagAt pa != .busy
  | .barrier i => (barDone (s.myCore.bar i)).testBit s.cur.slot
  | .bytes i => bcbPend (t.regs.barrier i) == 0 || (s.failedAt u s.cur.slot i).isSome
  | .zeroAt va pa uc _ =>
    !uc && (match s.watched s.cur.pp u va pa uc with | some v => watchOver t.wait v | none => true)
  | .differsAt va pa _ uc _ =>
    !uc && (match s.watched s.cur.pp u va pa uc with | some v => watchOver t.wait v | none => true)
  | .jobEnd n => match s.jobOf u s.cur.slot n with | some j => j.state.ended | none => true
  | .jobsEnd => (s.myHem.heldBy u s.cur.slot).all fun e => e.2.state.ended || e.2.kind == 5
  | .jobRoom => s.jobRoom u s.cur.slot
  | .liveCap fam => s.myHem.live fam < s.myHem.cap fam && !s.myHem.stopped
  | .q7 => s.myCore.q7 != []
  | .release => !(s.core u).releaseOpen t
  | .matrix => s.myCore.array.ops s.cur.slot = []
  | .asks => t.asks.all fun a => a.val != .waiting
  | .line b => (s.walkStores.look b).isNone
  | .invalidations l => l.all fun r => !s.unperformed r
  | .rings => !s.ringsOpen u s.cur.slot
  | .table i => !(s.core u).tableHeld s.cur.slot i
  | .tableUsers i since => !(s.core u).array.uses i since
  | .departure dst => s.mayDepart dst
  | .ending _ => t.queues.q1 = [] && s.jobsOver
  | .answers => s.cur.pp && s.handler.awaiting.length < 8 && !s.outputFull s.cur.unit
  | .lock pa => !(s.entry pa).locked

/-- A wake source signals: a wake latched with the park acts at once; otherwise the condition is looked at again. -/
def State.threadWake (s : State) : State :=
  let t := s.me
  if t.tstate == .parked && t.wakePending then
    let s := s.modMe fun t => { t with wakePending := false, wakeTrap := none }
    match t.wakeTrap with
    | none => (s.modMe Thread.resumed).unwait s.cur.pp s.cur.unit s.cur.slot
    | some (c, v) =>
      if s.cur.pp || t.park.trappable then s.takeTrap c v none else s.stale s.cur.unit
  else if (t.tstate == .parked || t.tstate == .waiting) && s.waitOver then s.modMe Thread.resumed
  else s

/-- THREAD_WAKE. -/
def execThreadWake (core slot : Nat) (s : State) : Host.Outcome State Fault Refusal := slotEvent core slot State.threadWake s

/-- The time of the last read of a watched line that carries no tag. -/
def WaitFor.seen : WaitFor → Option (Nat × Nat)
  | .zeroAt _ pa true t | .differsAt _ pa _ true t => some (pa, t)
  | _ => none

/-- Notes a re-read. -/
def WaitFor.see (now : Nat) : WaitFor → WaitFor
  | .zeroAt va pa u _ => .zeroAt va pa u now
  | .differsAt va pa v u _ => .differsAt va pa v u now
  | w => w

/-- The watched word is read again: its home is asked (R266, R410); a handler looks at its own slice itself (R273, R489). -/
def State.reread (s : State) : State :=
  match s.me.wait.seen with
  | some (pa, _) =>
    if s.me.tstate == .parked && s.me.asks = [] then
      match s.me.wait with
      | .zeroAt va .. | .differsAt va .. =>
        if s.cur.pp then
          (if s.poisoned pa || watchOver s.me.wait (s.mem.word pa) then s.modMe Thread.resumed
           else s.modMe fun t => { t with wait := t.wait.see s.time })
        else
        (s.ask 1 0 (w64 va) tReadMiss pa [infoWord .load 0 true false true s.supBit, protWord pUncached 0, 8]).modMe fun t =>
          { t with wait := t.wait.see s.time }
      | _ => s
    else s
  | none => s

/-- JOIN_REREAD: 1,024 cycles after the last read (R410, R489). -/
def execJoinReread (core slot : Nat) (s : State) : Host.Outcome State Fault Refusal :=
  slotEvent core slot (fun s => match s.me.wait.seen with
    | some (_, t) => if t + 1024 ≤ s.time then s.reread else s
    | none => s) s

/-- An access of a core's own threads that a home has performed signals the core's watchers of that block (R410). -/
def State.signalWatch (s : State) (core pa : Nat) : State :=
  (List.range 16).foldl (fun s t => match (s.coreThread core t).wait.seen with
    | some (q, _) => if blockOf q = blockOf pa then s.asSlot false core t State.reread else s
    | none => s) s

/-- A re-read's value has come: the watcher goes on where the value lets it. -/
def Thread.rereadDone (t : Thread) : Thread :=
  match t.wait.seen, t.asks with
  | some _, [⟨_, _, _, _, .ready v⟩] =>
    if watchOver t.wait v then { t.resumed with asks := [] } else { t with asks := [] }
  | _, _ => t

/-! ## Walks (R220, R225, R228) -/

/-- TRANSLATION_WALK: the walk for the fetch of a thread that may issue completes and is judged; an access walks within
its own instruction (log entry 26). -/
def execTranslationWalk (core slot : Nat) (s : State) : Host.Outcome State Fault Refusal :=
  slotEvent core slot (fun s =>
    if s.cur.pp || !(s.me.tstate == .ready || s.me.tstate == .trap) || windowOf s.me.pc.toNat != .global then s
    else match s.translate s.cur.unit s.me.priv .fetch s.me.pc.toNat with
      | (.absent l pte, _) => (s.halt (pageFault .fetch s.me.pc.toNat l pte)).afterIssue
      | (.held _, _) => s
      | (_, s) => s) s

/-! ## Errors in storage (R181, R232, R235, R361) -/

/-- The home logs a page for retirement: a full log sets OVFLOG; the host is interrupted (R361, R363). -/
def DevRegs.logPage (g : DevRegs) (pa : Nat) : DevRegs :=
  let g := if g.plog.length < 32 then { g with plog := g.plog ++ [pa % 2 ^ 52 / 4096 * 4096] } else { g with ovflog := true }
  { g with replace := true, hostEvents := g.hostEvents + 1 }

/-- A line becomes poisoned at its home, where the error was found in storage that SRC numbers. -/
def State.poisonLine (s : State) (pa src : Nat) : State :=
  { s with poison := s.poison.put (pa / 64) src, dev := s.dev.logPage pa }

/-- UNCORRECTABLE_ERROR, by the kind of storage R235 numbers: 0 memory: the line is poisoned; 1 a data cache: a clean block
is dropped, a dirty one poisons the line and is recorded; 2 a slice: a clean line is dropped unseen, a dirty one is poisoned
(log entry 16); 3 and 4 the local memory: the granule is poisoned; 5 an accumulator: it is poisoned and recorded. No trap is
taken, so a record's SLOT is 0xF. -/
def State.storageError (s : State) (space core addr : Nat) : State :=
  match space with
  | 0 => s.poisonLine addr 0
  | 1 =>
    let b := blockOf addr
    let k := (s.core core).block b
    if !(k.tag == .ro || k.tag == .rw) then s
    else
      let s := s.modCore core fun c => { c with cache := c.cache.del b }
      if k.dirty = 0 then s else (s.poisonLine b 1).record core (poisonRecord (s.partIdOf core) 15 1 b)
  | 2 => if Config.sliceDirty s.time (addr / 64) then s.poisonLine addr 2 else s
  | 3 | 4 =>
    if (localExtent addr).isSome then s.modCore core fun k => { k with sramPoison := k.sramPoison.put (addr / 64) true } else s
  | 5 =>
    if 8 ≤ addr then s
    else (s.record core (poisonRecord (s.partIdOf core) 15 5 addr)).modCore core fun k =>
      { k with accPoison := k.accPoison.put addr true }
  | _ => s

/-- UNCORRECTABLE_ERROR. -/
def execUncorrectableError (space core addr : Nat) (s : State) : Host.Outcome State Fault Refusal :=
  coreEvent core (fun s => s.storageError space core addr) s

/-! ## Records that wait for q7 (R78) -/

/-- The oldest waiting record whose kind has a place enters q7. -/
def Core.admitQ7 (k : Core) : Core :=
  let room (foreign : Bool) : Bool := (k.q7.filter fun r => r.foreign == foreign).length < (if foreign then q7Foreign else q7Own)
  match k.q7waiting.find? fun r => room r.foreign with
  | some r => { k with q7 := k.q7 ++ [r], q7waiting := k.q7waiting.erase r }
  | none => k

/-- Q7_RECORD_ARRIVAL. -/
def execQ7RecordArrival (core : Nat) (s : State) : Host.Outcome State Fault Refusal :=
  coreEvent core (fun s => s.modCore core Core.admitQ7) s

end Sys2Proof.Machine
end

