-- ==== Sys2Proof/Machine/Links.lean ====
section
/-! DEFINITION. Directory entries as vendor hardware keeps them, and what lies beyond a port: copies that the host or another
device holds, requests that a fabric protocol processor sends on to a remote home, a switch that refuses a line of a revoked
extent, the virtual channels of the links (R271, R276, R345 to R351). -/

namespace Sys2Proof.Machine

/-! ## Directory entries (R276) -/

def DirEntry.state (e : DirEntry) : Nat := fld e.dword0 51 48
def DirEntry.owner (e : DirEntry) : Nat := fld e.dword0 45 36
def DirEntry.region (e : DirEntry) : Nat := fld e.dword0 15 8

/-- The entry of a block with copies. -/
def DirEntry.copies (e : DirEntry) (prot region state owner : Nat) (sharers : Word) : DirEntry :=
  { e with dword0 := w64 (prot * 2 ^ 52 + state * 2 ^ 48 + fld e.dword0 47 46 * 2 ^ 46 + owner % 1024 * 2 ^ 36 + region * 2 ^ 8),
           sharers }
/-- The entry of a block that no cache of the device holds. -/
def DirEntry.free (e : DirEntry) : DirEntry := { e with dword0 := w64 (fld e.dword0 47 46 * 2 ^ 46), sharers := 0 }

/-- Hems of a bitmap. -/
def hemsOf (w : Word) : List Nat := (List.range 64).filter fun h => w.getLsbD h
def hemBit (h : Nat) : Word := w64 (2 ^ h)

/-- The core that sent a request, if a core did; the hem it came from; the port it came through. -/
def Flit.core (f : Flit) : Nat := match f.src with | .core c _ => c | _ => 1024
def Flit.hem (f : Flit) : Nat := match f.src with | .core c _ => hemOf c | .engine h => h | _ => 64
def Flit.port (f : Flit) : Option Nat := match f.src with | .port n => some n | _ => none

/-- The block a request concerns. -/
def Flit.block (f : Flit) : Nat := blockOf (f.word 0).toNat

/-! ## Copies that port agents hold (R276, R347) -/

/-- Port agents that hold a copy of a block. -/
def State.portsOf (s : State) (b : Nat) : List Nat := s.links.copies.at b []

/-- HOST and FAB: a port agent of the host link, of the fabric, is among those that hold a copy. -/
def portBits (l : List Nat) : Nat := (if l.any fun n => n / 4096 = 0 then 2 else 0) + if l.any fun n => n / 4096 ≠ 0 then 1 else 0

/-- Sets who holds copies beyond the ports, with HOST and FAB of the entry. -/
def State.setPorts (s : State) (b : Nat) (l : List Nat) : State :=
  let e := s.entry b
  let s := s.setEntry b { e with dword0 := setFld e.dword0 47 46 (portBits l) }
  { s with links := { s.links with copies := if l = [] then s.links.copies.del b else s.links.copies.put b l } }

/-- The sender of a request, if it is a port agent, holds a copy from now on. -/
def State.addPort (s : State) (f : Flit) : State :=
  match f.port with
  | some n => if (s.portsOf f.block).contains n then s else s.setPorts f.block (s.portsOf f.block ++ [n])
  | none => s
/-- It holds none any more. -/
def State.dropPort (s : State) (f : Flit) : State :=
  match f.port with
  | some n => if (s.portsOf f.block).contains n then s.setPorts f.block ((s.portsOf f.block).filter (· ≠ n)) else s
  | none => s

/-! ## The switch of pooled memory (R351) -/

/-- The switch answers with an error for a line of an extent that is being revoked: whether it does is the switch's (R351). -/
def State.switchErrs (s : State) (pa : Nat) : Bool :=
  pa / 2 ^ 48 == 2 && (s.extents.any fun e => fld e.2.last 1 0 == 2 && decide (fld e.2.first 47 12 ≤ pa % 2 ^ 48 / 4096) &&
    decide (pa % 2 ^ 48 / 4096 ≤ fld e.2.last 47 12)) && Config.switchError s.time (blockOf pa)

/-! ## Remote devices (R271, R349) -/

/-- The port agent through which a fabric protocol processor reaches the device that a space-3 address names (R219, R346). -/
def remotePort (u pa : Nat) : Nat := 4096 + (u - 32) * 256 + pa / 2 ^ 40 % 256
/-- A space-3 address as its own device knows it, and back. -/
def remoteAddr (pa : Nat) : Nat := pa % 2 ^ 40
def spaceThree (port pa : Nat) : Nat := 3 * 2 ^ 48 + port % 256 * 2 ^ 40 + pa % 2 ^ 40

/-- Control word 0 of a message as the other side of a port knows it. -/
def Msg.withAddr (m : Msg) (pa : Nat) : Msg := { m with words := m.words.set 0 (w64 pa) }

/-- Sequences that protocol processors' hardware gives its messages begin here. -/
def hardSeq : Nat := 2 ^ 61
/-- A new sequence of a fabric protocol processor. -/
def State.linkSeq (s : State) : Nat × State := (hardSeq + s.seq, { s with seq := s.seq + 1 })

/-- Sends a request of a core or of a copy engine on to its remote home, where it arrives as an inbound request (R271). -/
def State.sendOn (s : State) (u : Nat) (f : Flit) (m : Msg) : State :=
  let pa := (f.word 0).toNat
  let (r, s) := s.linkSeq
  let s := { s with links := { s.links with sent := s.links.sent.put r f } }
  s.send (.pp u) (.port (remotePort u pa)) f.cls f.part r (.msg { m.withAddr (remoteAddr pa) with lane := 1 })

/-- A request for a line of a remote device, at the fabric protocol processor that serves it (R349). A core that gives the block
up leaves the hems that this device's own directory notes. -/
def State.forwardOut (s : State) (u n : Nat) (f : Flit) : State :=
  match f.body with
  | .msg m =>
    let b := f.block
    let s := s.drop n
    let others := (List.range 16).any fun st =>
      f.hem * 16 + st ≠ f.core && ((s.core (f.hem * 16 + st)).block b).tag != .i
    let e := s.entry b
    let l := e.sharers &&& ~~~(hemBit f.hem)
    let s := if m.type = tEvict && !others then
        s.setEntry b (if l = 0 then e.free else { e with sharers := l })
      else s
    s.sendOn u f m
  | _ => s

/-! ## The links (R345) -/

/-- Free places of a virtual channel of a link, at its far side and at the device's. -/
def linkDepth : Nat := Config.linkSpare + 1

/-- The link of a port agent, whichever remote device it names (R346). -/
def linkOf (port : Nat) : Nat := port / 256

/-- A virtual channel of a link's direction: two lane levels, each in four classes, for all remote devices together. -/
def linkChannel (port lane cls : Nat) : Nat := linkOf port * 16 + (if lane = 2 then 4 else 0) + cls % 4

/-- A message that has come to its port's router leaves the device when its channel has a credit (R345). -/
def State.leaveDevice (s : State) (n : Nat) (f : Flit) : State :=
  match f.dst with
  | .port p =>
    let c := linkChannel p f.lane f.cls
    if linkDepth ≤ s.links.used.at c 0 then s
    else
      let s := s.drop n
      { s with links := { s.links with used := s.links.used.put c (s.links.used.at c 0 + 1), out := s.links.out ++ [f] } }
  | _ => s

/-- The far side gives a credit of a channel back. -/
def State.creditLink (s : State) (port channel : Nat) : State :=
  let c := linkOf port * 16 + channel % 8
  { s with links := { s.links with used := if s.links.used.at c 0 ≤ 1 then s.links.used.del c else s.links.used.put c (s.links.used.at c 0 - 1) } }

/-- The link that a packet came in over, if it did. -/
def Flit.link (f : Flit) : Option Nat := f.port.map linkOf

/-- A message comes in over a port: a request on the inbound request lane, an answer on the reply lane, in the class of the
partition it names (R271, R345). It comes when the device has a free place in its channel, and not for a partition that may not use
the port or that does not exist. -/
def State.linkArrives (s : State) (port : Nat) (dst : Agent) (cls part rseq : Nat) (m : Msg) : State :=
  match s.partById part with
  | none => s
  | some p =>
    let held := s.net.countP fun f => !f.entered && f.link == some (linkOf port) && f.lane == m.lane && f.cls == cls
    if !p.portOk port || cls ≠ p.cls || !(m.lane = 1 || m.lane = 2) || linkDepth ≤ held then s
    else s.send (.port port) (if m.lane = 1 then .pp (s.homeFor (m.words.getD 0 0).toNat) else dst) cls part rseq (.msg m)

end Sys2Proof.Machine
end

