-- ==== Sys2Proof/Machine/Home.lean ====
section
/-! DEFINITION. What a home does with a request: the checks before it is dispatched, UNCACHED and WALK lines, the vendor
protocols, the start of a handler (R222, R223, R261 to R264, R266, R272 to R276, R282 to R285, R301, R332). A vendor
handler holds a handler slot and its entry's lock like any other; what its program does is R282's table (log entry 10). -/

namespace Sys2Proof.Machine

/-- The stage of a transaction that calls a block of a revoked extent back (R351); 1 is one block of a region's close. -/
def recallStage : Nat := 2

/-- Sequences of the messages that a home's own work sends: to holders of a block, for a combine, to hems that translate
through a WALK line. -/
def vendorSeq : Nat := 2 ^ 62
def combineSeq : Nat := 2 ^ 62 + 1
def walkSeq : Nat := 2 ^ 62 + 2

/-- The count of homes still to answer a region's combine is kept beside that of its close: its key (R263, R284). -/
def combineKey (region : Nat) : Nat := 256 + region

/-! ## Taking a request -/

/-- The request of a type at a place of the list with the protocol processor it has reached, unless one that reached it
earlier concerns the same block (R275). -/
def State.requestAt (s : State) (n type : Nat) : Option (Flit × Nat) :=
  match s.arrival n with
  | some f => match f.dst, f.body with
    | .pp u, .msg m =>
      if m.lane < 2 && m.type = type && !((s.net.take n).any fun g =>
          g.arrived && g.dst == f.dst && g.lane < 2 && g.block == f.block) then some (f, u) else none
    | _, _ => none
  | none => none

/-- Puts a request on a deferred list. -/
def State.defer (s : State) (key : Nat) (f : Flit) : State :=
  { s with deferred := s.deferred.put key (s.deferred.at key [] ++ [f]) }

/-- The deferred list of a region that is not bound (R263). -/
def regionKey (part region : Nat) : Nat := 2 ^ 60 + part * 256 + region

/-! ## Work at the slice (R266, R301, R372 to R374) -/

/-- The atomic operation of a FAR-AMO. -/
def Flit.atom (f : Flit) : Atom :=
  let i := f.word 1
  let fn := fld i 7 4
  { fn, dbl := i.getLsbD 8, amof := i.getLsbD 9, operand := f.word 2,
    compare := if fn = 9 then some (f.word 3) else none, signed := true }

/-- Performs an atomic operation at memory: the old value. -/
def State.amoAt (s : State) (pa : Nat) (a : Atom) : Nat × State :=
  let old := s.mem.read pa a.size
  match a.new old with
  | some v => (old, { s with mem := s.mem.write pa a.size v })
  | none => (old, s)

/-- Writes the bytes that a mask selects of a payload into memory; what a switch refuses of a revoked extent is lost (R351). -/
def State.mergeLine (s : State) (b : Nat) (l : Option Line) (mask : Nat) : State :=
  match l with
  | some x => if s.switchErrs b then s else { s with mem := s.mem.setLine b x mask }
  | none => s

/-- A write of a whole line by a copy engine (R234). -/
def Flit.wholeLine (f : Flit) : Bool := f.type = tEngineWrite && (f.word 1).toNat = 2 ^ 64 - 1

/-- A copy engine's bytes are written; those of a whole line clear the line's poison, and no other write does (R234). -/
def State.engineMerge (s : State) (f : Flit) : State :=
  let s := s.mergeLine f.block f.payload (f.word 1).toNat
  if f.wholeLine then { s with poison := s.poison.del (f.block / 64) } else s

/-- What a core's FAR-AMO or WRITE-MISS of an untagged line says beside its words (log entry 23): [1:0] 1 it only asks whether
the access would be refused, 2 it has asked; [2] the instruction has the far form. -/
def Flit.mode (f : Flit) : Nat := match f.src with | .core .. => (f.word 5).toNat % 8 | _ => 0
/-- It only asks; it has asked, and is not refused any more (R13, R301). -/
def Flit.asksOnly (f : Flit) : Bool := f.mode % 4 = 1
def Flit.hasAsked (f : Flit) : Bool := f.mode % 4 = 2 && f.type = tWriteMiss
/-- A home that is only asked answers ACK. -/
def State.notRefused (s : State) (u : Nat) (f : Flit) : State := s.reply (.pp u) f rAck [f.word 0] none

/-- An `AMOSWAP.D.F` at S on a region's CMD word whose swapped-in value has STATUS 0 is a command; any other atomic is not
(R262). -/
def State.commandOf (s : State) (p : Partition) (f : Flit) : Bool :=
  let i := f.word 1
  let base := s.regionBase p
  let pa := (f.word 0).toNat
  4 ≤ f.mode && fld i 7 4 = 8 && i.getLsbD 8 && i.getLsbD 11 && base ≤ pa && pa < base + 0x4000 && (pa - base) % 64 = 56 &&
    fld (f.word 2) 15 8 = 0

/-- Carries out a request on a line that carries no tag: READ-MISS, WRITE-MISS, FAR-AMO, ENGINE-READ, ENGINE-WRITE. -/
def State.performPlain (s : State) (u : Nat) (p : Partition) (f : Flit) : State :=
  let pa := (f.word 0).toNat
  let home : Agent := .pp u
  if f.asksOnly then s.notRefused u f
  else match f.type with
  | 0 => s.reply home f rData [w64 (s.mem.read pa (f.word 3).toNat), f.word 0] none
  | 1 => { s with mem := s.mem.write pa (f.word 3).toNat (f.word 4).toNat }.reply home f rAck [f.word 0, w64 f.prot] none
  | 3 =>
    let command := s.commandOf p f
    let (old, s) := s.amoAt pa f.atom
    let s := s.reply home f rData [w64 old, f.word 0] none
    if command then s.send home home f.cls f.part 0 (msg 0 tRcmd [w64 (pa - 56), f.word 2]) else s
  | 7 => s.reply home f rData [f.word 0] (some (s.mem.line f.block))
  | _ => (s.engineMerge f).reply home f rAck [f.word 0] none

/-- A request that writes a line (R222). -/
def Flit.writes (f : Flit) : Bool := !f.asksOnly && (f.type = tWriteMiss || f.type = tFarAmo || f.type = tEngineWrite)

/-- A write to a WALK line goes on once every hem that may translate through it has dropped its entries (R222); one that
finds another under way waits its turn at the home, ordered there. -/
def State.walkWrite (s : State) (u n : Nat) (p : Partition) (f : Flit) : State :=
  let b := f.block
  let s := s.drop n
  if (s.walkStores.look b).isSome then s.defer b f
  else
    let l := hemsOf (s.walkSharers.at b 0)
    if l = [] then s.performPlain u p f
    else
      let s := l.foldl (fun s h => s.send (.pp u) (.hem h) f.cls f.part walkSeq (msg 2 rInvalidate [w64 b])) s
      { s with walkStores := s.walkStores.put b ⟨f, l.length⟩ }

/-- A request on an UNCACHED or a WALK line. A write of the whole line by a copy engine clears its poison as it is performed
(R234). -/
def State.servePlain (s : State) (u n : Nat) (p : Partition) (f : Flit) : State :=
  let pa := (f.word 0).toNat
  if s.poisoned pa && !f.wholeLine && !f.hasAsked then (s.drop n).failReply (.pp u) f cPoison
  else if f.prot = pWalk && f.writes then s.walkWrite u n p f
  else (s.drop n).performPlain u p f

/-- A hem that has drained acknowledges the invalidation of a page-table line (R222 step 4). -/
def State.walkDrained (s : State) (n : Nat) (f : Flit) (b : Nat) : State :=
  (s.drop n).send f.dst f.src f.cls f.part walkSeq (msg 2 rAck [w64 b])

/-- WALK_INVALIDATION: a hem takes the invalidation in and drops what it derived from the line; it acknowledges once the
accesses that the dropped entries translated have been performed (R222). -/
def execWalkInvalidation (n : Nat) (s : State) : Host.Outcome State Fault Refusal :=
  event (fun s => match s.net[n]? with
    | some f => match f.dst, f.body with
      | .hem _, .drain b l => if l.any s.unperformed then s else s.walkDrained n f b
      | .hem h, .msg m =>
        if m.lane ≠ 2 || m.type ≠ rInvalidate || f.rseq ≠ walkSeq || (s.arrival n).isNone then s
        else
          let gone (e : TlbEntry) : Bool := e.path.any fun a => blockOf a == f.block
          let l := s.translated h gone
          let s := (List.range 16).foldl (fun s st => s.modCore (h * 16 + st) fun k => { k with tlb := k.tlb.filter fun e => !gone e }) s
          let s := s.modHem h fun m => { m with tlb := m.tlb.filter fun e => !gone e }
          if l = [] then s.walkDrained n f f.block
          else { s with net := s.net.set n { f with body := .drain f.block l } }
      | _, _ => s
    | none => s) s

/-- The acknowledgement of a hem clears its bit. -/
def State.walkAck (s : State) (b h : Nat) : State :=
  let bits := s.walkSharers.at b 0 &&& ~~~(hemBit h)
  let s := { s with walkSharers := if bits = 0 then s.walkSharers.del b else s.walkSharers.put b bits }
  match s.walkStores.look b with
  | some w => { s with walkStores := s.walkStores.put b { w with awaiting := w.awaiting - 1 } }
  | none => s

/-- The store that waits for a core's slot, or for its hem's copy engine (slot 16), with every acknowledgement in. -/
def State.walkReady (s : State) (core slot : Nat) : Option (Nat × WalkStore) :=
  s.walkStores.find? fun e => e.2.awaiting = 0 &&
    (match e.2.req.src with
      | .core c t => c == core && t == slot
      | .engine h => h == hemOf core && slot == 16
      | _ => false)

/-- WALK_STORE_PERFORMED. -/
def execWalkStorePerformed (core slot : Nat) (s : State) : Host.Outcome State Fault Refusal :=
  coreEvent core (fun s => match s.walkReady core slot with
    | some (b, w) =>
      let s := { s with walkStores := s.walkStores.del b }
      match s.partById w.req.part with
      | some p => (s.performPlain (s.homeFor b) p w.req).redispatch b
      | none => s
    | none => s) s

/-! ## Messages to the holders of a block, and what follows their answers -/

/-- A message of the home to holders of a block: its agent, its type, its words after the block, its payload. -/
abbrev Probe := Agent × Nat × List Word × Option Line

/-- Invalidates the copies in hems, except in some cores. -/
def probeInval (hems except : List Nat) : List Probe :=
  hems.map fun h => (.hem h, rInvalidate, except.map fun c => w64 (c + 1), none)
/-- Recalls the copy of the RW holder; `keep` is the tag it keeps: 0 I, 1 RO. -/
def probeRecall (owner keep : Nat) : List Probe := [(.hem (hemOf owner), rRecall, [w64 keep], none)]
/-- Takes a copy back from port agents, all but one (R347). -/
def State.probePorts (s : State) (b type keep : Nat) (except : Option Nat) : List Probe :=
  ((s.portsOf b).filter fun n => some n != except).map fun n => (.port n, type, [w64 keep], none)
/-- Pushes a line to hems, except to some cores. -/
def probePush (hems except : List Nat) (l : Line) : List Probe :=
  hems.map fun h => (.hem h, rPush, except.map fun c => w64 (c + 1), some l)

/-- Positions of the participants of a REDUCE region, in ascending core id (R261). -/
def insertNat (n : Nat) : List Nat → List Nat
  | [] => [n]
  | m :: t => if n ≤ m then n :: m :: t else m :: insertNat n t
def State.participants (s : State) (p : Partition) (n : Nat) : List Nat :=
  ((List.range (ctlNpart (s.desc p n 2) + 1)).map fun i => s.extCore p n i).foldl (fun l c => insertNat c l) []
/-- The position of a core. -/
def State.position (s : State) (p : Partition) (n core : Nat) : Option Nat :=
  (s.participants p n).findIdx? fun c => c == p.launchCore core

/-- Address of the partial of a participant for a block (R261). -/
def State.partialAt (s : State) (p : Partition) (n q b : Nat) : Nat :=
  let base := (s.desc p n 0).toNat
  let size := (s.desc p n 1).toNat + 1 - base
  (s.desc p n 4).toNat + q * ((size + 0x1FFFF) / 0x20000 * 0x20000) + (b - base)

/-- The partial lies in the partition's own frames, whatever a descriptor says (R2, R261, R330). -/
def State.partialOk (s : State) (p : Partition) (n q b : Nat) : Bool :=
  p.ownsWord (s.partialAt p n q b)

/-- The producer and the consumers of a PUSH region (R260). -/
def State.producer (s : State) (p : Partition) (n : Nat) : Option Nat := p.coreFor (fld (s.desc p n 4) 9 0)
def State.consumers (s : State) (p : Partition) (n : Nat) : List Nat :=
  (List.range (Nat.min 16 (fld (s.desc p n 4) 20 16))).filterMap fun i => p.coreFor (s.extCore p n i)

/-- Answers a request with a grant that carries memory's bytes; a port agent then holds a copy (R347). -/
def State.grantMem (s : State) (u : Nat) (f : Flit) (rw : Bool) : State :=
  (s.addPort f).reply (.pp u) f (if rw then rGrantRw else rGrantRo) [w64 f.block] (some (s.mem.line f.block))

/-- What a home does once every holder has answered: the entry and the answer of R282. No port agent holds a copy any more, but of
a block that is only read (R347). -/
def State.finishTxn (s : State) (t : Txn) : State :=
  let f := t.req
  let b := f.block
  let u := s.homeFor b
  let prot := f.prot
  let s := if f.type = 7 || (f.type = 0 && prot = pInvalidate) || s.portsOf b = [] then s else s.setPorts b []
  let e := s.entry b
  let bit := hemBit f.hem
  let ack (s : State) : State := s.reply (.pp u) f rAck [w64 b] none
  match f.type with
  | 0 =>
    if prot = pInvalidate then (s.setEntry b (e.copies prot f.region 1 0 (e.sharers ||| bit))).grantMem u f false
    else (s.setEntry b (e.copies prot f.region 2 f.core bit)).grantMem u f true
  | 1 | 2 =>
    if prot = pUpdate then (s.setEntry b (e.copies prot f.region 1 0 bit)).grantMem u f true
    else (s.setEntry b (e.copies prot f.region 2 f.core bit)).grantMem u f true
  | 3 =>
    if prot = pUpdate then s.reply (.pp u) f rData [w64 ((t.data.map BitVec.toNat).getD 0), f.word 0] none
    else
      let (old, s) := (s.setEntry b e.free).amoAt (f.word 0).toNat f.atom
      s.reply (.pp u) f rData [w64 old, f.word 0] none
  | 4 =>
    if prot = pPush then
      match s.partById f.part with
      | some p =>
        let l := (s.consumers p f.region).foldl (fun (w : Word) c => w ||| hemBit (hemOf c)) bit
        ack (s.setEntry b (e.copies prot f.region 1 0 l))
      | none => s
    else ack s
  | 7 =>
    let s := if e.state = 2 then s.setEntry b (e.copies prot f.region 1 0 e.sharers) else s
    s.reply (.pp u) f rData [w64 b] (some (s.mem.line b))
  | 8 =>
    if prot = pUpdate then ack s
    else ack ((s.setEntry b e.free).engineMerge f)
  | _ => s

/-- The handler slot that holds the lock of a block. -/
def State.slotOf (s : State) (b : Nat) : Nat := (s.entry b).hslot

/-- Sends the messages to the holders and waits for their answers, or goes on at once. -/
def State.askHolders (s : State) (u : Nat) (f : Flit) (probes : List Probe) (data : Option Line) : State :=
  let b := f.block
  let t : Txn := ⟨f, s.slotOf b, probes.length, 0, probes.any fun x => x.2.1 = rRecall, data⟩
  if probes = [] then s.finishTxn t
  else
    let s := probes.foldl (fun s (a, type, words, l) =>
      s.send (.pp u) a f.cls f.part vendorSeq (.msg ⟨2, type, w64 b :: words, l⟩)) s
    { s with txns := s.txns.put b t }

/-! ## The vendor protocols (R282, R283) -/

/-- INVALIDATE and MIGRATORY. The RW holder is a core, or else a port agent (R347). -/
def State.serveOwner (s : State) (u : Nat) (f : Flit) : State :=
  let e := s.entry f.block
  let owner (keep : Nat) : List Probe :=
    if s.portsOf f.block = [] then probeRecall e.owner keep else s.probePorts f.block rRecall keep none
  let callBack (keep : Nat) : List Probe := if e.state = 2 then owner keep else []
  let drop (except : List Nat) : List Probe :=
    if e.state = 2 then owner 0 else probeInval (hemsOf e.sharers) except ++ s.probePorts f.block rInvalidate 0 f.port
  match f.type with
  | 0 => if f.prot = pInvalidate then s.askHolders u f (callBack 1) none else s.askHolders u f (drop [f.core]) none
  | 1 | 2 => s.askHolders u f (drop [f.core]) none
  | 3 | 8 => s.askHolders u f (drop []) none
  | 4 => (s.mergeLine f.block f.payload (f.word 1).toNat).reply (.pp u) f rAck [f.word 0] none
  | _ => s.askHolders u f (callBack 1) none

/-- Takes every copy of a block back from hems: dirty bytes first, then what is left (R347). -/
def probeAll (hems : List Nat) : List Probe := (hems.map fun h => (.hem h, rRecall, [0], none)) ++ probeInval hems []

/-- UPDATE. A write that comes over a port takes the device's copies back before it is answered (R347). -/
def State.serveUpdate (s : State) (u : Nat) (f : Flit) : State :=
  let b := f.block
  let e := s.entry b
  let renew (s : State) (except : List Nat) : List Probe :=
    (if f.port.isSome then probeAll (hemsOf e.sharers) else probePush (hemsOf e.sharers) except (s.mem.line b)) ++
      s.probePorts b rInvalidate 0 none
  match f.type with
  | 0 => (s.setEntry b (e.copies pUpdate f.region 1 0 (e.sharers ||| hemBit f.hem))).grantMem u f true
  | 1 | 2 =>
    if f.port.isSome then s.askHolders u f (probeAll (hemsOf e.sharers) ++ s.probePorts b rInvalidate 0 f.port) none
    else (s.setEntry b (e.copies pUpdate f.region 1 0 (e.sharers ||| hemBit f.hem))).grantMem u f true
  | 3 =>
    let (old, s) := s.amoAt (f.word 0).toNat f.atom
    s.askHolders u f (renew s []) (some (BitVec.ofNat 512 old))
  | 4 | 8 =>
    let s := s.engineMerge f
    s.askHolders u f (renew s [f.core]) none
  | _ => s.reply (.pp u) f rData [w64 b] (some (s.mem.line b))

/-- PUSH. -/
def State.servePush (s : State) (u : Nat) (p : Partition) (f : Flit) : State :=
  let b := f.block
  let e := s.entry b
  let mine := s.producer p f.region == some f.core
  match f.type with
  | 0 => (s.setEntry b (e.copies pPush f.region 1 0 (e.sharers ||| hemBit f.hem))).grantMem u f false
  | 1 | 2 =>
    if mine then (s.setEntry b (e.copies pPush f.region 1 0 (e.sharers ||| hemBit f.hem))).grantMem u f true
    else s.failReply (.pp u) f cProtocol
  | 4 =>
    if mine then
      let s := s.mergeLine b f.payload (f.word 1).toNat
      let dests := s.consumers p f.region
      let l := s.mem.line b
      s.askHolders u f (dests.map (fun c => (.core c 15, rPush, [], some l)) ++ probeInval (hemsOf e.sharers) (f.core :: dests) ++
        s.probePorts b rInvalidate 0 none) none
    else s.failReply (.pp u) f cProtocol
  | 7 => s.reply (.pp u) f rData [w64 b] (some (s.mem.line b))
  | _ => s.failReply (.pp u) f cProtocol

/-- ONCE: states 0 UNWRITTEN, 1 WRITING, 2 WRITTEN; what must wait for WRITTEN is kept waiting at the home. -/
def State.serveOnce (s : State) (u : Nat) (f : Flit) : State :=
  let b := f.block
  let e := s.entry b
  let seen := e.sharers ||| hemBit f.hem
  match f.type with
  | 0 =>
    if e.state = 2 then (s.setEntry b (e.copies pOnce f.region 2 0 seen)).grantMem u f false
    else s.defer (heldKey b) f
  | 1 | 2 =>
    if e.state = 0 then (s.setEntry b (e.copies pOnce f.region 1 f.core seen)).grantMem u f true
    else s.failReply (.pp u) f cProtocol
  | 4 =>
    let s := (s.mergeLine b f.payload (f.word 1).toNat).setEntry b (e.copies pOnce f.region 2 0 e.sharers)
    (s.reply (.pp u) f rAck [w64 b] none).redispatch (heldKey b)
  | 7 => if e.state = 2 then s.reply (.pp u) f rData [w64 b] (some (s.mem.line b)) else s.defer (heldKey b) f
  | 8 =>
    if e.state = 0 then
      let s := (s.engineMerge f).setEntry b (e.copies pOnce f.region 2 0 e.sharers)
      (s.reply (.pp u) f rAck [w64 b] none).redispatch (heldKey b)
    else s.failReply (.pp u) f cProtocol
  | _ => s.failReply (.pp u) f cProtocol

/-- The identity of a REDUCE region's operation, for one element (R283). -/
def identityOf (rop rtype : Nat) : Nat :=
  let w := if rtype % 2 = 1 then 64 else 32
  if 2 ≤ rtype then 2 ^ (w - 1)
  else match rop with
    | 1 | 6 => 2 ^ w - 1
    | 4 => 2 ^ (w - 1) - 1
    | 5 => 2 ^ (w - 1)
    | _ => 0

/-- A line whose elements are all a value. -/
def fillLine (rtype v : Nat) : Line :=
  let w := if rtype % 2 = 1 then 64 else 32
  BitVec.ofNat 512 ((List.range (512 / w)).foldl (fun n i => n + v % 2 ^ w * 2 ^ (w * i)) 0)

/-- A participant's AMO is of the region's operation and type. -/
def sameOperation (ctl info : Word) : Bool :=
  let rt := ctlRtype ctl
  info.getLsbD 9 == decide (2 ≤ rt) && info.getLsbD 8 == decide (rt % 2 = 1) && fld info 7 4 == ctlRop ctl

/-- The home has combined its blocks of a region that is COMBINING. -/
def State.combined (s : State) (u : Nat) (p : Partition) (n : Nat) : Bool :=
  !(s.net.any fun f => f.dst == .pp u && f.lane == 1 && f.type == tHomecast && f.word 0 == w64 (s.descAt p n))

/-- REDUCE. -/
def State.serveReduce (s : State) (u : Nat) (p : Partition) (f : Flit) : State :=
  let b := f.block
  let n := f.region
  let e := s.entry b
  let ctl := s.desc p n 2
  let open_ := ctlRsub ctl = 0
  let ready := ctlRsub ctl = 2 || (ctlRsub ctl = 1 && s.combined u p n)
  let shared (s : State) : State := s.setEntry b (e.copies pReduce n 1 0 (e.sharers ||| hemBit f.hem))
  let atomic := fld (f.word 1) 3 0 = 3
  match f.type with
  | 0 | 1 | 2 =>
    if atomic then
      match s.position p n f.core with
      | some q =>
        if open_ && f.type ≠ tWriteMiss && !(s.desc p n 5).getLsbD q && sameOperation ctl (f.word 1) then
          (shared s).reply (.pp u) f rGrantRw [w64 b] (some (fillLine (ctlRtype ctl) (identityOf (ctlRop ctl) (ctlRtype ctl))))
        else s.failReply (.pp u) f cProtocol
      | none => s.failReply (.pp u) f cProtocol
    else if f.type ≠ tReadMiss then s.failReply (.pp u) f cProtocol
    else if ready then (shared s).grantMem u f false
    else s.defer (heldKey b) f
  | 4 => match (s.position p n f.core).filter fun q => s.partialOk p n q b with
    | some q =>
      let s := s.mergeLine (s.partialAt p n q b) f.payload (2 ^ 64 - 1)
      (s.setEntry b { e.copies pReduce n 1 0 e.sharers with pw0 := e.pw0 ||| w64 (2 ^ q) }).reply (.pp u) f rAck [w64 b] none
    | none => s.failReply (.pp u) f cProtocol
  | 7 => if ready then s.reply (.pp u) f rData [w64 b] (some (s.mem.line b)) else s.defer (heldKey b) f
  | _ => s.failReply (.pp u) f cProtocol

/-! ## EVICT (R282) -/

/-- The sender of a message is the one RW holder that the block's entry names: a core, or else a port agent (R276, R347). -/
def State.fromOwner (s : State) (f : Flit) : Bool :=
  let e := s.entry f.block
  e.state = 2 && (match f.port with
    | some n => (s.portsOf f.block).contains n
    | none => s.portsOf f.block = [] && f.core = e.owner)

/-- EVICT: its payload goes to memory; the hem leaves the sharers when no other core of it may hold the block. Only the RW
holder's own EVICT ends its hold: one that a former sharer sent may come after another core was granted RW. -/
def State.serveEvict (s : State) (u : Nat) (f : Flit) : State :=
  let b := f.block
  let owner := s.fromOwner f
  let s := (s.mergeLine b f.payload (2 ^ 64 - 1)).dropPort f
  let e := s.entry b
  let keeps := e.state = 2 && f.prot ≠ pOnce && !owner
  let others := (List.range 16).any fun st =>
    f.hem * 16 + st ≠ f.core && ((s.core (f.hem * 16 + st)).block b).tag != .i
  let sharers := if others || (keeps && s.portsOf b = [] && hemOf e.owner = f.hem) then e.sharers else e.sharers &&& ~~~(hemBit f.hem)
  let s := if f.prot = pOnce || sharers ≠ 0 || keeps then
      s.setEntry b (e.copies f.prot f.region (if e.state = 2 && owner && f.prot ≠ pOnce then 1 else e.state) e.owner sharers)
    else s.setEntry b e.free
  s.reply (.pp u) f rAck [w64 b] none

/-! ## Handlers of custom protocols (R272 to R275, R332) -/

/-- The handler pc, the data pointer and PCTL of a row of the dispatch table (R274). -/
def PP.hpc (k : PP) (prot type : Nat) : Word := k.table.at (32 * prot + 8 + type) 0
def PP.dataPtr (k : PP) (prot : Nat) : Word := k.table.at (32 * prot + 1) 0
def PP.pctl (k : PP) (prot : Nat) : Word := k.table.at (32 * prot) 0

/-- The group of a lane, and the slots of a group (R272). -/
def groupSlots (lane : Nat) : List Nat := if lane = 1 then (List.range 16).map (48 + ·) else List.range 48

/-- A slot of the group that is free. -/
def PP.freeSlot (k : PP) (lane : Nat) : Option Nat := (groupSlots lane).find? fun t => (k.handlers.look t).isNone

/-- The class whose turn it is, given the classes that have a waiting message (R272, R332). -/
def nextClass (waiting : List Nat) (weights : Word) (turn : Nat × Nat) : Option (Nat × Nat) :=
  let w := fld weights (8 * turn.1 + 7) (8 * turn.1)
  if waiting.contains turn.1 && turn.2 < (if w = 0 then 1 else w) then some (turn.1, turn.2 + 1)
  else ((List.range 4).find? fun i => waiting.contains ((turn.1 + 1 + i) % 4)).map fun i => ((turn.1 + 1 + i) % 4, 1)

/-- A message that waits for a handler slot of a group at a protocol processor. -/
def Flit.waitsFor (f : Flit) (u lane : Nat) : Bool :=
  f.arrived && f.dst == .pp u && f.lane == lane &&
    (match f.body with
      | .msg m => (m.type = tRcmd && (f.rseq = vendorSeq || f.lane ≠ 0)) || m.type = tHomecast || m.type = tClose || (f.prot ≠ pUncached && f.prot ≠ pWalk)
      | _ => false)

/-- The group of a message. -/
def Flit.group (f : Flit) : Nat := if f.lane = 1 then 1 else 0

/-- The free slot that takes a message of the list, with the turn it uses up, if the message is the oldest of the next class
(R272). -/
def State.slotFor (s : State) (u n : Nat) (f : Flit) : Option (Nat × (Nat × Nat)) :=
  let k := s.pp u
  let lane := f.group
  let waiting := (s.net.filter fun g => g.waitsFor u lane).map (·.cls)
  let first := !((s.net.take n).any fun g => g.waitsFor u lane && g.cls == f.cls)
  match k.freeSlot lane, nextClass waiting s.dev.weights (k.turn.at lane (3, 255)) with
  | some t, some turn => if turn.1 = f.cls && first then some (t, turn) else none
  | _, _ => none

/-- A slot takes a message off the mesh: what the handler starts with, the lock of the block's entry, the class's turn
(R272, R275). An entry that is absent reads zero but for the lock (R276). -/
def State.startHandler (s : State) (u n : Nat) (f : Flit) (t : Nat) (turn : Nat × Nat) (th : Thread) (prot region : Nat)
    (lock : Option Nat) : State :=
  let s := s.drop n
  let s := match lock with
    | some b => s.setEntry b { s.entry b with locked := true, hslot := t }
    | none => s
  s.modPP u fun q => { q with
    handlers := q.handlers.put t { Handler.reset with
      thread := th, req := some f, part := f.part, region, prot, locks := lock.toList, started := s.time, block := f.block }
    turn := q.turn.put f.group turn }

/-- The thread of a vendor handler, at its row's HPC: the home carries its work out (log entry 10). -/
def vendorThread (pc : Word) (now : Nat) : Thread := { Thread.reset with tstate := .parked, priv := .h, pc, dispatched := now }

/-- Registers and buffer of a handler as it starts (R275). -/
def State.loadHandler (s : State) (u t : Nat) (f : Flit) (prot region : Nat) : State :=
  let k := s.pp u
  let x13 := f.part % 65536 + region % 256 * 2 ^ 16 + prot % 16 * 2 ^ 24 + f.type % 16 * 2 ^ 28 + f.lane % 4 * 2 ^ 32
  let vals : List (Nat × Word) := [(2, w64 (0xFE * 2 ^ 56 + t * 0x400 + 0x380)), (3, k.dataPtr prot), (4, s.headerOf f)] ++
    (f.words.zipIdx.map fun (w, i) => (5 + i, w)) ++ [(13, w64 x13)]
  s.modPP u fun q => { q with
    xrf := vals.foldl (fun m v => m.put (t * 32 + v.1) v.2) (q.xrf.delRange (t * 32) (t * 32 + 32))
    sram := match f.payload with | some l => q.sram.setLine (dataBuffer t) l (2 ^ 64 - 1) | none => q.sram }

/-- Starts the handler of a message of a custom protocol, if it is the message's turn; with no handler the hardware answers
FAIL, and a region's close has nothing more to do at the home (R274). -/
def State.dispatch (s : State) (u n : Nat) (f : Flit) (prot region : Nat) (lock : Option Nat) : State :=
  let k := s.pp u
  if k.hpc prot f.type = 0 then
    let s := (s.drop n).failReply (.pp u) f cProtocol
    if f.closes then s.homeDone f.part region else s
  else match s.slotFor u n f with
    | none => s
    | some (t, turn) =>
      let th := { Thread.reset with tstate := .ready, priv := .h, pc := k.hpc prot f.type, dispatched := s.time }
      (s.startHandler u n f t turn th prot region lock).loadHandler u t f prot region

/-- Starts the vendor handler of a message, if it is the message's turn, in the state that R275 gives it; its slot ends at once
unless it waits for holders. -/
def State.dispatchVendor (s : State) (u n : Nat) (f : Flit) (prot region : Nat) (lock : Option Nat) (work : State → State) : State :=
  let k := s.pp u
  if k.hpc prot f.type = 0 then
    let s := (s.drop n).failReply (.pp u) f cProtocol
    if f.closes then s.homeDone f.part region else s
  else match s.slotFor u n f with
    | none => s
    | some (t, turn) =>
      let th := vendorThread (k.hpc prot f.type) s.time
      let s := work ((s.startHandler u n f t turn th prot region lock).loadHandler u t f prot region)
      if s.txns.any fun e => s.homeFor e.1 == u && e.2.slot == t then s else s.endHandler u t

/-! ## One request at its home -/

/-- The region's answer to a request before its block is looked at: it goes on, it is deferred, or FAIL PROTOCOL
(R263, R264). -/
inductive Admit where
  | go | wait | refuse
deriving DecidableEq, Repr

def State.admission (s : State) (p : Partition) (f : Flit) : Admit :=
  let c := s.desc p f.region 2
  let pa := (f.word 0).toNat
  match ctlState c with
  | 0 => .refuse
  | 1 => if ctlProt c = f.prot && (s.desc p f.region 0).toNat ≤ pa && pa ≤ (s.desc p f.region 1).toNat then .go else .refuse
  | _ => .wait

/-- Host memory takes protocols 0 to 3 only (R347). -/
def hostRefuses (pa prot : Nat) : Bool := pa / 2 ^ 48 = 1 && 3 < prot

/-- The request reads or writes a poisoned line, other than by a copy engine's write of the whole of it: it ends with POISON,
under whatever protocol (R233, R234). -/
def State.meetsPoison (s : State) (f : Flit) : Bool :=
  s.poisoned f.block && f.type ≠ tFlush && f.type ≠ tEvict && !f.wholeLine

/-- What a vendor handler does with a request (R282, R283). A write of the whole line by a copy engine clears the line's
poison once it is written (R234). An atomic that only asks learns whether its protocol takes one (R282, R283, R301). -/
def State.vendorWork (s : State) (u : Nat) (p : Partition) (f : Flit) : State :=
  if f.type = tEvict then s.serveEvict u f
  else if s.meetsPoison f then s.failReply (.pp u) f cPoison
  else if f.asksOnly then (if 4 ≤ f.prot then s.failReply (.pp u) f cProtocol else s.notRefused u f)
  else match f.prot with
    | 2 => s.serveUpdate u f
    | 4 => s.servePush u p f
    | 5 => s.serveOnce u f
    | 6 => s.serveReduce u p f
    | _ => s.serveOwner u f

/-- One block of a region's close is done; the home's last one ends the slot and the home's part (R263). -/
def State.blockClosed (s : State) (b : Nat) (t : Txn) : State :=
  let u := s.homeFor b
  let s := { s with txns := s.txns.del b, dir := s.dir.del b, links := { s.links with copies := s.links.copies.del b } }
  if s.txns.any fun e => s.homeFor e.1 == u && e.2.slot == t.slot then s
  else
    let h := (s.pp u).handler t.slot
    (s.endHandler u t.slot).homeDone h.part h.region

/-- A close of the block's region takes in the EVICT that its recall has missed (R263). -/
def State.evictInClose (s : State) (u : Nat) (f : Flit) (t : Txn) : State :=
  let b := f.block
  let s := (s.mergeLine b f.payload (2 ^ 64 - 1)).reply (.pp u) f rAck [w64 b] none
  let t := { t with recalled := false }
  let s := { s with txns := s.txns.put b t }
  if t.awaiting = 0 then s.blockClosed b t else s

/-- A request of a type is served at its home: a remote line's lies beyond the port (R349); an access that a switch answers with an
error ends with poison (R351). -/
def State.serve (s : State) (n type : Nat) : State :=
  match s.requestAt n type with
  | none => s
  | some (f, u) =>
    match s.partById f.part with
    | none => s.drop n
    | some p =>
      let f := s.asServed p f
      let b := f.block
      let e := s.entry b
      let prot := f.prot
      if b / 2 ^ 48 = 3 then (if f.asksOnly then (s.drop n).notRefused u f else s.forwardOut u n f)
      else if hostRefuses (f.word 0).toNat prot then (s.drop n).failReply (.pp u) f cProtocol
      else if s.switchErrs b && !f.hasAsked && type ≠ tFlush && type ≠ tEvict then (s.drop n).failReply (.pp u) f cPoison
      else if prot = pUncached || prot = pWalk then s.servePlain u n p f
      else match (s.txns.look b).filter fun t => type = tEvict && t.stage = 1 with
      | some t => (s.drop n).evictInClose u f t
      | none =>
        if s.admission p f = .wait then (s.drop n).defer (regionKey f.part f.region) f
        else if e.failed then (s.drop n).failReply (.pp u) f cProtocolFailed
        else if e.locked || (s.txns.look b).isSome then (s.drop n).defer b f
        else if s.admission p f = .refuse then (s.drop n).failReply (.pp u) f cProtocol
        else if 8 ≤ prot && s.meetsPoison f then (s.drop n).failReply (.pp u) f cPoison
        else if 8 ≤ prot then s.dispatch u n f prot f.region (some b)
        else s.dispatchVendor u n f prot f.region (some b) fun s => s.vendorWork u p f

/-- READ_MISS. -/
def execReadMiss (n : Nat) (s : State) : Host.Outcome State Fault Refusal := event (fun s => s.serve n tReadMiss) s
/-- WRITE_MISS. -/
def execWriteMiss (n : Nat) (s : State) : Host.Outcome State Fault Refusal := event (fun s => s.serve n tWriteMiss) s
/-- UPGRADE. -/
def execUpgrade (n : Nat) (s : State) : Host.Outcome State Fault Refusal := event (fun s => s.serve n tUpgrade) s
/-- FAR_AMO. -/
def execFarAmo (n : Nat) (s : State) : Host.Outcome State Fault Refusal := event (fun s => s.serve n tFarAmo) s
/-- FLUSH. -/
def execFlush (n : Nat) (s : State) : Host.Outcome State Fault Refusal := event (fun s => s.serve n tFlush) s
/-- EVICT. -/
def execEvict (n : Nat) (s : State) : Host.Outcome State Fault Refusal := event (fun s => s.serve n tEvict) s
/-- ENGINE_READ. -/
def execEngineRead (n : Nat) (s : State) : Host.Outcome State Fault Refusal := event (fun s => s.serve n tEngineRead) s
/-- ENGINE_WRITE. -/
def execEngineWrite (n : Nat) (s : State) : Host.Outcome State Fault Refusal := event (fun s => s.serve n tEngineWrite) s

/-! ## The watchdog (R279, R280) -/

/-- The limits of a row: W instructions, C cycles (R274). -/
def pctlW (c : Word) : Nat := if fld c 63 48 = 0 then 2048 else fld c 63 48
def pctlC (c : Word) : Nat := if fld c 47 16 = 0 then 200000 else fld c 47 16

/-- HANDLER_KILL: a handler that has used up its instructions or its cycles. -/
def execHandlerKill (pp slot : Nat) (s : State) : Host.Outcome State Fault Refusal :=
  ppEvent pp (fun s => match (s.pp pp).handlers.look slot with
    | some h =>
      let c := (s.pp pp).pctl h.prot
      if pctlW c ≤ h.issued then s.killHandler pp slot 0 0 0
      else if h.started + pctlC c < s.time then s.killHandler pp slot 1 0 0
      else s
    | none => s) s

end Sys2Proof.Machine
end

