-- ==== Sys2Proof/Machine/Regions.lean ====
section
/-! DEFINITION. Regions as a whole: the commands of CMD words, the close of a region at its homes, the CLOSE of a
participant and the combine of a REDUCE region (R259 to R264, R284 to R286). -/

namespace Sys2Proof.Machine

/-! ## Homes and blocks of a region -/

/-- The homes of a region's blocks: pages go round the homes, so the first 64 pages name them all (R26, R27), but for those of
the extents that the region meets (R350). -/
def State.homesOf (s : State) (p : Partition) (n : Nat) : List Nat :=
  let base := (s.desc p n 0).toNat
  let last := (s.desc p n 1).toNat
  let paged := (List.range 64).filterMap fun i =>
    let a := base / 4096 * 4096 + i * 4096
    if a ≤ last then some (s.homeFor a) else none
  let pooled := s.extents.filterMap fun e =>
    let a := 2 * 2 ^ 48 + fld e.2.first 47 12 * 4096
    if fld e.2.last 1 0 ≠ 0 && base ≤ 2 * 2 ^ 48 + fld e.2.last 47 12 * 4096 + 4095 && a ≤ last then some (s.homeFor (Nat.max a base))
    else none
  (paged ++ pooled).eraseDups

/-- The block lies in the region, in a frame of the partition. -/
def State.inRegion (s : State) (p : Partition) (n b : Nat) : Bool :=
  (s.desc p n 0).toNat ≤ b && b ≤ (s.desc p n 1).toNat && s.ownsBlock p b

/-- Directory entries of a region's blocks at a home. -/
def State.entriesAt (s : State) (p : Partition) (n u : Nat) : List (Nat × DirEntry) :=
  s.dir.filter fun e => s.homeFor e.1 = u && s.inRegion p n e.1

/-- Lists of messages that wait on blocks of a region at a home: deferred ones, and those kept waiting. -/
def State.deferredAt (s : State) (p : Partition) (n u : Nat) : List Nat :=
  (s.deferred.filter fun e => e.1 < 2 ^ 60 && s.homeFor (e.1 % 2 ^ 56) = u && e.2.any fun f => f.part == p.id && f.region == n).map (·.1)

/-- A handler works on a block of the region at a home. -/
def State.regionBusyAt (s : State) (p : Partition) (n u : Nat) : Bool :=
  (s.pp u).handlers.any fun e => e.2.part = p.id && e.2.region = n && e.2.locks.any (s.inRegion p n)

/-- The messages of a region's close or combine to its homes, and the count of answers to come, by its key. The spec gives
RCMD no lane: it travels on the local request lane (log entry 76). -/
def State.tellHomes (s : State) (p : Partition) (n type seq lane key : Nat) (cmd : Word) : State :=
  let l := s.homesOf p n
  let c := s.homeFor (s.descAt p n)
  let s := l.foldl (fun s u => s.send (.pp c) (.pp u) p.cls p.id seq
    (msg lane type [w64 (s.descAt p n), cmd, protWord (ctlProt (s.desc p n 2)) n])) s
  s.modPart p.id fun q => { q with regionBusy := q.regionBusy.put key l.length }

/-! ## The combine (R284) -/

/-- One element of a combine. -/
def combineElem (rop rtype a b : Nat) : Nat :=
  if 2 ≤ rtype then addNearest (rtype = 3) a b else amoNew rop (if rtype = 1 then 64 else 32) a b

/-- A line combined with a partial, element by element. -/
def combineLine (rop rtype : Nat) (v x : Line) : Line :=
  let w := if rtype % 2 = 1 then 64 else 32
  BitVec.ofNat 512 ((List.range (512 / w)).foldl (fun n i =>
    n + combineElem rop rtype (v.toNat / 2 ^ (w * i) % 2 ^ w) (x.toNat / 2 ^ (w * i) % 2 ^ w) * 2 ^ (w * i)) 0)

/-- Combines a block: the partials of the participants that flushed it, in ascending position, as far as they lie in the
partition's own frames (R2, R284). -/
def State.combineBlock (s : State) (p : Partition) (n b : Nat) : State :=
  let ctl := s.desc p n 2
  let e := s.entry b
  let v := (List.range (ctlNpart ctl + 1)).foldl (fun v q =>
    if e.pw0.getLsbD q && s.partialOk p n q b then combineLine (ctlRop ctl) (ctlRtype ctl) v (s.mem.line (s.partialAt p n q b)) else v) (s.mem.line b)
  if e.pw0 = 0 then s else (s.mergeLine b (some v) (2 ^ 64 - 1)).setEntry b { e with pw0 := 0 }

/-- Combines the blocks of a region at a home. -/
def State.combineAt (s : State) (p : Partition) (n u : Nat) : State :=
  (s.entriesAt p n u).foldl (fun s e => s.combineBlock p n e.1) s

/-- CLOSE: the participant's bit in the CLOSED mask; the last one starts the combine (R284, R285). -/
def State.closeOf (s : State) (u : Nat) (p : Partition) (f : Flit) : State :=
  let n := f.region
  match s.position p n (f.word 1).toNat with
  | none => s.failReply (.pp u) f cProtocol
  | some q =>
    let mask := s.desc p n 5 ||| w64 (2 ^ q)
    let s := (s.setDesc p n 5 mask).reply (.pp u) f rAck [f.word 0] none
    if ctlRsub (s.desc p n 2) = 0 && mask = w64 (2 ^ (ctlNpart (s.desc p n 2) + 1) - 1) then
      (s.setRegion p n 1 1).tellHomes p n tHomecast combineSeq 1 (combineKey n) 0
    else s

/-- CLOSE: the vendor handler of the control home takes it. -/
def execClose (n : Nat) (s : State) : Host.Outcome State Fault Refusal :=
  event (fun s => match s.requestAt n tClose with
    | some (f, u) => match s.partById f.part with
      | none => s.drop n
      | some p =>
        let c := s.desc p f.region 2
        let e := s.entry f.block
        if ctlState c = 2 || ctlState c = 3 then (s.drop n).defer (regionKey f.part f.region) f
        else if e.failed then (s.drop n).failReply (.pp u) f cProtocolFailed
        else if e.locked then (s.drop n).defer f.block f
        else if ctlState c = 0 || ctlProt c ≠ pReduce || f.prot ≠ pReduce then (s.drop n).failReply (.pp u) f cProtocol
        else s.dispatchVendor u n f pReduce f.region (some f.block) fun s => s.closeOf u p f
    | none => s) s

/-- The region that a descriptor address names. -/
def State.regionOf (s : State) (p : Partition) (pa : Nat) : Nat := (pa - s.regionBase p) / 64 % 256

/-- HOMECAST: a home combines its blocks, its deferred loads come again, it answers ACK; a custom protocol's goes to a
handler. -/
def execHomecast (n : Nat) (s : State) : Host.Outcome State Fault Refusal :=
  event (fun s => match s.requestAt n tHomecast with
    | some (f, u) => match s.partById f.part with
      | none => s.drop n
      | some p =>
        let r := s.regionOf p (f.word 0).toNat
        let prot := ctlProt (s.desc p r 2)
        if f.rseq ≠ combineSeq then s.dispatch u n f prot r none
        else s.dispatchVendor u n f pReduce r none fun s =>
          let s := s.combineAt p r u
          let s := (s.deferredAt p r u).foldl State.redispatch s
          s.reply (.pp u) f rAck [f.word 0] none
    | none => s) s

/-- REDUCE_DONE: every home has combined (R284). -/
def State.reduceDone (s : State) (p : Partition) (n : Nat) : State :=
  if ctlProt (s.desc p n 2) = pReduce && ctlState (s.desc p n 2) = 1 && ctlRsub (s.desc p n 2) = 1 &&
      p.regionBusy.at (combineKey n) 0 = 0 then
    let s := s.setRegion p n 1 2
    (s.homesOf p n).foldl (fun s u => (s.deferredAt p n u).foldl State.redispatch s) s
  else s

/-- An event of a region of a partition. -/
def regionEvent (part region : Nat) (f : Partition → State → State) (s : State) : Host.Outcome State Fault Refusal :=
  event (fun s => match s.partById part with
    | some p => if region < 256 then f p s else s
    | none => s) s

/-- REDUCE_DONE. -/
def execReduceDone (part region : Nat) (s : State) : Host.Outcome State Fault Refusal :=
  regionEvent part region (fun p s => s.reduceDone p region) s

/-! ## BIND (R264) -/

/-- A list of an extension names cores of the partition once each, with [15:10] zero (R260). -/
def State.listOk (s : State) (p : Partition) (n count : Nat) : Bool :=
  let l := (List.range count).map (s.extEntry p n)
  l.all (fun c => c < 1024 && (p.coreFor c).isSome) && l.Nodup

/-- First address and size of every mapped page below a table of a level (R217). -/
def State.mappedFrom (s : State) (p : Partition) : Nat → Nat → List (Nat × Nat)
  | l, table =>
    if table / 2 ^ 48 ≠ 0 || !p.ownsFrame (table / 4096) then []
    else ((List.range (if l = 4 then 256 else 512)).map fun i => s.mem.word (table + i * 8)).flatMap fun pte =>
      if !pteV pte then []
      else match l with
        | 0 => if pteNonLeaf pte then [] else [(pteFrame pte * 4096, if pteC64 pte then 65536 else 4096)]
        | k + 1 =>
          if pteNonLeaf pte then State.mappedFrom s p k (pteFrame pte * 4096)
          else if k + 1 > 2 then [] else [(pteFrame pte * 4096, 2 ^ levelShift (k + 1))]

/-- No page that a core of the partition maps meets a physical range. -/
def State.unmapped (s : State) (p : Partition) (lo hi : Nat) : Bool :=
  let roots := (p.cores.map fun c => fld (s.core c).regs.walkRoot 51 12 * 4096).eraseDups
  roots.all fun r => (s.mappedFrom p 4 r).all fun x => hi ≤ x.1 || x.1 + x.2 ≤ lo

/-- The partial area of a REDUCE region: in space 0, aligned with the region, met by no mapped page (R261), and in the
partition's own frames (R2, R330). -/
def State.partialAreaOk (s : State) (p : Partition) (n : Nat) : Bool :=
  let base := s.desc p n 0
  let lo := (s.desc p n 4).toNat
  let hi := s.partialAt p n (ctlNpart (s.desc p n 2)) (s.desc p n 1).toNat + 1
  fld (s.desc p n 4) 63 48 = 0 && fld (s.desc p n 4) 16 0 = fld base 16 0 && hi ≤ 2 ^ 48 &&
    ((List.range 4).any fun i => pairHas p.regs.pmem i (lo / 4096) && pairHas p.regs.pmem i ((hi - 1) / 4096)) && s.unmapped p lo hi

/-- The descriptor overlaps another bound region of the partition. -/
def State.overlaps (s : State) (p : Partition) (n : Nat) : Bool :=
  (List.range 256).any fun m => m ≠ n && ctlState (s.desc p m 2) = 1 &&
    s.desc p m 0 ≤ s.desc p n 1 && s.desc p n 0 ≤ s.desc p m 1

/-- BIND finds the descriptor valid. BASE and LIMIT that break R259 are invalid too, though R264 does not list them (log entry
77). -/
def State.bindOk (s : State) (p : Partition) (n : Nat) : Bool :=
  let c := s.desc p n 2
  let prot := ctlProt c
  let base := s.desc p n 0
  let lim := s.desc p n 1
  let param := s.desc p n 4
  let listed := prot = pReduce || (prot = pPush && fld param 20 16 ≠ 0)
  !(prot = 0 || prot = 7 || prot = 15) &&
  fld c 63 48 = 0 && fld c 31 24 = 0 && fld c 19 16 = 0 && fld c 11 9 = 0 && fld c 7 4 = 0 &&
  fld base 5 0 = 0 && fld lim 5 0 = 63 && base ≤ lim && !s.overlaps p n &&
  (!listed || ctlExt c) && fld (s.desc p n 3) 7 0 = 0 &&
  (if prot < 8 then ctlClass c = 0 else ctlClass c ≤ 1) &&
  (prot = pReduce || (ctlNpart c = 0 && ctlRtype c = 0 && ctlRop c = 0)) &&
  (!(prot = 1 || prot = 2 || prot = 3 || prot = 5) || param = 0) &&
  (!(1 ≤ prot && prot ≤ 5) || s.desc p n 5 = 0) &&
  (prot ≠ pReduce || (ctlRop c ≤ 7 && (ctlRtype c ≤ 1 || ctlRop c = 0) && s.listOk p n (ctlNpart c + 1) && s.partialAreaOk p n)) &&
  (prot ≠ pPush || ((p.coreFor (fld param 9 0)).isSome && fld param 20 16 ≤ 16))

/-! ## Commands (R262, R263) -/

/-- Writes STATUS into the CMD word. -/
def State.setStatus (s : State) (p : Partition) (n st : Nat) : State := s.setDesc p n 7 (setFld (s.desc p n 7) 15 8 st)

/-- The requests that waited for a region to be bound come again. -/
def State.reopenList (s : State) (part n : Nat) : State := s.redispatch (regionKey part n)

/-- BIND. -/
def State.regionBind (s : State) (p : Partition) (n : Nat) : State :=
  let st := ctlState (s.desc p n 2)
  if !(st = 0 || st = 3) then s.setStatus p n 3
  else if !s.bindOk p n then s.setStatus p n 2
  else
    let s := if ctlProt (s.desc p n 2) = pReduce then s.setDesc p n 5 0 else s
    ((s.setRegion p n 1 0).setStatus p n 1).reopenList p.id n

/-- CLOSE: the close runs at every home of the region. -/
def State.regionClose (s : State) (p : Partition) (n : Nat) : State :=
  if ctlState (s.desc p n 2) ≠ 1 then s.setStatus p n 3
  else (s.setRegion p n 2 (ctlRsub (s.desc p n 2))).tellHomes p n tRcmd vendorSeq 0 n (s.desc p n 7)

/-- CLOSED: every home has finished, and a combine that was under way too; whatever entries the region still has are free. -/
def State.regionClosed (s : State) (p : Partition) (n : Nat) : State :=
  if ctlState (s.desc p n 2) = 2 && p.regionBusy.at n 0 = 0 && p.regionBusy.at (combineKey n) 0 = 0 then
    let s := { s with dir := s.dir.filter fun e => !s.inRegion p n e.1 }
    (s.setRegion p n 3 0).setStatus p n 1
  else s

/-- An address lies in the partial of one of a REDUCE region's participants, in the partition's own frames (R2, R261). -/
def State.inPartials (s : State) (p : Partition) (n : Nat) : Nat → Bool :=
  let c := s.desc p n 2
  let base := (s.desc p n 0).toNat
  let last := (s.desc p n 1).toNat
  let areas := (List.range (ctlNpart c + 1)).map fun q => (s.partialAt p n q base, s.partialAt p n q last)
  fun a => areas.any (fun x => x.1 ≤ a && a ≤ x.2) && p.ownsWord a

/-- REOPEN: the CLOSED mask and every partial are cleared, the partials in the partition's own frames only, whatever the
descriptor says by now (R2). -/
def State.regionReopen (s : State) (p : Partition) (n : Nat) : State :=
  let c := s.desc p n 2
  if ctlState c = 1 && ctlProt c = pReduce && ctlRsub c = 2 then
    let s := { s with
      dir := s.dir.map fun (e : Nat × DirEntry) => if s.inRegion p n e.1 then (e.1, { e.2 with pw0 := 0 }) else e
      mem := s.mem.clearIf (s.inPartials p n) }
    ((s.setDesc p n 5 0).setRegion p n 1 0).setStatus p n 1
  else s.setStatus p n 3

/-- The command that a swapped-in value names, by its OP (R262). -/
def State.command (s : State) (p : Partition) (n : Nat) (v : Word) : State :=
  match fld v 7 0 with
  | 0 => s.setStatus p n 1
  | 1 => s.regionBind p n
  | 2 => s.regionClose p n
  | 3 => s.regionReopen p n
  | _ => s.setStatus p n 4

/-! ## RCMD -/

/-- The close of a region at one home, by its vendor handler: a REDUCE region's partials are combined first; every deferred
message is answered FAIL, every copy called back, every entry freed (R263). -/
def State.closeAt (s : State) (u : Nat) (p : Partition) (f : Flit) (n : Nat) : State :=
  let c := s.desc p n 2
  let prot := ctlProt c
  let slot := (((s.pp u).handlers.find? fun e => e.2.req == some f).map (·.1)).getD 0
  let s := if prot = pReduce && ctlRsub c ≤ 1 then s.combineAt p n u else s
  let s := (s.deferredAt p n u).foldl (fun s b => s.failDeferred b cProtocol) s
  let l := s.entriesAt p n u
  let isHeld (e : Nat × DirEntry) : Bool := e.2.sharers != 0 || s.portsOf e.1 != []
  let held := l.filter isHeld
  let s := l.foldl (fun s e => if isHeld e then s else { s with dir := s.dir.del e.1 }) s
  let s := held.foldl (fun s (b, e) =>
    let hems := hemsOf e.sharers
    let probes : List Probe := (if prot = pReduce then [] else hems.map fun h => (.hem h, rRecall, [0], none)) ++ probeInval hems [] ++
      s.probePorts b rRecall 0 none
    let s := probes.foldl (fun s (a, type, words, x) =>
      s.send (.pp u) a p.cls p.id vendorSeq (.msg ⟨2, type, w64 b :: words, x⟩)) s
    { s with txns := s.txns.put b ⟨f, slot, probes.length, 1, prot ≠ pReduce && e.state = 2, none⟩ }) s
  if held = [] then s.homeDone p.id n else s

/-- The entries that killed handlers left locked are free again. -/
def State.freeFailed (s : State) (p : Partition) (n u : Nat) : State :=
  (s.entriesAt p n u).foldl (fun s e =>
    if e.2.failed then ((s.failDeferred e.1 cProtocol).failDeferred (heldKey e.1) cProtocol).setEntry e.1 DirEntry.reset else s) s

/-- RCMD: at the control home a command word is carried out; at a home of the region its close runs, in the home or in a
custom protocol's handler. Only the control home's hardware sends either, on the local request lane: an RCMD that a handler or
a port sends is a custom protocol's own message, and to a vendor protocol it says nothing (R262, R270). -/
def execRcmd (n : Nat) (s : State) : Host.Outcome State Fault Refusal :=
  event (fun s => match s.requestAt n tRcmd with
    | some (f, u) => match s.partById f.part with
      | none => s.drop n
      | some p =>
        let r := s.regionOf p (f.word 0).toNat
        let prot := ctlProt (s.desc p r 2)
        if f.lane = 0 && f.rseq ≠ vendorSeq then (s.drop n).command p r (f.word 1)
        else if f.lane ≠ 0 then (if 8 ≤ prot then s.dispatch u n f prot r none else s.drop n)
        else if 8 ≤ prot then (s.freeFailed p r u).dispatch u n f prot r none
        else if s.regionBusyAt p r u then s
        else s.dispatchVendor u n f prot r none fun s => s.closeAt u p f r
    | none => s) s

/-- The command that waits at the control home for a region, with an OP: its place. -/
def State.commandAt (s : State) (p : Partition) (n op : Nat) : Option Nat :=
  s.net.findIdx? fun f => f.arrived && f.type == tRcmd && f.lane == 0 && f.rseq != vendorSeq && f.part == p.id &&
    f.word 0 == w64 (s.descAt p n) && fld (f.word 1) 7 0 == op

/-- Carries out a waiting command of an OP. -/
def commandEvent (part region op : Nat) (act : State → Partition → Nat → State) (s : State) : Host.Outcome State Fault Refusal :=
  regionEvent part region (fun p s => match s.commandAt p region op with
    | some i => act (s.drop i) p region
    | none => s) s

/-- REGION_NONE. -/
def execRegionNone (part region : Nat) (s : State) : Host.Outcome State Fault Refusal :=
  commandEvent part region 0 (fun s p n => s.setStatus p n 1) s
/-- REGION_BIND. -/
def execRegionBind (part region : Nat) (s : State) : Host.Outcome State Fault Refusal := commandEvent part region 1 State.regionBind s
/-- REGION_CLOSE. -/
def execRegionClose (part region : Nat) (s : State) : Host.Outcome State Fault Refusal := commandEvent part region 2 State.regionClose s
/-- REGION_REOPEN. -/
def execRegionReopen (part region : Nat) (s : State) : Host.Outcome State Fault Refusal := commandEvent part region 3 State.regionReopen s
/-- REGION_CLOSED. -/
def execRegionClosed (part region : Nat) (s : State) : Host.Outcome State Fault Refusal :=
  regionEvent part region (fun p s => s.regionClosed p region) s

end Sys2Proof.Machine
end

