-- ==== Sys2Proof/Machine/Engine.lean ====
section
/-! DEFINITION. The copy engine: the start of jobs, the elements of a job one after another, pauses, failures and ends
(R245 to R257, R303, R320). -/

namespace Sys2Proof.Machine

/-! ## Elements (R247 to R249) -/

/-- Position along each dimension of the element at a position of the iteration order, dimension 0 first. -/
def coords : List (Word × Word × Word) → Nat → List Nat
  | [], _ => []
  | d :: t, n => n % d.1.toNat :: coords t (n / d.1.toNat)

/-- Elements of a job. -/
def Job.total (j : Job) : Nat := j.dims.foldl (fun (n : Nat) d => n * d.1.toNat) 1

/-- Stride of a dimension: of the source, or of the destination. -/
def Job.stride (j : Job) (write : Bool) (d : Word × Word × Word) : Word :=
  if j.kind = 0 then w64 (2 ^ j.esz) else if write then d.2.2 else d.2.1

/-- Source or destination address of the element under way. -/
def Job.elemAt (j : Job) (write : Bool) : Word :=
  let indexed := (j.kind == 2 && !write) || (j.kind == 3 && write)
  ((j.dims.zip (coords j.dims j.pos)).zipIdx).foldl (fun a x =>
    let n : Nat := if indexed && x.2 + 1 = j.dims.length then j.index.getD 0 else x.1.2
    a + j.stride write x.1.1 * w64 n) (if write then j.dst else j.src)

/-- The engine reads an index for each element of a GATHER or a SCATTER, and a scale byte for each ZSKIP block. -/
def Job.needsIndex (j : Job) : Bool := (j.kind == 2 || j.kind == 3 || j.zskip) && j.index.isNone

/-- Address and size of that index or scale byte. -/
def Job.indexAt (j : Job) : Word × Nat :=
  if j.zskip then (j.aux + w64 (j.pos / j.block), 1)
  else (j.aux + w64 (8 * (coords j.dims j.pos).getLastD 0), 8)

/-- Bytes of one piece, and the pieces of an element (R252). -/
def Job.pieceSize (j : Job) : Nat := Nat.min 64 (2 ^ j.esz)
def Job.pieces (j : Job) : Nat := 2 ^ j.esz / j.pieceSize

/-- The element reads nothing: FILL, or a zero block. -/
def Job.unread (j : Job) : Bool := j.kind == 4 || (j.zskip && j.index == some 0x80)

/-- The piece to write next. -/
def Job.piece (j : Job) : Nat :=
  if j.kind = 4 then j.aux.toNat % 2 ^ (8 * j.pieceSize) else if j.unread then 0 else j.buf.getD j.wrote 0

/-- What a job does next. -/
inductive EngStep where
  | index (va : Word) (size : Nat)
  | read (va : Word)
  | write (va : Word) (v : Nat)
  | stream (v : Nat)
deriving DecidableEq, Repr

def Job.next (j : Job) : EngStep :=
  if j.needsIndex then .index j.indexAt.1 j.indexAt.2
  else if !j.unread && j.buf.length < j.pieces then .read (j.elemAt false + w64 (64 * j.buf.length))
  else if j.kind = 5 then .stream j.piece
  else .write (j.elemAt true + w64 (64 * j.wrote)) j.piece

/-! ## One access (R210, R211, R251, R252) -/

/-- Where an access of the engine goes, or why it does not. -/
inductive EngPlace where
  | sram (core off : Nat)
  | phys (pa : Nat) (pte : Word)
  | pause (level : Nat) (pte : Word)
  | held
  | fail (cause : Nat)
deriving DecidableEq, Repr

/-- Translates through the hem's cache, with the job's partition and privilege (R251). -/
def State.engineTranslate (s : State) (hem : Nat) (p : Partition) (j : Job) (a : Acc) (va : Nat) : Tr × State :=
  match (s.hem hem).tlb.find? (·.hits p.id va) with
  | some e => (s.judgeLeaf p j.priv a va e.size e.pte, s)
  | none =>
    match s.walk p (s.core j.core).regs.walkRoot va with
    | .absent l e => (.absent l e, s)
    | .invalid => (.trap cPageInvalid 0, s)
    | .leaf pte size path =>
      match s.lineStored path with
      | some b => (.held b, s)
      | none => (s.judgeLeaf p j.priv a va size pte, s.hemFill hem ⟨va / size * size, size, pte, path, p.id⟩)

/-- The engine's checks for the local window of the issuing core (R172, R211, R252). -/
def State.engineLocal (s : State) (j : Job) (write : Bool) (off z : Nat) : EngPlace :=
  match localExtent off with
  | none => .fail cWindow
  | some _ =>
    if off < 0x080000 then
      if j.priv == .u && s.reservedFrom j.core ≤ off + z - 1 then .fail cPageProt else .sram j.core off
    else match slotAt off with
      | some n =>
        if s.ringOn j.core && 480 ≤ n then .fail cRing
        else if write && (s.core j.core).pins.at n 0 ≠ 0 then .fail cRing
        else .sram j.core off
      | none => .fail cWindow

/-- The engine's checks for the remote-local window (R211). -/
def State.engineRemote (s : State) (p : Partition) (j : Job) (off z : Nat) : EngPlace :=
  let core := p.coreAt (off / 2 ^ 24)
  if 2 ^ 34 ≤ off || 0x080000 ≤ off % 2 ^ 24 || 16 * p.hemCount ≤ off / 2 ^ 24 then .fail cWindow
  else if j.priv == .u && s.reservedFrom core ≤ off % 2 ^ 24 + z - 1 then .fail cPageProt
  else .sram core (off % 2 ^ 24)

/-- Checks and translates one aligned access of a job. A leaf of space 4 and window 0xFC, whose registers no engine accesses, fail
the job with causes that the model chose (DESIGN CHOICE, log entry 52). -/
def State.enginePlace (s : State) (hem : Nat) (p : Partition) (j : Job) (write : Bool) (va z : Nat) : EngPlace × State :=
  if va % z ≠ 0 then (.fail cMisaligned, s)
  else match windowOf va with
    | .global => match s.engineTranslate hem p j (if write then .store else .load) va with
      | (.ok pa pte, s) => (if pa / 2 ^ 48 = 4 then .fail cWindow else .phys pa pte, s)
      | (.absent l e, s) => (.pause l e, s)
      | (.trap c _, s) => (.fail c, s)
      | (.held _, s) => (.held, s)
    | .localW => (s.engineLocal j write (va % 2 ^ 56) z, s)
    | .remote => (s.engineRemote p j (va % 2 ^ 56) z, s)
    | .device => (.fail (if j.priv == .u then cPrivilege else cMisaligned), s)
    | .none => (.fail cWindow, s)

/-! ## Progress of a job -/

/-- Changes a job. -/
def State.modJob (s : State) (hem e : Nat) (f : Job → Job) : State :=
  match (s.hem hem).job e with
  | some j => s.modHem hem fun h => h.setJob e (f j)
  | none => s

/-- A job meets an absent page: it pauses, with its record (R252). -/
def State.pauseJob (s : State) (hem e : Nat) (j : Job) (write : Bool) (level : Nat) (pte : Word) (va : Nat) : State :=
  let s := s.modJob hem e fun j => { j with state := .paused }
  s.record j.core (jobFaultRecord (s.partIdOf j.core) j.slot ((s.hem hem).jobId e) level (if write then 1 else 0) pte va)

/-- An element is delivered whole (R254): its bytes count at the barrier; the last one completes the job. -/
def State.elementDone (s : State) (hem e : Nat) : State :=
  match (s.hem hem).job e with
  | none => s
  | some j =>
    let n := 2 ^ j.esz
    let s := if j.bcen then
        s.modCoreThread j.core j.slot fun t => { t with regs := t.regs.deliver j.bcb n }
      else s
    let index := if j.zskip && (j.pos + 1) % j.block ≠ 0 then j.index else none
    let s := s.modHem hem fun h =>
      h.setJob e { j with pos := j.pos + 1, delivered := j.delivered + n, buf := [], wrote := 0, index }
    if j.pos + 1 = j.total then s.endJob hem e .complete 0 else s

/-- A value that the job waited for has been read. -/
def State.engineGot (s : State) (hem e : Nat) (v : Nat) : State :=
  s.modJob hem e fun j => match j.next with
    | .index .. => { j with index := some v, waiting := false }
    | _ => { j with buf := j.buf ++ [v], waiting := false }

/-- A piece has been written; the last of an element delivers it. -/
def State.enginePut (s : State) (hem e : Nat) : State :=
  match (s.hem hem).job e with
  | none => s
  | some j =>
    let s := s.modHem hem fun h => h.setJob e { j with wrote := j.wrote + 1, waiting := false }
    if j.wrote + 1 = j.pieces then s.elementDone hem e else s

/-- Sends a request of the job to a home and waits for the answer. -/
def State.engineAsk (s : State) (hem e : Nat) (p : Partition) (va pa z : Nat) (pte : Word) (write : Option Nat) : State :=
  let (r, s) := s.newSeq 0
  let s := s.modJob hem e fun j => { j with waiting := true, rseq := r, asked := w64 va }
  let mask := (2 ^ z - 1) * 2 ^ (pa % 64)
  s.send (.engine hem) (.pp (s.homeFor pa)) p.cls p.id r (.msg
    ⟨0, if write.isSome then tEngineWrite else tEngineRead, [w64 pa, w64 mask, protWord (pteProt pte) (pteRegion pte)],
      write.map fun v => lineWrite 0 (pa % 64) z v⟩)

/-- The granules of a local access that are poisoned (R235). -/
def State.enginePoison (s : State) (core off z : Nat) (write : Bool) : Bool :=
  (s.core core).sramPoison.at (off / 64) false && !(write && z = 64)

/-- A job meets poison: it fails, and the core that issued it records the event; no slot takes a trap (R233, R235, R252). -/
def State.jobPoison (s : State) (hem e : Nat) (j : Job) (src addr : Nat) : State :=
  (s.record j.core (poisonRecord (s.partIdOf j.core) 15 src addr)).endJob hem e .failed cPoison

/-- One read of a job. A leaf whose mark PSN is 1 fails it with POISON and makes no record (DESIGN CHOICE, log entry 84). -/
def State.engineRead (s : State) (hem e : Nat) (p : Partition) (j : Job) (va z : Nat) : State :=
  match s.enginePlace hem p j false va z with
  | (.sram c off, s) =>
    if s.enginePoison c off z false then s.jobPoison hem e j (localSrc off) off
    else s.engineGot hem e ((s.core c).sram.read off z)
  | (.phys pa pte, s) => s.engineAsk hem e p va pa z pte none
  | (.held, s) => s
  | (.pause l pte, s) => s.pauseJob hem e j false l pte va
  | (.fail c, s) => s.endJob hem e .failed c

/-- One write of a job. -/
def State.engineWrite (s : State) (hem e : Nat) (p : Partition) (j : Job) (va z v : Nat) : State :=
  match s.enginePlace hem p j true va z with
  | (.sram c off, s) =>
    if s.enginePoison c off z true then s.jobPoison hem e j (localSrc off) off
    else ((s.writeSram c off z v).modCore c fun k => { k with
      sramPoison := if z = 64 then k.sramPoison.del (off / 64) else k.sramPoison }).enginePut hem e
  | (.phys pa pte, s) => s.engineAsk hem e p va pa z pte (some v)
  | (.held, s) => s
  | (.pause l pte, s) => s.pauseJob hem e j true l pte va
  | (.fail c, s) => s.endJob hem e .failed c

/-- The next act of a running job. -/
def State.engineAct (s : State) (hem e : Nat) (p : Partition) (j : Job) : State :=
  match j.next with
  | .index va z => s.engineRead hem e p j va.toNat z
  | .read va => s.engineRead hem e p j va.toNat j.pieceSize
  | .write va v => s.engineWrite hem e p j va.toNat j.pieceSize v
  | .stream v =>
    (s.modCoreThread j.core j.slot fun t => { t with queues := { t.queues with q4 := t.queues.q4 ++ [w64 v] } }).elementDone hem e

/-- A STREAM job does not begin an element while q4 is full (R251). -/
def State.streamFull (s : State) (j : Job) : Bool :=
  j.kind == 5 && 32 ≤ (s.coreThread j.core j.slot).queues.q4.length

/-- Acts of a job until its element is delivered, or it waits, pauses or ends. -/
def State.engineRun (s : State) (hem e : Nat) (p : Partition) (pos : Nat) : Nat → State
  | 0 => s
  | n + 1 =>
    match (s.hem hem).job e with
    | some j =>
      if j.state == .running && j.pos = pos && !j.waiting && !s.streamFull j then
        State.engineRun (s.engineAct hem e p j) hem e p pos n
      else s
    | none => s

/-- Under CQSC a job that has come between two elements, or pauses, is cancelled and counted (R320). -/
def State.settleJob (s : State) (hem e : Nat) : State :=
  match s.partOfHem hem, (s.hem hem).job e with
  | some p, some j =>
    match p.cqsc, j.quiesce with
    | some (c, t, l, n), some _ => (s.cancelJob hem e).modPart p.id fun p => { p with cqsc := some (c, t, l, n + 1) }
    | _, _ => s
  | _, _ => s

/-- Acts that the longest element takes: its index, 64 reads and 64 writes. -/
def elementActs : Nat := 129

/-- The thread at whose barrier a job counts may still issue a BCARM in this cycle: decrements come after it (R378). -/
def State.armDue (s : State) (j : Job) : Bool := j.bcen && s.pick false j.core 0 == some j.slot

/-- ELEMENT_DELIVERY: a running job goes on with its element as far as it can. -/
def State.deliverElement (s : State) (hem e : Nat) : State :=
  match s.partOfHem hem, (s.hem hem).job e with
  | some p, some j => if s.armDue j then s else (s.engineRun hem e p j.pos elementActs).settleJob hem e
  | _, _ => s

/-- ELEMENT_DELIVERY. -/
def execElementDelivery (hem entry : Nat) (s : State) : Host.Outcome State Fault Refusal :=
  hemEvent hem (fun s => s.deliverElement hem entry) s

/-! ## Starting jobs (R251, R253) -/

/-- Jobs that run: a paused job keeps its place. -/
def Hem.runningJobs (h : Hem) : Nat := h.jobs.countP fun e => e.2.state == .running || e.2.state == .paused

/-- The queued job that was accepted first. -/
def Hem.oldestQueued (h : Hem) : Option (Nat × Job) :=
  h.jobs.foldl (fun b e => if e.2.state == .queued then
      (match b with
        | some x => if e.2.order < x.2.order then some e else b
        | none => some e)
    else b) none

/-- JOB_START. -/
def execJobStart (hem : Nat) (s : State) : Host.Outcome State Fault Refusal :=
  hemEvent hem (fun s =>
    if (s.hem hem).runningJobs < 8 then
      match (s.hem hem).oldestQueued with
      | some (e, j) => s.modHem hem fun h => h.setJob e { j with state := .running }
      | none => s
    else s) s

/-! ## Answers to the engine -/

/-- The job that waits for an answer. -/
def Hem.jobFor (h : Hem) (rseq : Nat) : Option (Nat × Job) := h.jobs.find? fun e => e.2.waiting && e.2.rseq == rseq

/-- A DATA, an ACK or a FAIL reaches a copy engine (R252). -/
def State.engineAnswer (s : State) (hem : Nat) (f : Flit) : State :=
  match (s.hem hem).jobFor f.rseq with
  | none => s
  | some (e, j) =>
    let s :=
      if f.type = rFail then
        if f.word 1 = w64 cPoison then s.jobPoison hem e j (f.word 2).toNat (f.word 0).toNat
        else s.endJob hem e .failed (f.word 1).toNat
      else match j.next with
        | .index va z => s.engineGot hem e (lineRead (f.payload.getD 0) (va.toNat % 64) z)
        | .read va => s.engineGot hem e (lineRead (f.payload.getD 0) (va.toNat % 64) j.pieceSize)
        | _ => s.enginePut hem e
    s.settleJob hem e

end Sys2Proof.Machine
end

