-- ==== Sys2Proof/Machine/Replies.lean ====
section
/-! DEFINITION. Messages of the reply lane as cores, hems, copy engines and protocol processors absorb them (R222, R265
to R268, R276, R277, R282 to R284, R410, R437). -/

namespace Sys2Proof.Machine

/-- The cores that a message of the reply lane reaches: one, or the sixteen of a hem (R276). -/
def Flit.coresOf (f : Flit) : List Nat :=
  match f.dst with
  | .core c _ => [c]
  | .hem h => (List.range 16).map fun t => h * 16 + t
  | _ => []

/-- A message of the reply lane of the same sender and class that left before is still on its way to a core that this one
reaches: a hem's message comes to its cores in the order in which the home sent it (R32, R276). -/
def sentBefore (l : List Flit) (f : Flit) : Bool :=
  l.any fun g => f.lane == 2 && sameSender f g && g.nth < f.nth && !g.body.takenIn && g.coresOf.any f.coresOf.contains

/-- An answer that lets a copy engine deliver an element waits for the BCARM that may issue in this cycle (R378). -/
def State.armFirst (s : State) (f : Flit) : Bool :=
  match f.dst with
  | .engine h => match (s.hem h).jobFor f.rseq with
    | some (_, j) => s.armDue j
    | none => false
  | _ => false

/-- The reply-lane message of a type at a place of the list; a reply to combined requests is split first (R33). -/
def State.replyAt (s : State) (n type : Nat) : Option Flit :=
  match s.arrival n with
  | some f => match f.body with
    | .msg m => if m.lane = 2 && m.type = type && f.merged = [] && !sentBefore s.net f && !s.armFirst f then some f else none
    | _ => none
  | none => none

/-- Carries out a reply-lane message of a type. -/
def replyEvent (n type : Nat) (act : State → Flit → State) (s : State) : Host.Outcome State Fault Refusal :=
  event (fun s => match s.replyAt n type with
    | some f => act (s.drop n) f
    | none => s) s

/-! ## Answers at a protocol processor -/

/-- A block that a hem's core, or a port agent, has given up is still on its way to the home, or waits there. -/
def State.evictComing (s : State) (b hem : Nat) : Bool :=
  let mine (f : Flit) : Bool := f.type == tEvict && f.block == b &&
    ((f.lane == 0 && f.hem == hem) || (f.lane == 1 && match f.port with | some n => (s.portsOf b).contains n | none => false))
  (s.net.any fun f => match f.body with | .msg _ => mine f | _ => false) || (s.deferred.at b []).any mine

/-- A home has called a block back: no cache holds it (R351). -/
def State.recalled (s : State) (b : Nat) : State := s.setEntry b (s.entry b).free

/-- The answers a transaction waits for have all come. A recall that found the block given up, its EVICT on its way, takes its
place behind the EVICT; a close waits for it. -/
def State.allAnswered (s : State) (b : Nat) (t : Txn) : State :=
  let late := t.recalled && s.evictComing b (hemOf (s.entry b).owner)
  if t.stage = 1 then (if late then s else s.blockClosed b t)
  else if t.stage = recallStage then
    (if late then { s with txns := s.txns.del b } else ({ s with txns := s.txns.del b }.setPorts b []).recalled b).redispatch b
  else
    let s := { s with txns := s.txns.del b }
    if late then (s.defer b t.req).endHandler (s.homeFor b) t.slot
    else (s.finishTxn t).endHandler (s.homeFor b) t.slot

/-- Bytes that a region's close has called back go to the remote home of their block (R263, R349). -/
def State.sendHome (s : State) (b : Nat) (f : Flit) : State :=
  s.send (.pp (homeOf b)) (.port (remotePort (homeOf b) b)) f.cls f.part hardSeq (.msg ⟨1, tEvict, [w64 (remoteAddr b)], f.payload⟩)

/-- An answer of a block's holders comes in; the last one lets the home finish. -/
def State.txnAnswer (s : State) (b : Nat) (f : Flit) : State :=
  match s.txns.look b with
  | none => s
  | some t =>
    let s := if f.type = rData then (if b / 2 ^ 48 = 3 then s.sendHome b f else s.mergeLine b f.payload (f.word 1).toNat) else s
    let t := { t with awaiting := t.awaiting - 1, recalled := t.recalled && f.type ≠ rData }
    let s := { s with txns := s.txns.put b t }
    if t.awaiting = 0 then s.allAnswered b t else s

/-- The handler slot that awaits an answer of a sequence takes it into its q0: header, words, payload (R277). -/
def State.handlerAnswer (s : State) (u : Nat) (f : Flit) : State :=
  let t := f.rseq / 256 % 64
  let h := (s.pp u).handler t
  if !h.awaiting.contains f.rseq then s
  else s.modHandler u t fun h => { h with
    awaiting := h.awaiting.erase f.rseq
    thread := { h.thread with queues := { h.thread.queues with
      q0 := h.thread.queues.q0 ++ (s.headerOf f :: f.words)
      payloads := match f.payload with
        | some l => h.thread.queues.payloads ++ [(h.thread.queues.q0.length, l)]
        | none => h.thread.queues.payloads } } }

/-! ### Remote devices (R271, R276, R349) -/

/-- A fabric protocol processor sends a message to hems, and an answer once they have answered. -/
def State.askHems (s : State) (u : Nat) (hems : List Nat) (cls part type : Nat) (words : List Word) (l : Option Line) (answer : Flit) :
    State :=
  if hems = [] then s.post answer
  else
    let (r, s) := s.linkSeq
    let s := hems.foldl (fun s h => s.send (.pp u) (.hem h) cls part r (.msg ⟨2, type, words, l⟩)) s
    { s with links := { s.links with asked := s.links.asked.put r ⟨answer, 64, hems.length, 0, false, none⟩ } }

/-- A hem has answered a fabric protocol processor; data of an RW holder goes with the answer. -/
def State.hemAnswered (s : State) (f : Flit) (t : Txn) : State :=
  let t := { t with awaiting := t.awaiting - 1, data := if f.type = rData then f.payload else t.data }
  if t.awaiting ≠ 0 then { s with links := { s.links with asked := s.links.asked.put f.rseq t } }
  else
    let s := { s with links := { s.links with asked := s.links.asked.del f.rseq } }
    s.post (match t.data with
      | some l => { t.req with body := .msg ⟨2, rData, [t.req.word 0, w64 (2 ^ 64 - 1)], some l⟩ }
      | none => t.req)

/-- The answer of a remote home as its requester has it: with the address it asked for. -/
def relayWords (req f : Flit) : List Word :=
  let i := if f.type = rData && f.payload.isNone then 1 else 0
  match f.body with
  | .msg m => m.words.set i (req.word 0)
  | _ => []

/-- The answer of a remote home reaches the requester. What the device then holds of the block is noted here, and a copy for
one writer first drops the other cores' copies (R276, R349). -/
def State.relay (s : State) (u : Nat) (f req : Flit) : State :=
  let b := req.block
  let s := { s with links := { s.links with sent := s.links.sent.del f.rseq } }
  let e := s.entry b
  let one := f.type = rGrantRw && (req.prot = pInvalidate || req.prot = pMigratory)
  let granted := f.type = rGrantRo || f.type = rGrantRw
  let others := if one then hemsOf e.sharers else []
  let bit := hemBit req.hem
  let s := if granted then
      s.setEntry b (e.copies req.prot req.region (if f.type = rGrantRw then 2 else 1) req.core (if one then bit else e.sharers ||| bit))
    else s
  s.askHems u others req.cls req.part rInvalidate [w64 b, w64 (req.core + 1)] none
    (newFlit (.pp u) req.src req.cls req.part req.rseq (.msg ⟨2, f.type, relayWords req f, f.payload⟩) req.merged)

/-- INVALIDATE, RECALL or PUSH of a remote home reaches the hems that hold the block (R276). -/
def State.remoteProbe (s : State) (u port : Nat) (f : Flit) : State :=
  let b := blockOf (spaceThree port (f.word 0).toNat)
  let e := s.entry b
  let keeps := f.type = rPush || (f.type = rRecall && (f.word 1).getLsbD 0)
  let s := if !keeps then s.setEntry b e.free
    else if f.type = rRecall then s.setEntry b (e.copies (fld e.dword0 55 52) e.region 1 0 e.sharers) else s
  s.askHems u (hemsOf e.sharers) f.cls f.part f.type (w64 b :: (if f.type = rRecall then [f.word 1] else [])) f.payload
    (newFlit (.pp u) f.src f.cls f.part f.rseq (msg 2 rAck [f.word 0]) [])

/-- What comes to a holder of a block: a protocol processor hands it on to the hems. -/
def State.atHolder (s : State) (f : Flit) (act : State → State) : State :=
  match f.dst, f.port with
  | .pp u, some n => s.remoteProbe u n f
  | _, _ => act s

/-- An answer at a protocol processor goes to what waits for it. -/
def State.homeAnswer (s : State) (u : Nat) (f : Flit) : State :=
  let b := f.block
  match s.links.asked.look f.rseq, s.links.sent.look f.rseq with
  | some t, _ => s.hemAnswered f t
  | none, some req => s.relay u f req
  | none, none =>
  if f.rseq = vendorSeq then s.txnAnswer b f
  else if f.rseq = walkSeq then s.walkAck b (match f.src with | .hem h => h | _ => 64)
  else if f.rseq = combineSeq then
    match s.partById f.part with
    | some p => s.homeDone p.id (combineKey (s.regionOf p (f.word 0).toNat))
    | none => s
  else s.handlerAnswer u f

/-! ## Answers at a core (R267) -/

/-- The block whose miss a sequence is. -/
def Core.requested (k : Core) (rseq : Nat) : Option (Nat × Block) := k.cache.find? fun e => rseq ≠ 0 && e.2.rseq == rseq

/-- A block after its grant: an INVALIDATE that came meanwhile leaves it I, unless it is granted RW. -/
def Block.granted (k : Block) (l : Line) (rw : Bool) : Block :=
  { k with
    tag := if rw then .rw else if k.invalPending then .i else .ro
    data := l, dirty := 0, partialCopy := rw && k.partialCopy, invalPending := false, prefetch := false, rseq := 0 }

/-- GRANT-RO and GRANT-RW at a core; a remote home's come through a fabric protocol processor. -/
def State.grantArrives (s : State) (f : Flit) (rw : Bool) : State :=
  match f.dst with
  | .core c _ => match (s.core c).requested f.rseq with
    | some (b, k) => s.setBlock c b (k.granted (f.payload.getD 0) rw)
    | none => s
  | .pp u => s.homeAnswer u f
  | _ => s

/-- GRANT_RO. -/
def execGrantRo (n : Nat) (s : State) : Host.Outcome State Fault Refusal := replyEvent n rGrantRo (fun s f => s.grantArrives f false) s
/-- GRANT_RW. -/
def execGrantRw (n : Nat) (s : State) : Host.Outcome State Fault Refusal := replyEvent n rGrantRw (fun s f => s.grantArrives f true) s

/-- The answer of a late result, and of an access an instruction waits for. -/
def Late.answer (rseq : Nat) (v : LateVal) (l : Late) : Late := if l.rseq == rseq && l.val == .waiting then { l with val := v } else l
def Ask.answer (rseq : Nat) (v : LateVal) (a : Ask) : Ask := if a.rseq == rseq && a.val == .waiting then { a with val := v } else a

/-- The thread goes on once all that its instruction asked has been answered: WAITING or parked with TAGWAIT, it issues the
instruction again; a watcher looks at the word (R45, R265, R410). -/
def Thread.asksDone (t : Thread) : Thread :=
  if t.asks.all fun a => a.val != .waiting then
    (if t.wait == .asks && (t.tstate == .waiting || t.tstate == .parked) then t.resumed
     else if t.tstate == .parked then t.rereadDone else t)
  else t

/-- No FAR-AMO of this sequence is under way any more. -/
def Core.farDone (k : Core) (rseq : Nat) : Core := { k with far := k.far.filter fun e => e.2 != rseq }

/-- The value of an access that its thread waits for, at a core: the core's watchers of the block look again (R267, R410). -/
def State.valueAtCore (s : State) (c slot : Nat) (f : Flit) (v : Word) (pa : Nat) : State :=
  let s := s.modCore c fun k => k.farDone f.rseq
  (s.modCoreThread c slot fun t =>
    { t with pending := t.pending.map (Late.answer f.rseq (.ready v)), asks := t.asks.map (Ask.answer f.rseq (.ready v)) }.asksDone).signalWatch
    c pa

/-- DATA at a core: the value of an UNCACHED or far access. -/
def State.dataAtCore (s : State) (c slot : Nat) (f : Flit) : State :=
  if f.rseq % 4 ≠ 1 then s else s.valueAtCore c slot f (f.word 0) (f.word 1).toNat

/-- DATA. -/
def execData (n : Nat) (s : State) : Host.Outcome State Fault Refusal :=
  replyEvent n rData (fun s f => match f.dst with
    | .core c t => s.dataAtCore c t f
    | .engine h => s.engineAnswer h f
    | .pp u => s.homeAnswer u f
    | _ => s) s

/-- A FLUSH or a CLOSE of a core has been answered. -/
def Core.releaseAnswered (k : Core) (rseq : Nat) : Core := { k with flushes := k.flushes.filter fun f => f.rseq != rseq }

/-- ACK at a core: of a release action, or of a store on a line that carries no tag. -/
def State.ackAtCore (s : State) (c slot : Nat) (f : Flit) : State :=
  match f.rseq % 4 with
  | 2 => s.modCore c fun k => k.releaseAnswered f.rseq
  | 1 => s.valueAtCore c slot f 0 (f.word 0).toNat
  | _ => s

/-- ACK. -/
def execAck (n : Nat) (s : State) : Host.Outcome State Fault Refusal :=
  replyEvent n rAck (fun s f => match f.dst with
    | .core c t => s.ackAtCore c t f
    | .engine h => s.engineAnswer h f
    | .pp u => s.homeAnswer u f
    | _ => s) s

/-- Threads of a core parked on a block, each with the address of its access. -/
def Core.parkedOn (k : Core) (b : Nat) : List (Nat × Nat) :=
  k.threads.filterMap fun e => match e.2.wait with
    | .block pa va => if pa = b && e.2.tstate == .parked then some (e.1, va) else none
    | _ => none

/-- The poison record of a FAIL: where the error was found, and the physical address (R235). -/
def Flit.poison (f : Flit) : Option (Nat × Nat) :=
  if f.word 1 = w64 cPoison then some ((f.word 2).toNat, (f.word 0).toNat) else none

/-- FAIL of a block: it is I, and the threads parked on it trap (R267). -/
def State.blockFails (s : State) (c b : Nat) (f : Flit) : State :=
  let s := s.modCore c fun m => { m with cache := m.cache.del b }
  ((s.core c).parkedOn b).foldl (fun s x => s.trapThread c x.1 (f.word 1).toNat (w64 x.2) f.poison) s

/-- FAIL to a miss; the waiters of a prefetch ask again (R437). -/
def State.missFails (s : State) (c b : Nat) (k : Block) (f : Flit) : State :=
  if k.prefetch then s.modCore c fun m => { m with cache := m.cache.del b } else s.blockFails c b f

/-- FAIL to a result that comes after issue: the instruction's register keeps the mark, and its other results are not
waited for (R267, R414). -/
def State.resultFails (s : State) (c slot : Nat) (f : Flit) : State :=
  let cause := (f.word 1).toNat
  match (s.coreThread c slot).pending.find? fun l => l.rseq == f.rseq && l.val == .waiting with
  | none => s
  | some l =>
    let s := match f.poison with
      | some (src, a) => s.record c (poisonRecord (s.partIdOf c) slot src a)
      | none => s
    s.modCoreThread c slot fun t =>
      { t with
        pending := (t.pending.filter fun m => m.id != l.id) ++
          [{ l with val := if cause = cPoison then .poisoned l.va else .failed cause l.va }] }

/-- FAIL to an access whose instruction waits for it: the thread traps with the access's address, its instruction undone; a
thread that a wake made READY meanwhile traps as it issues again, and so does a watcher (R233, R267). -/
def State.askFails (s : State) (c slot : Nat) (f : Flit) : State :=
  let t := s.coreThread c slot
  match t.asks.find? fun a => a.rseq == f.rseq with
  | none => s
  | some a =>
    let cause := (f.word 1).toNat
    if t.wait == .asks && (t.tstate == .waiting || t.tstate == .parked) then s.trapThread c slot cause a.va f.poison
    else if t.tstate == .parked && t.wait.seen.isSome then s.modCoreThread c slot fun t => { t.resumed with asks := [] }
    else
      let s := match f.poison with
        | some (src, p) => s.record c (poisonRecord (s.partIdOf c) slot src p)
        | none => s
      s.modCoreThread c slot fun t => { t with
        asks := t.asks.map (Ask.answer f.rseq (if cause = cPoison then .poisoned a.va else .failed cause a.va)) }

/-- FAIL at a core. -/
def State.failAtCore (s : State) (c slot : Nat) (f : Flit) : State :=
  match f.rseq % 4 with
  | 0 => match (s.core c).requested f.rseq with
    | some (b, k) => s.missFails c b k f
    | none => s
  | 1 =>
    let far := (s.core c).far.find? fun e => e.2 == f.rseq
    let s := (s.askFails c slot f).resultFails c slot f
    match far with
    | some (b, _) => (s.modCore c fun k => k.farDone f.rseq).blockFails c b f
    | none => s
  | 2 =>
    let held := (s.core c).flushes.any fun x => x.rseq == f.rseq && x.block == f.block && x.mask ≠ 0
    let s := s.modCore c fun k => k.releaseAnswered f.rseq
    if held then s.blockFails c f.block f else s
  | _ => s

/-- FAIL. -/
def execFail (n : Nat) (s : State) : Host.Outcome State Fault Refusal :=
  replyEvent n rFail (fun s f => match f.dst with
    | .core c t => s.failAtCore c t f
    | .engine h => s.engineAnswer h f
    | .pp u => s.homeAnswer u f
    | _ => s) s

/-! ## INVALIDATE, RECALL and PUSH at the holders of a block (R267, R276) -/

/-- The cores a message acts on: those it reaches, less those that a home's own message leaves out. -/
def Flit.reaches (f : Flit) : List Nat :=
  let out : List Word := match f.body with | .msg m => m.words.drop 1 | _ => []
  if hardSeq ≤ f.rseq && f.type ≠ rRecall then f.coresOf.filter fun c => !out.contains (w64 (c + 1)) else f.coresOf

/-- INVALIDATE at one core: a block whose miss is under way is BUSY until its grant comes. -/
def Core.invalidate (k : Core) (b : Nat) : Core :=
  match k.cache.look b with
  | some x => if x.rseq ≠ 0 then { k with cache := k.cache.put b { x with tag := .busy, invalPending := true } }
              else { k with cache := k.cache.del b }
  | none => k

/-- RECALL at one core: the tag it keeps is 0 I, 1 RO. -/
def Core.giveBack (k : Core) (b keep : Nat) : Core :=
  let x := k.block b
  if x.tag == .rw then
    if keep = 1 then { k with cache := k.cache.put b { x with tag := .ro, dirty := 0 } } else { k with cache := k.cache.del b }
  else k

/-- Bytes of a block that the core holds dirty: written and not yet sent, or sent and not yet answered (R267, R298; log
entry 95). -/
def Core.ownBytes (k : Core) (b : Nat) : Nat :=
  k.flushes.foldl (fun m f => if f.block = b then m ||| f.mask else m) (k.block b).dirty

/-- PUSH at one core, for a block of a protocol and a region: the tag becomes RO unless it is RW; a miss under way stays under
way. -/
def Core.pushed (k : Core) (b prot region : Nat) (l : Line) : Core :=
  let x := k.block b
  let keep := if x.tag == .rw && x.prot = pUpdate then k.ownBytes b else 0
  let data := (List.range 64).foldl (fun (d : Line) i => if keep.testBit i then lineWrite d i 1 (lineRead x.data i 1) else d) l
  match x.tag with
  | .rw => { k with cache := k.cache.put b { x with data, dirty := if x.prot = pUpdate then x.dirty else 0 } }
  | .i => { k with cache := k.cache.put b { x with tag := .ro, data, dirty := 0, prot, region } }
  | _ => { k with cache := k.cache.put b { x with tag := .ro, data, dirty := 0, invalPending := false } }

/-- PUSH at a core: a block that finds no place in the data cache is not kept (R21; log entry 72). -/
def State.pushCore (s : State) (c b prot region : Nat) (l : Line) : State :=
  let s := s.makeRoom c b
  if (s.core c).fullFor b then s else s.modCore c fun k => k.pushed b prot region l

/-- What the RW holders among some cores give back: their bytes, and which of them are dirty. -/
def State.heldData (s : State) (b : Nat) (cores : List Nat) : Option (Line × Nat) :=
  cores.foldl (fun r c =>
    let x := (s.core c).block b
    if x.tag != .rw then r
    else match r with
      | none => some (x.data, x.dirty)
      | some (l, m) => some ((List.range 64).foldl (fun (d : Line) i =>
          if x.dirty.testBit i then lineWrite d i 1 (lineRead x.data i 1) else d) l, m ||| x.dirty)) none

/-- The answer of a core or of a hem. -/
def State.probeAnswer (s : State) (f : Flit) (data : Option (Line × Nat)) : State :=
  s.send f.dst f.src f.cls f.part f.rseq (match data with
    | some (l, m) => .msg ⟨2, rData, [w64 f.block, w64 m], some l⟩
    | none => msg 2 rAck [w64 f.block])

/-- INVALIDATE: of a page-table line, WALK_INVALIDATION takes it in (R222). -/
def execInvalidate (n : Nat) (s : State) : Host.Outcome State Fault Refusal :=
  event (fun s => match s.replyAt n rInvalidate with
    | some f =>
      if f.rseq = walkSeq then s
      else (s.drop n).atHolder f fun s =>
        (f.reaches.foldl (fun s c => s.modCore c fun k => k.invalidate f.block) s).probeAnswer f none
    | none => s) s

/-- RECALL: the dirty bytes of the RW holder come with the answer. -/
def execRecall (n : Nat) (s : State) : Host.Outcome State Fault Refusal :=
  replyEvent n rRecall (fun s f => s.atHolder f fun s =>
    let d := s.heldData f.block f.reaches
    (f.reaches.foldl (fun s c => s.modCore c fun k => k.giveBack f.block (fld (f.word 1) 0 0)) s).probeAnswer f d) s

/-- PUSH. -/
def execPush (n : Nat) (s : State) : Host.Outcome State Fault Refusal :=
  replyEvent n rPush (fun s f => s.atHolder f fun s =>
    let e := s.entry f.block
    (f.reaches.foldl (fun s c => s.pushCore c f.block (fld e.dword0 55 52) e.region (f.payload.getD 0)) s).probeAnswer f none) s

end Sys2Proof.Machine
end

