-- ==== Sys2Proof/Machine/Dispatching.lean ====
section
/-! DEFINITION. How a core takes work: the state of a thread at task entry, the classes of work and their order, work
stealing, and the packets and messages that arrive at a core (R38, R50 to R68, R93, R236 to R243, R317). -/

namespace Sys2Proof.Machine

/-! ## Task entry (R52, R84, R93) -/

/-- The thread of a slot that takes a packet: the queues of the slot stay with it (R239, R243), and so do the trap
registers other than STATUS. -/
def Thread.entered (t : Thread) (slim vlim : Nat) (launchid pc : Word) (now : Nat) : Thread :=
  { Thread.reset with
    tstate := .ready, pc, slim, vlim, readyAt := now, dispatched := now
    regs := { Regs.reset with launchid, epc := t.regs.epc, ecause := t.regs.ecause, eval := t.regs.eval,
                              ssave := t.regs.ssave }
    queues := { Queues.reset with q0 := t.queues.q0, q2claim := t.queues.q2claim } }

/-- The windows of a slot at task entry: the exit address, the stack top, the packet's values, zeros. Entries beyond
the limits are not touched (R40, R93). -/
def Core.enterRegs (k : Core) (slot slim vlim : Nat) (stack : Word) (p : Packet) : Core :=
  let b := scalarBase slot
  let v := vectorBase slot
  let vals := (1, k.regs.texit) :: (2, stack) :: (p.vals.zipIdx.map fun x => (3 + x.2, x.1))
  { k with xrf := (vals.filter fun x => x.1 < slim).foldl (fun m x => m.put (b + x.1) x.2) (k.xrf.delRange b (b + slim)),
           vrf := k.vrf.delRange v (v + vlim) }

/-- A slot takes a packet. -/
def State.startTask (s : State) (core slot : Nat) (p : Packet) : State :=
  match (s.partOfCore core).bind (·.launch) with
  | some l =>
    s.modCore core fun k => (k.enterRegs slot l.slim l.vlim (Config.stackTop (s.launchId core) slot) p).setThread slot
      ((k.thread slot).entered l.slim l.vlim l.launchid p.pc s.time)
  | none => s

/-! ## Candidates (R63, R64) -/

/-- The lowest task slot that is FREE and that no saved thread waits for. -/
def Core.freeSlot (k : Core) : Option Nat :=
  (List.range 15).find? fun t => (k.thread t).tstate == .free && (k.thread t).saved.isNone

/-- The launch of a core's partition is being torn down (R506). -/
def State.tornDown (s : State) (core : Nat) : Bool :=
  match (s.partOfCore core).bind (·.launch) with
  | some l => l.ending
  | none => false

/-- The core dispatches: its partition runs a launch that no error has ended, and its stop time has not come (R54, R316,
R506). -/
def State.dispatches (s : State) (core : Nat) : Bool :=
  match s.partOfCore core with
  | some p => (match p.launch with | some l => l.error.isNone && !l.ending | none => false) &&
      (p.stop == .run || p.stop == .stopping) && p.kiln.isNone && !(s.core core).stop.reached
  | none => false

/-- The core has work of a class. -/
def Core.candidate (k : Core) : Nat → Bool
  | 1 => k.work.restored != []
  | 2 => k.work.class2.held != 0
  | 3 => k.work.class3.held != 0
  | 4 => k.work.class4.held != 0
  | 5 => k.work.deque != [] || k.work.spill.held != 0
  | _ => k.work.steal.buffer.isSome

/-- The class that the next dispatch takes. Where no slot is free but those that saved threads wait for, only these threads are
candidates: each of its own slot (R63, R325). -/
def Core.nextClass (k : Core) : Option Nat :=
  if k.freeSlot.isNone then (if k.candidate 1 then some 1 else none)
  else if k.work.aging = 8 && k.candidate 5 then some 5
  else if k.work.aging = 8 && k.candidate 6 then some 6
  else [1, 2, 3, 4, 5, 6].find? k.candidate

/-- The aging count after a dispatch; `low` says that a class 5 or 6 candidate existed. -/
def Core.aged (k : Core) (cls : Nat) (low : Bool) : Core :=
  k.modWork fun w => { w with aging := if cls ≤ 4 && low then Nat.min 8 (w.aging + 1) else 0 }

/-- Notes the cycle of a dispatch (R63). -/
def Core.dispatchedNow (k : Core) (now : Nat) : Core := k.modWork fun w => { w with dispatchedAt := some now }

/-- A restored thread goes on in its own slot (R50, R63, R325): in the state it was saved in, so that one in TRAP is in TRAP again
(DESIGN CHOICE, log entry 99). -/
def Thread.restored (t : Thread) (x : Saved) (now : Nat) : Thread :=
  let again := t.park == .pagefault || t.park == .tagwait
  { t with
    tstate := match x.tstate with
      | .parked => if again then (if t.inTrap then .trap else .ready) else .parked
      | .waiting => if t.inTrap then .trap else .ready
      | y => y
    park := if x.tstate == .parked && !again then t.park else .none
    wait := if x.tstate == .parked && !again then t.wait else .nothing
    inTrap := t.inTrap && x.tstate == .parked && !again
    saved := none, readyAt := now, dispatched := now }

/-- Dispatch of class 1: the lowest restored slot. -/
def State.dispatchRestored (s : State) (core : Nat) : State :=
  match (s.core core).work.restored with
  | t :: r =>
    (s.modCore core fun k => k.modWork fun w => { w with restored := r }).modCoreThread core t fun th =>
      match th.saved with
      | some x => th.restored x s.time
      | none => th
  | [] => s

/-- The encounter task that the core's oldest spawned entry waits for is now in a slot. -/
def Hem.taskTaken (h : Hem) (core slot : Nat) : Hem :=
  match h.spawned.findIdx? fun x => x.1 == core && x.2.1 == notTaken with
  | some i => { h with spawned := h.spawned.set i (core, slot, (h.spawned.getD i (0, 0, ⟨0, 0, 0, 0, 0, 0⟩)).2.2) }
  | none => h

/-- Takes the packet of a class from 2 to 6. -/
def State.takeWork (s : State) (core cls : Nat) : Option Packet × State :=
  if cls ≤ 4 then s.listTake core cls
  else if cls = 5 then s.dequePop core
  else ((s.core core).work.steal.buffer, s.modCore core fun k => k.modWork fun w =>
    { w with steal := { w.steal with buffer := none } })

/-- TASK_DISPATCH: one task of the first class that has a candidate, once in a cycle (R63). -/
def State.taskDispatch (s : State) (core : Nat) : State :=
  if !s.dispatches core || (s.core core).work.dispatchedAt == some s.time then s
  else
    let k := s.core core
    let low := k.candidate 5 || k.candidate 6
    match k.nextClass with
    | none => s
    | some 1 => (s.dispatchRestored core).modCore core fun k => (k.aged 1 low).dispatchedNow s.time
    | some cls =>
      match k.freeSlot with
      | none => s
      | some t =>
        let (p, s) := s.takeWork core cls
        match p with
        | none => s
        | some p =>
          let s := (s.startTask core t p).modCore core fun k => (k.aged cls low).dispatchedNow s.time
          if p.kind = kEncounter then s.modHem (hemOf core) fun h => h.taskTaken core t else s

/-- TASK_DISPATCH. -/
def execTaskDispatch (core : Nat) (s : State) : Host.Outcome State Fault Refusal :=
  coreEvent core (fun s => s.taskDispatch core) s

/-! ## Arrivals at a core (R317, R506) -/

/-- What a core does with what arrives: takes it, keeps it for the restore, or discards it. -/
inductive Fate where
  | take | spill | discard
deriving DecidableEq, Repr

def State.fate (s : State) (core : Nat) : Fate :=
  if s.tornDown core then .discard else if (s.core core).stop.reached then .spill else .take

/-- A packet for a class list arrives from another core; `false` where it waits in its mesh buffer (R61). -/
def State.taskArrives (s : State) (core cls : Nat) (p : Packet) : Bool × State :=
  match s.fate core with
  | .discard => (true, s)
  | .spill =>
    let ws := w64 cls :: p.words
    if s.spillRoom core spillTask ws then (true, s.stopSpill core spillTask ws) else (false, s)
  | .take =>
    if !s.packetOk core p then (true, s.taskFault core 15 1 0)
    else s.place core cls p

/-- A packet that waits at its own core, with none of its kind before it there. -/
def State.waiting (s : State) (n : Nat) : Option Flit :=
  match s.net[n]? with
  | some f => if f.body.waitsHome && !blockedBy (s.net.take n) f then some f else none
  | none => none

/-- SHIP_PACKET_ARRIVAL: a SHIP packet counts as received; a packet that waited on its own core does not (R57, R61). -/
def State.shipArrival (s : State) (n : Nat) : State :=
  match s.arrival n <|> s.waiting n with
  | some f => match f.dst, f.body with
    | .core c _, .ship p =>
      let (done, s') := (s.drop n).taskArrives c 4 p
      if done then s'.countReceived c else { s' with net := s.net }
    | .core c _, .task cls p =>
      let (done, s') := (s.drop n).taskArrives c cls p
      if done then s' else { s' with net := s.net }
    | _, _ => s
  | none => s

/-- SHIP_PACKET_ARRIVAL. -/
def execShipPacketArrival (n : Nat) (s : State) : Host.Outcome State Fault Refusal := event (fun s => s.shipArrival n) s

/-- DECREMENT_MESSAGE (R59). -/
def State.decArrival (s : State) (n : Nat) : State :=
  match s.arrival n with
  | some f => match f.dst, f.body with
    | .core c _, .dec off m =>
      let t := (s.drop n).countReceived c
      match s.fate c with
      | .discard => t
      | .spill => if s.spillRoom c spillDec [w64 off, w64 m] then t.stopSpill c spillDec [w64 off, w64 m] else s
      | .take => t.decrement c off m
    | _, _ => s
  | none => s

/-- DECREMENT_MESSAGE. -/
def execDecrementMessage (n : Nat) (s : State) : Host.Outcome State Fault Refusal := event (fun s => s.decArrival n) s

/-! ## Messages (R236 to R243) -/

/-- Dwords of the q2 ring that messages occupy. -/
def Core.q2Held (k : Core) : Nat := (k.q2.map (·.len)).sum

/-- Appends a message to the q2 ring. -/
def Core.q2Append (k : Core) (words : List Word) : Core :=
  let n := q2Size k.regs.q2cfg
  let base := q2Base k.regs.q2cfg
  { k with
    q2 := k.q2 ++ [⟨k.q2next % n, words.length, none, false⟩]
    q2next := (k.q2next + words.length) % n
    sram := words.zipIdx.foldl (fun m x => m.setWord (base + (k.q2next + x.2) % n * 8) x.1) k.sram }

/-- The whole message at the head of a slot's q1. -/
def Queues.headMessage (q : Queues) : Option (List Word) :=
  match q.q1 with
  | h :: _ => if hdrLen h + 1 ≤ q.sentWords then some (q.q1.take (hdrLen h + 1)) else none
  | [] => none

/-- Two messages go to one queue: q2, or q0 of one slot. -/
def sameDest (g h : Word) : Bool := g.getLsbD 14 == h.getLsbD 14 && (h.getLsbD 14 || fld g 3 0 == fld h 3 0)

/-- Dwords of messages on their way to the queue that a header names at a core. -/
def State.coming (s : State) (core : Nat) (h : Word) : Nat :=
  (s.net.map fun f => match f.dst, f.body with
    | .core c _, .message words _ => if c = core && sameDest (words.headD 0) h then words.length else 0
    | _, _ => 0).sum

/-- Dwords that the queue a header names can still take. -/
def State.queueFree (s : State) (core : Nat) (h : Word) : Nat :=
  if h.getLsbD 14 then q2Size (s.core core).regs.q2cfg - (s.core core).q2Held
  else 16 - (s.coreThread core (fld h 3 0)).queues.q0.length

/-- Puts a message into its destination queue; `none` where it has no room for all of it (R238). -/
def State.putMessage (s : State) (core : Nat) (words : List Word) : Option State :=
  let h := words.headD 0
  if s.queueFree core h < words.length then none
  else if h.getLsbD 14 then some (s.modCore core fun k => k.q2Append words)
  else some (s.modCoreThread core (fld h 3 0) fun t => { t with queues := { t.queues with q0 := t.queues.q0 ++ words } })

/-- A message leaves q1 whole for the mesh where its queue has room for it beside those on their way there; until then
it stays at the head of q1 (R238; how the sender learns of the room is log entry 70). One to another core counts as
sent (R67). From T on none leaves but those of a thread that is ending (R317, R396). -/
def State.messageLeaves (s : State) (core slot : Nat) : State :=
  let t := s.coreThread core slot
  if (s.core core).stop.reached && t.endStep = 0 then s
  else match t.queues.headMessage with
    | none => s
    | some words =>
      match (s.partOfCore core).bind fun p => p.coreFor (fld (words.headD 0) 13 4) with
      | none => s
      | some dst =>
        if s.queueFree dst (words.headD 0) < s.coming dst (words.headD 0) + words.length then s
        else
          let s := s.modCoreThread core slot fun t => { t with queues := { t.queues with q1 := t.queues.q1.drop words.length } }
          let s := s.send (.core core slot) (.core dst 15) (((s.partOfCore core).map (·.cls)).getD 0) (s.partIdOf core) 0
            (.message words false)
          if dst = core then s else s.countSent core

/-- The next message that a core takes: one that its stop spill ring held comes before those of the mesh (R325). -/
def State.nextMessage (s : State) (core : Nat) : Option (Nat × Flit × List Word) :=
  let here := s.net.zipIdx.filterMap fun (f, i) => match f.dst, f.body with
    | .core c _, .message words old =>
      if c = core && (old || (s.arrival i).isSome) then some (old, i, f, words) else none
    | _, _ => none
  match here.find? (·.1) with
  | some x => some x.2
  | none => here.head?.map (·.2)

/-- A message is appended to its destination queue in one event; one from another core counts as received (R67, R238). -/
def State.messageArrives (s : State) (core : Nat) : State :=
  match s.nextMessage core with
  | none => s
  | some (i, f, words) =>
    let counted (s : State) : State := if f.src.node = f.dst.node then s else s.countReceived core
    match s.fate core with
    | .discard => counted (s.drop i)
    | .spill => if s.spillRoom core spillMessage words then counted ((s.drop i).stopSpill core spillMessage words) else s
    | .take => match (s.drop i).putMessage core words with
      | some s' => counted s'
      | none => s

/-- MESSAGE_ARRIVAL: for a slot, its oldest message sets out; for a core (slot 16), one that has come is appended. -/
def execMessageArrival (core slot : Nat) (s : State) : Host.Outcome State Fault Refusal :=
  coreEvent core (fun s => if slot < 16 then s.messageLeaves core slot else s.messageArrives core) s

/-! ## Stealing (R65, R66) -/

/-- The hem belongs to the stealing domain of another. -/
def sameDomain (domain a b : Nat) : Bool :=
  match domain with
  | 0 => a == b
  | 1 => a / 2 == b / 2
  | 2 => a / 4 == b / 4
  | 3 => a / 16 == b / 16
  | 4 => a / 32 == b / 32
  | _ => true

/-- The victims of a thief in the order of a sweep. -/
def victims (p : Partition) (domain core : Nat) (lastTried : Map Nat) : List Nat :=
  let all := p.cores.filter fun c => c ≠ core && sameDomain domain (hemOf core) (hemOf c)
  (List.range 63).flatMap fun d =>
    let l := all.filter fun c => dist (coreXY core) (coreXY c) = d
    match lastTried.look d with
    | some v => (l.filter fun c => v < c) ++ (l.filter fun c => c ≤ v)
    | none => l

/-- The core asks its next victim, or ends the sweep where none is left, or where its stop time has come (R317). -/
def State.askVictim (s : State) (core : Nat) : State :=
  let st := (s.core core).work.steal
  let set (f : Steal → Steal) (s : State) : State := s.modCore core fun k => k.modWork fun w => { w with steal := f w.steal }
  match st.victims with
  | v :: r =>
    if (s.core core).stop.reached then set (fun x => { x with active := false, waiting := false, victims := [] }) s
    else
      (set (fun x => { x with victims := r, waiting := true, lastTried := x.lastTried.put (dist (coreXY core) (coreXY v)) v }) s).send
        (.core core 15) (.core v 15) ((s.partOfCore core).map (·.cls) |>.getD 0) (s.partIdOf core) 0 .stealReq
  | [] => set (fun x => { x with active := false, waiting := false }) s

/-- STEAL_SWEEP: an idle core begins a sweep, 512 cycles or more after the last one began. -/
def State.stealSweep (s : State) (core : Nat) : State :=
  let k := s.core core
  let st := k.work.steal
  let due := match st.started with | some t => t + 512 ≤ s.time | none => true
  if !s.dispatches core || k.freeSlot.isNone || st.buffer.isSome || st.active || !due || [1, 2, 3, 4, 5].any k.candidate then s
  else match s.partOfCore core with
    | some p => match p.launch with
      | some l => (s.modCore core fun k => k.modWork fun w => { w with
          steal := { w.steal with active := true, started := some s.time, victims := victims p l.domain core w.steal.lastTried } }).askVictim core
      | none => s
    | none => s

/-- STEAL_SWEEP. -/
def execStealSweep (core : Nat) (s : State) : Host.Outcome State Fault Refusal := coreEvent core (fun s => s.stealSweep core) s

/-- The owner takes the single packet of its deque in this cycle (R55). -/
def State.ownerTakes (s : State) (core : Nat) : Bool :=
  let k := s.core core
  s.dispatches core && k.work.dispatchedAt != some s.time && k.freeSlot.isSome && k.nextClass == some 5 &&
    k.work.deque.length + k.work.spill.held == 1

/-- STEAL_REQUEST: the victim answers with one packet or EMPTY: EMPTY where its owner claims its single packet in this
cycle, and after T (R55, R317). -/
def State.stealRequest (s : State) (n : Nat) : State :=
  match s.arrival n with
  | some f => match f.dst, f.body with
    | .core v _, .stealReq =>
      let s := s.drop n
      if s.fate v ≠ .take || !s.dispatches v || s.ownerTakes v then s.send f.dst f.src f.cls f.part 0 (.stealRep none)
      else
        let (p, s) := s.dequeSteal v
        let s := if p.isSome then s.countSent v else s
        s.send f.dst f.src f.cls f.part 0 (.stealRep p)
    | _, _ => s
  | none => s

/-- STEAL_REQUEST. -/
def execStealRequest (n : Nat) (s : State) : Host.Outcome State Fault Refusal := event (fun s => s.stealRequest n) s

/-- STEAL_REPLY: a packet goes to the steal buffer; EMPTY makes the core ask its next victim. -/
def State.stealReply (s : State) (n : Nat) : State :=
  match s.arrival n with
  | some f => match f.dst, f.body with
    | .core c _, .stealRep p =>
      let s0 := s
      let s := s.drop n
      let ended := fun (st : Steal) => { st with active := false, waiting := false, victims := [] }
      match p with
      | none => (s.modCore c fun k => k.modWork fun w => { w with steal := { w.steal with waiting := false } }).askVictim c
      | some p =>
        let s := (s.countReceived c).modCore c fun k => k.modWork fun w => { w with steal := ended w.steal }
        match s.fate c with
        | .discard => s
        | .spill => if s.spillRoom c spillTask (5 :: p.words) then s.stopSpill c spillTask (5 :: p.words) else s0
        | .take =>
          if !s.packetOk c p then s.taskFault c 15 1 0
          else s.modCore c fun k => k.modWork fun w => { w with steal := { w.steal with buffer := some p } }
    | _, _ => s
  | none => s

/-- STEAL_REPLY. -/
def execStealReply (n : Nat) (s : State) : Host.Outcome State Fault Refusal := event (fun s => s.stealReply n) s

end Sys2Proof.Machine
end

