-- ==== Sys2Proof/Machine/Mesh.lean ====
section
/-! DEFINITION. The mesh: hops along X and then Y with free slots of virtual channels, PLACED packets on their way,
far AMO-ADD requests that routers combine (R30 to R34, R56, R67). -/

namespace Sys2Proof.Machine

/-! ## Hops (R30 to R32) -/

/-- The packet may take a hop: it has not arrived, it is the first of its queue, the next buffer has room (R31). A reply to
combined requests is split first. -/
def State.mayHop (s : State) (n : Nat) (f : Flit) : Bool :=
  !(f.lane = 2 && f.merged ≠ []) && !f.arrived && !f.body.waitsHome && !blockedBy (s.net.take n) f && s.hasSlot f

/-- A packet takes a hop, behind what its next router has already received; from its sender the hop is into the router of
the sender's place. -/
def State.moveFlit (s : State) (n : Nat) (f : Flit) : State := { s with net := s.net.eraseIdx n ++ [f.hop s.time] }

/-- The core that a packet lets another core take on its way. -/
def Body.isPlaced : Body → Bool
  | .placed .. => true
  | _ => false

/-- MESH_FLIT_HOP; a packet for a port agent leaves the device from its port's router (R345). -/
def execMeshFlitHop (n : Nat) (s : State) : Host.Outcome State Fault Refusal :=
  event (fun s => match s.net[n]? with
    | some f =>
      if !f.body.isPlaced && s.mayHop n f then s.moveFlit n f
      else if (s.arrival n).isSome then s.leaveDevice n f else s
    | none => s) s

/-! ## PLACED packets (R56, R67) -/

/-- The core's own dispatch of this cycle is still to come: a slot and a candidate are there, and it has dispatched
nothing in this cycle (R56, R63). -/
def State.dispatchDue (s : State) (core : Nat) : Bool :=
  let k := s.core core
  s.dispatches core && k.work.dispatchedAt != some s.time &&
    (match k.nextClass with
    | none => false
    | some 1 => true
    | some _ => k.freeSlot.isSome)

/-- The core at a hop lies where it may take the packet. -/
def State.placedNear (s : State) (part c target radius : Nat) : Bool :=
  s.partIdOf c == part && decide (dist (coreXY c) (coreXY target) ≤ radius)

/-- The slot that the core at a hop takes the packet into, after its own dispatch of the cycle. -/
def State.takesPlaced (s : State) (part c target radius : Nat) : Option Nat :=
  if s.placedNear part c target radius && s.dispatches c then (s.core c).freeSlot else none

/-- PLACED_PACKET_HOP: the core at the packet's place takes it, or it goes on; at its target it joins the class-4 list. A core that
takes it has not dispatched by that: neither its aging count nor R63's one dispatch in a cycle counts it (DESIGN CHOICE, log
entry 98).
From the stop time of its own core on a packet that has not left it stays there for the save (R317). -/
def State.placedHop (s : State) (n : Nat) : State :=
  match s.net[n]? with
  | some f => match f.src, f.dst, f.body with
    | .core c0 _, .core t _, .placed p radius =>
      let c := coreAt f.x f.y
      let counted (s : State) : State := if f.entered then s.countReceived c else s
      if blockedBy (s.net.take n) f || (s.placedNear f.part c t radius && s.dispatchDue c) then s
      else match s.takesPlaced f.part c t radius with
        | some slot =>
          let s := counted (s.drop n)
          if s.packetOk c p then s.startTask c slot p else s.taskFault c 15 1 0
        | none =>
          if c = t then
            let (done, s') := (s.drop n).taskArrives c 4 p
            if done then counted s' else { s' with net := s.net }
          else if !f.entered && (s.core c0).stop.reached then s
          else
            let g := { f with entered := true }
            if s.hasSlot g then
              let s := s.moveFlit n g
              if f.entered then s else s.countSent c
            else s
    | _, _, _ => s
  | none => s

/-- PLACED_PACKET_HOP. -/
def execPlacedPacketHop (n : Nat) (s : State) : Host.Outcome State Fault Refusal := event (fun s => s.placedHop n) s

/-! ## Combining (R33) -/

/-- An integer far AMO-ADD. -/
def Flit.isAdd (f : Flit) : Bool :=
  match f.body with
  | .msg m => m.lane == 0 && m.type == tFarAmo && fld (f.word 1) 7 4 == 0 && !(f.word 1).getLsbD 9
  | _ => false

/-- Two requests that meet in one router and that it may combine. -/
def mayCombine (f g : Flit) : Bool :=
  f.isAdd && g.isAdd && f.entered && g.entered && (f.x, f.y) == (g.x, g.y) &&
    (f.word 1).getLsbD 8 == (g.word 1).getLsbD 8 && f.word 0 == g.word 0 && f.part == g.part && f.cls == g.cls && f.dst == g.dst

/-- The packet is the first at its router of those of its lane and class from its sender to its destination; the request
it joins does not count. -/
def firstOfWay (l : List Flit) (f g : Flit) : Bool :=
  !(l.any fun x => x != f && x.entered && (x.x, x.y) == (g.x, g.y) && x.lane == g.lane && x.cls == g.cls &&
    x.dst.node == g.dst.node && (x.src.node == g.src.node || x.merged.any fun m => m.src.node == g.src.node))

/-- The requesters a packet stands for. -/
def Flit.requesters (f : Flit) : List Merged := if f.merged = [] then [⟨f.src, f.rseq, f.word 2⟩] else f.merged

/-- One request in the place of two: the addends' wrapped sum. -/
def combine (f g : Flit) : Flit :=
  let sum := f.word 2 + g.word 2
  let sum := if (f.word 1).getLsbD 8 then sum else w64 (sum.toNat % 2 ^ 32)
  { f with
    gotLast := g.gotLast
    body := match f.body with
      | .msg m => .msg { m with words := m.words.set 2 sum }
      | b => b
    merged := f.requesters ++ g.requesters }

/-- ROUTER_COMBINE: the second packet's requests follow the first's. The router has received every request of the first
before any of the second: in an earlier cycle, or in the same through an earlier port of local, north, east, south and
west, or before it in one buffer (R33). -/
def execRouterCombine (n k : Nat) (s : State) : Host.Outcome State Fault Refusal :=
  event (fun s => match s.net[n]?, s.net[k]? with
    | some f, some g =>
      if n ≠ k && mayCombine f g && (f.gotLast < g.got || (f.gotLast == g.got && n < k)) && firstOfWay (s.net.take k) f g then
        { s with net := (s.net.set n (combine f g)).eraseIdx k }
      else s
    | _, _ => s) s

/-- The replies that a combined one stands for: each with the value its request would have found. -/
def splitReply (f : Flit) : List Merged → Word → List Flit
  | [], _ => []
  | r :: t, old =>
    { f with
      dst := r.src, rseq := r.rseq, merged := []
      body := match f.body with
        | .msg m => if m.type = rData then .msg { m with words := old :: m.words.drop 1 } else .msg m
        | b => b } :: splitReply f t (old + r.addend)

/-- COMBINED_REPLY_SPLIT: at the router where the reply begins its way, so that each part takes the route of R32 from the home
to its own requester (DESIGN CHOICE, log entry 89: R33 has the combining router split it, and the reply's route need not pass
that router). -/
def execCombinedReplySplit (n : Nat) (s : State) : Host.Outcome State Fault Refusal :=
  event (fun s => match s.net[n]? with
    | some f =>
      if f.merged ≠ [] && f.lane = 2 then { s with net := s.net.take n ++ splitReply f f.merged (f.word 0) ++ s.net.drop (n + 1) }
      else s
    | none => s) s

end Sys2Proof.Machine
end

