-- ==== Sys2Proof/Machine/Sweeps.lean ====
section
/-! DEFINITION. The sweep over a partition's cores: the end of a launch, stall-quiescence, the stop sweep; the end of a
launch by an error (R67 to R72, R318, R506). -/

namespace Sys2Proof.Machine

/-! ## What one sweep finds (R68, R69, R71) -/

/-- A packet that has not left its core (R56, R61, R325). -/
def State.packetsAt (s : State) (core : Nat) : Bool :=
  s.net.any fun f => !f.entered && (match f.src with | .core c _ => c == core | _ => false) &&
    (f.body.isPlaced || f.body.waitsHome)

/-- A copy job of a core has not ended. -/
def State.jobsOpen (s : State) (core : Nat) : Bool :=
  (s.hem (hemOf core)).jobs.any fun e => e.2.core == core && !e.2.state.ended

/-- The core holds a task in classes 1 to 6. -/
def State.workAt (s : State) (core : Nat) : Bool :=
  let k := s.core core
  [1, 2, 3, 4, 5, 6].any k.candidate || k.work.overflow.held != 0 || s.packetsAt core

/-- A hem has a live tile, or an output's completion still to come (R68, R200). -/
def Hem.busy (h : Hem) : Bool :=
  h.live 0 + h.live 1 != 0 || h.q5waiting != [] || h.outputs.any fun e => e.2.running != 0

/-- The task slots of a core with their threads. -/
def Core.tasks (k : Core) : List Thread := (k.threads.filter fun e => e.1 < 15).map (·.2)

/-- A core is idle (R68). -/
def State.idleCore (s : State) (core : Nat) : Bool :=
  let k := s.core core
  k.tasks.all (fun t => t.tstate == .free && t.saved.isNone) && !s.workAt core && !s.jobsOpen core &&
    (stationOf core ≠ 0 || !(s.hem (hemOf core)).busy)

/-- A parked thread that only other threads can wake (R71). -/
def selfParked (t : Thread) (jobs : Bool) : Bool :=
  t.tstate == .free ||
    (t.tstate == .parked && (t.park == .qempty || t.park == .qfull || t.park == .barrier || t.park == .join || (t.park == .bcount && !jobs)))

/-- What a sweep of a partition finds. -/
def State.sweepOf (s : State) (p : Partition) : SweepSum :=
  let cores := p.cores
  let threads := cores.flatMap fun c => (s.core c).tasks
  let jobs := cores.any s.jobsOpen
  { sent := cores.foldl (fun n c => n + (s.core c).work.sent) 0
    received := cores.foldl (fun n c => n + (s.core c).work.received) 0
    idle := cores.all s.idleCore
    quiet := cores.all (fun c => !s.workAt c) && threads.all fun t => selfParked t jobs
    stopped := threads.all (fun t => t.tstate == .free && (t.saved.isNone || (t.pending = [] && t.lateTrap.isNone))) &&
      (p.hemList.all fun h => (s.hem h).ring.links = [])
    threads := if p.stop = .stopping then threads.countP fun t => t.saved.isSome
               else threads.countP fun t => t.tstate == .parked }

/-- Two sweeps with the same totals, everything sent received. -/
def SweepSum.settled (a b : SweepSum) : Bool := a.sent == b.sent && a.received == b.received && b.sent == b.received && a.sent == a.received

/-! ## What two sweeps decide -/

/-- A partition leaves RUN: no launch runs on it (R319). -/
def State.toEmpty (s : State) (part : Nat) : State :=
  s.modPart part fun p => { p with stop := .empty, launch := none, lastSweep := none }

/-- LAUNCH_END: the record of kind 0x20 and the completion write with status 0 (R70, R72, R356). -/
def State.launchEnd (s : State) (p : Partition) : State :=
  ((s.record p.root (sweepRecord 0x20 p.id 0 s.time)).endLaunch p.id 0).toEmpty p.id

/-- STALL_QUIESCENCE: the record of kind 0x21, and status 8 in the dword above CADDR; once for a stall (R71, R356). -/
def State.stall (s : State) (p : Partition) (l : Launch) (n : Nat) : State :=
  let s := s.record p.root (sweepRecord 0x21 p.id n s.time)
  let s := if l.caddr ≠ 0 && s.mayWrite p l.caddr.toNat 16 then s.devSetWord (l.caddr.toNat + 8) 8 else s
  s.modPart p.id fun p => { p with launch := p.launch.map fun l => { l with stalled := true } }

/-- STOP_SWEEP_DONE (R318). -/
def State.stopSwept (s : State) (p : Partition) (n : Nat) : State :=
  (s.record p.root (sweepRecord 0x22 p.id n s.time)).modPart p.id fun p => { p with stop := .quiesced, lastSweep := none }

/-- The end of a launch that an error ended, once nothing of it is under way (R506). -/
def State.errorEnd (s : State) (p : Partition) (status : Nat) : State := (s.endLaunch p.id status).toEmpty p.id

/-- Status 8 may be written again for a later stall (log entry 45). -/
def State.stallOver (s : State) (p : Partition) : State :=
  s.modPart p.id fun p => { p with launch := p.launch.map fun l => { l with stalled := false } }

/-- The sweep before this one that it is compared with: a stop sweep is compared with stop sweeps only (R318). -/
def Partition.before (p : Partition) : Option SweepSum :=
  if p.stop == .stopping && p.sweepAt < p.stopAt then none else p.lastSweep

/-- What a sweep decides, with the one before it (R70, R71, R318, R506). -/
def State.judgeSweep (s : State) (p : Partition) (now : SweepSum) : State :=
  let keep (s : State) : State := s.modPart p.id fun p => { p with lastSweep := some now, sweepAt := s.time }
  match p.before, p.launch with
  | some last, some l =>
    if !last.settled now then keep (s.stallOver p)
    else if p.stop = .stopping then
      if last.stopped && now.stopped then s.stopSwept p now.threads else keep s
    else if l.ending then s.errorEnd p (l.error.getD 5)
    else if l.error.isSome then keep s
    else if last.idle && now.idle then s.launchEnd p
    else if last.quiet && now.quiet then keep (if l.stalled then s else s.stall p l now.threads)
    else keep (s.stallOver p)
  | _, _ => keep s

/-- log2 of the sweep period (R213). -/
def State.sweepLog (s : State) (p : Partition) : Nat :=
  Nat.min 16 (Nat.max 10 (fld (s.core p.root).regs.sweep 4 0))

/-- A sweep is due: every P cycles while a launch runs (R69), and in a stop every P cycles from T (R318). -/
def State.sweepDue (s : State) (p : Partition) : Bool :=
  p.launch.isSome && match p.stop with
    | .run => p.sweepAt + 2 ^ s.sweepLog p ≤ s.time
    | .stopping => p.stopAt ≤ s.time && (p.sweepAt < p.stopAt || p.sweepAt + 2 ^ s.sweepLog p ≤ s.time)
    | _ => false

/-- An event of a partition. -/
def partEvent (part : Nat) (f : Partition → State → State) (s : State) : Host.Outcome State Fault Refusal :=
  event (fun s => match s.partById part with
    | some p => f p s
    | none => s) s

/-- SWEEP. -/
def execSweep (part : Nat) (s : State) : Host.Outcome State Fault Refusal :=
  partEvent part (fun p s => if s.sweepDue p then s.judgeSweep p (s.sweepOf p) else s) s

/-! ## The end of a launch by an error (R506) -/

/-- Steps 1, 3 and 4 at a core: its task slots FREE, its barriers 0, its work and its queues empty. -/
def Core.clearLaunch (k : Core) : Core :=
  let k := k.stopTasks
  { k with
    threads := k.threads.map fun (n, (t : Thread)) =>
      (n, { t with queues := Queues.reset, regs := if n < 15 then { t.regs with bcb := [] } else t.regs })
    barriers := [], q2 := [], q5 := [], q6 := []
    work := { k.work with
      deque := [], spill := ⟨0, 0⟩, overflow := ⟨0, 0⟩, class2 := ⟨0, 0⟩, class3 := ⟨0, 0⟩, class4 := ⟨0, 0⟩,
      restored := [], steal := { k.work.steal with active := false, waiting := false, victims := [], buffer := none } } }

/-- Packets that have not left their cores, and what stop spill rings held, are discarded. -/
def State.dropWaiting (s : State) (p : Partition) : State :=
  { s with net := s.net.filter fun f => !(f.part == p.id && !f.entered && (f.body.isPlaced || match f.body with
      | .task .. => true
      | .message _ old => old
      | _ => false)) }

/-- LAUNCH_ERROR_END: the partition's threads, jobs, work, queues and tiles go; its arrivals are discarded from now on. -/
def execLaunchErrorEnd (part : Nat) (s : State) : Host.Outcome State Fault Refusal :=
  partEvent part (fun p s => match p.launch with
    | some l =>
      if p.stop ≠ .run || l.error.isNone || l.ending then s
      else
        let s := s.mapCores p fun k => k.clearLaunch.clearApps
        let s := (s.mapHems p fun h => h.freeJobs.clearRings).dropWaiting p
        s.modPart part fun p => { p with launch := some { l with ending := true }, lastSweep := none, sweepAt := s.time }
    | none => s) s

end Sys2Proof.Machine
end

