-- ==== Sys2Proof/Machine/Stops.lean ====
section
/-! DEFINITION. The stop of a partition: its cores and rings at T, forced stops, the end of CQSC, and the save areas
(R208, R315 to R323, R507; log entry 11). -/

namespace Sys2Proof.Machine

/-! ## At T (R208, R316, R317) -/

/-- From now on the hem accepts no RINJ. What is on a link completes its hop and is processed; what would then be on a link
goes to the ring save buffer with its next station (R208). -/
def State.ringStop (s : State) (h : Nat) : State := s.modHem h fun m => { m with stopped := true }

/-- The packet of the steal buffer goes to the LIFO end of the core's deque (R317). -/
def State.returnStolen (s : State) (core : Nat) : State :=
  match (s.core core).work.steal.buffer with
  | some p =>
    let s := s.modCore core fun k => k.modWork fun w => { w with steal := { w.steal with buffer := none } }
    match s.dequePush core p with
    | some s' => s'
    | none => s.stopSpill core spillTask (5 :: p.words)
  | none => s

/-- STOP_TIME_REACHED: from T the core stops what is parked, and dispatches and sends nothing more; its hem's rings stop
with the first core of the hem. -/
def State.stopTime (s : State) (core : Nat) : State :=
  let i := (s.core core).stop
  match i.stopAt with
  | some t =>
    if s.time < t || i.reached then s
    else
      let s := s.modCore core fun k => { k with stop := { k.stop with reached := true } }
      let s := s.returnStolen core
      let parked := (s.core core).threads.filter fun e => e.1 < 15 && e.2.tstate == .parked && e.2.asks = []
      let s := parked.foldl (fun s e => s.stopThread core e.1 0xFF false) s
      if (s.hem (hemOf core)).stopped then s else s.ringStop (hemOf core)
  | none => s

/-- STOP_TIME_REACHED. -/
def execStopTimeReached (core : Nat) (s : State) : Host.Outcome State Fault Refusal :=
  coreEvent core (fun s => s.stopTime core) s

/-- D of the launch that runs on a core (R355). -/
def State.gapOf (s : State) (core : Nat) : Nat := (((s.partOfCore core).bind (·.launch)).map (·.gap)).getD 0

/-- A slot still holds a thread that the forced stop takes between instructions: one that is not past step 2 of END, and none of
whose instruction's accesses is under way (R316, R396). Its results in transit arrive before the save. -/
def Thread.forceable (t : Thread) : Bool := t.tstate != .free && t.endStep = 0 && t.asks = []

/-- FORCED_STOP: at T + D + 16 a thread is stopped between instructions. -/
def State.forcedStop (s : State) (core slot : Nat) : State :=
  let i := (s.core core).stop
  match i.stopAt with
  | some t =>
    if i.reached && slot < 15 && t + s.gapOf core + 16 ≤ s.time && (s.coreThread core slot).forceable then
      s.stopThread core slot 0xFF true
    else s
  | none => s

/-- FORCED_STOP. -/
def execForcedStop (core slot : Nat) (s : State) : Host.Outcome State Fault Refusal :=
  coreEvent core (fun s => s.forcedStop core slot) s

/-! ## The end of CQSC (R320, R322) -/

/-- No copy job of the partition runs. -/
def State.enginesQuiet (s : State) (p : Partition) : Bool :=
  p.hemList.all fun h => (s.hem h).jobs.all fun e => e.2.state != .running

/-- A core's own hardware acts, for no thread. -/
def State.asCore (s : State) (core : Nat) (f : State → State) : State :=
  { f { s with cur := ⟨false, core, 15, 0, 0⟩ } with cur := s.cur }

/-- The dirty blocks of a core go to their homes: by the release action of R268 where the block has one, by EVICT otherwise. -/
def State.flushCore (s : State) (core : Nat) : State :=
  let s := s.asCore core State.flushAll
  (s.core core).cache.foldl (fun s e =>
    if e.2.tag == .rw && e.2.dirty ≠ 0 then
      (s.evict core e.1 e.2 true).modCore core fun c => { c with cache := c.cache.del e.1 }
    else s) s

/-- CQSC_COMPLETE: every engine has reported; x[d] of the CQSC gets the count, and the saves begin (R319, R320). -/
def execCqscComplete (part : Nat) (s : State) : Host.Outcome State Fault Refusal :=
  partEvent part (fun p s => match p.cqsc with
    | some (c, t, late, n) =>
      if p.stop = .quiesced && s.enginesQuiet p then
        let s := s.modCoreThread c t fun th => th.settle late (.ready (w64 n))
        let s := p.cores.foldl State.flushCore s
        s.modPart part fun p => { p with stop := .saving, cqsc := none }
      else s
    | none => s) s

/-! ## Images of the save areas (R321 to R323, R507) -/

/-- Dwords at rising offsets. -/
def wordsAt (off : Nat) (l : List Word) : List (Nat × Word) := l.zipIdx.map fun x => (off + 8 * x.2, x.1)

/-- The bytes of dwords at offsets. -/
def imageOf (l : List (Nat × Word)) : Memory := l.foldl (fun m x => if x.2 = 0 then m else m.setWord x.1 x.2) []

/-- The dwords of a vector register and of a mask. -/
def vecWords (v : Vec) : List Word := (List.range 16).map fun i => w64 (v.toNat / 2 ^ (64 * i))
def maskWords (m : Mask) : List Word := [w64 m.toNat, w64 (m.toNat / 2 ^ 64)]

/-- The codes of park reasons (R47) and of STATE (R321). -/
def Park.code : Park → Nat
  | .none => 0 | .qempty => 1 | .qfull => 2 | .pagefault => 3 | .tagwait => 4 | .barrier => 5 | .bcount => 6 | .join => 7
  | .memwait => 8 | .jobwait => 9 | .livecap => 0xA | .idle => 0xB | .stop => 0xC
def TState.code : TState → Nat | .free => 0 | .ready => 1 | .waiting => 1 | .parked => 2 | .trap => 3

/-- TSTATE of a stopped thread. -/
def Thread.stateWord (t : Thread) : Word :=
  match t.saved with
  | some x =>
    let park := if x.tstate == .parked then t.park.code else 0
    w64 (t.parkSeq * 2 ^ 48 + park * 2 ^ 20 + t.annul * 2 ^ 18 + (if t.wakePending then 2 ^ 17 else 0) +
      (if x.forced then 2 ^ 16 else 0) + x.live * 2 ^ 8 + (if x.priv == .u then 0 else 16) + x.tstate.code)
  | none => 0

/-- TCOUNT. -/
def Queues.countWord (q : Queues) : Word :=
  w64 (q.q4.length * 2 ^ 34 + q.q3.length * 2 ^ 29 + q.q2claim.length * 2 ^ 24 + q.q1.length * 2 ^ 18 + q.q1partial * 2 ^ 13 +
    q.q0.length * 2 ^ 8)

/-- Held ended jobs of a thread. Beside the id and the kind, dword 0 keeps what CPY, BCWAIT and CWAIT ask of a held job:
its mode, BCEN and BCB (R250, R257; log entry 11). -/
def State.jobWords (s : State) (core slot : Nat) : List Word :=
  let h := s.hem (hemOf core)
  ((h.heldBy core slot).filter fun e => e.2.state.ended).flatMap fun (e, (j : Job)) =>
    [w64 (h.jobId e * 2 ^ 48 + j.bcb * 2 ^ 12 + (if j.bcen then 2 ^ 11 else 0) + j.kind % 8 * 2 ^ 8 + j.state.kind), j.desc]

/-- The dwords of a q3 record. One whose first dword has been popped keeps its place, with KIND 0, its cause and its job
(log entry 11). -/
def State.recordWords (s : State) (core : Nat) (r : JobRec) : List Word :=
  if r.words.length = 1 then
    let cause := (((s.hem (hemOf core)).job (jobEntry r.job)).map (·.cause)).getD 0
    w64 (r.job * 2 ^ 48 + cause * 2 ^ 40) :: r.words
  else r.words

/-- The thread record of a slot; a FREE slot's holds the queues that belong to the slot. -/
def State.threadImage (s : State) (core slot : Nat) : List (Nat × Word) :=
  let t := s.coreThread core slot
  let q := t.queues
  let g := t.regs
  let kept := wordsAt 0x70 [q.countWord] ++ wordsAt 0x280 q.q0 ++ wordsAt 0x600 q.q2claim
  if t.saved.isNone then kept
  else
    kept ++ wordsAt 0 [t.stateWord, t.pc, g.fcsr, g.fmtctx, g.uhvec, g.uhpc, g.uhcause, g.uhval] ++
    wordsAt 0x40 [g.status, g.epc, g.ecause, g.eval, g.ssave, w64 t.cycles] ++
    wordsAt 0x80 ((List.range 8).map g.barrier) ++ wordsAt 0xC0 (s.jobWords core slot) ++
    wordsAt 0x200 ((List.range 8).flatMap fun i => maskWords (if i = 0 then BitVec.allOnes 128 else g.masks.at i 0)) ++
    wordsAt 0x300 q.q1 ++ wordsAt 0x400 (q.q3.flatMap (s.recordWords core)) ++ wordsAt 0x500 q.q4 ++
    wordsAt 0x700 ((List.range t.slim).map fun r => s.xOf false core slot r) ++
    wordsAt 0xC00 ((List.range t.vlim).flatMap fun r => vecWords ((s.core core).vrf.at (vectorBase slot + r) 0))

/-- A position word of a ring (R507). -/
def RingPos.word (r : RingPos) : Word := w64 (r.held * 2 ^ 32 + r.pos)

/-- Q2POS. -/
def Core.q2Pos (k : Core) : Word :=
  let n := q2Size k.regs.q2cfg
  let oldest := match k.q2 with | m :: _ => m.start | [] => k.q2next % n
  let free := match k.q2.find? fun m => m.owner.isNone with | some m => m.start | none => k.q2next % n
  w64 ((k.q2.map (·.len)).sum * 2 ^ 48 + free * 2 ^ 16 + oldest)

/-- What a parked thread waits for, as six dwords: the manual's record has only the reason (log entry 11). Zero is a park
that the restore does not keep. -/
def WaitFor.words : WaitFor → List Word
  | .queue q n => [1, w64 q, w64 n]
  | .q1room n => [2, w64 n]
  | .barrier i => [3, w64 i]
  | .bytes i => [4, w64 i]
  | .zeroAt va pa uc _ => [5, w64 va, w64 pa, 0, if uc then 1 else 0]
  | .differsAt va pa v uc _ => [6, w64 va, w64 pa, v, if uc then 1 else 0]
  | .jobEnd n => [7, w64 n]
  | .jobRoom => [8]
  | .liveCap fam => [9, w64 fam]
  | _ => [0]
def WaitFor.ofWords (l : List Word) : WaitFor :=
  let n (i : Nat) : Nat := (l.getD i 0).toNat
  match n 0 with
  | 1 => .queue (n 1) (n 2)
  | 2 => .q1room (n 1)
  | 3 => .barrier (n 1)
  | 4 => .bytes (n 1)
  | 5 => .zeroAt (n 1) (n 2) (n 4 = 1) 0
  | 6 => .differsAt (n 1) (n 2) (l.getD 3 0) (n 4 = 1) 0
  | 7 => .jobEnd (n 1)
  | 8 => .jobRoom
  | 9 => .liveCap (n 1)
  | _ => .nothing

/-- The position, one higher, of the q2 message that a slot has claimed and not exhausted; 0 for none. -/
def Core.claimPos (k : Core) (slot : Nat) : Nat :=
  match k.q2.find? fun m => m.owner == some slot && !m.spent with
  | some m => m.start + 1
  | none => 0

/-- The dwords of the slots' claims; that of slot 15 holds beside it how many entries the overflow ring keeps for the restore. -/
def Core.claimWords (k : Core) : List Word :=
  (List.range 16).map fun t => w64 (k.claimPos t + if t = 15 then k.stop.kept * 2 ^ 32 else 0)

/-- The first part of a core area. Offsets 0x380 to 0x7BF, which R322 gives nothing, hold the slots' claims and waits. -/
def State.coreHead (s : State) (core launchPart : Nat) : List (Nat × Word) :=
  let k := s.core core
  let w := k.work
  let g := k.regs
  let marks := (List.range 8).foldl (fun n i => n + (if k.accPoison.at i false then 2 ^ i else 0)) 0
  let rec2 (l : List Word) : List Word := if l.length = 1 then 0 :: l else l
  wordsAt 0 [w64 (2 ^ 56 + launchPart * 2 ^ 32 + s.launchId core * 2 ^ 16 + w.deque.length * 2 ^ 8 + w.aging), w.sent, w.received,
      w64 (marks * 2 ^ 16 + k.q6.length * 2 ^ 8 + k.q5.length)] ++
    wordsAt 0x80 ((List.range 16).map fun i => k.barriers.at i 0) ++
    wordsAt 0x100 (k.q5.flatMap rec2) ++ wordsAt 0x200 (k.q6.flatMap rec2) ++
    wordsAt 0x300 [w.spill.word, w.overflow.word, w.class2.word, w.class3.word, w.class4.word, k.q2Pos,
      w64 (k.stop.spillHeld * 2 ^ 32 + k.stop.spillPos), 0] ++
    wordsAt 0x340 [g.sprsv, g.spillb, g.ovfb, g.sweep, g.texit, g.q2cfg, g.ptroot, g.regionbase] ++
    wordsAt 0x380 k.claimWords ++
    (List.range 15).flatMap fun t => wordsAt (0x400 + 64 * t) (k.thread t).wait.words

/-- The tile slots of a core that a save writes (R322). -/
def State.writtenSlots (s : State) (core : Nat) : List Nat :=
  (List.range 512).filter fun n => (s.core core).written.at n false || (s.ringOn core && 480 ≤ n)

/-- The written map as bytes. -/
def writtenMap (l : List Nat) : Memory :=
  l.foldl (fun m n => m.setByte (0x40 + n / 8) (m.byte (0x40 + n / 8) ||| BitVec.ofNat 8 (2 ^ (n % 8)))) []

/-- Four-byte words of a table at an offset. -/
def words32 (m : Map (BitVec 32)) (off : Nat) : Memory :=
  m.foldl (fun a e => a.write (off + 4 * e.1) 4 e.2.toNat) []

/-- Puts bytes into physical memory, and into the copies that caches hold of it; a poisoned line stays poisoned, since only a copy
engine's write clears it (R234). -/
def State.putRange (s : State) (pa n : Nat) (run : Memory) : State :=
  let s := { s with mem := s.mem.paste pa n run }
  { s with cores := s.cores.map fun e => (e.1, { e.2 with cache := e.2.cache.map fun b =>
      if pa ≤ b.1 + 63 && b.1 < pa + n then (b.1, { b.2 with data := s.mem.line b.1 }) else b }) }

/-- Puts a part of a core's local memory into its area; a poisoned granule makes its line of the area poisoned (log
entry 11). -/
def State.putLocal (s : State) (core pa off n : Nat) : State :=
  let k := s.core core
  let s := s.putRange pa n (k.sram.slice off n 0)
  (k.sramPoison.filter fun e => e.2 && off ≤ 64 * e.1 && 64 * e.1 < off + n).foldl (fun s e =>
    { s with poison := s.poison.put ((pa + (64 * e.1 - off)) / 64) 0 }) s

/-- Writes a core's area (R321, R322). -/
def State.saveCore (s : State) (core launchPart : Nat) : State :=
  let k := s.core core
  let a := k.regs.savearea.toNat
  let slots := s.writtenSlots core
  let s := s.putRange a 0x1000 (imageOf (s.coreHead core launchPart) ++ writtenMap slots)
  let s := (List.range 15).foldl (fun s t => s.putRange (a + 0x1000 + t * 0x2000) 0x2000 (imageOf (s.threadImage core t))) s
  let s := s.putRange (a + 0x20000) 0x20000 (words32 k.acc 0)
  let s := s.putLocal core (a + 0x40000) 0 0x80000
  let s := s.putRange (a + 0xC0000) 0x2000 (words32 k.dt 0)
  let s := s.putRange (a + 0xC2000) 0x2000 (imageOf (wordsAt 0 (k.work.deque.flatMap Packet.words)))
  slots.foldl (fun s n =>
    (s.putLocal core (a + 0x100000 + n * 0x1000) (slotData n) 0x1000).putLocal core (a + 0x300000 + n * 0x80) (slotSide n) 0x80) s

/-! ### The hem's area (R323); what SAVEVER governs is log entry 11 -/

/-- The place of an injector record: station, family, record. -/
def injPlace (key : Nat) : Nat := 0x10000 + 32 * ((key / 64 % 16 * 2 + key / 1024) * 64 + key % 64)

/-- An injector record as four dwords. -/
def Injector.words (i : Injector) : List Word :=
  [i.hdr, w64 (i.slot + i.remain * 2 ^ 16 + i.seq * 2 ^ 32 + (if i.active then 2 ^ 40 else 0) + (if i.entered then 2 ^ 41 else 0) +
    i.thread * 2 ^ 48), w64 i.order]
def Injector.ofWords (core : Nat) (l : List Word) : Injector :=
  let m := l.getD 1 0
  { active := m.getLsbD 40, entered := m.getLsbD 41, core, hdr := l.getD 0 0, slot := fld m 15 0, remain := fld m 31 16,
    seq := fld m 36 32, thread := fld m 51 48, late := 0, order := (l.getD 2 0).toNat }

/-- The output that an application or a spawned task belongs to, as one dword, with its pinned slots. -/
def AppOf.word (a : AppOf) : Word := w64 (2 ^ 63 + a.entry + a.i * 2 ^ 4 + a.j * 2 ^ 12 + a.k * 2 ^ 20 + a.slotA * 2 ^ 28 + a.slotB * 2 ^ 38)
def AppOf.ofWord (w : Word) : AppOf := ⟨fld w 3 0, fld w 11 4, fld w 19 12, fld w 27 20, fld w 37 28, fld w 47 38⟩

/-- A queued application: its output, and whether it clears. -/
def MatOp.words (o : MatOp) : List Word :=
  match o.app, o.kind with
  | some a, .mma _ _ _ clear _ => [a.word, if clear then 1 else 0]
  | _, _ => [0, 0]

/-- The dwords of the launch whose tenant is saved, with the ending that it has met and that is still to be carried out (R506; log
entry 94). -/
def Launch.words (l : Launch) : List Word :=
  [w64 (2 ^ 63 + l.slim + l.vlim * 2 ^ 8 + l.domain * 2 ^ 16 + (if l.stalled then 2 ^ 24 else 0) +
      (match l.error with | some e => 2 ^ 25 + e % 2 ^ 16 * 2 ^ 32 | none => 0)), w64 l.gap, l.launchid, l.caddr, l.cval,
    w64 l.queue, w64 l.qcb]
def Launch.ofWords (l : List Word) : Launch :=
  let w := l.getD 0 0
  { slim := fld w 7 0, vlim := fld w 15 8, domain := fld w 23 16, gap := (l.getD 1 0).toNat, launchid := l.getD 2 0,
    caddr := l.getD 3 0, cval := l.getD 4 0, queue := (l.getD 5 0).toNat, qcb := (l.getD 6 0).toNat,
    error := if w.getLsbD 25 then some (fld w 47 32) else none, ending := false,
    stalled := w.getLsbD 24 }

/-- A q5 record that waits in its station, with its decrement if it has one. -/
def q5Words (w : Nat × List Word × Nat × Nat) : List Word :=
  [w.2.1.getD 0 0, w.2.1.getD 1 0, w.2.1.getD 2 0, w64 (w.1 + w.2.2.1 * 2 ^ 8 + w.2.2.2 * 2 ^ 16 + w.2.1.length * 2 ^ 32)]

/-- What a hem's area holds beside the contents of the ring save buffer. -/
def State.hemImage (s : State) (p : Partition) (h : Nat) : List (Nat × Word) :=
  let m := s.hem h
  let r := m.ring
  wordsAt 0 [m.hemctl, w64 (m.live 1 * 2 ^ 8 + m.live 0), w64 (m.misses * 2 ^ 32 + m.deferrals * 2 ^ 16),
      w64 (2 ^ 56 + p.hemCount * 2 ^ 40 + p.launchHem h)] ++
    wordsAt 0x40 ((p.launch.map Launch.words).getD []) ++
    wordsAt 0x100 ((List.range 32).map fun i => w64 (fromLE ((List.range 8).map fun b => m.jobSeq.at (8 * i + b) 0))) ++
    (m.patterns.flatMap fun e =>
      wordsAt (0x400 + e.1 * 64) [e.2.ctl, e.2.ownmap, e.2.fmt, e.2.spawnpc, e.2.spawnarg, e.2.caddr, e.2.ctag,
        if e.2.active then 1 else 0] ++
      wordsAt (0x800 + e.1 * 128) ((List.range 16).map fun i => w64 (fromLE ((List.range 8).map fun b => e.2.owners.getD (8 * i + b) 0))) ++
      wordsAt (0x9000 + e.1 * 8) [e.2.x3]) ++
    (m.outputs.flatMap fun e => wordsAt (0x1000 + e.1 * 16) [e.2.applied, e.2.pendingBits]) ++
    wordsAt 0x9900 [w64 m.spawned.length, w64 (r.departing.map fun e => e.2.length).sum, w64 m.q5waiting.length,
      w64 m.q6waiting.length, w64 r.rank, w64 r.order, w64 r.saveBuffer.length] ++
    wordsAt 0xA000 (m.spawned.flatMap fun x => [x.2.2.word, w64 (stationOf x.1 + x.2.1 * 2 ^ 8)]) ++
    wordsAt 0xE000 (r.departing.flatMap fun e => e.2.flatMap fun t => [t.hdr, w64 (e.1 % 16)]) ++
    (r.injectors.flatMap fun e => wordsAt (injPlace e.1) e.2.words) ++
    ((List.range 16).flatMap fun st =>
      wordsAt (0x20000 + st * 0x400) (((s.core (h * 16 + st)).array.queues.at 16 []).flatMap MatOp.words)) ++
    (r.passing.flatMap fun e => wordsAt (0x24000 + e.1 * 16) [e.2.hdr, w64 (2 ^ 63 + e.2.pins * 2 ^ 48 + e.2.rank)]) ++
    wordsAt 0x26000 (r.saveBuffer.flatMap fun e => [e.2.hdr, w64 e.1]) ++
    wordsAt 0x28000 (m.q5waiting.flatMap q5Words) ++
    wordsAt 0x38000 (m.q6waiting.flatMap fun w => [w.2.getD 0 0, w.2.getD 1 0])

/-- The started and completed marks of the outputs, a byte each. -/
def outputMarks (m : Map Output) : Memory :=
  m.foldl (fun a e => a.setByte (0x9100 + e.1) (BitVec.ofNat 8 ((if e.2.started then 1 else 0) + if e.2.completed then 2 else 0))) []

/-- Address of a hem's area (R323). -/
def Hem.area (h : Hem) : Nat := fld h.hemsave 51 16 * 65536

/-- Bytes of a hem's area. -/
def hemAreaSize : Nat := 397312

/-- Writes a hem's area. -/
def State.saveHem (s : State) (p : Partition) (h : Nat) : State :=
  let m := s.hem h
  let marks := outputMarks m.outputs
  let s := s.putRange m.area hemAreaSize (imageOf (s.hemImage p h))
  let s := s.putRange (m.area + 0x9100) 0x800 (marks.slice 0x9100 0x800 0)
  m.ring.saveBuffer.zipIdx.foldl (fun s x =>
    (s.putRange (m.area + 0x40000 + x.2 * 0x1000) 0x1000 x.1.2.data).putRange (m.area + 0x60000 + x.2 * 0x80) 0x80 x.1.2.side) s

/-! ## SAVE_COMPLETE (R319, R322) -/

/-- What the cores of a partition write to their homes is still on its way (R268, R322). -/
def State.flushesOpen (s : State) (p : Partition) : Bool :=
  let mine (f : Flit) : Bool := f.part == p.id && f.lane == 0 && f.type == tEvict
  (p.cores.any fun c => (s.core c).flushes ≠ []) || s.net.any (fun f => match f.body with | .msg _ => mine f | _ => false) ||
    s.deferred.any (fun e => e.2.any mine) || s.pps.any fun e => e.2.handlers.any fun h => match h.2.req with | some f => mine f | none => false

/-- The matrix arrays of the partition have retired what they began and what threads asked for (R208, R316). -/
def State.arraysQuiet (s : State) (p : Partition) : Bool :=
  p.cores.all fun c =>
    let a := (s.core c).array
    a.running.isNone && a.queues.all fun e => e.1 = 16 || e.2 = []

/-- A core once its state is saved: its slots hold no thread. -/
def Core.wasSaved (k : Core) : Core :=
  { k with threads := k.threads.map fun e => if e.1 < 15 then (e.1, { e.2 with saved := none }) else e }

/-- Saves a partition. -/
def State.saveAll (s : State) (p : Partition) : State :=
  let hems := p.hemList
  let n := (p.cores.flatMap fun c => (s.core c).tasks).countP fun t => t.saved.isSome
  let s := hems.foldl (fun s h => s.saveHem p h) s
  let s := p.cores.foldl (fun s c => s.saveCore c p.launchPart) s
  let s := s.mapCores p Core.wasSaved
  (s.record p.root (sweepRecord 0x23 p.id n s.time)).modPart p.id fun p => { p with stop := .saved, launch := none }

/-- SAVE_COMPLETE: once every dirty block is at its home; after the FLUSHes of partials their CLOSEs are sent (R268). -/
def execSaveComplete (part : Nat) (s : State) : Host.Outcome State Fault Refusal :=
  partEvent part (fun p s =>
    if p.stop ≠ .saving || s.flushesOpen p then s
    else match p.cores.find? fun c => (s.core c).closing ≠ [] with
    | some c => s.asCore c State.closeAll
    | none => if s.arraysQuiet p then s.saveAll p else s) s

end Sys2Proof.Machine
end

