-- ==== Sys2Proof/Machine/Restores.lean ====
section
/-! DEFINITION. The restore of a saved partition: the checks of its areas, the identity map, hems, cores, threads, ring
tiles and stop spill rings (R208, R324, R325, R470; log entry 11). -/

namespace Sys2Proof.Machine

/-! ## Reading the areas -/

/-- A dword of an area. -/
def State.areaWord (s : State) (a off : Nat) : Word := s.devWord (a + off)
/-- Dwords of an area. -/
def State.areaWords (s : State) (a off n : Nat) : List Word := s.devWords (a + off) n
/-- Every dword in a part of an area is zero. -/
def State.zeroAt (s : State) (a off n : Nat) : Bool := (s.areaWords a off (n / 8)).all (· == 0)

/-- An area can be read: it lies in space 0 as far as it is installed, and no line of it is poisoned but those that stand
for local memory (log entry 11). -/
def State.readable (s : State) (a n : Nat) (localLine : Nat → Bool) : Bool :=
  a + n ≤ 2 ^ 40 && s.poison.all fun e => !(a / 64 ≤ e.1 && e.1 < (a + n + 63) / 64) || localLine (64 * e.1 - a)

/-- The offset lies in the part of a core area that holds the scratchpad, the tile slots or the side entries. -/
def localPart (off : Nat) : Bool := (0x40000 ≤ off && off < 0xC0000) || (0x100000 ≤ off && off < 0x310000)

/-! ## Checks before anything is loaded (R325) -/

/-- A pattern entry as its area holds it. -/
def State.loadPattern (s : State) (a e : Nat) : Pattern :=
  let d := a + 0x400 + e * 64
  { active := (s.areaWord d 56).getLsbD 0, ctl := s.areaWord d 0, ownmap := s.areaWord d 8, fmt := s.areaWord d 16,
    spawnpc := s.areaWord d 24, spawnarg := s.areaWord d 32, caddr := s.areaWord d 40, ctag := s.areaWord d 48,
    owners := (s.areaWords a (0x800 + e * 128) 16).flatMap fun w => bytesLE 8 w.toNat, x3 := s.areaWord a (0x9000 + e * 8) }

/-- A loaded pattern entry's counts lie in their ranges (R195). -/
def patternCounts (c : Word) : Bool :=
  fld c 45 44 < 2 && 1 ≤ fld c 51 48 && 1 ≤ fld c 38 32 && fld c 38 32 ≤ 64 && 1 ≤ fld c 31 24 && fld c 31 24 ≤ 128 &&
    1 ≤ fld c 23 16 && fld c 23 16 ≤ 128

/-- The reserved bits of a pattern entry and of its owner map are zero, and its counts lie in their ranges (R195, R325). -/
def State.patternOk (s : State) (a e : Nat) : Bool :=
  let p := s.loadPattern a e
  let c := p.ctl
  fld c 63 58 = 0 && fld c 55 52 = 0 && !c.getLsbD 43 && !c.getLsbD 39 && !c.getLsbD 15 && !c.getLsbD 7 && !ctxReserved p.fmt &&
    fld (s.areaWord (a + 0x400 + e * 64) 56) 63 1 = 0 && (p.owners.all fun b => b / 8 % 2 = 0) &&
    ((!p.active && c = 0) || patternCounts c)

/-- A launch's budgets lie within their ranges (R38). -/
def launchOk (w : Word) : Bool := w.getLsbD 63 && fld w 7 0 ≤ 120 && fld w 15 8 ≤ 32 && fld w 23 16 ≤ 5

/-- A live cap lies in its range (R186). -/
def hemCapOk (n : Nat) : Bool := 1 ≤ n && n ≤ 64

/-- A hem area passes its checks: 0, or the status of record 0x24. -/
def State.hemCheck (s : State) (p : Partition) (a : Nat) : Nat :=
  let d1 := s.areaWord a 8
  let d2 := s.areaWord a 16
  let d3 := s.areaWord a 24
  if !s.readable a hemAreaSize (fun _ => false) then 2
  else if fld d3 63 56 ≠ 1 then 1
  else if fld d3 46 40 ≠ p.hemCount then 3
  else if fld (s.areaWord a 0) 63 23 ≠ 0 || fld (s.areaWord a 0) 15 15 ≠ 0 || fld (s.areaWord a 0) 7 1 ≠ 0 || fld d1 63 15 ≠ 0 ||
      d1.getLsbD 7 || fld d2 15 0 ≠ 0 || fld d3 55 47 ≠ 0 || fld d3 39 6 ≠ 0 || !s.zeroAt a 32 32 ||
      !(hemCapOk (fld (s.areaWord a 0) 14 8)) || !(hemCapOk (fld (s.areaWord a 0) 22 16)) || 64 < fld d1 6 0 || 64 < fld d1 14 8 ||
      !((List.range 16).all (s.patternOk a)) || !launchOk (s.areaWord a 0x40) then 1
  else 0

/-- Kinds of JOBS entries that a record may hold (R321). -/
def jobEntryOk (w : Word) : Bool :=
  fld w 47 15 = 0 && (w = 0 || (0x40 ≤ fld w 7 0 && fld w 7 0 ≤ 0x42))

/-- A dword has no bit outside a mask. -/
def within (w mask : Word) : Bool := w &&& ~~~mask == 0

/-- A thread record passes its checks. -/
def State.threadOk (s : State) (a : Nat) : Bool :=
  let st := s.areaWord a 0
  let c := s.areaWord a 0x70
  fld st 2 0 ≤ 3 && fld st 47 24 = 0 && fld st 7 5 = 0 && !st.getLsbD 3 && fld st 23 20 ≤ 0xC &&
    fld c 63 40 = 0 && fld c 7 0 = 0 && fld c 39 34 ≤ 32 && fld c 33 29 ≤ 16 && fld c 28 24 ≤ 16 && fld c 23 18 ≤ 32 &&
    fld c 17 13 ≤ 16 && fld c 12 8 ≤ 16 &&
    within (s.areaWord a 0x10) fcsrMask && within (s.areaWord a 0x18) fmtctxMask && within (s.areaWord a 0x20) (~~~(1 : Word)) &&
    within (s.areaWord a 0x30) 0xFF && within (s.areaWord a 0x40) 31 && within (s.areaWord a 0x50) 0xFF &&
    (List.range 16).all (fun i => jobEntryOk (s.areaWord a (0xC0 + 16 * i))) &&
    s.zeroAt a 0x78 8 && s.zeroAt a 0x1C0 64 && s.zeroAt a 0x680 128 && s.zeroAt a 0xAC0 320 && s.zeroAt a 0x1C00 1024

/-- A position word has only its fields, and a count within its range. -/
def posOk (w : Word) (top size : Nat) : Bool := fld w 63 32 ≤ top && w.toNat % 2 ^ 32 < size

/-- The header of a packet has no reserved bit (R51). -/
def packetHdrOk (w : Word) : Bool := within w (w64 0xFFFFFFFF000100FF)

/-- The packets of a core area's deque and class lists, and the words of its tables, have no reserved bit (R51, R154). -/
def State.coreBodyOk (s : State) (a : Nat) : Bool :=
  let r (cls : Nat) : Word := s.areaWord a (0x310 + 8 * (cls - 2))
  ((List.range (fld (s.areaWord a 0) 14 8)).all fun i => packetHdrOk (s.areaWord a (0xC2000 + 96 * i))) &&
    ([2, 3, 4].all fun cls => (List.range (fld (r cls) 38 32)).all fun i =>
      packetHdrOk (s.areaWord a (0x40000 + listBase cls + (fld (r cls) 5 0 + i) % 64 * 96))) &&
    (s.areaWords a 0xC0000 1024).all fun w => within w (w64 0x0007FFFF0007FFFF)

/-- The head of a core area passes its checks. -/
def State.coreHeadOk (s : State) (a : Nat) : Bool :=
  let h := s.areaWord a 0
  let n := s.areaWord a 0x18
  let q := s.areaWord a 0x328
  let i := s.areaWord a 0x330
  let r (j : Nat) : Word := s.areaWord a (0x340 + 8 * j)
  fld h 63 56 = 1 && fld h 55 48 = 0 && fld h 31 26 = 0 && h.getLsbD 15 = false && fld h 7 4 = 0 && fld h 14 8 ≤ 64 &&
    fld h 3 0 ≤ 8 && fld n 63 24 = 0 && fld n 15 13 = 0 && fld n 7 5 = 0 && fld n 12 8 ≤ 16 && fld n 4 0 ≤ 16 &&
    posOk (s.areaWord a 0x300) (ringSize (r 1)) (2 ^ 32) && posOk (s.areaWord a 0x308) (ringSize (r 2)) (2 ^ 32) &&
    posOk (s.areaWord a 0x310) 64 64 && posOk (s.areaWord a 0x318) 64 64 && posOk (s.areaWord a 0x320) 64 64 &&
    fld q 63 62 = 0 && fld q 47 29 = 0 && fld q 15 13 = 0 && fld q 61 48 ≤ 8192 && fld i 63 48 = 0 && fld i 31 16 = 0 &&
    fld (s.areaWord a 0x3F8) 63 32 ≤ fld (s.areaWord a 0x308) 63 32 &&
    s.areaWord a 0x338 = 0 && (List.range 16).all (fun b => fld (s.areaWord a (0x80 + 8 * b)) 31 21 = 0) &&
    within (r 0) 0xFF && within (r 1) (w64 0xFFFFFFFFFFF01F) && within (r 2) (w64 0xFFFFFFFFFFF01F) && within (r 3) 0x1F &&
    within (r 4) (~~~(1 : Word)) && within (r 5) (w64 0xF7FFFF) && within (r 6) (w64 0xFFFFFFFFFF000) &&
    within (r 7) (w64 0xFFFFFFFFFC000)

/-- The first thread record of a core area that fails. -/
def State.badRecord (s : State) (a : Nat) : Option Nat :=
  (List.range 15).findSome? fun t => let r := a + 0x1000 + t * 0x2000; if s.threadOk r then none else some r

/-- The first failure of a restore: its status and its address. -/
def State.restoreFault (s : State) (p : Partition) (r : Restore) : Option (Nat × Nat) :=
  match r.hems.findSome? fun a => if s.hemCheck p a ≠ 0 then some (s.hemCheck p a, a) else none with
  | some x => some x
  | none => r.cores.findSome? fun a =>
      if !s.readable a 0x310000 localPart then some (2, a)
      else if !(s.coreHeadOk a && s.coreBodyOk a) then some (1, a)
      else (s.badRecord a).map fun x => (1, x)

/-! ## Loading a hem -/

/-- Pairs of dwords at an offset. -/
def State.areaPairs (s : State) (a off n : Nat) : List (Word × Word) :=
  (List.range n).map fun i => (s.areaWord a (off + 16 * i), s.areaWord a (off + 16 * i + 8))

/-- The injector records of a hem's area. -/
def State.loadInjectors (s : State) (h a : Nat) : Map Injector :=
  ((List.range 2048).map fun key => (key, Injector.ofWords (h * 16 + key / 64 % 16) (s.areaWords a (injPlace key) 4))).filter
    fun e => e.2 ≠ { Injector.reset with core := h * 16 + e.1 / 64 % 16 }

/-- Fields of a header that the ring control wrote: injector station, record, sequence (R189). -/
def hInj (h : Word) : Nat := fld h 25 22
def hRec (h : Word) : Nat := fld h 17 12
def hSeq (h : Word) : Nat := fld h 11 7

/-- The passing sets of a hem's area. -/
def State.loadPassing (s : State) (a : Nat) : Map PassEntry :=
  (s.areaPairs a 0x24000 512).zipIdx.filterMap fun ((h, m), i) =>
    if m.getLsbD 63 then some (i, ⟨hInj h, hRec h, hSeq h, h, fld m 47 0, fld m 62 48⟩) else none

/-- The queued applications of a station of a hem's area (R199). -/
def State.loadApps (s : State) (pats : Map Pattern) (a st : Nat) : List MatOp :=
  ((s.areaPairs a (0x20000 + st * 0x400) 64).filter fun e => e.1.getLsbD 63).map fun (w, m) =>
    let x := AppOf.ofWord w
    match pats.look x.entry with
    | some p => { kind := .mma (p.acc (p.out x.i x.j)) x.slotA x.slotB (m.getLsbD 0) false, ctx := p.fmt, late := 0, accepted := s.time,
                  app := some x }
    | none => { kind := .mma 0 x.slotA x.slotB (m.getLsbD 0) false, ctx := 0, late := 0, accepted := s.time, app := some x }

/-- Outputs of a hem's area: bitmaps, marks, and how many of their applications and tasks have not finished (R199). -/
def State.loadOutputs (s : State) (a : Nat) (pats : Map Pattern) (open_ : List AppOf) : Map Output :=
  ((List.range 2048).map fun o =>
    let mark := s.devRead (a + 0x9100 + o) 1
    let mine (x : AppOf) : Bool := match pats.look x.entry with | some p => outKey x.entry (p.out x.i x.j) == o | none => false
    ((o, { applied := s.areaWord a (0x1000 + o * 16), pendingBits := s.areaWord a (0x1008 + o * 16), started := mark % 2 = 1,
           running := open_.countP mine, completed := mark / 2 % 2 = 1 }) : Nat × Output)).filter fun e => e.2 ≠ Output.reset

/-- A q5 record that waited in its station. -/
def q5OfWords (l : List Word) : Nat × List Word × Nat × Nat :=
  let m := l.getD 3 0
  (fld m 7 0, l.take (fld m 39 32), fld m 15 8, fld m 31 16)

/-- Loads a hem's area: HEMCTL first (R325). Its links are empty; what is to go back to them comes after the cores. -/
def State.loadHem (s : State) (h a : Nat) : State :=
  let d2 := s.areaWord a 16
  let n (i : Nat) : Nat := (s.areaWord a (0x9900 + 8 * i)).toNat
  let seqs := (s.areaWords a 0x100 32).flatMap fun w => bytesLE 8 w.toNat
  let pats := ((List.range 16).map fun e => (e, s.loadPattern a e)).filter fun e => e.2.active || e.2.ctl ≠ 0
  let spawned := (s.areaPairs a 0xA000 (n 0)).map fun (w, m) => (h * 16 + fld m 7 0, fld m 15 8, AppOf.ofWord w)
  let apps := (List.range 16).map fun st => (st, s.loadApps pats a st)
  let q5 := (List.range (n 2)).map fun i => q5OfWords (s.areaWords a (0x28000 + 32 * i) 4)
  let q6 := (s.areaPairs a 0x38000 (n 3)).map fun (x, y) => (fld x 47 44, [x, y])
  let s := s.modHem h fun m => { Hem.reset with
    hemsave := m.hemsave
    hemctl := s.areaWord a 0
    deferrals := fld d2 31 16
    misses := fld d2 63 32
    patterns := pats
    outputs := s.loadOutputs a pats ((apps.flatMap fun e => e.2.filterMap (·.app)) ++ spawned.map (·.2.2))
    ring := { RingDyn.reset with injectors := s.loadInjectors h a, passing := s.loadPassing a, rank := n 4, order := n 5 }
    q5waiting := q5, q6waiting := q6
    spawned
    tlb := m.tlb
    jobSeq := (List.range 256).map fun i => (i, seqs.getD i 0) }
  apps.foldl (fun s e => s.modCore (h * 16 + e.1) fun k =>
    { k with array := { k.array with queues := k.array.queues.put 16 e.2 } }) s

/-- The tile of a header, as a station or the ring save buffer holds it. -/
def savedTile (hdr : Word) (c : Memory × Memory) : Tile :=
  { hdr, due := 0, fam := hFam hdr, inj := hInj hdr, record := hRec hdr, seq := hSeq hdr, data := c.1, side := c.2 }

/-- The tiles of the ring save buffer go back towards their next stations, and those that waited in a station for a link go
on (R208). What such a tile holds is still in its source slot, which it pins (R191). -/
def State.loadRing (s : State) (h a : Nat) : State :=
  let n (i : Nat) : Nat := (s.areaWord a (0x9900 + 8 * i)).toNat
  let buffer := (s.areaPairs a 0x26000 (n 6)).zipIdx.map fun ((hdr, st), i) =>
    ((st.toNat, savedTile hdr (s.mem.slice (a + 0x40000 + i * 0x1000) 0x1000 0, s.mem.slice (a + 0x60000 + i * 0x80) 0x80 0)) : Nat × Tile)
  let m := s.hem h
  let waiting : List (Nat × Tile) := (s.areaPairs a 0xE000 (n 1)).map fun (hdr, st) =>
    let r := m.ring.inj (injKey (hFam hdr) (hInj hdr) (hRec hdr))
    let fmt := match m.entryFor (hFam hdr) (hMat hdr) with | some e => e.2.fmt | none => 0
    ((linkKey (hFam hdr) st.toNat, savedTile hdr (tileContents (s.core r.core) r.slot (hFam hdr) fmt)) : Nat × Tile)
  s.modHem h fun m =>
    let m := { m with ring := { m.ring with
      saveBuffer := buffer
      departing := waiting.foldl (fun (d : Map (List Tile)) (x : Nat × Tile) => d.put x.1 (d.at x.1 [] ++ [x.2])) [] } }
    m.ring.departing.foldl (fun (m : Hem) (e : Nat × List Tile) => m.depart (e.1 / 16) (e.1 % 16) s.time) m

/-! ## Loading a core -/

/-- The bytes of an area as a run from 0. -/
def State.areaRun (s : State) (a off n : Nat) : Memory := s.mem.slice (a + off) n 0

/-- The poisoned granules of a part of the local memory, from the poisoned lines of its area (log entry 11). -/
def State.areaPoison (s : State) (pa off n : Nat) : Map Bool :=
  (s.poison.filter fun e => pa ≤ 64 * e.1 && 64 * e.1 < pa + n).map fun e => ((off + (64 * e.1 - pa)) / 64, true)

/-- Words of four bytes in an area, by place; zeros are not listed. -/
def State.loadWords32 (s : State) (a off n : Nat) : Map (BitVec 32) :=
  ((s.areaWords a off (n / 2)).zipIdx.flatMap fun x =>
    [(2 * x.2, BitVec.ofNat 32 x.1.toNat), (2 * x.2 + 1, BitVec.ofNat 32 (x.1.toNat / 2 ^ 32))]).filter fun e => e.2 ≠ 0

def ringPosOf (w : Word) : RingPos := ⟨w.toNat % 2 ^ 32, fld w 63 32⟩

/-- Records of two dwords, the first of which may have been popped: a record's kind is never 0. -/
def recordsOf : List Word → List (List Word)
  | a :: b :: t => (if fld a 7 0 = 0 then [b] else [a, b]) :: recordsOf t
  | _ => []

/-- Tile slots that the written map marks. -/
def State.loadedSlots (s : State) (a : Nat) : List Nat :=
  (List.range 512).filter fun n => (BitVec.ofNat 8 (s.devRead (a + 0x40 + n / 8) 1)).getLsbD (n % 8)

/-- The messages of the q2 ring, from a position, as far as their dwords reach: the LEN of each header gives the next (R507).
Those from the oldest unclaimed header on, if there is one, are unclaimed; of the others a slot's claim names its own, and the
rest are exhausted. -/
def ringMsgs (sram : Memory) (q2cfg : Word) (claims : List Nat) (free : Option Nat) : Nat → Nat → Nat → Bool → List RingMsg
  | 0, _, _, _ => []
  | f + 1, pos, held, unclaimed =>
    if held = 0 then []
    else
      let n := q2Size q2cfg
      let len := hdrLen (sram.word (q2Base q2cfg + pos % n * 8)) + 1
      let un := unclaimed || free == some (pos % n)
      let owner := if un then none else claims.findIdx? (· == pos % n + 1)
      ⟨pos % n, len, if un then none else some (owner.getD 16), !un && owner.isNone⟩ ::
        ringMsgs sram q2cfg claims free f (pos + len) (held - len) un

/-- The messages of the q2 ring of a core's area. Where the ring is full and a slot has claimed its oldest message, every message
is claimed: Q2POS then names no unclaimed one. -/
def State.loadQ2 (s : State) (a : Nat) (sram : Memory) (q2cfg : Word) : List RingMsg :=
  let q := s.areaWord a 0x328
  let claims := (s.areaWords a 0x380 16).map fun w => w.toNat % 2 ^ 32
  let full := fld q 61 48 = q2Size q2cfg && claims.contains (fld q 12 0 + 1)
  ringMsgs sram q2cfg claims (if full then none else some (fld q 28 16)) 8192 (fld q 12 0) (fld q 61 48) false

/-- Loads a core's area into a core: its own SVEC, SSAVE, SAVEAREA, STALE and supervisor slot stay (R325). -/
def State.loadCore (s : State) (core a : Nat) : State :=
  let h := s.areaWord a 0
  let n := s.areaWord a 0x18
  let q := s.areaWord a 0x328
  let i := s.areaWord a 0x330
  let r (i : Nat) : Word := s.areaWord a (0x340 + 8 * i)
  let slots := s.loadedSlots a
  let ringOn := s.ringOn core
  let sram := s.areaRun a 0x40000 0x80000
  let msgs := s.loadQ2 a sram (r 5)
  let sram := slots.foldl (fun m x =>
    (m.paste (slotData x) 0x1000 (s.areaRun a (0x100000 + x * 0x1000) 0x1000)).paste (slotSide x) 0x80
      (s.areaRun a (0x300000 + x * 0x80) 0x80)) sram
  let poison := s.areaPoison (a + 0x40000) 0 0x80000 ++
    (slots.flatMap fun x => s.areaPoison (a + 0x100000 + x * 0x1000) (slotData x) 0x1000) ++
    slots.flatMap fun x => s.areaPoison (a + 0x300000 + x * 0x80) (slotSide x) 0x80
  let pins := (s.hem (hemOf core)).ring.injectors.foldl (fun (m : Map Nat) e =>
    if e.2.active && e.2.core == core then m.put e.2.slot (m.at e.2.slot 0 + 1) else m) []
  s.modCore core fun k => { k with
    threads := k.threads.map fun e => if e.1 = 15 then e else (e.1, { Thread.reset with regs := { Regs.reset with ssave := e.2.regs.ssave } })
    xrf := k.xrf.filter fun e => 2016 ≤ e.1
    vrf := []
    acc := s.loadWords32 a 0x20000 32768
    accPoison := (List.range 8).filterMap fun i => if (fld n 23 16).testBit i then some (i, true) else none
    dt := s.loadWords32 a 0xC0000 2048
    sram, sramPoison := poison, pins
    written := (slots.filter fun x => !(ringOn && 480 ≤ x)).map fun x => (x, true)
    barriers := ((List.range 16).map fun i => (i, s.areaWord a (0x80 + 8 * i))).filter fun e => e.2 ≠ 0
    q2 := dropSpent msgs
    q2next := (fld q 12 0 + fld q 61 48) % q2Size (r 5)
    q5 := recordsOf (s.areaWords a 0x100 (2 * fld n 4 0))
    q6 := recordsOf (s.areaWords a 0x200 (2 * fld n 12 8))
    work := { Work.reset with
      deque := (List.range (fld h 14 8)).map fun i => Packet.ofWords (s.areaWords a (0xC2000 + 96 * i) 12)
      spill := ringPosOf (s.areaWord a 0x300), overflow := ringPosOf (s.areaWord a 0x308)
      class2 := ringPosOf (s.areaWord a 0x310), class3 := ringPosOf (s.areaWord a 0x318)
      class4 := ringPosOf (s.areaWord a 0x320)
      aging := fld h 3 0, sent := s.areaWord a 8, received := s.areaWord a 16, built := k.work.built }
    regs := { k.regs with sprsv := r 0, spillb := r 1, ovfb := r 2, sweep := r 3, texit := r 4, q2cfg := r 5, ptroot := r 6,
                          walkRoot := r 6, regionbase := r 7 }
    stop := { StopInfo.reset with spillPos := fld i 15 0, spillHeld := fld i 47 32, kept := fld (s.areaWord a 0x3F8) 63 32 } }

/-! ## Loading a thread (R321, R325) -/

/-- The park reason of a code. -/
def parkOf (n : Nat) : Park :=
  [.none, .qempty, .qfull, .pagefault, .tagwait, .barrier, .bcount, .join, .memwait, .jobwait, .livecap, .idle, .stop].getD n .none

/-- The q3 records of a thread record: one of KIND 0 has lost its first dword. -/
def jobRecsOf : List Word → List JobRec
  | a :: b :: t => ⟨fld a 63 48, if fld a 7 0 = 0 then [b] else [a, b]⟩ :: jobRecsOf t
  | _ => []

/-- The thread that a record holds. A park with reason PAGEFAULT or TAGWAIT, or one of which the area does not say what it
waits for, is not kept: the thread reissues its instruction. SSAVE stays the target's (R325). -/
def State.loadThread (s : State) (r : Nat) (l : Launch) (wait : WaitFor) (ssave : Word) : Thread :=
  let w (off : Nat) : Word := s.areaWord r off
  let st := w 0
  let c := w 0x70
  let q0 := s.areaWords r 0x280 (fld c 12 8)
  let claim := s.areaWords r 0x600 (fld c 28 24)
  if fld st 2 0 = 0 then
    { Thread.reset with regs := { Regs.reset with ssave }, queues := { Queues.reset with q0, q2claim := claim } }
  else
    let parked := fld st 2 0 = 2 && wait ≠ .nothing
    let priv : Priv := if st.getLsbD 4 then .s else .u
    let tstate : TState := if parked then .parked else if fld st 2 0 = 3 || (fld st 2 0 = 2 && priv == .s) then .trap else .ready
    { Thread.reset with
      tstate := .free, priv, pc := w 8, annul := fld st 19 18, parkSeq := fld st 63 48, wakePending := st.getLsbD 17
      park := if parked then parkOf (fld st 23 20) else .none
      wait := if parked then wait else .nothing
      inTrap := parked && priv == .s
      slim := l.slim, vlim := l.vlim, cycles := (w 0x68).toNat
      regs := { fcsr := w 0x10, fmtctx := w 0x18, uhvec := w 0x20, uhpc := w 0x28, uhcause := w 0x30, uhval := w 0x38,
                launchid := l.launchid, status := w 0x40, epc := w 0x48, ecause := w 0x50, eval := w 0x58, ssave,
                bcb := ((List.range 8).map fun i => (i, w (0x80 + 8 * i))).filter fun e => e.2 ≠ 0
                masks := ((List.range 7).map fun i =>
                  (i + 1, BitVec.ofNat 128 ((w (0x210 + 16 * i)).toNat + (w (0x218 + 16 * i)).toNat * 2 ^ 64))) }
      queues := { Queues.reset with
        q0, q2claim := claim
        q1 := s.areaWords r 0x300 (fld c 23 18), q1partial := fld c 17 13
        q3 := jobRecsOf (s.areaWords r 0x400 (2 * fld c 33 29))
        q4 := s.areaWords r 0x500 (fld c 39 34) }
      saved := some { tstate, live := fld st 15 8, forced := st.getLsbD 16, priv } }

/-- The held ended jobs of a record go back to their entries (R325). -/
def State.loadJobs (s : State) (core slot r : Nat) : State :=
  let recs := s.areaPairs r 0x400 (fld (s.areaWord r 0x70) 33 29)
  (List.range 16).foldl (fun s i =>
    let d := s.areaWord r (0xC0 + 16 * i)
    if d = 0 then s
    else
      let id := fld d 63 48
      let own := (recs.find? fun x => fld x.1 63 48 = id).getD (0, 0)
      let state : JobState := match fld d 7 0 with | 0x40 => .complete | 0x41 => .failed | _ => .cancelled
      s.modHem (hemOf core) fun h => h.setJob (jobEntry id)
        { state, core, slot, priv := .u, kind := fld d 10 8, src := 0, dst := 0,
          ctl := w64 (fld d 14 12 * 2 ^ 8 + (if d.getLsbD 11 then 2 ^ 11 else 0)), aux := 0, dims := [],
          desc := s.areaWord r (0xC8 + 16 * i), tag := own.2, pos := 0, delivered := 0,
          cause := fld own.1 47 40, order := 0, index := none, buf := [], wrote := 0, waiting := false, rseq := 0, asked := 0 }) s

/-- Loads a thread record into its slot, with its registers; a thread becomes a class-1 candidate. -/
def State.loadSlot (s : State) (core a slot : Nat) (l : Launch) : State :=
  let r := a + 0x1000 + slot * 0x2000
  let t := s.loadThread r l (WaitFor.ofWords (s.areaWords a (0x400 + 64 * slot) 6)) (s.coreThread core slot).regs.ssave
  let s := s.modCore core fun k => k.setThread slot t
  if t.saved.isNone then s
  else
    let xs := (s.areaWords r 0x700 l.slim).zipIdx
    let vs := (List.range l.vlim).map fun i =>
      (vectorBase slot + i, BitVec.ofNat 1024 (((s.areaWords r (0xC00 + 128 * i) 16).zipIdx).foldl (fun n x => n + x.1.toNat * 2 ^ (64 * x.2)) 0))
    let s := s.modCore core fun k => { k with
      xrf := xs.foldl (fun m x => m.put (scalarBase slot + x.2) x.1) k.xrf
      vrf := vs.foldl (fun m x => m.put x.1 x.2) k.vrf
      work := { k.work with restored := k.work.restored ++ [slot] } }
    s.loadJobs core slot r

/-! ## The stop spill ring (R317, R325) -/

/-- The entries of a core's stop spill ring, and those that the overflow ring took for it, are taken out and replayed in order;
then the overflow ring returns what it can. -/
def State.replayRing (s : State) (core : Nat) : State :=
  let k := s.core core
  let l := k.spillEntries k.stop.spillPos 8192 k.stop.spillHeld
  let s := s.modCore core fun k => { k with stop := { k.stop with spillPos := 0, spillHeld := 0 } }
  let (late, s) := s.takeKept core
  let s := l.foldl (fun s e => s.replay core 0 e) s
  (late.foldl (fun s e => s.replay core e.1 e.2) s).overflowReturn core (2 ^ 20)

/-! ## RESTORE_COMPLETE (R319, R325, R357, R470) -/

/-- The record of kind 0x24. -/
def restoreRecord (part status threads addr : Nat) : List Word :=
  [w64 (0x24 + status * 2 ^ 8 + part * 2 ^ 16 + threads * 2 ^ 32), w64 addr]

/-- The launch hems of the listed areas, in ascending order, with the hems that now hold them. -/
def State.identities (s : State) (p : Partition) (r : Restore) : Map Nat :=
  r.hems.zipIdx.foldl (fun m x => m.put (fld (s.areaWord x.1 24) 5 0) (p.hemAt x.2)) []

/-- Loads everything, in the order of R325. -/
def State.restoreAll (s : State) (p : Partition) (r : Restore) : State :=
  let l := Launch.ofWords (s.areaWords (r.hems.headD 0) 0x40 7)
  let part0 := fld (s.areaWord (r.cores.headD 0) 0) 47 32
  let ids := s.identities p r
  let s := s.modPart p.id fun p => { p with idmap := ids, launchPart := part0 }
  let s := r.hems.zipIdx.foldl (fun s x => s.loadHem (p.hemAt x.2) x.1) s
  let s := r.cores.zipIdx.foldl (fun s x => s.loadCore (p.coreAt x.2) x.1) s
  let s := r.cores.zipIdx.foldl (fun s x => (List.range 15).foldl (fun s t => s.loadSlot (p.coreAt x.2) x.1 t l) s) s
  let s := r.hems.zipIdx.foldl (fun s x => s.loadRing (p.hemAt x.2) x.1) s
  let s := s.modPart p.id fun p => { p with launch := some l }
  let s := p.cores.foldl State.replayRing s
  let n := (p.cores.map fun c => (s.core c).work.restored.length).sum
  let s := (s.record p.root (restoreRecord p.id 0 n 0)).queuesMove p qStopped qRunning
  s.modPart p.id fun p => { p with
    stop := .run, restore := none, lastSweep := none, sweepAt := s.time }

/-- RESTORE_COMPLETE. -/
def execRestoreComplete (part : Nat) (s : State) : Host.Outcome State Fault Refusal :=
  partEvent part (fun p s => match p.restore with
    | some r =>
      if p.stop ≠ .restoring then s
      else match s.restoreFault p r with
        | some (status, a) =>
          (s.record p.root (restoreRecord part status 0 a)).modPart part fun p => { p with stop := r.origin, restore := none }
        | none => s.restoreAll p r
    | none => s) s

end Sys2Proof.Machine
end

