-- ==== Sys2Proof/Machine/Tenants.lean ====
section
/-! DEFINITION. The commands that the host gives a partition, the phases of the Kiln, the cone and the lock report
(R327 to R343, R352). -/

namespace Sys2Proof.Machine

/-! ## PCMD (R331) -/

/-- Statuses of PRESULT. -/
def pDone : Nat := 1
def pWrongState : Nat := 2
def pBusy : Nat := 3
def pBadArgument : Nat := 4
def pUnknownOp : Nat := 5

/-- Sets PRESULT: a status and the OP. -/
def State.presult (s : State) (part op status : Nat) : State :=
  s.modPart part fun p => { p with regs := { p.regs with presult := w64 (status * 256 + op) } }

/-- A command: busy while the Kiln runs, refused outside its states, carried out otherwise. -/
def command (part op : Nat) (allowed : State → Partition → Bool) (act : Partition → State → State) (s : State) :
    Host.Outcome State Fault Refusal :=
  partEvent part (fun p s =>
    if p.kiln.isSome then s.presult part op pBusy
    else if allowed s p then act p s
    else s.presult part op pWrongState) s

/-- STOP is EMPTY or SAVED. -/
def Partition.still (p : Partition) : Bool := p.stop == .empty || p.stop == .saved

/-- A partition is idle (R328). -/
def Partition.idle (p : Partition) : Bool := p.trust == .unlocked && p.stop == .empty

/-! ## LOCK (R337) -/

/-- The bytes of the control block that the report's hash covers: 0x018 to 0x07F, then 0x0C0 to 0x0FF. -/
def Partition.settings (p : Partition) : List Byte :=
  (((List.range 13).map fun i => 0x018 + 8 * i) ++ (List.range 8).map fun i => 0x0C0 + 8 * i).flatMap fun o =>
    leBytes 8 ((p.readCtl o).getD 0).toNat

/-- The signature over a body with the identity key of the image that the device runs (R14, R360). -/
def DevRegs.sign (g : DevRegs) (body : List Byte) : List Byte := edSign (digest 32 (Config.idSeed g.image)) body

/-- The 128 bytes of the lock report. -/
def State.reportBody (s : State) (p : Partition) : List Byte :=
  leBytes 4 0x4B434F4C ++ leBytes 2 1 ++ leBytes 2 0 ++ leBytes 8 Config.serial.toNat ++ leBytes 8 s.dev.lockSeq.toNat ++
  leBytes 2 p.id ++ leBytes 1 p.level ++ leBytes 1 p.cls ++ leBytes 4 0 ++ leBytes 8 p.hems.toNat ++
  leBytes 8 (byteWord p.regs.cone 16).toNat ++ leBytes 8 p.regs.bindv.toNat ++
  sha512 p.settings ++ leBytes 8 s.time

/-- LOCK's effect: TRUST is LOCKED, and REPORT holds the signed report. -/
def State.lock (s : State) (p : Partition) : State :=
  let s := { s with dev := { s.dev with lockSeq := s.dev.lockSeq + 1 } }
  let body := s.reportBody p
  let report := putBytes [] 0 (body ++ s.dev.sign body)
  (s.modPart p.id fun p => { p with trust := .locked, regs := { p.regs with report } }).presult p.id 1 pDone

/-- LOCK. -/
def execLock (part : Nat) (s : State) : Host.Outcome State Fault Refusal :=
  command part 1 (fun _ p => p.trust == .unlocked && p.still) (fun p s => s.lock p) s

/-! ## UNLOCK, CLEAR, KILN -/

/-- UNLOCK: the partition gets its next assignment sequence and the Kiln runs (R331, R352). -/
def execUnlock (part : Nat) (s : State) : Host.Outcome State Fault Refusal :=
  command part 2 (fun _ p => (p.trust == .locked || p.trust == .run) && p.still)
    (fun p s => (s.assign p.id).startKiln p.id .unlock) s

/-- CLEAR. -/
def execClear (part : Nat) (s : State) : Host.Outcome State Fault Refusal :=
  command part 3 (fun _ p => p.trust == .error)
    (fun p s => (s.modPart p.id fun p => { p with trust := .unlocked }).presult p.id 3 pDone) s

/-- KILN. -/
def execKiln (part : Nat) (s : State) : Host.Outcome State Fault Refusal :=
  command part 4 (fun _ p => p.trust == .unlocked && p.still) (fun p s => s.startKiln p.id .plain) s

/-! ## SPLIT and MERGE (R328, R352) -/

/-- An id that a command may give: not 0, and of no partition but those the command replaces. -/
def State.idFree (s : State) (id : Nat) (replaced : List Nat) : Bool :=
  id ≠ 0 && (replaced.contains id || (s.parts.look id).isNone)

/-- Forms a partition at a node, gives it an assignment sequence and starts its Kiln. -/
def State.form (s : State) (id level node : Nat) (why : KilnFor) : State :=
  ({ s with parts := s.parts.put id (Partition.formed id level node s.dev.retired) }.assign id).startKiln id why

/-- SPLIT's effect: the two children take the ids given, the lower child the lower half. -/
def State.split (s : State) (p : Partition) (ids : Word) : State :=
  let a := fld ids 15 0
  let b := fld ids 31 16
  if a = b || !s.idFree a [p.id] || !s.idFree b [p.id] then s.presult p.id 5 pBadArgument
  else
    let s := { s with parts := s.parts.del p.id }
    (s.form a (p.level - 1) (2 * p.node) .split).form b (p.level - 1) (2 * p.node + 1) .split

/-- SPLIT. -/
def execSplit (part : Nat) (ids : Word) (s : State) : Host.Outcome State Fault Refusal :=
  command part 5 (fun _ p => p.idle && 1 ≤ p.level) (fun p s => s.split p ids) s

/-- The sibling of a partition: the partition at the other child of its parent. -/
def State.sibling (s : State) (p : Partition) : Option Partition :=
  (s.parts.find? fun e => e.2.level == p.level && e.2.node / 2 == p.node / 2 && e.2.node != p.node).map (·.2)

/-- MERGE's effect: the parent takes the id given. -/
def State.merge (s : State) (p q : Partition) (ids : Word) : State :=
  let a := fld ids 15 0
  if q.kiln.isSome then s.presult p.id 6 pBusy
  else if !s.idFree a [p.id, q.id] then s.presult p.id 6 pBadArgument
  else { s with parts := (s.parts.del p.id).del q.id }.form a (p.level + 1) (p.node / 2) .merge

/-- MERGE. -/
def execMerge (part : Nat) (id : Word) (s : State) : Host.Outcome State Fault Refusal :=
  command part 6 (fun s p => p.idle && p.level < 6 && (match s.sibling p with | some q => q.idle | none => false))
    (fun p s => match s.sibling p with | some q => s.merge p q id | none => s) s

/-- UNKNOWN_OP: a PCMD whose OP names no command. -/
def execUnknownOp (part : Nat) (cmd : Word) (s : State) : Host.Outcome State Fault Refusal :=
  partEvent part (fun p s =>
    let op := fld cmd 7 0
    if 1 ≤ op && op ≤ 6 then s else s.presult p.id op (if p.kiln.isSome then pBusy else pUnknownOp)) s

/-! ## FROZEN_SETTING_WRITE (R334) -/

/-- The offsets of the settings that LOCK freezes. -/
def frozen (off : Nat) : Bool :=
  off % 8 == 0 && ([0x018, 0x020, 0x028].contains off || (0x040 ≤ off && off < 0x080) || (0x0C0 ≤ off && off < 0x100))

/-- The partition is LOCKED or RUN. -/
def Partition.isFrozen (p : Partition) : Bool := p.trust == .locked || p.trust == .run

/-- FROZEN_SETTING_WRITE: the value is written nowhere. -/
def execFrozenSettingWrite (part off : Nat) (_ : Word) (s : State) : Host.Outcome State Fault Refusal :=
  partEvent part (fun p s => if frozen off && p.isFrozen then s.enterError p.id else s) s

/-! ## The Kiln (R338 to R342) -/

/-- A hem is retired: its bit, REPLACE, the host's interrupt. -/
def DevRegs.retire (g : DevRegs) (h : Nat) : DevRegs :=
  { g with retired := g.retired ||| hemBit h, replace := true, hostEvents := g.hostEvents + 1 }

/-- Tenant state is live on the partition. -/
def Partition.running (p : Partition) : Bool := p.stop != .empty && p.stop != .saved && p.stop != .forming

/-- The retirement of a hem: a running partition of the hem enters ERROR first (R361). -/
def State.retireHem (s : State) (hem : Nat) : State :=
  if 64 ≤ hem || s.dev.retired.getLsbD hem then s
  else
    let s := match s.partOfHem hem with
      | some p => if p.running then s.enterError p.id else s
      | none => s
    { s with dev := s.dev.retire hem }

/-- The rows of phases 2 to 4, which phase 5 reads back (R338). -/
def readBackRows : Word := 0x1DFFF

/-- KILN_PHASE: the next of the five phases. In phase 5 the operands are the rows in which an agent found a nonzero word after its
retry, as hardware that cannot be cleared gives them, and the hems of those agents: the rows' bits stay clear and those hems of the
partition are retired (R339, R361; log entry 28). -/
def execKilnPhase (part hems rows : Nat) (s : State) : Host.Outcome State Fault Refusal :=
  partEvent part (fun p s => match p.kiln with
    | some k =>
      if 5 ≤ k.phase then s
      else
        let (s, bits) := s.kilnClear p (k.phase + 1)
        let bad := if k.phase = 4 then w64 rows &&& readBackRows else 0
        let s := if bad = 0 then s else (hemsOf (w64 hems &&& p.hems)).foldl (fun s h => s.retireHem h) s
        s.modPart p.id fun p => { p with kiln := some { k with
          phase := k.phase + 1
          classes := (k.classes ||| w64 bits) &&& ~~~bad
          reported := s.time } }
    | none => s) s

/-- FLAGS of a cone. -/
def KilnFor.flags : KilnFor → Nat
  | .boot => 1 | .error => 2 | .split => 4 | .merge => 4 | .unlock => 0 | .plain => 0

/-- The OP of the command that a Kiln finishes. -/
def KilnFor.op : KilnFor → Option Nat
  | .boot => none | .error => none | .split => some 5 | .merge => some 6 | .unlock => some 2 | .plain => some 4

/-- The 64 bytes of a cone. -/
def State.coneBody (s : State) (p : Partition) (k : KilnRun) : List Byte :=
  leBytes 4 0x454E4F43 ++ leBytes 2 1 ++ leBytes 2 k.why.flags ++ leBytes 8 Config.serial.toNat ++
  leBytes 8 s.dev.scrubSeq.toNat ++ leBytes 2 p.id ++ leBytes 1 p.level ++ leBytes 5 0 ++ leBytes 8 p.hems.toNat ++
  leBytes 8 k.classes.toNat ++ leBytes 8 k.reported ++ leBytes 8 k.bind.toNat

/-- TRUST once a Kiln has ended: an ERROR stands until CLEAR (R333). -/
def KilnFor.trustAfter (w : KilnFor) (t : Trust) : Trust := if w = .unlock && t != .error then .unlocked else t

/-- The micro-kernel starts again in every slot 15 that an ERROR has freed (log entry 12). -/
def State.restartKernel (s : State) (p : Partition) : State :=
  s.mapCores p fun k => if (k.thread 15).tstate == .free then k.setThread 15 (k.thread 15).idle15 else k

/-- The status that a Kiln's end gives the command that began it; an ERROR has taken the command's effect away (log entry 28). -/
def KilnRun.status (k : KilnRun) : Nat := if k.failed then pWrongState else pDone

/-- The end of a Kiln: the signed cone, the scrub sequence, STOP EMPTY, and what the command that started it is due. -/
def State.endKiln (s : State) (p : Partition) (k : KilnRun) : State :=
  let body := s.coneBody p k
  let cone := putBytes [] 0 (body ++ s.dev.sign body)
  let s := s.modPart p.id fun p => { p with
    kiln := none, stop := .empty, trust := k.why.trustAfter p.trust, launch := none, lastSweep := none
    regs := { p.regs with cone } }
  let s := match k.why.op with | some op => s.presult p.id op k.status | none => s
  let s := { s with dev := { s.dev with scrubSeq := s.dev.scrubSeq + 1, bootst := if k.why == KilnFor.boot then 1 else s.dev.bootst } }
  if k.failed then s.startKiln p.id .error else s.restartKernel p

/-- A Kiln under way on a partition with a lower hem ends first, so that those that end in one cycle take their sequences in
ascending order (R342; log entry 28). -/
def State.lowerKiln (s : State) (p : Partition) : Bool := s.parts.any fun e => e.2.first < p.first && e.2.kiln.isSome

/-- A slot of the partition has still to issue in this cycle: it reads the old cone (R344). -/
def State.mayIssue (s : State) (p : Partition) : Bool :=
  s.cores.any fun e => p.covers (hemOf e.1) && (s.pick false e.1 0).isSome

/-- KILN_COMPLETE. -/
def execKilnComplete (part : Nat) (s : State) : Host.Outcome State Fault Refusal :=
  partEvent part (fun p s => match p.kiln with
    | some k => if k.phase = 5 && !s.lowerKiln p && !s.mayIssue p then s.endKiln p k else s
    | none => s) s

end Sys2Proof.Machine
end

