-- ==== Sys2Proof/Machine/Launches.lean ====
section
/-! DEFINITION. Launch queues: mapping, reading a packet, carrying it out, restarting a queue (R343, R353 to R358). -/

namespace Sys2Proof.Machine

/-! ## Queue control blocks (R353) -/

def State.qWidx (s : State) (q : Nat) : Nat := (s.devWord (q + 0x40)).toNat
def State.qRidx (s : State) (q : Nat) : Nat := (s.devWord (q + 0x88)).toNat
def State.qState (s : State) (q : Nat) : Nat := fld (s.devWord (q + 0x80)) 1 0

/-- The queue has packets for the reader. -/
def State.qReady (s : State) (q : Nat) : Bool := s.qState q == qRunning && s.qRidx q < s.qWidx q

/-- The address of the packet of an index. -/
def Mapped.packetAt (m : Mapped) (n : Nat) : Nat := m.base + 64 * (n % 2 ^ m.log2)

/-- A packet has been carried out: RIDX goes up by one (R355). -/
def State.qAdvance (s : State) (q : Nat) : State := s.devSetWord (q + 0x88) (s.devWord (q + 0x88) + 1)

/-- The reader serves the partition: no Kiln runs, and TRUST is not ERROR (R333, R338). -/
def Partition.served (p : Partition) : Bool := p.kiln.isNone && p.trust != .error

/-! ## Mapping (R358) -/

/-- QUANT as it acts. -/
def PartRegs.quantum (g : PartRegs) : Nat := Nat.max 4096 (fld g.quant 31 0)

/-- A mapped queue's turn is over: its quantum has run out, or it is empty and no packet of it is in hand. A packet that is still in
hand then is left at RIDX and read again in the queue's next turn. -/
def State.turnOver (s : State) (p : Partition) (m : Mapped) : Bool :=
  decide (m.since + p.regs.quantum ≤ s.time) || (m.packet.isNone && !s.qReady m.qcb)

/-- The queues that stay mapped when the next is mapped. -/
def State.keptQueues (s : State) (p : Partition) : List Mapped := p.queues.filter fun m => !s.turnOver p m

/-- The next listed queue with a packet, in cyclic order of list position: its position and its QCB. -/
def State.nextReady (s : State) (p : Partition) : Option (Nat × Nat) :=
  let l := s.qcbs p
  let kept := s.keptQueues p
  ((List.range l.length).map fun i => (p.nextQueue + i) % l.length).findSome? fun i =>
    let q := l.getD i 0
    if s.qcbOk p q && s.qReady q && !(kept.any fun m => m.index == i) then some (i, q) else none

/-- Maps a queue: its privileged block is read now. -/
def State.mapQueue (s : State) (p : Partition) (i q : Nat) : State :=
  let m : Mapped :=
    { index := i, qcb := q, base := fld (s.devWord (q + 0x10)) 51 6 * 64, log2 := fld (s.devWord (q + 0x18)) 4 0,
      conemin := s.devWord (q + 0x20), since := s.time, packet := none }
  let kept := s.keptQueues p
  s.modPart p.id fun p => { p with queues := kept ++ [m], nextQueue := i + 1 }

/-- QUEUE_MAP: at most eight queues are served at once. -/
def execQueueMap (part q : Nat) (s : State) : Host.Outcome State Fault Refusal :=
  partEvent part (fun p s =>
    if p.served && (s.keptQueues p).length < 8 then
      match s.nextReady p with
      | some (i, a) => if i = q then s.mapQueue p i a else s
      | none => s
    else s) s

/-! ## Reading (R354) -/

/-- The mapped queue at a list position. -/
def Partition.mapped (p : Partition) (q : Nat) : Option Mapped := p.queues.find? fun m => m.index == q

/-- Replaces what is kept of a mapped queue. -/
def State.modMapped (s : State) (p : Partition) (q : Nat) (f : Mapped → Mapped) : State :=
  s.modPart p.id fun p => { p with queues := p.queues.map fun (m : Mapped) => if m.index = q then f m else m }

/-- The packet cannot be read: its address is invalid for the partition, or its line is poisoned. -/
def State.packetFault (s : State) (p : Partition) (a : Nat) : Bool := s.physOk p 0 a != .good || s.poisoned a

/-- The packet at RIDX: left where its SEQ is another lap's, an error of its queue, or taken in hand. -/
def State.readPacket (s : State) (p : Partition) (m : Mapped) : State :=
  let n := s.qRidx m.qcb
  let a := m.packetAt n
  if s.packetFault p a then s.setQueue m.qcb qError 3
  else
    let h := s.devWord a
    if fld h 31 16 ≠ n % 65536 then s
    else if !(1 ≤ fld h 7 0 && fld h 7 0 ≤ 3) then s.setQueue m.qcb qError 1
    else if fld h 15 8 ≠ 0 || fld h 63 32 ≠ 0 then s.setQueue m.qcb qError 2
    else s.modMapped p m.index fun m => { m with packet := some (s.devWords a 8) }

/-- PACKET_READ: the reader takes the packet at RIDX of a mapped queue whose turn is not over. -/
def execPacketRead (part q : Nat) (s : State) : Host.Outcome State Fault Refusal :=
  partEvent part (fun p s => match p.mapped q with
    | some m => if p.served && m.packet.isNone && !s.turnOver p m then s.readPacket p m else s
    | none => s) s

/-! ## Carrying a packet out (R343, R355, R356) -/

/-- The packet in hand of a type. -/
def Mapped.inHand (m : Mapped) (type : Nat) : Option (List Word) :=
  m.packet.bind fun l => if fld (l.getD 0 0) 7 0 = type then some l else none

/-- The packet leaves the reader's hand and RIDX passes it. -/
def State.leaveHand (s : State) (p : Partition) (m : Mapped) : State :=
  (s.modMapped p m.index fun m => { m with packet := none }).qAdvance m.qcb

/-- The latest cone serves a launch with a minimum (R343). -/
def Partition.coneOk (p : Partition) (minimum : Word) : Bool :=
  let c := p.regs.cone
  fld (byteWord c 0) 31 0 = 0x454E4F43 && fld (byteWord c 24) 15 0 = p.id && minimum.toNat ≤ (byteWord c 16).toNat &&
    fld (byteWord c 40) 16 0 = 0x1FFFF && byteWord c 32 == p.hems

/-- The status of a LAUNCH that fails a check, the first of R356; 0 where it passes. -/
def launchCheck (p : Partition) (conemin : Word) (l : List Word) : Nat :=
  let ctl := l.getD 6 0
  let slim := fld ctl 7 0
  let vlim := fld ctl 13 8
  if ctl.getLsbD 19 && !p.coneOk conemin then 1
  else if !(8 ≤ slim && slim ≤ 120 && slim % 8 = 0 && vlim ≤ 32 && vlim % 4 = 0) || fld ctl 15 14 ≠ 0 || fld ctl 63 52 ≠ 0 then 2
  else if 6 ≤ fld ctl 18 16 then 3
  else if (l.getD 1 0).getLsbD 0 || 16 * p.hemCount ≤ fld (l.getD 7 0) 15 0 then 4
  else 0

/-- A launch starts: the partition is RUN, and the start core's class-4 list gets the LAUNCH packet (R356). -/
def State.startLaunch (s : State) (p : Partition) (m : Mapped) (l : List Word) : State :=
  let ctl := l.getD 6 0
  let id := w64 (fld (l.getD 0 0) 31 16 + m.index % 256 * 2 ^ 16)
  let launch : Launch :=
    { slim := fld ctl 7 0, vlim := fld ctl 13 8, domain := fld ctl 18 16, gap := fld ctl 51 20, launchid := id,
      caddr := l.getD 4 0, cval := l.getD 5 0, queue := m.index, qcb := m.qcb, error := none, ending := false,
      stalled := false }
  let s := s.modPart p.id fun p => { p with
    launch := some launch, stop := .run, trust := if p.trust = .locked then .run else p.trust, idmap := [],
    launchPart := p.id, lastSweep := none, sweepAt := s.time }
  let core := p.coreAt (fld (l.getD 7 0) 15 0)
  let (k, s) := s.build core kLaunch (l.getD 1 0) [l.getD 3 0, 0, l.getD 2 0, id]
  s.addTask core 4 k

/-- LAUNCH_PACKET: a launch begins only where none runs, in STOP state EMPTY. -/
def execLaunchPacket (part q : Nat) (s : State) : Host.Outcome State Fault Refusal :=
  partEvent part (fun p s => match p.mapped q with
    | some m => match m.inHand 1 with
      | some l =>
        if !p.served || p.launch.isSome || p.stop != .empty then s
        else
          let s := s.leaveHand p m
          let status := launchCheck p m.conemin l
          if status = 0 then s.startLaunch p m l
          else (s.completion p (l.getD 4 0) (l.getD 5 0) status).countPacket m.qcb
      | none => s
    | none => s) s

/-- The write of a FENCE or a SIGNAL; an ADDR that is misaligned or invalid is not written (R355). -/
def State.packetWrite (s : State) (p : Partition) (m : Mapped) (l : List Word) : State :=
  let a := (l.getD 1 0).toNat
  let s := if s.mayWrite p a 8 then s.devSetWord a (l.getD 2 0) else s
  (s.leaveHand p m).countPacket m.qcb

/-- A launch of the queue still runs. -/
def Partition.launchOf (p : Partition) (qcb : Nat) : Bool :=
  match p.launch with | some l => l.qcb == qcb | none => false

/-- FENCE_PACKET. -/
def execFencePacket (part q : Nat) (s : State) : Host.Outcome State Fault Refusal :=
  partEvent part (fun p s => match p.mapped q with
    | some m => match m.inHand 2 with
      | some l => if p.served && !p.launchOf m.qcb then s.packetWrite p m l else s
      | none => s
    | none => s) s

/-- SIGNAL_PACKET. -/
def execSignalPacket (part q : Nat) (s : State) : Host.Outcome State Fault Refusal :=
  partEvent part (fun p s => match p.mapped q with
    | some m => match m.inHand 3 with
      | some l => if p.served then s.packetWrite p m l else s
      | none => s
    | none => s) s

/-! ## Restarting a queue (R357) -/

/-- QUEUE_RESTART: RREQ = 1 of a queue in ERROR. -/
def execQueueRestart (part q : Nat) (s : State) : Host.Outcome State Fault Refusal :=
  partEvent part (fun p s => match (s.qcbs p)[q]? with
    | some a =>
      if !s.qcbServed p q a || s.qState a ≠ qError || !(s.devWord (a + 0x50)).getLsbD 0 then s
      else
        let r := s.devWord (a + 0x48)
        if s.qWidx a < r.toNat then (s.setQueue a qError 5).devSetWord (a + 0x50) 0
        else if p.trust = .error then s
        else
          let s := (s.setQueue a qRunning 0).devSetWord (a + 0x88) r
          (s.devSetWord (a + 0x50) 0).modPart p.id fun p => { p with queues := p.queues.filter fun m => m.index != q }
    | none => s) s

end Sys2Proof.Machine
end

