-- ==== Sys2Proof/Machine/Aperture.lean ====
section
/-! DEFINITION. The host's side of the device: its register aperture, pooled extents, late answers to page requests, the
device status, retired hems (R7, R329, R330, R332, R347 to R352, R361 to R363). -/

namespace Sys2Proof.Machine

/-! ## Pooled extents (R350, R351) -/

/-- A physical address lies in an extent. -/
def Extent.has (e : Extent) (pa : Nat) : Bool :=
  pa / 2 ^ 48 == 2 && fld e.first 47 12 ≤ pa % 2 ^ 48 / 4096 && pa % 2 ^ 48 / 4096 ≤ fld e.last 47 12

/-- A cached translation that leads into an extent. -/
def TlbEntry.leadsTo (t : TlbEntry) (e : Extent) : Bool :=
  let lo := pteFrame t.pte / (t.size / 4096) * t.size
  lo / 2 ^ 48 == 2 && fld e.first 47 12 * 4096 < lo % 2 ^ 48 + t.size && lo % 2 ^ 48 ≤ fld e.last 47 12 * 4096 + 4095

/-- Takes every translation into an extent out of the caches. -/
def State.purgeExtent (s : State) (e : Extent) : State :=
  { s with
    cores := s.cores.map fun (c, (k : Core)) => (c, { k with tlb := k.tlb.filter fun t => !t.leadsTo e })
    hems := s.hems.map fun (h, (m : Hem)) => (h, { m with tlb := m.tlb.filter fun t => !t.leadsTo e }) }

/-- The home calls back every copy of a block. -/
def State.callBack (s : State) (cls part : Nat) (b : Nat) (d : DirEntry) : State :=
  let u : Agent := .pp (s.homeFor b)
  let req : Flit := newFlit u u cls part 0 (msg 0 tEvict [w64 b]) []
  let hems := hemsOf d.sharers
  let probes : List Probe := probeAll hems ++ s.probePorts b rRecall 0 none
  let s := probes.foldl (fun s (a, type, words, x) =>
    s.send u a cls part vendorSeq (.msg ⟨2, type, w64 b :: words, x⟩)) s
  { s with txns := s.txns.put b ⟨req, 64, probes.length, recallStage, d.state = 2 && hems ≠ [], none⟩ }

/-- Blocks of an extent that caches may hold, and that nothing is under way for: an entry that a killed handler left locked is
called back too. -/
def State.heldOf (s : State) (e : Extent) : Map DirEntry :=
  s.dir.filter fun d => e.has d.1 && (d.2.sharers != 0 || s.portsOf d.1 != []) && (!d.2.locked || d.2.failed) && (s.txns.look d.1).isNone

/-- Calls back what caches hold of an extent. -/
def State.recallExtent (s : State) (e : Extent) : State :=
  let part := fld e.last 63 48
  let cls := ((s.partById part).map (·.cls)).getD 0
  (s.heldOf e).foldl (fun s d => s.callBack cls part d.1 d.2) s

/-- Steps 1 and 3 of a revocation. -/
def State.revoke (s : State) (n : Nat) : State :=
  let x := s.extents.at n ⟨0, 0⟩
  let x : Extent := { x with last := setFld x.last 1 0 2 }
  ({ s with extents := s.extents.put n x }.purgeExtent x).recallExtent x

/-- EXTENT_REVOKE. -/
def execExtentRevoke (e : Nat) (s : State) : Host.Outcome State Fault Refusal :=
  event (fun s => if e < 32 then s.revoke e else s) s

/-- The address that a packet concerns: a value that answers an access has it in word 1. -/
def Flit.addr (f : Flit) : Nat :=
  match f.body with
  | .msg m => if m.lane = 2 && m.type = rData && m.payload.isNone then (f.word 1).toNat else (f.word 0).toNat
  | _ => 0

/-- A request or an answer of an extent is under way, or a cache has asked for a line of it. -/
def State.extentBusy (s : State) (e : Extent) : Bool :=
  let held (f : Flit) : Bool := e.has f.addr
  s.net.any held || s.deferred.any (fun d => d.2.any held) || s.txns.any (fun t => e.has t.1) ||
    s.cores.any (fun c => c.2.cache.any fun b => e.has b.1 && b.2.tag != .i) ||
    s.pps.any (fun p => p.2.handlers.any fun h => e.has h.2.block)

/-- REVOKED: the extent's STATE is 3 once nothing of it is cached or under way; copies found meanwhile are called
back. -/
def execRevoked (e : Nat) (s : State) : Host.Outcome State Fault Refusal :=
  event (fun s =>
    let x := s.extents.at e ⟨0, 0⟩
    if fld x.last 1 0 ≠ 2 then s
    else if s.heldOf x ≠ [] then s.recallExtent x
    else if s.extentBusy x then s
    else { s with extents := s.extents.put e { x with last := setFld x.last 1 0 3 } }) s

/-! ## Host writes to the partition control block (R329, R330) -/

/-- Two pairs of frame registers have a frame in common. -/
def pairsMeet (a b : Map Word) (i j : Nat) : Bool :=
  let lo (m : Map Word) (i : Nat) := fld (m.at (2 * i) (w64 0xFFFFFFFFFF000)) 51 12
  let hi (m : Map Word) (i : Nat) := fld (m.at (2 * i + 1) 0) 51 12
  lo a i ≤ hi a i && lo b j ≤ hi b j && lo a i ≤ hi b j && lo b j ≤ hi a i

/-- PMEM ranges that would overlap another partition's (R330). -/
def State.pmemMeets (s : State) (part : Nat) (m : Map Word) : Bool :=
  s.parts.any fun e => e.1 != part && (List.range 4).any fun i => (List.range 4).any fun j => pairsMeet m e.2.regs.pmem i j

/-- A host write to the control block; RO offsets ignore it. -/
def State.writeCtl (s : State) (p : Partition) (off : Nat) (v : Word) : State :=
  let set (f : PartRegs → PartRegs) : State := s.modPart p.id fun p => { p with regs := f p.regs }
  match off with
  | 0x018 => set fun g => { g with bindv := v }
  | 0x020 => set fun g => { g with pclass := v &&& 3 }
  | 0x028 => set fun g => { g with plink := v &&& 0x1FFFF }
  | 0x080 => set fun g => { g with qlist := v }
  | 0x088 => set fun g => { g with qn := v }
  | 0x090 => set fun g => { g with quant := v &&& w64 0xFFFFFFFF }
  | 0x0A0 => set fun g => { g with kbind := v }
  | _ =>
    if 0x040 ≤ off && off < 0x080 then
      let m := p.regs.pmem.put ((off - 0x040) / 8) (v &&& w64 0xFFFFFFFFFF000)
      if s.pmemMeets p.id m then s else set fun g => { g with pmem := m }
    else if 0x0C0 ≤ off && off < 0x100 then
      set fun g => { g with hmem := g.hmem.put ((off - 0x0C0) / 8) (v &&& w64 0xFFFFFFFFF000) }
    else s

/-- The command that a write to PCMD gives (R331). -/
def hostCommand (part : Nat) (v : Word) (s : State) : Host.Outcome State Fault Refusal :=
  match fld v 7 0 with
  | 1 => execLock part s
  | 2 => execUnlock part s
  | 3 => execClear part s
  | 4 => execKiln part s
  | 5 => execSplit part (w64 (fld v 63 32)) s
  | 6 => execMerge part (w64 (fld v 63 32)) s
  | _ => execUnknownOp part v s

/-! ## Device status (R361 to R363) -/

/-- A write of OVFLOG and REPLACE: a 1 clears; OVFLOG takes the page log with it. -/
def DevRegs.clearStatus (g : DevRegs) (v : Word) : DevRegs :=
  let g := if v.getLsbD 0 then { g with replace := false } else g
  if v.getLsbD 1 then { g with ovflog := false, plog := [] } else g

/-- OVFLOG. -/
def execOvflog (val : Word) (s : State) : Host.Outcome State Fault Refusal :=
  event (fun s => { s with dev := s.dev.clearStatus val }) s

/-- THROTTLE_EVENT: a die's count goes up; nothing but timing changes beside it. -/
def execThrottleEvent (die : Nat) (s : State) : Host.Outcome State Fault Refusal :=
  event (fun s =>
    if die < 4 then { s with dev := { s.dev with throt := s.dev.throt.put die (s.dev.throt.at die 0 + 1) } } else s) s

/-- The outside warms or cools a die: what TEMP reads from now on (R362, R363). -/
def State.sensed (s : State) (die : Nat) (temp : Word) : State :=
  if die < 4 then { s with dev := { s.dev with temp := s.dev.temp.put die (temp &&& 0xFFFF) } } else s

/-- HEM_RETIRE: a running partition of the hem enters ERROR first. -/
def execHemRetire (hem : Nat) (s : State) : Host.Outcome State Fault Refusal := event (fun s => s.retireHem hem) s

/-! ## Answers to page requests (R352) -/

/-- An answer nobody waits for is counted. -/
def DevRegs.dropAnswer (g : DevRegs) : DevRegs := { g with drops := Nat.min (g.drops + 1) 0xFFFFFFFF }

/-- PAGE_REQUEST_ANSWER: the record goes to the core that asked, if its partition's assignment is still the one the
request named; its reserved bits are zero (R6). -/
def execPageRequestAnswer (core : Nat) (d0 d1 d2 : Word) (s : State) : Host.Outcome State Fault Refusal :=
  event (fun s =>
    let current := match s.partById (fld d0 31 16) with
      | some p => p.regs.aseq == fld d2 31 0 && p.covers (hemOf core)
      | none => false
    if current then s.recordTo core [(d0 &&& w64 0xFFFF1FFFFFFF0000) ||| 0x15, d1, d2 &&& w64 0xFFFFFFFF]
    else { s with dev := s.dev.dropAnswer }) s

/-! ## GO (R360) -/

/-- GO: starts the reading and verification, but while they are under way (R360; log entry 80). -/
def execGo (s : State) : Host.Outcome State Fault Refusal :=
  event (fun s => if s.dev.bootst = 4 then s else { s with dev := { s.dev with bootst := 4 } }) s

/-! ## The register aperture (R348) -/

/-- A host write to block 0x04 (R332). -/
def DevRegs.writeQos (g : DevRegs) (off : Nat) (v : Word) : DevRegs :=
  if off = 0 then { g with weights := v &&& w64 0xFFFFFFFF }
  else if off ≤ 0x020 then { g with caps := g.caps.put (off / 8 - 1) (v &&& w64 0xFFFFFFFF) }
  else g

/-- A host write to block 0x05: STATE 3 is the device's own, and a write of it leaves STATE (R350). -/
def State.writeExtent (s : State) (off : Nat) (v : Word) : State :=
  let n := off / 16
  let x := s.extents.at n ⟨0, 0⟩
  if off / 8 % 2 = 0 then { s with extents := s.extents.put n { x with first := v &&& w64 0xFFFFFFFFF000 } }
  else
    let st := if fld v 1 0 = 3 then fld x.last 1 0 else fld v 1 0
    { s with extents := s.extents.put n { x with last := setFld (v &&& w64 0xFFFFFFFFFFFFF003) 1 0 st } }

/-- REGISTER_WRITE: a host write at an offset of the aperture; a field with a behaviour of its own takes that. -/
def execRegisterWrite (off : Nat) (val : Word) (s : State) : Host.Outcome State Fault Refusal :=
  let core := off / 2 ^ 24 % 1024
  let o := off % 2 ^ 16
  if off % 8 ≠ 0 then .next s
  else match off / 2 ^ 16 % 256 with
    | 0 => event (fun s => s.writeCoreReg core o val) s
    | 1 =>
      if o = 0x100 then execJobres (hemOf core) val s
      else if o = 0x108 then event (fun s => s.modHem (hemOf core) fun h => { h with hemsave := val &&& w64 0xFFFFFFFFF0000 }) s
      else .next s
    | 2 => event (fun s => match s.partOfCore core with
      | some p => if o ≤ 0x080 then s.modPart p.id fun p => { p with regs := p.regs.writeRes o val } else s
      | none => s) s
    | 3 => match s.ctlPart core with
      | some p =>
        if o = 0x008 then hostCommand p.id val s
        else if frozen o && p.isFrozen then execFrozenSettingWrite p.id o val s
        else event (fun s => s.writeCtl p o val) s
      | none => .next s
    | 4 => event (fun s => { s with dev := s.dev.writeQos o val }) s
    | 5 =>
      if 0x200 ≤ o then .next s
      else if o / 8 % 2 = 1 && fld val 1 0 = 2 then execExtentRevoke (o / 16) (s.writeExtent o val)
      else event (fun s => s.writeExtent o val) s
    | 6 => if o = 0x010 then execOvflog val s else .next s
    | 7 =>
      if o = 0x008 then event (fun s => { s with dev := { s.dev with imgaddr := val } }) s
      else if o = 0x010 && val.getLsbD 0 then execGo s
      else .next s
    | _ => .next s

/-- A host read over the aperture: an offset that no chapter assigns reads zero (R348; log entry 82). -/
def State.hostReads (s : State) (off : Nat) : State :=
  { s with dev := { s.dev with apertureRead := (s.readReg (off / 2 ^ 24 % 1024) (off % 2 ^ 24)).getD 0 } }

end Sys2Proof.Machine
end

