-- ==== Sys2Proof/Machine/Bringup.lean ====
section
/-! DEFINITION. Reset and bring-up (R359, R360). -/

namespace Sys2Proof.Machine

/-- RESET: every register at its reset value; memory keeps what it holds, and the model's own bookkeeping goes on (log
entries 3 and 46). -/
def execReset (s : State) : Host.Outcome State Fault Refusal :=
  event (fun s => { State.reset with mem := s.mem, poison := s.poison, agenda := s.agenda, seq := s.seq }) s

/-! ## The firmware image -/

/-- Bytes of host memory from an offset of the image. -/
def State.imageBytes (s : State) (off n : Nat) : List Byte :=
  (List.range n).map fun i => s.mem.byte (2 ^ 48 + s.dev.imgaddr.toNat + off + i)

/-- A little-endian field of the image's header. -/
def State.imageField (s : State) (off n : Nat) : Nat := s.mem.read (2 ^ 48 + s.dev.imgaddr.toNat + off) n

/-- The payload's length is legal. -/
def lengthOk (n : Nat) : Bool := n ≠ 0 && n % 64 = 0 && n ≤ 2 ^ 30

/-- The ROM accepts the image: the header's fields, the vendor's signature, the payload's hash. -/
def State.imageOk (s : State) : Bool :=
  let n := s.imageField 8 8
  s.imageField 0 4 = 0x5746424B && s.imageField 4 2 = 1 && s.imageField 6 2 = 0 && lengthOk n && s.imageField 16 48 = 0 &&
    edVerify (digest 32 Config.vendorKey) (s.imageBytes 0 128) (s.imageBytes 128 64) &&
    s.imageBytes 64 64 == sha512 (s.imageBytes 192 n)

/-! ## The device as a successful bring-up leaves it -/

/-- A core with the micro-kernel in slot 15 (log entry 12). -/
def bootCore (c : Nat) : Core :=
  { Core.reset with
    threads := [(15, Thread.reset.idle15)]
    regs := { CoreRegs.reset with
      svec := Config.kernelSvec c &&& ~~~(1 : Word), savearea := Config.kernelSavearea c &&& w64 0xFFFFFFFFF0000 } }

/-- A hem with the save area the micro-kernel sets. -/
def bootHem (h : Nat) : Hem := { Hem.reset with hemsave := Config.kernelHemsave h &&& w64 0xFFFFFFFFF0000 }

/-- A protocol processor with the vendor's dispatch table. -/
def bootPP (n : Nat) : PP := { PP.reset with table := (List.range 512).map fun i => (i, Config.vendorTable n i) }

/-- The identity key and its certificate in block 0x07 (R360). -/
def DevRegs.identify (g : DevRegs) (hash : List Byte) : DevRegs :=
  let key := edPublic (digest 32 (Config.idSeed hash))
  { g with
    image := hash
    idkey := putBytes [] 0 key
    idsig := putBytes [] 0 (edSign (digest 32 Config.endSeed) (leBytes 8 Config.serial.toNat ++ key ++ hash)) }

/-- Steps 2 to 5: the keys, the kernel, the Kiln of partition (6, 0) with id 1. The counts of scrubs and of assignments go on from
where they stand, 0 after a reset (R342, R352; log entry 80). -/
def State.bringUp (s : State) : State :=
  let dev := s.dev.identify (s.imageBytes 64 64)
  { s with
    dev := { dev with unfit := Config.unfit s.time }
    cores := (List.range 1024).map fun c => (c, bootCore c)
    hems := (List.range 64).map fun h => (h, bootHem h)
    pps := (List.range 50).map fun n => (n, bootPP n)
    parts := [], dir := [], deferred := [], txns := [], walkSharers := [], walkStores := [], net := [], links := Links.reset }.form 1 6 0 .boot

/-- BRING_UP: the image is rejected, a die's memory does not train, or the device comes up; BOOTST is 1 when the Kiln has
ended. -/
def execBringUp (s : State) : Host.Outcome State Fault Refusal :=
  event (fun s =>
    if s.dev.bootst ≠ 4 || s.parts.any (fun e => match e.2.kiln with | some k => k.why == .boot | none => false) then s
    else if !s.imageOk then { s with dev := { s.dev with bootst := 2 } }
    else if !Config.trains then { s with dev := { s.dev with bootst := 3 } }
    else s.bringUp) s

end Sys2Proof.Machine
end

