-- ==== Sys2Proof/Machine/Integer.lean ====
section
/-! DEFINITION. The scalar integer instructions: pages 0, 1 and 10, branches, jumps and skips (R366 to R495). -/

namespace Sys2Proof.Machine

/-! ## Page 0 -/

/-- ADD (R367). -/
def execAdd (d a b : Nat) (s : State) : Host.Outcome State Fault Refusal := issue (usesDAB d a b) (computes d fun x y _ => x + y) s
/-- SUB (R462). -/
def execSub (d a b : Nat) (s : State) : Host.Outcome State Fault Refusal := issue (usesDAB d a b) (computes d fun x y _ => x - y) s
/-- AND (R367). -/
def execAnd (d a b : Nat) (s : State) : Host.Outcome State Fault Refusal := issue (usesDAB d a b) (computes d fun x y _ => x &&& y) s
/-- OR (R433). -/
def execOr (d a b : Nat) (s : State) : Host.Outcome State Fault Refusal := issue (usesDAB d a b) (computes d fun x y _ => x ||| y) s
/-- XOR (R493). -/
def execXor (d a b : Nat) (s : State) : Host.Outcome State Fault Refusal := issue (usesDAB d a b) (computes d fun x y _ => x ^^^ y) s
/-- ADDI (R368). -/
def execAddi (d a : Nat) (imm : Int) (s : State) : Host.Outcome State Fault Refusal := issue (usesDA d a) (computes d fun x _ _ => x + wInt imm) s
/-- LI (R417). -/
def execLi (d : Nat) (imm : Int) (s : State) : Host.Outcome State Fault Refusal := issue (usesD d) (computes d fun _ _ _ => wInt imm) s

/-- The body of an integer skip: sources, then the annul count (R111, R452). -/
def skipOn (c : Cond) (k a : Nat) (b : SkSrc) (s : State) : Host.Outcome State Fault Refusal :=
  issue ⟨false, .src a, skFld b, .none⟩ (fun x y _ s => .ok (s.skip k (c.holds x (skVal b y)))) s
/-- SKEQ (R452). -/
def execSkeq (k a : Nat) (b : SkSrc) (s : State) : Host.Outcome State Fault Refusal := skipOn .eq k a b s
/-- SKNE (R452). -/
def execSkne (k a : Nat) (b : SkSrc) (s : State) : Host.Outcome State Fault Refusal := skipOn .ne k a b s
/-- SKLT (R452). -/
def execSklt (k a : Nat) (b : SkSrc) (s : State) : Host.Outcome State Fault Refusal := skipOn .lt k a b s
/-- SKGE (R452). -/
def execSkge (k a : Nat) (b : SkSrc) (s : State) : Host.Outcome State Fault Refusal := skipOn .ge k a b s
/-- SKLTU (R452). -/
def execSkltu (k a : Nat) (b : SkSrc) (s : State) : Host.Outcome State Fault Refusal := skipOn .ltu k a b s
/-- SKGEU (R452). -/
def execSkgeu (k a : Nat) (b : SkSrc) (s : State) : Host.Outcome State Fault Refusal := skipOn .geu k a b s
/-- SKBS (R452). -/
def execSkbs (k a : Nat) (b : SkSrc) (s : State) : Host.Outcome State Fault Refusal := skipOn .bs k a b s
/-- SKBC (R452). -/
def execSkbc (k a : Nat) (b : SkSrc) (s : State) : Host.Outcome State Fault Refusal := skipOn .bc k a b s

/-- BR (R382). -/
def execBr (off : Int) (s : State) : Host.Outcome State Fault Refusal := issue usesNone (fun _ _ _ t => .ok (t.setPc (s.pcRel off))) s
/-- CALL: x1 takes the address after the base word (R382). -/
def execCall (off : Int) (s : State) : Host.Outcome State Fault Refusal :=
  issue (usesD 1) (fun _ _ _ t => .ok ((t.setX 1 s.nextPc).setPc (s.pcRel off))) s
/-- JR (R411). -/
def execJr (a : Nat) (s : State) : Host.Outcome State Fault Refusal := issue (usesA a) (fun x _ _ t => jumpTo x t) s
/-- CALLR (R386). -/
def execCallr (d a : Nat) (s : State) : Host.Outcome State Fault Refusal :=
  issue (usesDA d a) (fun x _ _ t => do let t ← jumpTo x t; putX d s.nextPc t) s
/-- RET (R442). -/
def execRet (s : State) : Host.Outcome State Fault Refusal := issue (usesA 1) (fun x _ _ t => jumpTo x t) s

/-- NOT (R432). -/
def execNot (d a : Nat) (s : State) : Host.Outcome State Fault Refusal := issue (usesDA d a) (computes d fun x _ _ => ~~~x) s
/-- NEG (R432). -/
def execNeg (d a : Nat) (s : State) : Host.Outcome State Fault Refusal := issue (usesDA d a) (computes d fun x _ _ => -x) s
/-- ABS (R366). -/
def execAbs (d a : Nat) (s : State) : Host.Outcome State Fault Refusal := issue (usesDA d a) (computes d fun x _ _ => if x.msb then -x else x) s
/-- SEXT.B (R448). -/
def execSextB (d a : Nat) (s : State) : Host.Outcome State Fault Refusal := issue (usesDA d a) (computes d fun x _ _ => sextN 8 x) s
/-- SEXT.H (R448). -/
def execSextH (d a : Nat) (s : State) : Host.Outcome State Fault Refusal := issue (usesDA d a) (computes d fun x _ _ => sextN 16 x) s
/-- SEXT.W (R448). -/
def execSextW (d a : Nat) (s : State) : Host.Outcome State Fault Refusal := issue (usesDA d a) (computes d fun x _ _ => sextN 32 x) s
/-- ZEXT.B (R495). -/
def execZextB (d a : Nat) (s : State) : Host.Outcome State Fault Refusal := issue (usesDA d a) (computes d fun x _ _ => zextN 8 x) s
/-- ZEXT.H (R495). -/
def execZextH (d a : Nat) (s : State) : Host.Outcome State Fault Refusal := issue (usesDA d a) (computes d fun x _ _ => zextN 16 x) s
/-- ZEXT.W (R495). -/
def execZextW (d a : Nat) (s : State) : Host.Outcome State Fault Refusal := issue (usesDA d a) (computes d fun x _ _ => zextN 32 x) s
/-- NOP (R432). -/
def execNop (s : State) : Host.Outcome State Fault Refusal := issue usesNone (fun _ _ _ t => .ok t) s
/-- YIELD: no borrowed position until the next issue in its own (R494). -/
def execYield (s : State) : Host.Outcome State Fault Refusal :=
  issue usesNone (fun _ _ _ t => .ok (t.modMe fun h => { h with noBorrow := true })) s

/-- SHLI (R451). -/
def execShli (d n : Nat) (s : State) : Host.Outcome State Fault Refusal := issue ⟨false, .none, .none, .both d⟩ (computes d fun _ _ x => shl64 x n) s
/-- SHRI (R451). -/
def execShri (d n : Nat) (s : State) : Host.Outcome State Fault Refusal := issue ⟨false, .none, .none, .both d⟩ (computes d fun _ _ x => shr64 x n) s
/-- SRAI (R451). -/
def execSrai (d n : Nat) (s : State) : Host.Outcome State Fault Refusal := issue ⟨false, .none, .none, .both d⟩ (computes d fun _ _ x => sra64 x n) s
/-- RORI (R446). -/
def execRori (d n : Nat) (s : State) : Host.Outcome State Fault Refusal := issue ⟨false, .none, .none, .both d⟩ (computes d fun _ _ x => ror64 x n) s

/-! ## Page 1 -/

/-- MUL (R430). -/
def execMul (d a b : Nat) (s : State) : Host.Outcome State Fault Refusal := issue (usesDAB d a b) (computes d fun x y _ => x * y) s
/-- MULH (R430). -/
def execMulh (d a b : Nat) (s : State) : Host.Outcome State Fault Refusal := issue (usesDAB d a b) (computes d fun x y _ => mulHi x y) s
/-- MULHU (R430). -/
def execMulhu (d a b : Nat) (s : State) : Host.Outcome State Fault Refusal := issue (usesDAB d a b) (computes d fun x y _ => mulHiU x y) s

/-- The body of a division: its value comes after issue, so q1 takes it under R505 (R391, R441). -/
def divides (d : Nat) (f : Word → Word → Word) : Word → Word → Word → State → Exec State :=
  fun x y _ s => do reserveX d s; lateX d (f x y) s
/-- DIV (R391). -/
def execDiv (d a b : Nat) (s : State) : Host.Outcome State Fault Refusal := issue (usesDAB d a b) (divides d divS) s
/-- DIVU (R391). -/
def execDivu (d a b : Nat) (s : State) : Host.Outcome State Fault Refusal := issue (usesDAB d a b) (divides d divU) s
/-- REM (R441). -/
def execRem (d a b : Nat) (s : State) : Host.Outcome State Fault Refusal := issue (usesDAB d a b) (divides d remS) s
/-- REMU (R441). -/
def execRemu (d a b : Nat) (s : State) : Host.Outcome State Fault Refusal := issue (usesDAB d a b) (divides d remU) s

/-- MIN (R422). -/
def execMin (d a b : Nat) (s : State) : Host.Outcome State Fault Refusal := issue (usesDAB d a b) (computes d fun x y _ => minS x y) s
/-- MINU (R422). -/
def execMinu (d a b : Nat) (s : State) : Host.Outcome State Fault Refusal := issue (usesDAB d a b) (computes d fun x y _ => minU x y) s
/-- MAX (R422). -/
def execMax (d a b : Nat) (s : State) : Host.Outcome State Fault Refusal := issue (usesDAB d a b) (computes d fun x y _ => maxS x y) s
/-- MAXU (R422). -/
def execMaxu (d a b : Nat) (s : State) : Host.Outcome State Fault Refusal := issue (usesDAB d a b) (computes d fun x y _ => maxU x y) s
/-- SHL (R451). -/
def execShl (d a b : Nat) (s : State) : Host.Outcome State Fault Refusal := issue (usesDAB d a b) (computes d fun x y _ => shl64 x (count6 y)) s
/-- SHR (R451). -/
def execShr (d a b : Nat) (s : State) : Host.Outcome State Fault Refusal := issue (usesDAB d a b) (computes d fun x y _ => shr64 x (count6 y)) s
/-- SRA (R451). -/
def execSra (d a b : Nat) (s : State) : Host.Outcome State Fault Refusal := issue (usesDAB d a b) (computes d fun x y _ => sra64 x (count6 y)) s
/-- ROR (R446). -/
def execRor (d a b : Nat) (s : State) : Host.Outcome State Fault Refusal := issue (usesDAB d a b) (computes d fun x y _ => ror64 x (count6 y)) s
/-- LEA: x[a] + (x[b] << s), no access (R416). -/
def execLea (d a b sh : Nat) (s : State) : Host.Outcome State Fault Refusal := issue (usesDAB d a b) (computes d fun x y _ => x + shl64 y sh) s

/-- CLZ (R381). -/
def execClz (d a : Nat) (s : State) : Host.Outcome State Fault Refusal := issue (usesDA d a) (computes d fun x _ _ => clz64 x) s
/-- CTZ (R381). -/
def execCtz (d a : Nat) (s : State) : Host.Outcome State Fault Refusal := issue (usesDA d a) (computes d fun x _ _ => ctz64 x) s
/-- POPC (R381). -/
def execPopc (d a : Nat) (s : State) : Host.Outcome State Fault Refusal := issue (usesDA d a) (computes d fun x _ _ => popc64 x) s
/-- BREV (R381). -/
def execBrev (d a : Nat) (s : State) : Host.Outcome State Fault Refusal := issue (usesDA d a) (computes d fun x _ _ => brev64 x) s
/-- BSWAP (R381). -/
def execBswap (d a : Nat) (s : State) : Host.Outcome State Fault Refusal := issue (usesDA d a) (computes d fun x _ _ => bswap64 x) s
/-- EXTU (R380). -/
def execExtu (d a pos len : Nat) (s : State) : Host.Outcome State Fault Refusal := issue (usesDA d a) (computes d fun x _ _ => extractU x pos len) s
/-- EXTS (R380). -/
def execExts (d a pos len : Nat) (s : State) : Host.Outcome State Fault Refusal := issue (usesDA d a) (computes d fun x _ _ => extractS x pos len) s
/-- INS (R380). -/
def execIns (d a pos len : Nat) (s : State) : Host.Outcome State Fault Refusal :=
  issue ⟨false, .src a, .none, .both d⟩ (computes d fun x _ o => insertBits o x pos len) s
/-- ADDW (R369). -/
def execAddw (d a b : Nat) (s : State) : Host.Outcome State Fault Refusal := issue (usesDAB d a b) (computes d fun x y _ => wordOp (· + ·) x y) s
/-- SUBW (R369). -/
def execSubw (d a b : Nat) (s : State) : Host.Outcome State Fault Refusal := issue (usesDAB d a b) (computes d fun x y _ => wordOp (fun m n => m + 2 ^ 32 - n) x y) s
/-- MULW (R369). -/
def execMulw (d a b : Nat) (s : State) : Host.Outcome State Fault Refusal := issue (usesDAB d a b) (computes d fun x y _ => wordOp (· * ·) x y) s

/-! ## Page 10 -/

/-- LIH (R418). -/
def execLih (d : Nat) (imm : Int) (s : State) : Host.Outcome State Fault Refusal :=
  issue ⟨false, .none, .none, .both d⟩ (computes d fun _ _ x => highImm x imm) s
/-- ANDI (R375). -/
def execAndi (d a : Nat) (imm : Int) (s : State) : Host.Outcome State Fault Refusal := issue (usesDA d a) (computes d fun x _ _ => x &&& wInt imm) s
/-- ORI (R433). -/
def execOri (d a : Nat) (imm : Int) (s : State) : Host.Outcome State Fault Refusal := issue (usesDA d a) (computes d fun x _ _ => x ||| wInt imm) s
/-- XORI (R493). -/
def execXori (d a : Nat) (imm : Int) (s : State) : Host.Outcome State Fault Refusal := issue (usesDA d a) (computes d fun x _ _ => x ^^^ wInt imm) s
/-- LPC (R419). -/
def execLpc (d : Nat) (off : Int) (s : State) : Host.Outcome State Fault Refusal := issue (usesD d) (computes d fun _ _ _ => s.pcRel off) s

end Sys2Proof.Machine
end

