-- ==== Sys2Proof/Machine/Dispatch.lean ====
section
/-! DEFINITION. One arm for each instruction and each event of the opcode table: the meaning it has. -/

namespace Sys2Proof.Machine

def exec (i : Instr) (s : State) : Host.Outcome State Fault Refusal :=
  match i with
  | .add d a b => Sys2Proof.Machine.execAdd d a b s
  | .sub d a b => Sys2Proof.Machine.execSub d a b s
  | .and d a b => Sys2Proof.Machine.execAnd d a b s
  | .or d a b => Sys2Proof.Machine.execOr d a b s
  | .xor d a b => Sys2Proof.Machine.execXor d a b s
  | .addi d a imm => Sys2Proof.Machine.execAddi d a imm s
  | .li d imm => Sys2Proof.Machine.execLi d imm s
  | .ld d a imm ord => Sys2Proof.Machine.execLd d a imm ord s
  | .st d a imm ord => Sys2Proof.Machine.execSt d a imm ord s
  | .skeq k a b => Sys2Proof.Machine.execSkeq k a b s
  | .skne k a b => Sys2Proof.Machine.execSkne k a b s
  | .sklt k a b => Sys2Proof.Machine.execSklt k a b s
  | .skge k a b => Sys2Proof.Machine.execSkge k a b s
  | .skltu k a b => Sys2Proof.Machine.execSkltu k a b s
  | .skgeu k a b => Sys2Proof.Machine.execSkgeu k a b s
  | .skbs k a b => Sys2Proof.Machine.execSkbs k a b s
  | .skbc k a b => Sys2Proof.Machine.execSkbc k a b s
  | .br off => Sys2Proof.Machine.execBr off s
  | .call off => Sys2Proof.Machine.execCall off s
  | .jr a => Sys2Proof.Machine.execJr a s
  | .callr d a => Sys2Proof.Machine.execCallr d a s
  | .ret => Sys2Proof.Machine.execRet s
  | .not d a => Sys2Proof.Machine.execNot d a s
  | .neg d a => Sys2Proof.Machine.execNeg d a s
  | .abs d a => Sys2Proof.Machine.execAbs d a s
  | .sextB d a => Sys2Proof.Machine.execSextB d a s
  | .sextH d a => Sys2Proof.Machine.execSextH d a s
  | .sextW d a => Sys2Proof.Machine.execSextW d a s
  | .zextB d a => Sys2Proof.Machine.execZextB d a s
  | .zextH d a => Sys2Proof.Machine.execZextH d a s
  | .zextW d a => Sys2Proof.Machine.execZextW d a s
  | .nop => Sys2Proof.Machine.execNop s
  | .endTask => Sys2Proof.Machine.execEndTask s
  | .yield => Sys2Proof.Machine.execYield s
  | .shli d n => Sys2Proof.Machine.execShli d n s
  | .shri d n => Sys2Proof.Machine.execShri d n s
  | .srai d n => Sys2Proof.Machine.execSrai d n s
  | .rori d n => Sys2Proof.Machine.execRori d n s
  | .mul d a b => Sys2Proof.Machine.execMul d a b s
  | .mulh d a b => Sys2Proof.Machine.execMulh d a b s
  | .mulhu d a b => Sys2Proof.Machine.execMulhu d a b s
  | .div d a b => Sys2Proof.Machine.execDiv d a b s
  | .divu d a b => Sys2Proof.Machine.execDivu d a b s
  | .rem d a b => Sys2Proof.Machine.execRem d a b s
  | .remu d a b => Sys2Proof.Machine.execRemu d a b s
  | .min d a b => Sys2Proof.Machine.execMin d a b s
  | .minu d a b => Sys2Proof.Machine.execMinu d a b s
  | .max d a b => Sys2Proof.Machine.execMax d a b s
  | .maxu d a b => Sys2Proof.Machine.execMaxu d a b s
  | .shl d a b => Sys2Proof.Machine.execShl d a b s
  | .shr d a b => Sys2Proof.Machine.execShr d a b s
  | .sra d a b => Sys2Proof.Machine.execSra d a b s
  | .ror d a b => Sys2Proof.Machine.execRor d a b s
  | .lea d a b sh => Sys2Proof.Machine.execLea d a b sh s
  | .clz d a => Sys2Proof.Machine.execClz d a s
  | .ctz d a => Sys2Proof.Machine.execCtz d a s
  | .popc d a => Sys2Proof.Machine.execPopc d a s
  | .brev d a => Sys2Proof.Machine.execBrev d a s
  | .bswap d a => Sys2Proof.Machine.execBswap d a s
  | .extu d a pos len => Sys2Proof.Machine.execExtu d a pos len s
  | .exts d a pos len => Sys2Proof.Machine.execExts d a pos len s
  | .ins d a pos len => Sys2Proof.Machine.execIns d a pos len s
  | .addw d a b => Sys2Proof.Machine.execAddw d a b s
  | .subw d a b => Sys2Proof.Machine.execSubw d a b s
  | .mulw d a b => Sys2Proof.Machine.execMulw d a b s
  | .ldb d a imm ord => Sys2Proof.Machine.execLdb d a imm ord s
  | .ldbu d a imm ord => Sys2Proof.Machine.execLdbu d a imm ord s
  | .ldh d a imm ord => Sys2Proof.Machine.execLdh d a imm ord s
  | .ldhu d a imm ord => Sys2Proof.Machine.execLdhu d a imm ord s
  | .ldw d a imm ord => Sys2Proof.Machine.execLdw d a imm ord s
  | .ldwu d a imm ord => Sys2Proof.Machine.execLdwu d a imm ord s
  | .ldLong d a imm ord => Sys2Proof.Machine.execLdLong d a imm ord s
  | .stb d a imm ord => Sys2Proof.Machine.execStb d a imm ord s
  | .sth d a imm ord => Sys2Proof.Machine.execSth d a imm ord s
  | .stw d a imm ord => Sys2Proof.Machine.execStw d a imm ord s
  | .stLong d a imm ord => Sys2Proof.Machine.execStLong d a imm ord s
  | .ldxb d a b sh ord => Sys2Proof.Machine.execLdxb d a b sh ord s
  | .ldxbu d a b sh ord => Sys2Proof.Machine.execLdxbu d a b sh ord s
  | .ldxh d a b sh ord => Sys2Proof.Machine.execLdxh d a b sh ord s
  | .ldxhu d a b sh ord => Sys2Proof.Machine.execLdxhu d a b sh ord s
  | .ldxw d a b sh ord => Sys2Proof.Machine.execLdxw d a b sh ord s
  | .ldxwu d a b sh ord => Sys2Proof.Machine.execLdxwu d a b sh ord s
  | .ldx d a b sh ord => Sys2Proof.Machine.execLdx d a b sh ord s
  | .stxb d a b sh ord => Sys2Proof.Machine.execStxb d a b sh ord s
  | .stxh d a b sh ord => Sys2Proof.Machine.execStxh d a b sh ord s
  | .stxw d a b sh ord => Sys2Proof.Machine.execStxw d a b sh ord s
  | .stx d a b sh ord => Sys2Proof.Machine.execStx d a b sh ord s
  | .vld d a imm w m ord => Sys2Proof.Machine.execVld d a imm w m ord s
  | .vst d a imm w m ord => Sys2Proof.Machine.execVst d a imm w m ord s
  | .vlds d a b w m ord => Sys2Proof.Machine.execVlds d a b w m ord s
  | .vsts d a b w m ord => Sys2Proof.Machine.execVsts d a b w m ord s
  | .vgth d a b w m ord => Sys2Proof.Machine.execVgth d a b w m ord s
  | .vsct d a b w m ord => Sys2Proof.Machine.execVsct d a b w m ord s
  | .prefr a imm => Sys2Proof.Machine.execPrefr a imm s
  | .prefw a imm => Sys2Proof.Machine.execPrefw a imm s
  | .prefk a imm => Sys2Proof.Machine.execPrefk a imm s
  | .prefrel a imm => Sys2Proof.Machine.execPrefrel a imm s
  | .fence ord => Sys2Proof.Machine.execFence ord s
  | .fencem ord => Sys2Proof.Machine.execFencem ord s
  | .fencee ord => Sys2Proof.Machine.execFencee ord s
  | .fencer ord => Sys2Proof.Machine.execFencer ord s
  | .tagq d a => Sys2Proof.Machine.execTagq d a s
  | .amoadd d a b dbl far ord => Sys2Proof.Machine.execAmoadd d a b dbl far ord s
  | .amoand d a b dbl far ord => Sys2Proof.Machine.execAmoand d a b dbl far ord s
  | .amoor d a b dbl far ord => Sys2Proof.Machine.execAmoor d a b dbl far ord s
  | .amoxor d a b dbl far ord => Sys2Proof.Machine.execAmoxor d a b dbl far ord s
  | .amomin d a b dbl far ord => Sys2Proof.Machine.execAmomin d a b dbl far ord s
  | .amomax d a b dbl far ord => Sys2Proof.Machine.execAmomax d a b dbl far ord s
  | .amominu d a b dbl far ord => Sys2Proof.Machine.execAmominu d a b dbl far ord s
  | .amomaxu d a b dbl far ord => Sys2Proof.Machine.execAmomaxu d a b dbl far ord s
  | .amoswap d a b dbl far ord => Sys2Proof.Machine.execAmoswap d a b dbl far ord s
  | .cas d a b dbl ord => Sys2Proof.Machine.execCas d a b dbl ord s
  | .amof d a b dbl far ord => Sys2Proof.Machine.execAmof d a b dbl far ord s
  | .waitm d a b ord => Sys2Proof.Machine.execWaitm d a b ord s
  | .bar n a => Sys2Proof.Machine.execBar n a s
  | .bcarm n a => Sys2Proof.Machine.execBcarm n a s
  | .bcwait d n => Sys2Proof.Machine.execBcwait d n s
  | .vadd d a b w m => Sys2Proof.Machine.execVadd d a b w m s
  | .vaddSat d a b w m => Sys2Proof.Machine.execVaddSat d a b w m s
  | .vsub d a b w m => Sys2Proof.Machine.execVsub d a b w m s
  | .vsubSat d a b w m => Sys2Proof.Machine.execVsubSat d a b w m s
  | .vmul d a b w m => Sys2Proof.Machine.execVmul d a b w m s
  | .vand d a b w m => Sys2Proof.Machine.execVand d a b w m s
  | .vor d a b w m => Sys2Proof.Machine.execVor d a b w m s
  | .vxor d a b w m => Sys2Proof.Machine.execVxor d a b w m s
  | .vshl d a b w m => Sys2Proof.Machine.execVshl d a b w m s
  | .vshr d a b w m => Sys2Proof.Machine.execVshr d a b w m s
  | .vsra d a b w m => Sys2Proof.Machine.execVsra d a b w m s
  | .vmin d a b w m => Sys2Proof.Machine.execVmin d a b w m s
  | .vminu d a b w m => Sys2Proof.Machine.execVminu d a b w m s
  | .vmax d a b w m => Sys2Proof.Machine.execVmax d a b w m s
  | .vmaxu d a b w m => Sys2Proof.Machine.execVmaxu d a b w m s
  | .vcmp d a b c w => Sys2Proof.Machine.execVcmp d a b c w s
  | .vsel d a b w m => Sys2Proof.Machine.execVsel d a b w m s
  | .vperm d a b w m => Sys2Proof.Machine.execVperm d a b w m s
  | .vbcast d a w m => Sys2Proof.Machine.execVbcast d a w m s
  | .vidx d w m => Sys2Proof.Machine.execVidx d w m s
  | .vmov d a w m => Sys2Proof.Machine.execVmov d a w m s
  | .vfadd d a b t m => Sys2Proof.Machine.execVfadd d a b t m s
  | .vfsub d a b t m => Sys2Proof.Machine.execVfsub d a b t m s
  | .vfmul d a b t m => Sys2Proof.Machine.execVfmul d a b t m s
  | .vfma d a b t m => Sys2Proof.Machine.execVfma d a b t m s
  | .vfdiv d a b t m => Sys2Proof.Machine.execVfdiv d a b t m s
  | .vfsqrt d a t m => Sys2Proof.Machine.execVfsqrt d a t m s
  | .vfmin d a b t m => Sys2Proof.Machine.execVfmin d a b t m s
  | .vfmax d a b t m => Sys2Proof.Machine.execVfmax d a b t m s
  | .vfcmp d a b c t => Sys2Proof.Machine.execVfcmp d a b c t s
  | .vcvt d a f t m => Sys2Proof.Machine.execVcvt d a f t m s
  | .vdec d a tab four q => Sys2Proof.Machine.execVdec d a tab four q s
  | .venc d a tab four q => Sys2Proof.Machine.execVenc d a tab four q s
  | .vredadd d a t m => Sys2Proof.Machine.execVredadd d a t m s
  | .vredmin d a t m => Sys2Proof.Machine.execVredmin d a t m s
  | .vredmax d a t m => Sys2Proof.Machine.execVredmax d a t m s
  | .vbsc d a tab t m => Sys2Proof.Machine.execVbsc d a tab t m s
  | .vfscl d a b t m => Sys2Proof.Machine.execVfscl d a b t m s
  | .mma d a b clear tr => Sys2Proof.Machine.execMma d a b clear tr s
  | .mzero d => Sys2Proof.Machine.execMzero d s
  | .mst d a b fmt => Sys2Proof.Machine.execMst d a b fmt s
  | .mld d a => Sys2Proof.Machine.execMld d a s
  | .mfmt d a => Sys2Proof.Machine.execMfmt d a s
  | .ttrn d a => Sys2Proof.Machine.execTtrn d a s
  | .dtld n a => Sys2Proof.Machine.execDtld n a s
  | .rinja d a b => Sys2Proof.Machine.execRinja d a b s
  | .rinjb d a b => Sys2Proof.Machine.execRinjb d a b s
  | .pset a b => Sys2Proof.Machine.execPset a b s
  | .pclr b => Sys2Proof.Machine.execPclr b s
  | .pmark d a b => Sys2Proof.Machine.execPmark d a b s
  | .rstat d a => Sys2Proof.Machine.execRstat d a s
  | .rfetch d a b => Sys2Proof.Machine.execRfetch d a b s
  | .btag q off => Sys2Proof.Machine.execBtag q off s
  | .qstat d n => Sys2Proof.Machine.execQstat d n s
  | .vpop d a => Sys2Proof.Machine.execVpop d a s
  | .vpush d a => Sys2Proof.Machine.execVpush d a s
  | .cpy d a b k => Sys2Proof.Machine.execCpy d a b k s
  | .cwait d a => Sys2Proof.Machine.execCwait d a s
  | .fork off => Sys2Proof.Machine.execFork off s
  | .forkh a b => Sys2Proof.Machine.execForkh a b s
  | .join a imm => Sys2Proof.Machine.execJoin a imm s
  | .tdec a n => Sys2Proof.Machine.execTdec a n s
  | .tarm d a b => Sys2Proof.Machine.execTarm d a b s
  | .ship d a => Sys2Proof.Machine.execShip d a s
  | .ppt mask => Sys2Proof.Machine.execPpt mask s
  | .tid d f => Sys2Proof.Machine.execTid d f s
  | .fadd d a b dbl => Sys2Proof.Machine.execFadd d a b dbl s
  | .fsub d a b dbl => Sys2Proof.Machine.execFsub d a b dbl s
  | .fmul d a b dbl => Sys2Proof.Machine.execFmul d a b dbl s
  | .fma d a b dbl => Sys2Proof.Machine.execFma d a b dbl s
  | .fdiv d a b dbl => Sys2Proof.Machine.execFdiv d a b dbl s
  | .fsqrt d a dbl => Sys2Proof.Machine.execFsqrt d a dbl s
  | .fmin d a b dbl => Sys2Proof.Machine.execFmin d a b dbl s
  | .fmax d a b dbl => Sys2Proof.Machine.execFmax d a b dbl s
  | .fskeq k a b dbl => Sys2Proof.Machine.execFskeq k a b dbl s
  | .fsklt k a b dbl => Sys2Proof.Machine.execFsklt k a b dbl s
  | .fskle k a b dbl => Sys2Proof.Machine.execFskle k a b dbl s
  | .fskun k a b dbl => Sys2Proof.Machine.execFskun k a b dbl s
  | .fskltq k a b dbl => Sys2Proof.Machine.execFskltq k a b dbl s
  | .fskleq k a b dbl => Sys2Proof.Machine.execFskleq k a b dbl s
  | .fcvt d a f dbl rtz => Sys2Proof.Machine.execFcvt d a f dbl rtz s
  | .fclass d a dbl => Sys2Proof.Machine.execFclass d a dbl s
  | .lih d imm => Sys2Proof.Machine.execLih d imm s
  | .andi d a imm => Sys2Proof.Machine.execAndi d a imm s
  | .ori d a imm => Sys2Proof.Machine.execOri d a imm s
  | .xori d a imm => Sys2Proof.Machine.execXori d a imm s
  | .lpc d off => Sys2Proof.Machine.execLpc d off s
  | .mand d a b => Sys2Proof.Machine.execMand d a b s
  | .mor d a b => Sys2Proof.Machine.execMor d a b s
  | .mxor d a b => Sys2Proof.Machine.execMxor d a b s
  | .mnot d a => Sys2Proof.Machine.execMnot d a s
  | .mpop d a => Sys2Proof.Machine.execMpop d a s
  | .mfromx d a hi => Sys2Proof.Machine.execMfromx d a hi s
  | .mtox d a hi => Sys2Proof.Machine.execMtox d a hi s
  | .vext d a b w => Sys2Proof.Machine.execVext d a b w s
  | .vins d a b w => Sys2Proof.Machine.execVins d a b w s
  | .hsend d a b => Sys2Proof.Machine.execHsend d a b s
  | .hend => Sys2Proof.Machine.execHend s
  | .hdefer => Sys2Proof.Machine.execHdefer s
  | .dld d a imm => Sys2Proof.Machine.execDld d a imm s
  | .dst d a imm => Sys2Proof.Machine.execDst d a imm s
  | .bxf d a b => Sys2Proof.Machine.execBxf d a b s
  | .grant d a b => Sys2Proof.Machine.execGrant d a b s
  | .rgn d a => Sys2Proof.Machine.execRgn d a s
  | .trap imm => Sys2Proof.Machine.execTrap imm s
  | .brk imm => Sys2Proof.Machine.execBrk imm s
  | .srd d n => Sys2Proof.Machine.execSrd d n s
  | .swr n a => Sys2Proof.Machine.execSwr n a s
  | .eret => Sys2Proof.Machine.execEret s
  | .rdc d f => Sys2Proof.Machine.execRdc d f s
  | .wake a => Sys2Proof.Machine.execWake a s
  | .waket d a b => Sys2Proof.Machine.execWaket d a b s
  | .tstart d a => Sys2Proof.Machine.execTstart d a s
  | .xinv a b => Sys2Proof.Machine.execXinv a b s
  | .sstop d a => Sys2Proof.Machine.execSstop d a s
  | .conerd d a => Sys2Proof.Machine.execConerd d a s
  | .cqsc d a => Sys2Proof.Machine.execCqsc d a s
  | .idle => Sys2Proof.Machine.execIdle s
  | .resultArrival core slot => Sys2Proof.Machine.execResultArrival core slot s
  | .poisonedResult core slot => Sys2Proof.Machine.execPoisonedResult core slot s
  | .threadWake core slot => Sys2Proof.Machine.execThreadWake core slot s
  | .taskDispatch core => Sys2Proof.Machine.execTaskDispatch core s
  | .stealSweep core => Sys2Proof.Machine.execStealSweep core s
  | .stealRequest n => Sys2Proof.Machine.execStealRequest n s
  | .stealReply n => Sys2Proof.Machine.execStealReply n s
  | .placedPacketHop n => Sys2Proof.Machine.execPlacedPacketHop n s
  | .shipPacketArrival n => Sys2Proof.Machine.execShipPacketArrival n s
  | .messageArrival core slot => Sys2Proof.Machine.execMessageArrival core slot s
  | .decrementMessage n => Sys2Proof.Machine.execDecrementMessage n s
  | .q7RecordArrival core => Sys2Proof.Machine.execQ7RecordArrival core s
  | .sweep part => Sys2Proof.Machine.execSweep part s
  | .launchErrorEnd part => Sys2Proof.Machine.execLaunchErrorEnd part s
  | .arrayGrant core => Sys2Proof.Machine.execArrayGrant core s
  | .matrixRetire core => Sys2Proof.Machine.execMatrixRetire core s
  | .q5RecordPush hem station => Sys2Proof.Machine.execQ5RecordPush hem station s
  | .tileEntry hem station fam => Sys2Proof.Machine.execTileEntry hem station fam s
  | .tileArrival hem station fam => Sys2Proof.Machine.execTileArrival hem station fam s
  | .q6RecordPush hem station => Sys2Proof.Machine.execQ6RecordPush hem station s
  | .meshFlitHop n => Sys2Proof.Machine.execMeshFlitHop n s
  | .routerCombine n k => Sys2Proof.Machine.execRouterCombine n k s
  | .combinedReplySplit n => Sys2Proof.Machine.execCombinedReplySplit n s
  | .translationWalk core slot => Sys2Proof.Machine.execTranslationWalk core slot s
  | .walkInvalidation n => Sys2Proof.Machine.execWalkInvalidation n s
  | .walkStorePerformed core slot => Sys2Proof.Machine.execWalkStorePerformed core slot s
  | .joinReread core slot => Sys2Proof.Machine.execJoinReread core slot s
  | .uncorrectableError space core addr => Sys2Proof.Machine.execUncorrectableError space core addr s
  | .jobStart hem => Sys2Proof.Machine.execJobStart hem s
  | .elementDelivery hem entry => Sys2Proof.Machine.execElementDelivery hem entry s
  | .jobres hem val => Sys2Proof.Machine.execJobres hem val s
  | .q2cfg core val => Sys2Proof.Machine.execQ2cfg core val s
  | .readMiss n => Sys2Proof.Machine.execReadMiss n s
  | .writeMiss n => Sys2Proof.Machine.execWriteMiss n s
  | .upgrade n => Sys2Proof.Machine.execUpgrade n s
  | .farAmo n => Sys2Proof.Machine.execFarAmo n s
  | .flush n => Sys2Proof.Machine.execFlush n s
  | .close n => Sys2Proof.Machine.execClose n s
  | .evict n => Sys2Proof.Machine.execEvict n s
  | .engineRead n => Sys2Proof.Machine.execEngineRead n s
  | .engineWrite n => Sys2Proof.Machine.execEngineWrite n s
  | .rcmd n => Sys2Proof.Machine.execRcmd n s
  | .homecast n => Sys2Proof.Machine.execHomecast n s
  | .reduceDone part region => Sys2Proof.Machine.execReduceDone part region s
  | .handlerKill pp slot => Sys2Proof.Machine.execHandlerKill pp slot s
  | .grantRo n => Sys2Proof.Machine.execGrantRo n s
  | .grantRw n => Sys2Proof.Machine.execGrantRw n s
  | .data n => Sys2Proof.Machine.execData n s
  | .invalidate n => Sys2Proof.Machine.execInvalidate n s
  | .recall n => Sys2Proof.Machine.execRecall n s
  | .push n => Sys2Proof.Machine.execPush n s
  | .fail n => Sys2Proof.Machine.execFail n s
  | .ack n => Sys2Proof.Machine.execAck n s
  | .regionNone part region => Sys2Proof.Machine.execRegionNone part region s
  | .regionBind part region => Sys2Proof.Machine.execRegionBind part region s
  | .regionClose part region => Sys2Proof.Machine.execRegionClose part region s
  | .regionClosed part region => Sys2Proof.Machine.execRegionClosed part region s
  | .regionReopen part region => Sys2Proof.Machine.execRegionReopen part region s
  | .stopTimeReached core => Sys2Proof.Machine.execStopTimeReached core s
  | .forcedStop core slot => Sys2Proof.Machine.execForcedStop core slot s
  | .cqscComplete part => Sys2Proof.Machine.execCqscComplete part s
  | .saveComplete part => Sys2Proof.Machine.execSaveComplete part s
  | .restoreComplete part => Sys2Proof.Machine.execRestoreComplete part s
  | .lock part => Sys2Proof.Machine.execLock part s
  | .unlock part => Sys2Proof.Machine.execUnlock part s
  | .clear part => Sys2Proof.Machine.execClear part s
  | .kiln part => Sys2Proof.Machine.execKiln part s
  | .split part ids => Sys2Proof.Machine.execSplit part ids s
  | .merge part id => Sys2Proof.Machine.execMerge part id s
  | .frozenSettingWrite part off val => Sys2Proof.Machine.execFrozenSettingWrite part off val s
  | .kilnPhase part hems rows => Sys2Proof.Machine.execKilnPhase part hems rows s
  | .kilnComplete part => Sys2Proof.Machine.execKilnComplete part s
  | .registerWrite off val => Sys2Proof.Machine.execRegisterWrite off val s
  | .ovflog val => Sys2Proof.Machine.execOvflog val s
  | .extentRevoke e => Sys2Proof.Machine.execExtentRevoke e s
  | .revoked e => Sys2Proof.Machine.execRevoked e s
  | .pageRequestAnswer core d0 d1 d2 => Sys2Proof.Machine.execPageRequestAnswer core d0 d1 d2 s
  | .queueMap part q => Sys2Proof.Machine.execQueueMap part q s
  | .packetRead part q => Sys2Proof.Machine.execPacketRead part q s
  | .launchPacket part q => Sys2Proof.Machine.execLaunchPacket part q s
  | .fencePacket part q => Sys2Proof.Machine.execFencePacket part q s
  | .signalPacket part q => Sys2Proof.Machine.execSignalPacket part q s
  | .queueRestart part q => Sys2Proof.Machine.execQueueRestart part q s
  | .reset => Sys2Proof.Machine.execReset s
  | .go => Sys2Proof.Machine.execGo s
  | .bringUp => Sys2Proof.Machine.execBringUp s
  | .hemRetire hem => Sys2Proof.Machine.execHemRetire hem s
  | .throttleEvent die => Sys2Proof.Machine.execThrottleEvent die s
  | .unassignedEncoding eval => Sys2Proof.Machine.execUnassignedEncoding eval s
  | .unknownOp part cmd => Sys2Proof.Machine.execUnknownOp part cmd s

end Sys2Proof.Machine
end

