-- ==== Sys2Proof/Machine/Schedule.lean ====
section
/-! DEFINITION. Which event the device carries out next when the outside asks for none: the first of its candidates that
changes anything (log entry 3). Events that the host or chance begins are not among them. -/

namespace Sys2Proof.Machine

/-- An event, carried out. -/
abbrev Happening := State → Host.Outcome State Fault Refusal

/-- The first event that changes the state. -/
def firstChange (s : State) : List Happening → Option (Host.Outcome State Fault Refusal)
  | [] => none
  | f :: t => match f s with
    | .next s' => if s' = s then firstChange s t else some (.next s')
    | o => some o

/-- What a message of a lane and a type may be for. -/
def messageEvents (n lane type : Nat) : List Happening :=
  if lane = 2 then
    [execCombinedReplySplit n] ++
    (match type with
    | 0 => [execGrantRo n] | 1 => [execGrantRw n] | 2 => [execInvalidate n, execWalkInvalidation n] | 3 => [execRecall n] | 4 => [execPush n]
    | 5 => [execFail n] | 6 => [execAck n] | 7 => [execData n] | _ => [])
  else match type with
    | 0 => [execReadMiss n] | 1 => [execWriteMiss n] | 2 => [execUpgrade n] | 3 => [execFarAmo n] | 4 => [execFlush n]
    | 5 => [execClose n] | 6 => [execEvict n] | 7 => [execEngineRead n] | 8 => [execEngineWrite n] | 9 => [execRcmd n]
    | _ => [execHomecast n]

/-- What may become of a packet. -/
def flitEvents (n : Nat) (f : Flit) : List Happening :=
  match f.body with
  | .placed .. => [execPlacedPacketHop n]
  | b => [execMeshFlitHop n] ++ (match b with
    | .msg m => messageEvents n m.lane m.type
    | .ship _ | .task .. => [execShipPacketArrival n]
    | .dec .. => [execDecrementMessage n]
    | .stealReq => [execStealRequest n]
    | .drain .. => [execWalkInvalidation n]
    | .stealRep _ => [execStealReply n]
    | .message .. => (match f.dst with | .core c _ => [execMessageArrival c 16] | _ => [])
    | .placed .. => [])

/-- What may come to a slot of a core; the protocol processors follow the cores. -/
def slotEvents (u t : Nat) : List Happening :=
  [execResultArrival u t, execPoisonedResult u t, execThreadWake u t, execJoinReread u t]

/-- Something may come to a thread, or leave its q1. -/
def Thread.stirs (t : Thread) : Bool :=
  t.tstate == .waiting || (t.tstate == .parked && !(t.park == .idle)) || t.pending != [] || t.queues.q1 != [] || (t.saved.isSome && t.lateTrap.isSome)

/-- What may happen at a core. -/
def coreEvents (c : Nat) (k : Core) : List Happening :=
  [execStopTimeReached c, execQ7RecordArrival c, execArrayGrant c, execMatrixRetire c, execStealSweep c] ++
  k.threads.flatMap fun (t, (th : Thread)) =>
    (if th.stirs || k.q7 ≠ [] then slotEvents c t else []) ++
    (if th.queues.q1 ≠ [] then [execMessageArrival c t] else []) ++
    (if k.stop.reached && th.tstate != .free then [execForcedStop c t] else [])

/-- Nothing but a store of a thread that is not waiting can begin anything at the core. -/
def Core.quiet (k : Core) : Bool :=
  !(k.threads.any fun e => e.2.stirs) && k.q7 = [] && k.q7waiting = [] && k.array.running.isNone &&
    (k.array.queues.all fun e => e.2 = []) && k.stop.stopAt.isNone && !([1, 2, 3, 4, 5, 6].any k.candidate)

/-- What may happen in a hem. -/
def hemEvents (h : Nat) (m : Hem) : List Happening :=
  let st := List.range 16
  [execJobStart h] ++ (m.jobs.map fun e => execElementDelivery h e.1) ++
  (if m.q5waiting = [] then [] else st.map fun i => execQ5RecordPush h i) ++
  (if m.q6waiting = [] then [] else st.map fun i => execQ6RecordPush h i) ++
  (if m.ring.injectors = [] then []
   else (st.flatMap fun i => [execTileArrival h i 0, execTileArrival h i 1]) ++
     st.flatMap fun i => [execTileEntry h i 0, execTileEntry h i 1])

/-- What may happen to a partition and its launch queues. -/
def partEvents (s : State) (id : Nat) (p : Partition) : List Happening :=
  [execSweep id, execLaunchErrorEnd id, execCqscComplete id, execSaveComplete id, execRestoreComplete id, execKilnPhase id 0 0,
    execKilnComplete id] ++
  (p.regionBusy.flatMap fun r => [execReduceDone id (r.1 % 256), execRegionClosed id (r.1 % 256)]) ++
  (p.queues.flatMap fun m => [execLaunchPacket id m.index, execFencePacket id m.index, execSignalPacket id m.index,
    execPacketRead id m.index]) ++
  (match s.nextReady p with | some (i, _) => [execQueueMap id i] | none => []) ++
  ((List.range (s.qcbs p).length).map fun i => execQueueRestart id i)

/-- Everything that may happen of the device's own accord, in the order in which it is tried: each core's dispatch comes
before what the mesh brings (R55, R56, R75). -/
def State.candidates (s : State) : List Happening :=
  (s.cores.filterMap fun e => if s.dispatches e.1 then some (execTaskDispatch e.1) else none) ++
  (s.net.zipIdx.flatMap fun x => flitEvents x.2 x.1) ++
  (s.walkStores.flatMap fun w => match w.2.req.src with
    | .core c t => [execWalkStorePerformed c t]
    | .engine h => [execWalkStorePerformed (h * 16) 16]
    | _ => []) ++
  (s.cores.flatMap fun (c, (k : Core)) => if k.quiet && !s.dispatches c then [] else coreEvents c k) ++
  (s.pps.flatMap fun (n, (k : PP)) => k.handlers.flatMap fun h => execHandlerKill n h.1 :: slotEvents (1024 + n) h.1) ++
  (s.hems.flatMap fun e => hemEvents e.1 e.2) ++
  (s.parts.flatMap fun e => partEvents s e.1 e.2) ++
  (s.extents.map fun e => execRevoked e.1) ++
  (if s.dev.bootst = 4 then [execBringUp] else [])

/-- The outcome of the event that happens next of its own accord. -/
def State.autoEvent (s : State) : Option (Host.Outcome State Fault Refusal) := firstChange s s.candidates

end Sys2Proof.Machine
end

