-- ==== Sys2Proof/Machine/Run.lean ====
section
/-! DEFINITION. One step of the device: an event, or one instruction of one slot, or the end of a cycle; and where an
instruction is put so that the next step runs it (R41 to R44, R104, R112; log entries 3 and 4). -/

namespace Sys2Proof.Machine

/-- The end of a cycle: a wake that came in it for a park that did not follow is stale (R48, R491). -/
def Core.endCycle (k : Core) : Core :=
  let lost := k.threads.filter fun e => e.2.wakePending && (e.2.tstate == .ready || e.2.tstate == .trap)
  if lost = [] then k
  else { k with
    threads := k.threads.map fun e =>
      if e.2.wakePending && (e.2.tstate == .ready || e.2.tstate == .trap) then
        (e.1, { e.2 with wakePending := false, wakeTrap := none }) else e
    regs := { k.regs with stale := w64 (Nat.min 0xFFFFFFFF (k.regs.stale.toNat + lost.length)) } }

/-- The same for handler slots, which count no stale wakes. -/
def PP.endCycle (k : PP) : PP :=
  if k.handlers.any fun e => e.2.thread.wakePending && e.2.thread.tstate == .ready then
    { k with handlers := k.handlers.map fun (n, (h : Handler)) =>
        if h.thread.wakePending && h.thread.tstate == .ready then
          (n, { h with thread := { h.thread with wakePending := false, wakeTrap := none } }) else (n, h) }
  else k

def State.endCycle (s : State) : State :=
  { s with time := s.time + 1, issued := [], cores := s.cores.map fun e => (e.1, e.2.endCycle),
           pps := s.pps.map fun e => (e.1, e.2.endCycle) }

/-- A decoded instruction of the issuing slot, with what a stop under way does to it (R316). -/
def runDecoded (i : Instr) (s : State) : Host.Outcome State Fault Refusal :=
  match exec i s with
  | .next s' =>
    if s.stopsBefore s' i then .next (s.stopThread s.cur.unit s.cur.slot 0xFF false) else .next s'.afterIssue
  | o => o

/-- The attempt left the thread WAITING before its instruction: it has not issued (R45). -/
def State.heldBack (s : State) : Bool := s.me.tstate == .waiting && s.me.pc == s.cur.pc

/-- An attempt that did not issue uses no position and is no last issue (R41, R45); `before` is the state before it. -/
def State.untake (s before : State) : State :=
  let o := before.me
  let s := s.modMe fun t => { t with readyAt := o.readyAt, noBorrow := o.noBorrow }
  let s := if s.cur.pp then s.modHandler s.cur.unit s.cur.slot fun h => { h with issued := h.issued - 1 } else s
  { s with issued := before.issued }

/-- The instruction at the slot's pc, with the slot's issue taken: annulled, or fetched, decoded and carried out (R104,
R112). -/
def runFetched (pp : Bool) (s : State) : Host.Outcome State Fault Refusal :=
  match fetchChain 5 s s.cur.pc with
  | .error h => .next (s.halt h).afterIssue
  | .ok (hws, s) => match decode pp hws with
    | .ok i len => runDecoded i { s with cur := { s.cur with len } }
    | .illegal r len => execUnassignedEncoding r.eval { s with cur := { s.cur with len } }
    | .short => .next s

/-- One instruction of a slot. A trap that a late push left is taken before anything is fetched (R505). -/
def issueSlot (pp : Bool) (u t : Nat) (s : State) : Host.Outcome State Fault Refusal :=
  let before := s.aim pp u t
  let annulled := before.me.annul ≠ 0
  let s := before.took pp u t annulled
  match before.me.lateTrap.filter fun _ => !before.me.committed with
  | some (c, v) => .next (s.takeTrap c v none)
  | none =>
    if annulled then .next s.consume.afterIssue
    else match runFetched pp s with
      | .next s' => .next (if s'.heldBack then s'.untake before else s')
      | o => o

/-- Something has come to the core that takes effect before what it issues in this cycle: a message of the reply lane, or a
decrement (R59, R267). -/
def State.arrivalsFirst (s : State) (core : Nat) : Bool :=
  s.net.zipIdx.any fun (f, n) => f.coresOf.contains core &&
    (match f.body with
      | .msg _ => (s.replyAt n f.type).isSome
      | .dec .. => (s.arrival n).isSome && s.fate core == .take
      | _ => false)

/-- What the outside asked for: an issue of the slot that has the position of this cycle at its unit, an event, or what comes over
a link. -/
def runAction (a : Action) (s : State) : Host.Outcome State Fault Refusal :=
  match a with
  | .issue pp u t =>
    if (⟨pp, u, t, 0, 0⟩ : Actor).valid && s.pick pp u (t % 4) == some t && (pp || !s.arrivalsFirst u) then issueSlot pp u t s
    else .next s
  | .event i => exec i s
  | .arrive port dst cls part rseq m => .next (s.linkArrives port dst cls part rseq m)
  | .credit port channel => .next (s.creditLink port channel)
  | .hostRead off => .next (s.hostReads off)
  | .sensor die temp => .next (s.sensed die temp)

/-- One step of the device. -/
def stepDevice (s : State) : Host.Outcome State Fault Refusal :=
  match s.agenda with
  | a :: r => runAction a { s with agenda := r }
  | [] => match s.autoEvent with
    | some o => o
    | none => match s.nextIssue with
      | some (pp, u, t) => issueSlot pp u t s
      | none => .next s.endCycle

/-! ## Putting an instruction where the next step fetches -/

/-- The whole device as one partition that may map space 0, running (log entry 4). -/
def probePartition : Partition :=
  { Partition.formed 1 6 0 0 with
    stop := .run
    regs := { PartRegs.reset with pmem := [(0, 0), (1, w64 (2 ^ 40 - 4096))] } }

/-- A task slot that a launch with the largest budgets has just taken (R38, R41, R93). -/
def probeThread : Thread := { Thread.reset with tstate := .ready, slim := 120, vlim := 32 }

/-- The translation of the first page: readable, writable, executable, under INVALIDATE. -/
def probePage : TlbEntry := ⟨0, 4096, 0x10F, [], 1⟩

/-- The first block of the page as the core's cache holds it, for reading. -/
def probeBlock (m : Memory) : Block :=
  { tag := .ro, data := m.line 0, dirty := 0, prot := pInvalidate, region := 0, partialCopy := false, invalPending := false,
    prefetch := false, desc := 0, rseq := 0 }

/-- The bytes of an instruction as memory holds them at address 0. -/
def placeBytes (bs : List Byte) : Memory := (bs.foldl (fun (m, a) b => (Memory.setByte m a b, a + 1)) (([] : Memory), 0)).1

/-- The device with an instruction at address 0, mapped there executable and in the core's cache, and its slot asked to issue: slot 0 of core
0, or handler slot 0 of protocol processor 0 for an instruction that only those have. -/
def State.withProgram (s : State) (pp : Bool) (hws : List Nat) : State :=
  let m := placeBytes (bytesOf hws)
  let s := { s with mem := m, parts := [(1, probePartition)], agenda := [.issue pp 0 0], issued := [], time := s.time / 16 * 16 }
  if pp then
    s.modHandler 0 0 fun h => { h with part := 1, thread := { Thread.reset with tstate := .ready, priv := .h } }
  else
    s.modCore 0 fun k => { (k.setThread 0 probeThread) with tlb := [probePage], cache := k.cache.put 0 (probeBlock m) }

/-- The device with a table row's instruction in that place. -/
def State.placeWord (s : State) (nbits w : Nat) : State :=
  let hws := tableHalfwords nbits w
  let pp := match decode false hws with | .ok _ _ => false | _ => true
  s.withProgram pp hws

end Sys2Proof.Machine
end

