-- ==== Sys2Proof/Machine/Step.lean ====
section
/-! DEFINITION. The step of the machine, and the state that runs a given instruction next. -/

namespace Sys2Proof.Machine

/-- One step of the device (Machine/Run.lean). -/
def step (s : State) : Host.Outcome State Fault Refusal := stepDevice s

/-- The state with an instruction stored where the next step fetches it (log entry 4). -/
def State.withFetchWord (s : State) (nbits w : Nat) : State := s.placeWord nbits w

end Sys2Proof.Machine
end

