-- ==== Sys2Proof/Safety.lean ====
section
/-! DEFINITION. The terms in which claims are made: which state lets an instruction run its course, what its operands
are, what a safe run is. -/

namespace Sys2Proof.Machine

/-! ## When an instruction runs its course -/

/-- The issuing slot exists, no trap of a late result is due, no result is still to come (R45, R414, R505), and the instruction
is not one that has already asked homes and waited (R266). -/
def State.settled (s : State) : Bool := s.cur.valid && s.me.lateTrap.isNone && s.me.pending.isEmpty && s.me.asks.isEmpty

/-- The state as the issuing slot's instruction found it before it asked any home (R266). -/
def State.unasked (s : State) : State := s.modMe fun t => { t with asks := [] }

/-- x0, or a scalar register of the issuing slot's window that is no queue (R38, R39, R77). -/
def State.has (s : State) (r : Nat) : Bool := decide (r < 120) && (r == 0 || decide (r < s.slim))

/-- A vector register of the issuing slot's window (R38). -/
def State.hasV (s : State) (r : Nat) : Bool := decide (r < s.vlim)

/-- The state that an instruction leaves whose only effect is to be past it. -/
def State.advanced (s : State) : State := s.setPc s.nextPc

/-- The slot may name the field: a register of its window, a queue in its direction, q7 above U only (R39, R77). -/
def Fld.legal (s : State) : Fld → Bool
  | .none => true
  | .src r => s.has r || r == 120 || (decide (122 ≤ r) && decide (r ≤ 126)) || (r == 127 && s.me.priv != .u)
  | .dst r => s.has r || r == 121
  | .both r => s.has r
  | .vec r => s.hasV r
  | .deque r => r == 120 || (decide (123 ≤ r) && decide (r ≤ 126)) || (r == 127 && s.me.priv != .u)

/-- The slot's privilege lets it issue the instruction, and it may name every field. -/
def Uses.legal (s : State) (u : Uses) : Bool := u.list.all (Fld.legal s) && !(u.sys && s.me.priv == .u)

/-- The field names a register of the window, if it names any. -/
def Fld.plain (s : State) : Fld → Bool
  | .none => true
  | .src r | .dst r | .both r => s.has r
  | .vec r => s.hasV r
  | .deque _ => false

/-- Every field names a register of the window. -/
def Uses.plain (s : State) (u : Uses) : Bool := u.list.all (Fld.plain s)

/-- The value that a field supplies where it names a register. -/
def Fld.value (s : State) : Fld → Word
  | .src r | .both r => s.x r
  | _ => 0

/-- What a field supplies: a register's value, or the dword that its queue pops; `none` where the queue is empty (R79). -/
def State.operand (s : State) : Fld → Option (Word × State)
  | .src r | .both r => if r < 120 then some (s.x r, s) else s.pop (r - 120)
  | _ => some (0, s)

/-- The values of the fields, taken in the order a, b, d (R79). -/
def State.operands (s : State) (u : Uses) : Option (Word × Word × Word × State) :=
  match s.operand u.a with
  | none => none
  | some (a, s) => match s.operand u.b with
    | none => none
    | some (b, s) => match s.operand u.d with
      | none => none
      | some (d, s) => some (a, b, d, s)

/-- The instruction gets past its operand checks: its fields supply a, b and c, and t is the state after that, with the
pc past the instruction. -/
def State.Begins (s : State) (u : Uses) (a b c : Word) (t : State) : Prop :=
  s.settled = true ∧ u.legal s = true ∧ ∃ r, s.operands u = some (a, b, c, r) ∧ t = r.setPc s.nextPc

/-- How an instruction ends: with its own effect, or with a trap, a park or a wait on the state before it (R13). -/
def State.ends (s : State) : Exec State → State
  | .ok t => t
  | .error h => s.halt h

/-! ## What must stay: bytes, slots, the rest of the device -/

/-- A place that holds a byte: physical memory, a core's local memory, a handler memory, a block of a data cache. -/
inductive Loc where
  | phys (a : Nat)
  | sram (core off : Nat)
  | handler (pp off : Nat)
  | cached (core pa : Nat)
deriving DecidableEq, Repr

/-- The byte at a place. -/
def State.byteAt (s : State) : Loc → Byte
  | .phys a => s.mem.byte a
  | .sram c off => (s.core c).sram.byte off
  | .handler n off => (s.pp n).sram.byte off
  | .cached c pa => BitVec.ofNat 8 (((s.core c).block (blockOf pa)).data.toNat / 2 ^ (8 * (pa % 64)))

/-- A core without its slots and its two register files. -/
def Core.rest (k : Core) : Core := { k with threads := [], xrf := [], vrf := [] }
/-- A protocol processor without its slots and its register file. -/
def PP.rest (k : PP) : PP := { k with handlers := [], xrf := [] }
/-- A handler slot without its thread. -/
def Handler.rest (h : Handler) : Handler := { h with thread := Thread.reset }
/-- The device without its cores and its protocol processors. -/
def State.rest (s : State) : State := { s with cores := [], pps := [] }

/-- A register number names an entry of a slot's own window: slots 0 to 14 have 120 entries at most, slot 15 and a
handler slot 32 (R38, R272). -/
def ownEntry (pp : Bool) (t r : Nat) : Bool := if pp || t == 15 then decide (r < 32) else decide (t < 15) && decide (r < 120)

/-- Two states agree on everything but the issuing slot's thread, scalar registers and vector registers: every other
slot with its registers, what a core and a protocol processor hold beside slots and registers, and the rest of the
device. -/
structure State.SameElsewhere (s t : State) : Prop where
  rest : t.rest = s.rest
  cores : ∀ c, (t.core c).rest = (s.core c).rest
  pps : ∀ n, (t.pp n).rest = (s.pp n).rest
  handlers : ∀ n r, ((t.pp n).handler r).rest = ((s.pp n).handler r).rest
  threads : ∀ pp u r, ¬ (pp = s.cur.pp ∧ u = s.cur.unit ∧ r = s.cur.slot) → t.thread pp u r = s.thread pp u r
  scalars : ∀ pp u r n, ¬ (pp = s.cur.pp ∧ u = s.cur.unit ∧ r = s.cur.slot) → ownEntry pp r n = true →
    t.xOf pp u r n = s.xOf pp u r n
  vectors : ∀ u r n, ¬ (s.cur.pp = false ∧ u = s.cur.unit ∧ r = s.cur.slot) → n < 32 →
    (t.core u).vrf.at (vectorBase r + n) 0 = (s.core u).vrf.at (vectorBase r + n) 0

/-! ## Results by instruction -/

/-- Low n bits of a dword, sign-extended (R11, R12). -/
def signExt (n : Nat) (x : Word) : Word := (x.setWidth n).signExtend 64
/-- An operation on the low 32 bits, sign-extended (R142). -/
def word32 (f : BitVec 32 → BitVec 32 → BitVec 32) (x y : Word) : Word := (f (x.setWidth 32) (y.setWidth 32)).signExtend 64
/-- The length that a bit-field instruction names: 0 means 64 (R380). -/
def bfLen (len : Nat) : Nat := if len = 0 then 64 else len

/-- The signed value of a lane. -/
def laneS (v : Vec) (w i : Nat) : Int :=
  if laneOf v w i < 2 ^ (laneBits w - 1) then laneOf v w i else laneOf v w i - (2 ^ laneBits w : Nat)
/-- Saturation to n signed bits (R143). -/
def clampS (n : Nat) (x : Int) : Int := max (-(2 ^ (n - 1) : Nat)) (min x ((2 ^ (n - 1) : Nat) - 1))
/-- The lanes that a reduction of the operation i takes: an inactive one counts as the identity (R165). -/
def redLanes (s : State) (i a t m : Nat) : List Nat :=
  (List.range (laneCount (typeWidth t))).map fun k =>
    if (s.mask m).getLsbD k then laneOf (s.v a) (typeWidth t) k else redIdentity i t
/-- A float result as a dword with its flags. -/
def wordFlags (r : Nat × Nat) : Word × Nat := (w64 r.1, r.2)
/-- A float result as a lane with its flags. -/
def laneFlags (r : Nat × Nat) : Int × Nat := (r.1, r.2)
/-- The two forms of fields of a reduction and of a unary float instruction. -/
def usesXV (d a : Nat) : Uses := ⟨false, .vec a, .none, .dst d⟩

/-- The instructions whose whole effect is x[d] := v, and the FCSR flags they set: destination, fields, and v with the
flags as the references of R366 to R495 give them, of the state and of the values of fields a, b and d. -/
def scalarOp : Instr → Option (Nat × Uses × (State → Word → Word → Word → Word × Nat))
  | .add d a b => some (d, usesDAB d a b, fun _ x y _ => (x + y, 0))
  | .sub d a b => some (d, usesDAB d a b, fun _ x y _ => (x - y, 0))
  | .and d a b => some (d, usesDAB d a b, fun _ x y _ => (x &&& y, 0))
  | .or d a b => some (d, usesDAB d a b, fun _ x y _ => (x ||| y, 0))
  | .xor d a b => some (d, usesDAB d a b, fun _ x y _ => (x ^^^ y, 0))
  | .addi d a imm => some (d, usesDA d a, fun _ x _ _ => (x + BitVec.ofInt 64 imm, 0))
  | .andi d a imm => some (d, usesDA d a, fun _ x _ _ => (x &&& BitVec.ofInt 64 imm, 0))
  | .ori d a imm => some (d, usesDA d a, fun _ x _ _ => (x ||| BitVec.ofInt 64 imm, 0))
  | .xori d a imm => some (d, usesDA d a, fun _ x _ _ => (x ^^^ BitVec.ofInt 64 imm, 0))
  | .li d imm => some (d, usesD d, fun _ _ _ _ => (BitVec.ofInt 64 imm, 0))
  | .lih d imm => some (d, ⟨false, .none, .none, .both d⟩, fun _ _ _ o => (BitVec.ofInt 32 imm ++ o.setWidth 32, 0))
  | .not d a => some (d, usesDA d a, fun _ x _ _ => (x ^^^ BitVec.allOnes 64, 0))
  | .neg d a => some (d, usesDA d a, fun _ x _ _ => (0 - x, 0))
  | .abs d a => some (d, usesDA d a, fun _ x _ _ => (if x.toInt < 0 then 0 - x else x, 0))
  | .sextB d a => some (d, usesDA d a, fun _ x _ _ => (signExt 8 x, 0))
  | .sextH d a => some (d, usesDA d a, fun _ x _ _ => (signExt 16 x, 0))
  | .sextW d a => some (d, usesDA d a, fun _ x _ _ => (signExt 32 x, 0))
  | .zextB d a => some (d, usesDA d a, fun _ x _ _ => ((x.setWidth 8).setWidth 64, 0))
  | .zextH d a => some (d, usesDA d a, fun _ x _ _ => ((x.setWidth 16).setWidth 64, 0))
  | .zextW d a => some (d, usesDA d a, fun _ x _ _ => ((x.setWidth 32).setWidth 64, 0))
  | .shli d n => some (d, ⟨false, .none, .none, .both d⟩, fun _ _ _ o => (BitVec.ofNat 64 (o.toNat * 2 ^ n), 0))
  | .shri d n => some (d, ⟨false, .none, .none, .both d⟩, fun _ _ _ o => (BitVec.ofNat 64 (o.toNat / 2 ^ n), 0))
  | .srai d n => some (d, ⟨false, .none, .none, .both d⟩, fun _ _ _ o => (BitVec.ofInt 64 (o.toInt / 2 ^ n), 0))
  | .rori d n => some (d, ⟨false, .none, .none, .both d⟩, fun _ _ _ o => (o.rotateRight n, 0))
  | .shl d a b => some (d, usesDAB d a b, fun _ x y _ => (BitVec.ofNat 64 (x.toNat * 2 ^ (y.toNat % 64)), 0))
  | .shr d a b => some (d, usesDAB d a b, fun _ x y _ => (BitVec.ofNat 64 (x.toNat / 2 ^ (y.toNat % 64)), 0))
  | .sra d a b => some (d, usesDAB d a b, fun _ x y _ => (BitVec.ofInt 64 (x.toInt / 2 ^ (y.toNat % 64)), 0))
  | .ror d a b => some (d, usesDAB d a b, fun _ x y _ => (x.rotateRight (y.toNat % 64), 0))
  | .mul d a b => some (d, usesDAB d a b, fun _ x y _ => (BitVec.ofInt 64 (x.toInt * y.toInt), 0))
  | .mulh d a b => some (d, usesDAB d a b, fun _ x y _ => (BitVec.ofInt 64 (x.toInt * y.toInt / 2 ^ 64), 0))
  | .mulhu d a b => some (d, usesDAB d a b, fun _ x y _ => (BitVec.ofNat 64 (x.toNat * y.toNat / 2 ^ 64), 0))
  | .min d a b => some (d, usesDAB d a b, fun _ x y _ => (if x.toInt ≤ y.toInt then x else y, 0))
  | .minu d a b => some (d, usesDAB d a b, fun _ x y _ => (if x.toNat ≤ y.toNat then x else y, 0))
  | .max d a b => some (d, usesDAB d a b, fun _ x y _ => (if x.toInt ≤ y.toInt then y else x, 0))
  | .maxu d a b => some (d, usesDAB d a b, fun _ x y _ => (if x.toNat ≤ y.toNat then y else x, 0))
  | .lea d a b sh => some (d, usesDAB d a b, fun _ x y _ => (x + BitVec.ofNat 64 (y.toNat * 2 ^ sh), 0))
  | .clz d a => some (d, usesDA d a, fun _ x _ _ => (BitVec.ofNat 64 ((List.range 64).takeWhile fun k => !x.getLsbD (63 - k)).length, 0))
  | .ctz d a => some (d, usesDA d a, fun _ x _ _ => (BitVec.ofNat 64 ((List.range 64).takeWhile fun k => !x.getLsbD k).length, 0))
  | .popc d a => some (d, usesDA d a, fun _ x _ _ => (BitVec.ofNat 64 ((List.range 64).filter fun k => x.getLsbD k).length, 0))
  | .brev d a => some (d, usesDA d a, fun _ x _ _ => (x.reverse, 0))
  | .bswap d a => some (d, usesDA d a, fun _ x _ _ => (BitVec.ofNat 64 (x.toNat % 256 * 2 ^ 56 + x.toNat / 2 ^ 8 % 256 * 2 ^ 48 +
      x.toNat / 2 ^ 16 % 256 * 2 ^ 40 + x.toNat / 2 ^ 24 % 256 * 2 ^ 32 + x.toNat / 2 ^ 32 % 256 * 2 ^ 24 +
      x.toNat / 2 ^ 40 % 256 * 2 ^ 16 + x.toNat / 2 ^ 48 % 256 * 2 ^ 8 + x.toNat / 2 ^ 56 % 256), 0))
  | .extu d a pos len => some (d, usesDA d a, fun _ x _ _ => (BitVec.ofNat 64 (x.toNat / 2 ^ pos % 2 ^ bfLen len), 0))
  | .exts d a pos len => some (d, usesDA d a, fun _ x _ _ => (signExt (bfLen len) (BitVec.ofNat 64 (x.toNat / 2 ^ pos)), 0))
  | .ins d a pos len => some (d, ⟨false, .src a, .none, .both d⟩, fun _ x _ o =>
      (BitVec.ofNat 64 (o.toNat / 2 ^ (pos + bfLen len) * 2 ^ (pos + bfLen len) + x.toNat % 2 ^ bfLen len * 2 ^ pos +
        o.toNat % 2 ^ pos), 0))
  | .addw d a b => some (d, usesDAB d a b, fun _ x y _ => (word32 (· + ·) x y, 0))
  | .subw d a b => some (d, usesDAB d a b, fun _ x y _ => (word32 (· - ·) x y, 0))
  | .mulw d a b => some (d, usesDAB d a b, fun _ x y _ => (word32 (· * ·) x y, 0))
  | .div d a b => some (d, usesDAB d a b, fun _ x y _ =>
      (if y = 0 then BitVec.allOnes 64 else BitVec.ofInt 64 (x.toInt.tdiv y.toInt), 0))
  | .divu d a b => some (d, usesDAB d a b, fun _ x y _ =>
      (if y = 0 then BitVec.allOnes 64 else BitVec.ofNat 64 (x.toNat / y.toNat), 0))
  | .rem d a b => some (d, usesDAB d a b, fun _ x y _ => (if y = 0 then x else BitVec.ofInt 64 (x.toInt.tmod y.toInt), 0))
  | .remu d a b => some (d, usesDAB d a b, fun _ x y _ => (if y = 0 then x else BitVec.ofNat 64 (x.toNat % y.toNat), 0))
  | .lpc d off => some (d, usesD d, fun s _ _ _ => (s.cur.pc + w64 (2 * (s.cur.len - 1)) + wInt (2 * off), 0))
  | .mpop d a => some (d, usesD d, fun s _ _ _ => (w64 ((List.range 128).filter fun i => (s.mask a).getLsbD i).length, 0))
  | .mtox d a hi => some (d, usesD d, fun s _ _ _ => ((s.mask a).extractLsb' (if hi then 64 else 0) 64, 0))
  | .vext d a b w => some (d, ⟨false, .vec a, .src b, .dst d⟩, fun s _ y _ =>
      (w64 (laneOf (s.v a) w (y.toNat % laneCount w)), 0))
  | .tid d f => some (d, usesD d, fun s _ _ _ =>
      let c := s.launchId s.cur.unit
      (w64 (if f = 0 then c * 16 + s.cur.slot else if f = 1 then c else if f = 2 then c / 16 else c % 16), 0))
  | .rdc d f => some (d, usesD d, fun s _ _ _ =>
      (w64 (if f = 0 then s.me.cycles + (s.time - s.me.dispatched) else s.time), 0))
  | .fadd d a b dbl => some (d, usesDAB d a b, fun s x y _ =>
      wordFlags (addVal (scalarType dbl) s.env (readF (scalarType dbl) s.ftz x) (readF (scalarType dbl) s.ftz y)))
  | .fsub d a b dbl => some (d, usesDAB d a b, fun s x y _ =>
      wordFlags (addVal (scalarType dbl) s.env (readF (scalarType dbl) s.ftz x) (readF (scalarType dbl) s.ftz y).neg))
  | .fmul d a b dbl => some (d, usesDAB d a b, fun s x y _ =>
      wordFlags (mulVal (scalarType dbl) s.env (readF (scalarType dbl) s.ftz x) (readF (scalarType dbl) s.ftz y)))
  | .fdiv d a b dbl => some (d, usesDAB d a b, fun s x y _ =>
      wordFlags (divVal (scalarType dbl) s.env (readF (scalarType dbl) s.ftz x) (readF (scalarType dbl) s.ftz y)))
  | .fma d a b dbl => some (d, usesRmw d a b, fun s x y z =>
      wordFlags (fmaVal (scalarType dbl) s.env (readF (scalarType dbl) s.ftz x) (readF (scalarType dbl) s.ftz y)
        (readF (scalarType dbl) s.ftz z)))
  | .fsqrt d a dbl => some (d, usesDA d a, fun s x _ _ =>
      wordFlags (sqrtVal (scalarType dbl) s.env (readF (scalarType dbl) s.ftz x)))
  | .fmin d a b dbl => some (d, usesDAB d a b, fun s x y _ =>
      wordFlags (minMaxVal (scalarType dbl) s.ftz false (x.toNat % 2 ^ (typeFmt (scalarType dbl)).width)
        (y.toNat % 2 ^ (typeFmt (scalarType dbl)).width)))
  | .fmax d a b dbl => some (d, usesDAB d a b, fun s x y _ =>
      wordFlags (minMaxVal (scalarType dbl) s.ftz true (x.toNat % 2 ^ (typeFmt (scalarType dbl)).width)
        (y.toNat % 2 ^ (typeFmt (scalarType dbl)).width)))
  | .fcvt d a f dbl rtz => some (d, usesDA d a, fun s x _ _ =>
      wordFlags (fcvtVal (scalarType dbl) f ⟨if rtz then 1 else s.rm, s.ftz⟩ (if rtz then 1 else 0) x))
  | .fclass d a dbl => some (d, usesDA d a, fun _ x _ _ =>
      (w64 (2 ^ classOf (typeFmt (scalarType dbl)) (x.toNat % 2 ^ (typeFmt (scalarType dbl)).width)), 0))
  | .vredadd d a t m => some (d, usesXV d a, fun s _ _ _ =>
      wordFlags (tree (redOp 0 t s.env) (7 - typeWidth t) (redLanes s 0 a t m)))
  | .vredmin d a t m => some (d, usesXV d a, fun s _ _ _ =>
      wordFlags (tree (redOp 1 t s.env) (7 - typeWidth t) (redLanes s 1 a t m)))
  | .vredmax d a t m => some (d, usesXV d a, fun s _ _ _ =>
      wordFlags (tree (redOp 2 t s.env) (7 - typeWidth t) (redLanes s 2 a t m)))
  | _ => none

/-- The instructions of that list whose value comes after issue, so that q1 takes it under R505. -/
def lateOp : Instr → Bool
  | .div .. | .divu .. | .rem .. | .remu .. | .fdiv .. | .fsqrt .. => true
  | _ => false

/-- The skips: k, fields, condition and flags (R406, R452). -/
def skipOp : Instr → Option (Nat × Uses × (State → Word → Word → Bool × Nat))
  | .skeq k a b => some (k, ⟨false, .src a, skFld b, .none⟩, fun _ x y => (x == skVal b y, 0))
  | .skne k a b => some (k, ⟨false, .src a, skFld b, .none⟩, fun _ x y => (x != skVal b y, 0))
  | .sklt k a b => some (k, ⟨false, .src a, skFld b, .none⟩, fun _ x y => (decide (x.toInt < (skVal b y).toInt), 0))
  | .skge k a b => some (k, ⟨false, .src a, skFld b, .none⟩, fun _ x y => (decide ((skVal b y).toInt ≤ x.toInt), 0))
  | .skltu k a b => some (k, ⟨false, .src a, skFld b, .none⟩, fun _ x y => (decide (x.toNat < (skVal b y).toNat), 0))
  | .skgeu k a b => some (k, ⟨false, .src a, skFld b, .none⟩, fun _ x y => (decide ((skVal b y).toNat ≤ x.toNat), 0))
  | .skbs k a b => some (k, ⟨false, .src a, skFld b, .none⟩, fun _ x y => (x.toNat.testBit ((skVal b y).toNat % 64), 0))
  | .skbc k a b => some (k, ⟨false, .src a, skFld b, .none⟩, fun _ x y => (!x.toNat.testBit ((skVal b y).toNat % 64), 0))
  | .fskeq k a b dbl => some (k, usesAB a b, fun s x y =>
      FCond.eq.holds (readF (scalarType dbl) s.ftz x) (readF (scalarType dbl) s.ftz y))
  | .fsklt k a b dbl => some (k, usesAB a b, fun s x y =>
      FCond.lt.holds (readF (scalarType dbl) s.ftz x) (readF (scalarType dbl) s.ftz y))
  | .fskle k a b dbl => some (k, usesAB a b, fun s x y =>
      FCond.le.holds (readF (scalarType dbl) s.ftz x) (readF (scalarType dbl) s.ftz y))
  | .fskun k a b dbl => some (k, usesAB a b, fun s x y =>
      FCond.un.holds (readF (scalarType dbl) s.ftz x) (readF (scalarType dbl) s.ftz y))
  | .fskltq k a b dbl => some (k, usesAB a b, fun s x y =>
      FCond.ltq.holds (readF (scalarType dbl) s.ftz x) (readF (scalarType dbl) s.ftz y))
  | .fskleq k a b dbl => some (k, usesAB a b, fun s x y =>
      FCond.leq.holds (readF (scalarType dbl) s.ftz x) (readF (scalarType dbl) s.ftz y))
  | _ => none

/-- The instructions that set lanes of v[d] one by one: destination, width code, mask (0: every lane is written), fields,
and the value and flags of lane i, of the state and the values of fields a and b (R472 to R483). -/
def laneResult : Instr → Option (Nat × Nat × Nat × Uses × (State → Word → Word → Nat → Int × Nat))
  | .vadd d a b w m => some (d, w, m, usesVAB d a b, fun s _ _ i => (laneOf (s.v a) w i + laneOf (s.v b) w i, 0))
  | .vsub d a b w m => some (d, w, m, usesVAB d a b, fun s _ _ i => ((laneOf (s.v a) w i : Int) - laneOf (s.v b) w i, 0))
  | .vaddSat d a b w m => some (d, w, m, usesVAB d a b, fun s _ _ i =>
      (clampS (laneBits w) (laneS (s.v a) w i + laneS (s.v b) w i), 0))
  | .vsubSat d a b w m => some (d, w, m, usesVAB d a b, fun s _ _ i =>
      (clampS (laneBits w) (laneS (s.v a) w i - laneS (s.v b) w i), 0))
  | .vmul d a b w m => some (d, w, m, usesVAB d a b, fun s _ _ i => (laneOf (s.v a) w i * laneOf (s.v b) w i, 0))
  | .vand d a b w m => some (d, w, m, usesVAB d a b, fun s _ _ i => ((laneOf (s.v a) w i &&& laneOf (s.v b) w i : Nat), 0))
  | .vor d a b w m => some (d, w, m, usesVAB d a b, fun s _ _ i => ((laneOf (s.v a) w i ||| laneOf (s.v b) w i : Nat), 0))
  | .vxor d a b w m => some (d, w, m, usesVAB d a b, fun s _ _ i => ((laneOf (s.v a) w i ^^^ laneOf (s.v b) w i : Nat), 0))
  | .vshl d a b w m => some (d, w, m, usesVAB d a b, fun s _ _ i =>
      (laneOf (s.v a) w i * 2 ^ (laneOf (s.v b) w i % laneBits w), 0))
  | .vshr d a b w m => some (d, w, m, usesVAB d a b, fun s _ _ i =>
      ((laneOf (s.v a) w i / 2 ^ (laneOf (s.v b) w i % laneBits w) : Nat), 0))
  | .vsra d a b w m => some (d, w, m, usesVAB d a b, fun s _ _ i =>
      (laneS (s.v a) w i / 2 ^ (laneOf (s.v b) w i % laneBits w), 0))
  | .vmin d a b w m => some (d, w, m, usesVAB d a b, fun s _ _ i => (min (laneS (s.v a) w i) (laneS (s.v b) w i), 0))
  | .vminu d a b w m => some (d, w, m, usesVAB d a b, fun s _ _ i =>
      ((min (laneOf (s.v a) w i) (laneOf (s.v b) w i) : Nat), 0))
  | .vmax d a b w m => some (d, w, m, usesVAB d a b, fun s _ _ i => (max (laneS (s.v a) w i) (laneS (s.v b) w i), 0))
  | .vmaxu d a b w m => some (d, w, m, usesVAB d a b, fun s _ _ i =>
      ((max (laneOf (s.v a) w i) (laneOf (s.v b) w i) : Nat), 0))
  | .vsel d a b w m => some (d, w, 0, usesVAB d a b, fun s _ _ i =>
      (if (s.mask m).getLsbD i then laneOf (s.v a) w i else laneOf (s.v b) w i, 0))
  | .vperm d a b w m => some (d, w, m, usesVAB d a b, fun s _ _ i =>
      (laneOf (s.v a) w (laneOf (s.v b) w i % laneCount w), 0))
  | .vbcast d a w m => some (d, w, m, ⟨false, .src a, .none, .vec d⟩, fun _ x _ _ => (x.toNat, 0))
  | .vidx d w m => some (d, w, m, ⟨false, .none, .none, .vec d⟩, fun _ _ _ i => (i, 0))
  | .vmov d a w m => some (d, w, m, usesVA d a, fun s _ _ i => (laneOf (s.v a) w i, 0))
  | .vfadd d a b t m => some (d, typeWidth t, m, usesVAB d a b, fun s _ _ i =>
      laneFlags (addVal t s.env (laneF t s.ftz (s.v a) i) (laneF t s.ftz (s.v b) i)))
  | .vfsub d a b t m => some (d, typeWidth t, m, usesVAB d a b, fun s _ _ i =>
      laneFlags (addVal t s.env (laneF t s.ftz (s.v a) i) (laneF t s.ftz (s.v b) i).neg))
  | .vfmul d a b t m => some (d, typeWidth t, m, usesVAB d a b, fun s _ _ i =>
      laneFlags (mulVal t s.env (laneF t s.ftz (s.v a) i) (laneF t s.ftz (s.v b) i)))
  | .vfdiv d a b t m => some (d, typeWidth t, m, usesVAB d a b, fun s _ _ i =>
      laneFlags (divVal t s.env (laneF t s.ftz (s.v a) i) (laneF t s.ftz (s.v b) i)))
  | .vfma d a b t m => some (d, typeWidth t, m, usesVAB d a b, fun s _ _ i =>
      laneFlags (fmaVal t s.env (laneF t s.ftz (s.v a) i) (laneF t s.ftz (s.v b) i) (laneF t s.ftz (s.v d) i)))
  | .vfsqrt d a t m => some (d, typeWidth t, m, usesVA d a, fun s _ _ i =>
      laneFlags (sqrtVal t s.env (laneF t s.ftz (s.v a) i)))
  | .vfmin d a b t m => some (d, typeWidth t, m, usesVAB d a b, fun s _ _ i =>
      laneFlags (minMaxVal t s.ftz false (laneOf (s.v a) (typeWidth t) i) (laneOf (s.v b) (typeWidth t) i)))
  | .vfmax d a b t m => some (d, typeWidth t, m, usesVAB d a b, fun s _ _ i =>
      laneFlags (minMaxVal t s.ftz true (laneOf (s.v a) (typeWidth t) i) (laneOf (s.v b) (typeWidth t) i)))
  | .vfscl d a b t m => some (d, typeWidth t, m, ⟨false, .vec a, .src b, .vec d⟩, fun s _ y i =>
      laneFlags (scaleVal t s.env y.toInt (laneF t s.ftz (s.v a) i)))
  | _ => none

/-- The instructions that set a whole mask: destination, fields, and bit i of the mask with the flags it raises, of the
state and the value of field a (R420, R427, R474, R481). -/
def maskResult : Instr → Option (Nat × Uses × (State → Word → Nat → Bool × Nat))
  | .mand d a b => some (d, usesNone, fun s _ i => ((s.mask a).getLsbD i && (s.mask b).getLsbD i, 0))
  | .mor d a b => some (d, usesNone, fun s _ i => ((s.mask a).getLsbD i || (s.mask b).getLsbD i, 0))
  | .mxor d a b => some (d, usesNone, fun s _ i => ((s.mask a).getLsbD i != (s.mask b).getLsbD i, 0))
  | .mnot d a => some (d, usesNone, fun s _ i => (!(s.mask a).getLsbD i, 0))
  | .mfromx d a hi => some (d, usesA a, fun s x i =>
      (if hi then (if i < 64 then (s.mask d).getLsbD i else x.getLsbD (i - 64))
       else (if i < 64 then x.getLsbD i else (s.mask d).getLsbD i), 0))
  | .vcmp d a b c w => some (d, ⟨false, .vec a, .vec b, .none⟩, fun s _ i =>
      (decide (i < laneCount w) && laneCond c (laneBits w) (laneOf (s.v a) w i) (laneOf (s.v b) w i), 0))
  | .vfcmp d a b c t => some (d, ⟨false, .vec a, .vec b, .none⟩, fun s _ i =>
      if i < laneCount (typeWidth t) then (vfCond c).holds (laneF t s.ftz (s.v a) i) (laneF t s.ftz (s.v b) i)
      else (false, 0))
  | _ => none

/-- The fields of an instruction, as its reference names them; events have none. -/
def usesOf (s : State) : Instr → Option Uses
  | .add d a b | .sub d a b | .and d a b | .or d a b | .xor d a b | .mul d a b | .mulh d a b | .mulhu d a b
  | .div d a b | .divu d a b | .rem d a b | .remu d a b | .min d a b | .minu d a b | .max d a b | .maxu d a b
  | .shl d a b | .shr d a b | .sra d a b | .ror d a b | .lea d a b _ | .addw d a b | .subw d a b | .mulw d a b
  | .ldxb d a b _ _ | .ldxbu d a b _ _ | .ldxh d a b _ _ | .ldxhu d a b _ _ | .ldxw d a b _ _ | .ldxwu d a b _ _
  | .ldx d a b _ _ | .amoadd d a b _ _ _ | .amoand d a b _ _ _ | .amoor d a b _ _ _ | .amoxor d a b _ _ _
  | .amomin d a b _ _ _ | .amomax d a b _ _ _ | .amominu d a b _ _ _ | .amomaxu d a b _ _ _ | .amoswap d a b _ _ _
  | .amof d a b _ _ _ | .waitm d a b _ | .rinja d a b | .rinjb d a b | .pmark d a b | .rfetch d a b | .cpy d a b _
  | .fadd d a b _ | .fsub d a b _ | .fmul d a b _ | .fdiv d a b _ | .fmin d a b _ | .fmax d a b _ | .bxf d a b
    => some (usesDAB d a b)
  | .addi d a _ | .ld d a _ _ | .callr d a | .not d a | .neg d a | .abs d a | .sextB d a | .sextH d a | .sextW d a
  | .zextB d a | .zextH d a | .zextW d a | .clz d a | .ctz d a | .popc d a | .brev d a | .bswap d a | .extu d a _ _
  | .exts d a _ _ | .ldb d a _ _ | .ldbu d a _ _ | .ldh d a _ _ | .ldhu d a _ _ | .ldw d a _ _ | .ldwu d a _ _
  | .ldLong d a _ _ | .tagq d a | .mfmt d a | .rstat d a | .cwait d a | .fsqrt d a _ | .fcvt d a _ _ _
  | .fclass d a _ | .andi d a _ | .ori d a _ | .xori d a _ | .dld d a _ | .rgn d a | .conerd d a => some (usesDA d a)
  | .li d _ | .bcwait d _ | .tid d _ | .lpc d _ | .mpop d _ | .mtox d _ _ | .rdc d _ => some (usesD d)
  | .st d a _ _ | .stb d a _ _ | .sth d a _ _ | .stw d a _ _ | .stLong d a _ _ | .ttrn d a | .ship d a | .dst d a _
    => some ⟨false, .src a, .none, .src d⟩
  | .skeq _ a b | .skne _ a b | .sklt _ a b | .skge _ a b | .skltu _ a b | .skgeu _ a b | .skbs _ a b | .skbc _ a b
    => some ⟨false, .src a, skFld b, .none⟩
  | .br _ | .nop | .endTask | .yield | .fence _ | .fencem _ | .fencee _ | .fencer _ | .mzero _ | .btag _ _ | .fork _
  | .ppt _ | .mand _ _ _ | .mor _ _ _ | .mxor _ _ _ | .mnot _ _ | .hend | .hdefer | .trap _ | .brk _ => some usesNone
  | .call _ => some (usesD 1)
  | .jr a | .prefr a _ | .prefw a _ | .prefk a _ | .prefrel a _ | .bar _ a | .bcarm _ a | .mld _ a | .dtld _ a
  | .join a _ | .tdec a _ | .mfromx _ a _ => some (usesA a)
  | .ret => some (usesA 1)
  | .shli d _ | .shri d _ | .srai d _ | .rori d _ | .lih d _ => some ⟨false, .none, .none, .both d⟩
  | .ins d a _ _ => some ⟨false, .src a, .none, .both d⟩
  | .stxb d a b _ _ | .stxh d a b _ _ | .stxw d a b _ _ | .stx d a b _ _ | .tarm d a b | .grant d a b
    => some (usesRead d a b)
  | .vld d a _ _ _ _ | .vst d a _ _ _ _ | .vbcast d a _ _ => some ⟨false, .src a, .none, .vec d⟩
  | .vlds d a b _ _ _ | .vsts d a b _ _ _ | .vins d a b _ => some ⟨false, .src a, .src b, .vec d⟩
  | .vgth d a b _ _ _ | .vsct d a b _ _ _ => some ⟨false, .src a, .vec b, .vec d⟩
  | .cas d a b _ _ | .fma d a b _ => some (usesRmw d a b)
  | .vadd d a b _ _ | .vaddSat d a b _ _ | .vsub d a b _ _ | .vsubSat d a b _ _ | .vmul d a b _ _ | .vand d a b _ _
  | .vor d a b _ _ | .vxor d a b _ _ | .vshl d a b _ _ | .vshr d a b _ _ | .vsra d a b _ _ | .vmin d a b _ _
  | .vminu d a b _ _ | .vmax d a b _ _ | .vmaxu d a b _ _ | .vsel d a b _ _ | .vperm d a b _ _ | .vfadd d a b _ _
  | .vfsub d a b _ _ | .vfmul d a b _ _ | .vfma d a b _ _ | .vfdiv d a b _ _ | .vfmin d a b _ _ | .vfmax d a b _ _
    => some (usesVAB d a b)
  | .vcmp _ a b _ _ | .vfcmp _ a b _ _ => some ⟨false, .vec a, .vec b, .none⟩
  | .vidx d _ _ => some ⟨false, .none, .none, .vec d⟩
  | .vmov d a _ _ | .vfsqrt d a _ _ | .vcvt d a _ _ _ | .vdec d a _ _ _ | .venc d a _ _ _ => some (usesVA d a)
  | .vredadd d a _ _ | .vredmin d a _ _ | .vredmax d a _ _ | .vbsc d a _ _ _ | .vpush d a
    => some ⟨false, .vec a, .none, .dst d⟩
  | .vfscl d a b _ _ => some ⟨false, .vec a, .src b, .vec d⟩
  | .mma _ a b _ _ | .pset a b | .forkh a b | .fskeq _ a b _ | .fsklt _ a b _ | .fskle _ a b _ | .fskun _ a b _
  | .fskltq _ a b _ | .fskleq _ a b _ => some (usesAB a b)
  | .mst d _ b _ => some ⟨false, .none, .src b, .dst d⟩
  | .pclr b => some ⟨false, .none, .src b, .none⟩
  | .qstat d n => some ⟨false, if n = 7 then .deque 127 else .none, .none, .dst d⟩
  | .vpop d a => some ⟨false, .deque a, .none, .vec d⟩
  | .vext d a b _ => some ⟨false, .vec a, .src b, .dst d⟩
  | .hsend d a b => some ⟨false, .src a, if b < 120 then .src b else .none, .dst d⟩
  | .srd d n => some (if s.sysDenied n then usesNone else usesD d)
  | .swr n a => some (if s.sysDenied n then usesNone else usesA a)
  | .eret | .idle => some (usesNone.sup)
  | .wake a => some ((usesA a).sup)
  | .waket d a b => some ((usesRead d a b).sup)
  | .tstart d a | .sstop d a | .cqsc d a => some ((usesDA d a).sup)
  | .xinv a b => some ((usesAB a b).sup)
  | _ => none

/-! ## Accesses -/

/-- Where byte k of a place is. -/
def Place.loc (s : State) (k : Nat) : Place → Loc
  | .sram c off => .sram c (off + k)
  | .handler off => .handler s.cur.unit (off + k)
  | .slice pa => .phys (pa + k)
  | .phys pa pte => if uncachedProt pte then .phys (pa + k) else .cached s.cur.unit (pa + k)
  | .device off => .phys off

/-- Where a parked watcher looks at a dword, and whether it looks at its home (R410). -/
def Place.watchAt : Place → Nat
  | .sram _ off | .handler off | .device off => off
  | .slice pa | .phys pa _ => pa
def Place.watchHome : Place → Bool
  | .slice _ => true
  | .phys _ pte => uncachedProt pte
  | _ => false

/-- The little-endian value of n bytes at a place (R4). -/
def State.value (s : State) (p : Place) (n : Nat) : Nat := ((List.range n).map fun k => (s.byteAt (p.loc s k)).toNat * 256 ^ k).sum

/-- A register's value after a load of n bytes (R413). -/
def loaded (n : Nat) (sgn : Bool) (v : Nat) : Word := if sgn then signExt (8 * n) (w64 v) else w64 v

/-- The core performs an access of the kind to n bytes at the place itself: in its local memory, its handler memory, or one
block of its data cache (R265, R266, R283). -/
def State.performs (s : State) (a : Acc) (n : Nat) : Place → Bool
  | .device _ => false
  | .phys pa pte =>
    let k := s.myCore.block (blockOf pa)
    let reads := a == .load || a == .vload || a == .fetch
    !uncachedProt pte && decide (pa % 64 + n ≤ 64) && (k.tag == .rw || (k.tag == .ro && reads)) &&
      (s.myCore.far.look (blockOf pa)).isNone && (pteProt pte != pReduce || (reads && !k.partialCopy))
  | _ => true

/-- The core sees no poison at the place for an access of the element; what a home finds it answers with FAIL. -/
def State.clean (s : State) (e : El) (p : Place) : Bool := (s.poisonAt e p).isNone

/-- No FLUSH or CLOSE of the core is unanswered, no region is to be closed, and no block has a release action (R268). -/
def State.flushedOut (s : State) : Bool :=
  s.myCore.flushes.isEmpty && s.myCore.closing.isEmpty && s.me.release.stage == 0 &&
    !(s.myCore.cache.any fun e => s.needsFlush s.cur.unit e.2)

/-- Everything that a release of the scope waits for is done, and no block has a release action (R177, R268, R302). -/
def State.drained (s : State) (wide : Bool) : Bool :=
  s.me.pending.isEmpty && (s.cur.pp || ((s.myCore.array.ops s.cur.slot).isEmpty && (!wide || s.flushedOut)))

/-- The state after such a release. -/
def State.releasedAt (s : State) (wide : Bool) : State :=
  if wide && !s.cur.pp then s.modMe fun t => { t with release := ⟨0, 0⟩ } else s

/-- The release part of an ordering, if it has one. -/
def State.orderedOk (s : State) (o : OrdFld) : Bool := !ordReleases o || s.drained (o.scope != .core)
def State.orderedAt (s : State) (o : OrdFld) : State := if ordReleases o then s.releasedAt (o.scope != .core) else s

/-- x[d], if it is q1, has room for the value to come (R79, R505). -/
def State.roomFor (t : State) (d : Nat) : Prop := d = 121 → t.q1Room 1 = true

/-- The state of a thread that began at s and finds q1 without room for x[d] (R79). -/
def State.noRoom (s : State) : State := s.modMe fun h => h.parked .qfull (.q1room 1)

/-- A message that v in x[d] would complete may be sent: all that its release waits for is done (R237, R268). -/
def State.takes (t : State) (d : Nat) (v : Word) : Prop := d = 121 → t.me.queues.completes v = true → t.drained true = true

/-- The state after an instruction that began at s and whose last effect, at t, is x[d] := v (R79, R237, R505; log entries 34
and 101). A register takes the value. q1 without room parks the instruction; a header that fails its checks traps, of a
value known at issue now, of a `late` one with the next issue; else q1 takes the dword, which sends a message it completes. -/
def State.gives (late : Bool) (s t : State) (d : Nat) (v : Word) : State :=
  if d ≠ 121 then t.setX d v
  else if t.q1Room 1 = false then s.noRoom
  else
    let ends := t.me.queues.completes v
    let sent := if ends then t.releasedAt true else t
    match (if t.me.queues.q1partial = 0 then t.headerFault v else none) with
    | some e => if late then sent.modMe fun h => { h with lateTrap := some (0x0D, w64 (0x1000 + e)) } else s.takeTrap 0x0D (w64 e) none
    | none => sent.modQueues fun q => { q with
        q1 := q.q1 ++ [t.pushed v], q1partial := if ends then 0 else q.q1partial + 1 }

/-- A scalar load or store: register, bytes, sign extension, ordering, fields, address of the values of a and b. -/
structure Access where
  d : Nat
  size : Nat
  signed : Bool
  ord : OrdFld
  uses : Uses
  addr : Word → Word → Word

/-- The element that the access names. -/
def Access.el (x : Access) (a b : Word) : El := ⟨(x.addr a b).toNat, x.size, 0⟩

/-- x[a] + imm × size, and x[a] + (x[b] << s) (R412, R414, R458, R460). -/
def immForm (st : Bool) (d a : Nat) (imm : Int) (size : Nat) (sgn : Bool) (o : OrdFld) : Access :=
  ⟨d, size, sgn, o, if st then ⟨false, .src a, .none, .src d⟩ else usesDA d a, fun x _ => x + BitVec.ofInt 64 (imm * size)⟩
def idxForm (st : Bool) (d a b sh size : Nat) (sgn : Bool) (o : OrdFld) : Access :=
  ⟨d, size, sgn, o, if st then usesRead d a b else usesDAB d a b, fun x y => x + BitVec.ofNat 64 (y.toNat * 2 ^ sh)⟩

/-- The scalar loads. -/
def loadOp : Instr → Option Access
  | .ld d a imm o | .ldLong d a imm o => some (immForm false d a imm 8 false o)
  | .ldb d a imm o => some (immForm false d a imm 1 true o)
  | .ldbu d a imm o => some (immForm false d a imm 1 false o)
  | .ldh d a imm o => some (immForm false d a imm 2 true o)
  | .ldhu d a imm o => some (immForm false d a imm 2 false o)
  | .ldw d a imm o => some (immForm false d a imm 4 true o)
  | .ldwu d a imm o => some (immForm false d a imm 4 false o)
  | .ldxb d a b sh o => some (idxForm false d a b sh 1 true o)
  | .ldxbu d a b sh o => some (idxForm false d a b sh 1 false o)
  | .ldxh d a b sh o => some (idxForm false d a b sh 2 true o)
  | .ldxhu d a b sh o => some (idxForm false d a b sh 2 false o)
  | .ldxw d a b sh o => some (idxForm false d a b sh 4 true o)
  | .ldxwu d a b sh o => some (idxForm false d a b sh 4 false o)
  | .ldx d a b sh o => some (idxForm false d a b sh 8 false o)
  | _ => none

/-- The scalar stores. -/
def storeOp : Instr → Option Access
  | .st d a imm o | .stLong d a imm o => some (immForm true d a imm 8 false o)
  | .stb d a imm o => some (immForm true d a imm 1 false o)
  | .sth d a imm o => some (immForm true d a imm 2 false o)
  | .stw d a imm o => some (immForm true d a imm 4 false o)
  | .stxb d a b sh o => some (idxForm true d a b sh 1 false o)
  | .stxh d a b sh o => some (idxForm true d a b sh 2 false o)
  | .stxw d a b sh o => some (idxForm true d a b sh 4 false o)
  | .stx d a b sh o => some (idxForm true d a b sh 8 false o)
  | _ => none

/-- A vector load or store: register, width code, mask, ordering, form, fields, address of lane i of the state and the
values of a and b (R485). -/
structure VecAccess where
  d : Nat
  w : Nat
  m : Nat
  ord : OrdFld
  form : Form
  uses : Uses
  addr : State → Word → Word → Nat → Word

/-- The elements of a vector access: one for each active lane, in lane order (R80, R229). -/
def VecAccess.els (x : VecAccess) (s : State) (a b : Word) : List El :=
  ((List.range (laneCount x.w)).filter fun i => (s.mask x.m).getLsbD i).map fun i => ⟨(x.addr s a b i).toNat, 2 ^ x.w, i⟩

/-- The vector loads. -/
def vloadOp : Instr → Option VecAccess
  | .vld d a imm w m o => some ⟨d, w, m, o, .vector, ⟨false, .src a, .none, .vec d⟩,
      fun _ x _ i => x + BitVec.ofInt 64 (128 * imm + i * 2 ^ w)⟩
  | .vlds d a b w m o => some ⟨d, w, m, o, .vector, ⟨false, .src a, .src b, .vec d⟩, fun _ x y i => x + BitVec.ofNat 64 i * y⟩
  | .vgth d a b w m o => some ⟨d, w, m, o, .indexed, ⟨false, .src a, .vec b, .vec d⟩,
      fun s x _ i => x + BitVec.ofInt 64 (laneS (s.v b) w i)⟩
  | _ => none
/-- The vector stores. -/
def vstoreOp : Instr → Option VecAccess
  | .vst d a imm w m o => some ⟨d, w, m, o, .vector, ⟨false, .src a, .none, .vec d⟩,
      fun _ x _ i => x + BitVec.ofInt 64 (128 * imm + i * 2 ^ w)⟩
  | .vsts d a b w m o => some ⟨d, w, m, o, .vector, ⟨false, .src a, .src b, .vec d⟩, fun _ x y i => x + BitVec.ofNat 64 i * y⟩
  | .vsct d a b w m o => some ⟨d, w, m, o, .indexed, ⟨false, .src a, .vec b, .vec d⟩,
      fun s x _ i => x + BitVec.ofInt 64 (laneS (s.v b) w i)⟩
  | _ => none

/-- An atomic: register, bytes, far form, ordering, fields, whether the old value is sign-extended, what the place holds
after it, of the old value and of the values of b and d (R372 to R375). -/
structure AtomAccess where
  d : Nat
  size : Nat
  far : Bool
  form : Form
  ord : OrdFld
  uses : Uses
  signed : Bool
  new : Nat → Word → Word → Nat

/-- An operation on the low n bytes, of the old value and the operand. -/
def amoForm (d a b : Nat) (dbl far : Bool) (o : OrdFld) (f : (w : Nat) → BitVec w → BitVec w → BitVec w) : AtomAccess :=
  let n := if dbl then 8 else 4
  ⟨d, n, far, .amo, o, usesDAB d a b, true, fun old v _ => (f (8 * n) (BitVec.ofNat (8 * n) old) (v.setWidth (8 * n))).toNat⟩

/-- The atomics. -/
def atomOp : Instr → Option AtomAccess
  | .amoadd d a b dbl far o => some (amoForm d a b dbl far o fun _ x y => x + y)
  | .amoand d a b dbl far o => some (amoForm d a b dbl far o fun _ x y => x &&& y)
  | .amoor d a b dbl far o => some (amoForm d a b dbl far o fun _ x y => x ||| y)
  | .amoxor d a b dbl far o => some (amoForm d a b dbl far o fun _ x y => x ^^^ y)
  | .amomin d a b dbl far o => some (amoForm d a b dbl far o fun _ x y => if x.toInt ≤ y.toInt then x else y)
  | .amomax d a b dbl far o => some (amoForm d a b dbl far o fun _ x y => if x.toInt ≤ y.toInt then y else x)
  | .amominu d a b dbl far o => some (amoForm d a b dbl far o fun _ x y => if x.toNat ≤ y.toNat then x else y)
  | .amomaxu d a b dbl far o => some (amoForm d a b dbl far o fun _ x y => if x.toNat ≤ y.toNat then y else x)
  | .amoswap d a b dbl far o => some (amoForm d a b dbl far o fun _ _ y => y)
  | .amof d a b dbl far o =>
      let n := if dbl then 8 else 4
      some ⟨d, n, far, .amof, o, usesDAB d a b, false, fun old v _ => addNearest dbl old (v.toNat % 256 ^ n)⟩
  | .cas d a b dbl o =>
      let n := if dbl then 8 else 4
      some ⟨d, n, false, .amo, o, usesRmw d a b, true, fun old v c => if old = c.toNat % 256 ^ n then v.toNat % 256 ^ n else old⟩
  | _ => none

/-! ## Matrix operations, injections, jobs -/

/-- A group of tile slots: the first, how many, and whether the operation writes them (R173). -/
structure Group where
  n : Nat
  k : Nat
  write : Bool

/-- The group that an operand names: its low 9 bits. -/
def groupOf (x : Word) (k : Nat) (write : Bool) : Group := ⟨x.toNat % 512, k, write⟩
/-- The slots of the group, in order, each with whether it is written. -/
def Group.slots (g : Group) : List (Nat × Bool) := (List.range g.k).map fun i => (g.n + i, g.write)

/-- A slot that a matrix operation may not touch: reserved by the rings, or pinned and written (R175). -/
def State.slotBarred (s : State) (x : Nat × Bool) : Bool :=
  s.ringOn s.cur.unit && decide (480 ≤ x.1) || x.2 && s.myCore.pins.at x.1 0 != 0

/-- A matrix operation: its groups in the order of R175, the decode tables it uses, the EVAL of its format fault, what joins the
queue. -/
structure MatForm where
  groups : List Group
  tables : List Nat
  fault : Option Nat
  kind : MatKind

/-- A scale for a 16-bit kind; a 4-bit operand whose table no 4-bit format fits (R174, R175). -/
def scaleOn16 (on : Bool) (kind : Nat) : Bool := on && decide (2 ≤ kind)
def State.unfit4 (s : State) (four : Bool) (tab : Nat) : Bool := four && !s.myCore.fourOk tab

/-- The matrix operations of the state and the values of a, b and d (R424 to R431, R471). -/
def matForm (t : State) (x y z : Word) : Instr → Option MatForm
  | .mma d _ _ clear tr =>
      let c := t.me.regs.fmtctx
      some ⟨[groupOf x (if fld c 4 3 < 2 then 1 else 2) false, groupOf y (if fld c 12 11 < 2 then 1 else 2) false],
        (if fld c 4 3 < 2 then [fld c 2 0] else []) ++ (if fld c 12 11 < 2 then [fld c 10 8] else []),
        if scaleOn16 (c.getLsbD 5) (fld c 4 3) || scaleOn16 (c.getLsbD 13) (fld c 12 11) then some 17
        else if t.unfit4 (fld c 4 3 == 1) (fld c 2 0) || t.unfit4 (fld c 12 11 == 1) (fld c 10 8) then some 16 else none,
        .mma d (x.toNat % 512) (y.toNat % 512) clear tr⟩
  | .mzero d => some ⟨[], [], none, .mzero d⟩
  | .mld d _ => some ⟨[groupOf x 4 false], [], none, .mld d (x.toNat % 512)⟩
  | .mst _ a _ f =>
      let c := t.me.regs.fmtctx
      some ⟨[groupOf y (match f with | 0 => 4 | 3 => 1 | _ => 2) true], if f = 3 then [fld c 18 16] else [],
        if t.unfit4 (f == 3 && c.getLsbD 19) (fld c 18 16) then some 16 else none, .mst f a (y.toNat % 512)⟩
  | .ttrn _ _ =>
      let c := t.me.regs.fmtctx
      let k := if fld c 4 3 < 2 then 1 else 2
      some ⟨[groupOf x k false, groupOf z k true], [], if scaleOn16 (c.getLsbD 5) (fld c 4 3) then some 17 else none,
        .ttrn (z.toNat % 512) (x.toNat % 512)⟩
  | _ => none

/-- The operation joins its thread's queue of the array, with the format context of now (R87, R176). -/
def State.joined (s : State) (kind : MatKind) (late : Nat) : State :=
  s.modMyCore fun k =>
    let q := k.array.queues.at s.cur.slot [] ++ [⟨kind, s.me.regs.fmtctx, late, s.time, none⟩]
    { k with array := { k.array with queues := k.array.queues.put s.cur.slot q } }

/-- A result that will come to x[d] under an id. -/
def State.awaits (s : State) (id d : Nat) : State :=
  s.modMe fun t => { t with pending := t.pending ++ [⟨id, 0, lateDest d, 0, 8, false, .waiting⟩] }

/-- The EVAL of the RING trap of RINJ: the first condition of R191 that fails. -/
def State.injectFault (s : State) (fam : Nat) (a h : Word) : Option Nat :=
  let m := s.myHem
  if m.hemctl.getLsbD 0 = false then some 0x1001
  else if 480 ≤ a.toNat % 512 then some (a.toNat % 512)
  else if hFam h ≠ fam then some 0x1002
  else if hPartners h = 0 ∨ fld h 21 19 ≠ 0 then some 0x1003
  else match m.entryFor fam (hMat h) with
    | none => some 0x1004
    | some (_, p) =>
      if (if fam = 0 then p.oi else p.oj) ≤ hX h ∨ p.kb ≤ hK h then some 0x1005
      else if (m.liveTile fam (hMat h) (hX h) (hK h)).isSome then some 0x100C
      else none

/-- The job that CPY pushes, of its descriptor's address and tag, its kind, its first four dwords and its dimension
entries (R246, R247). -/
def State.newJob (s : State) (a tag : Word) (kind raw : Nat) (dims : List Word) : Job :=
  { state := .queued, core := s.cur.unit, slot := s.cur.slot, priv := s.me.priv, kind, src := w64 raw,
    dst := w64 (raw / 2 ^ 64), ctl := w64 (raw / 2 ^ 128), aux := w64 (raw / 2 ^ 192), dims := dimsOf dims, desc := a, tag,
    pos := 0, delivered := 0, cause := 0, order := s.myHem.jobOrder, index := none, buf := [], wrote := 0,
    waiting := false, rseq := 0, asked := 0 }

/-- Dwords pushed into q1, of which the first `rem` go on with the message under way: each dword that is a header has SOURCE in bits
[45:32] (R236, R237). -/
def sourced (src : Word) : Nat → List Word → List Word
  | _, [] => []
  | 0, h :: l => setFld h 45 32 src.toNat :: sourced src (fld h 23 20) l
  | n + 1, w :: l => w :: sourced src n l

/-! ## What a thread waits for -/

/-- The condition that a parked or WAITING thread waits for holds at its slot (R45, R47, R410, R489): for each wait, what ends it. -/
def State.goesOn (s : State) : Prop :=
  match s.me.wait with
  | .nothing | .page _ => False
  | .regs n => ∀ l ∈ s.me.pending, l.id ≠ n
  | .results => s.me.pending = []
  | .queue q n => (s.popN q n).isSome = true
  | .q1room n => s.q1Room n = true
  | .block pa _ => s.myCore.tagAt pa ≠ .busy
  | .barrier i => (fld (s.myCore.bar i) 63 48).testBit s.cur.slot = true
  | .bytes i => fld (s.me.regs.barrier i) 62 0 = 0 ∨ (s.failedAt s.cur.unit s.cur.slot i).isSome = true
  | .zeroAt va pa uc _ => uc = false ∧ ∀ v, s.watched s.cur.pp s.cur.unit va pa uc = some v → v = 0
  | .differsAt va pa x uc _ => uc = false ∧ ∀ v, s.watched s.cur.pp s.cur.unit va pa uc = some v → v ≠ x
  | .jobEnd n => ∀ j, s.jobOf s.cur.unit s.cur.slot n = some j → j.state.ended = true
  | .jobsEnd => ∀ e ∈ s.myHem.heldBy s.cur.unit s.cur.slot, e.2.state.ended = true ∨ e.2.kind = 5
  | .jobRoom => s.jobRoom s.cur.unit s.cur.slot = true
  | .liveCap fam => s.myHem.live fam < s.myHem.cap fam ∧ s.myHem.stopped = false
  | .q7 => s.myCore.q7 ≠ []
  | .release => s.myCore.releaseOpen s.me = false
  | .matrix => s.myCore.array.ops s.cur.slot = []
  | .asks => ∀ a ∈ s.me.asks, a.val ≠ .waiting
  | .line b => s.walkStores.look b = none
  | .invalidations l => ∀ r ∈ l, s.unperformed r = false
  | .rings => s.ringsOpen s.cur.unit s.cur.slot = false
  | .table i => s.myCore.tableHeld s.cur.slot i = false
  | .tableUsers i since => s.myCore.array.uses i since = false
  | .departure dst => s.mayDepart dst = true
  | .ending _ => s.me.queues.q1 = [] ∧ s.jobsOver = true
  | .answers => s.cur.pp = true ∧ s.handler.awaiting.length < 8 ∧ s.outputFull s.cur.unit = false
  | .lock pa => (s.entry pa).locked = false

/-! ## Which slot issues -/

/-- The slot that the next step gives its turn, and the state it does so in: the slot the outside asks for, where it has the
position of this cycle at its unit and nothing that has come to its core takes effect first (R59, R267); or, with nothing asked and no event due, the first that has one (R41, R42; log entry 3). -/
def State.issuer (s : State) : Option (Bool × Nat × Nat × State) :=
  match s.agenda with
  | .issue pp u t :: r =>
    let e := { s with agenda := r }
    if (⟨pp, u, t, 0, 0⟩ : Actor).valid && e.pick pp u (t % 4) == some t && (pp || !e.arrivalsFirst u) then some (pp, u, t, e)
    else none
  | _ :: _ => none
  | [] => match s.autoEvent with
    | some _ => none
    | none => match s.nextIssue with
      | some (pp, u, t) => some (pp, u, t, s)
      | none => none

/-! ## Requests at their home -/

/-- The packets under way, with one that its sender sends now: on the reply lane behind all of its own of that class (R32). -/
def afterSend (l : List Flit) (f : Flit) : List Flit := l ++ [f.placed l]

/-- The answer of a home to a request. -/
def Flit.answer (f : Flit) (u type : Nat) (words : List Word) (payload : Option Line) : Flit :=
  newFlit (.pp u) f.src f.cls f.part f.rseq (.msg ⟨2, type, words, payload⟩) f.merged

/-- A request has reached home u and its turn has come, and f is the request as its home serves it; it is of local or host memory, no
error of a switch meets it, and no packet of its partition is held back (R275, R338, R347, R351). -/
def State.reached (s : State) (n type : Nat) (p : Partition) (f : Flit) (u : Nat) : Bool :=
  (match s.requestAt n type with
    | some (g, v) => v == u && s.partById g.part == some p && s.asServed p g == f
    | none => false) &&
    !s.fenced f.part && decide (f.block / 2 ^ 48 ≠ 3) && !hostRefuses (f.word 0).toNat f.prot && !s.switchErrs f.block

/-- Such a request that is to be carried out: it does not only ask whether it would be refused (log entry 88). -/
def State.served (s : State) (n type : Nat) (p : Partition) (f : Flit) (u : Nat) : Bool := s.reached n type p f u && !f.asksOnly

/-- Nothing holds a request of a vendor protocol back at its home: its region is bound to that protocol, its block is
neither locked nor failed nor under way nor poisoned, no request is deferred, and a handler slot takes it next (R233, R263, R264, R272,
R275). -/
def State.serves (s : State) (n : Nat) (p : Partition) (f : Flit) : Bool :=
  let u := s.homeFor f.block
  decide (1 ≤ f.prot) && decide (f.prot ≤ 6) && s.admission p f == .go && !(s.entry f.block).failed && !(s.entry f.block).locked &&
    s.txns.isEmpty && s.deferred.isEmpty && (s.poison.look (f.block / 64)).isNone &&
    (s.pp u).hpc f.prot f.type != 0 && (s.slotFor u n f).isSome

end Sys2Proof.Machine
end

