-- ==== Sys2Proof/Certificates/Slice0/Obligations.lean ====
section
/-! DEFINITION. The statements for the provers. In each, `s.Begins u a b c t` says that the instruction at s gets past the
checks of its fields u, which supply a, b and c, and that t is the state after that, its pc past the instruction. -/

open Sys2Proof Sys2Proof.Machine

/-! ## Operands -/

/-- R39, R79: fields that all name registers of the window supply their values, and nothing is popped. A source field that names
an inbound queue pops one dword. Of q0 and q4 it is the first; of q5, q6, q7 and q3 the first of the oldest record, which leaves
with its last dword; of q2 the next dword of the message that the slot holds. R77: a queue register in its forbidden direction
raises QUEUE with its number. R77, R104: an instruction that only S may issue, and a field that names q7, raise PRIVILEGE with
EVAL 0 at U. R45, R505: an instruction that names a scalar or vector register whose value is still to come, or has come and is not
yet there, or that pushes into q1 behind such a value, leaves its thread WAITING for that value, with its release forgotten, and
nothing else changes. R267, R414: if the value has come poisoned or refused, the thread traps with POISON, or the cause of the
FAIL, and the address that was read, and that mark goes; x0 waits for nothing, but traps so too. R47, R79: an instruction whose field a names an
inbound queue that it may pop and that is empty parks with QEMPTY: the park sequence goes up by one, what its instruction had
asked of homes, its release and the decode table it held back are forgotten, and nothing else changes. -/
def Obligations.Operands : Prop :=
  ((∀ (s : State) (u : Uses), s.settled = true → u.plain s = true → (u.sys = true → s.me.priv ≠ .u) →
    s.Begins u (u.a.value s) (u.b.value s) (u.d.value s) s.advanced) ∧
  (∀ (s : State) (w v : Word) (r l : List Word) (q : List (List Word)) (f : Bool) (g : List Q7Rec), s.cur.valid = true →
    s.cur.pp = false →
    (s.me.queues.q0 = w :: r → s.me.queues.payloads = [] →
      s.operand (.src 120) = some (w, s.modQueues fun k => { k with q0 := r, payloads := [] })) ∧
    (s.me.queues.q2claim = w :: v :: r → s.operand (.src 122) = some (w, s.modQueues fun k => { k with q2claim := v :: r })) ∧
    (s.me.queues.q4 = w :: r → s.operand (.src 124) = some (w, s.modQueues fun k => { k with q4 := r })) ∧
    (s.myCore.q5 = (w :: v :: l) :: q → s.operand (.src 125) = some (w, s.modMyCore fun k => { k with q5 := (v :: l) :: q })) ∧
    (s.myCore.q5 = [w] :: q → s.operand (.src 125) = some (w, s.modMyCore fun k => { k with q5 := q })) ∧
    (s.myCore.q6 = (w :: v :: l) :: q → s.operand (.src 126) = some (w, s.modMyCore fun k => { k with q6 := (v :: l) :: q })) ∧
    (s.myCore.q6 = [w] :: q → s.operand (.src 126) = some (w, s.modMyCore fun k => { k with q6 := q })) ∧
    (s.myCore.q7 = ⟨f, w :: v :: l⟩ :: g →
      s.operand (.src 127) = some (w, s.modMyCore fun k => { k with q7 := ⟨f, v :: l⟩ :: g })) ∧
    (s.myCore.q7 = ⟨f, [w]⟩ :: g → s.operand (.src 127) = some (w, s.modMyCore fun k => { k with q7 := g })))) ∧
  ((∀ (s : State) (i : Instr) (u : Uses) (e : Nat), usesOf s i = some u → s.cur.valid = true → s.me.lateTrap = none →
    (s.me.priv = .u → u.sys = false ∧ ∀ f ∈ u.list, f.q7 = false) →
    (∀ f ∈ u.list, f.unbound s.slim s.vlim = none) →
    ([u.a, u.b, u.d].filterMap fun f => match f with
      | .src r => if r = 121 then some r else none
      | .dst r => if 120 ≤ r ∧ r ≠ 121 then some r else none
      | .both r => if 120 ≤ r then some r else none
      | .deque r => if r = 121 ∨ r = 122 then some r else none
      | _ => none).head? = some e →
    exec i s = .next (s.takeTrap 0x0D (w64 e) none)) ∧
  (∀ (s : State) (i : Instr) (u : Uses), usesOf s i = some u → s.cur.valid = true → s.me.lateTrap = none →
    s.me.priv = .u → (u.sys = true ∨ ∃ f ∈ u.list, f = .src 127 ∨ f = .dst 127 ∨ f = .both 127 ∨ f = .deque 127) →
    exec i s = .next (s.takeTrap 0x02 0 none)) ∧
  (∀ (s : State) (i : Instr) (u : Uses) (l : Late) (rest : List Late), usesOf s i = some u → s.cur.valid = true →
    s.me.lateTrap = none → u.legal s = true → s.me.pending = l :: rest →
    (∃ f ∈ u.list, (∃ r, (f = .src r ∨ f = .dst r ∨ f = .both r) ∧ l.dest = .x r ∧ (r = 0 → l.val.bad = true)) ∨
      (f = .dst 121 ∧ l.dest = .q1) ∨ (∃ r w n, f = .vec r ∧ l.dest = .lane r w n)) →
    ((l.val = .waiting ∨ ∃ v, l.val = .ready v) → exec i s = .next (s.modMe fun t =>
      { t with tstate := .waiting, wait := .regs l.id, inTrap := t.trapped, release := ⟨0, 0⟩ })) ∧
    (∀ va, l.val = .poisoned va → exec i s = .next ((s.modMe fun t => t.unmark l.id).takeTrap 0x0A va none)) ∧
    (∀ c va, l.val = .failed c va → exec i s = .next ((s.modMe fun t => t.unmark l.id).takeTrap c va none))) ∧
  (∀ (s : State) (i : Instr) (u : Uses) (r : Nat), usesOf s i = some u → s.settled = true → u.legal s = true →
    u.a = .src r → 120 ≤ r → s.pop (r - 120) = none →
    exec i s = .next (s.modMe fun t => { t with
      tstate := .parked, park := .qempty, wait := .queue (r - 120) 1, inTrap := t.trapped,
      parkSeq := (t.parkSeq + 1) % 65536, asks := [], release := ⟨0, 0⟩, tableHold := none })))

/-- R39, R508: an instruction whose fields name registers outside the slot's window takes one REG_BOUND trap, whose
EVAL is that of the first in the order a, b, d: the number, or 0x100 plus the number of a vector register. -/
def Obligations.RegBound : Prop :=
  ∀ (s : State) (i : Instr) (u : Uses) (e : Nat), usesOf s i = some u → s.cur.valid = true → s.me.lateTrap = none →
    (s.me.priv = .u → u.sys = false ∧ ∀ f ∈ u.list, f.q7 = false) →
    ([u.a, u.b, u.d].filterMap fun f => match f with
      | .src r | .dst r | .both r => if 1 ≤ r ∧ r < 120 ∧ s.slim ≤ r then some r else none
      | .vec r => if s.vlim ≤ r then some (0x100 + r) else none
      | _ => none).head? = some e →
    exec i s = .next (s.takeTrap 0x03 (w64 e) none)

/-! ## Scalar results, skips and jumps -/

/-- R139 to R142, R144 to R151, R366 to R495: an instruction whose whole effect is x[d] := v, and flags of FCSR, has that effect
and goes to the next instruction (the instructions are those of `scalarOp`). That the result is in x[d] at issue, and not some
cycles later (R45), is the model's choice (log entry 13). R79, R237, R505: with q1 as the destination they push the value: known
at issue, with the checks of a header first; of a division or a square root later, with the header's trap left to the next issue. The push
parks where q1 has no room; that it parks before a header that would fail its checks traps is the model's choice (log entry 34),
and so is the order of those checks (log entry 101). -/
def Obligations.ScalarResults : Prop :=
  (∀ (i : Instr) (d : Nat) (u : Uses) (f : State → Word → Word → Word → Word × Nat) (s t : State) (a b c : Word),
    scalarOp i = some (d, u, f) → i.wf = true → s.Begins u a b c t → d < 120 →
    exec i s = .next ((t.raise (f t a b c).2).setX d (f t a b c).1)) ∧
  (∀ (i : Instr) (d : Nat) (u : Uses) (f : State → Word → Word → Word → Word × Nat) (s t : State) (a b c : Word),
    scalarOp i = some (d, u, f) → i.wf = true → s.Begins u a b c t → d = 121 →
    (t.q1Room 1 = false → exec i s = .next (s.modMe fun h => h.parked .qfull (.q1room 1))) ∧
    (t.q1Room 1 = true → t.me.queues.q1partial ≠ 0 ∨ t.headerFault (f t a b c).1 = none →
      t.me.queues.completes (f t a b c).1 = false →
      exec i s = .next ((t.raise (f t a b c).2).modQueues fun q => { q with
        q1 := q.q1 ++ [t.pushed (f t a b c).1], q1partial := q.q1partial + 1 })) ∧
    (t.q1Room 1 = true → t.me.queues.q1partial ≠ 0 ∨ t.headerFault (f t a b c).1 = none →
      t.me.queues.completes (f t a b c).1 = true → t.drained true = true →
      exec i s = .next (((t.raise (f t a b c).2).releasedAt true).modQueues fun q => { q with
        q1 := q.q1 ++ [t.pushed (f t a b c).1], q1partial := 0 })) ∧
    (t.q1Room 1 = true → t.me.queues.q1partial = 0 → ∀ e, t.headerFault (f t a b c).1 = some e →
      t.me.queues.completes (f t a b c).1 = false →
      exec i s = .next (if lateOp i then t.modMe fun h => { h with lateTrap := some (0x0D, w64 (0x1000 + e)) }
        else s.takeTrap 0x0D (w64 e) none)))

/-- R140: division. The quotient rounds toward zero, the remainder takes the sign of the dividend, and quotient × divisor +
remainder equals the dividend modulo 2^64. By 0 the quotient is all ones and the remainder the dividend; -2^63 divided by
-1 gives -2^63 and remainder 0. None of them traps: each instruction completes. -/
def Obligations.Division : Prop :=
  ∀ (s t : State) (d a b : Nat) (x y z : Word), s.Begins (usesDAB d a b) x y z t → 1 ≤ d → d < 120 →
    ∃ q r qu ru : Word,
      exec (.div d a b) s = .next (t.setX d q) ∧ exec (.rem d a b) s = .next (t.setX d r) ∧
      exec (.divu d a b) s = .next (t.setX d qu) ∧ exec (.remu d a b) s = .next (t.setX d ru) ∧
      (y = 0 → q = BitVec.ofInt 64 (-1) ∧ qu = BitVec.ofNat 64 (2 ^ 64 - 1) ∧ r = x ∧ ru = x) ∧
      (x = BitVec.ofInt 64 (-2 ^ 63) → y = BitVec.ofInt 64 (-1) → q = BitVec.ofInt 64 (-2 ^ 63) ∧ r = 0) ∧
      (y ≠ 0 → q * y + r = x ∧ qu * y + ru = x ∧ qu.toNat * y.toNat + ru.toNat = x.toNat ∧ ru.toNat < y.toNat ∧
        (r = 0 ∨ (r.toInt < 0 ↔ x.toInt < 0)) ∧ r.toInt.natAbs < y.toInt.natAbs ∧
        (¬ (x = BitVec.ofInt 64 (-2 ^ 63) ∧ y = BitVec.ofInt 64 (-1)) → q.toInt * y.toInt + r.toInt = x.toInt))

/-- R111, R150, R406, R452: a skip evaluates its condition; a true one makes the annul count k, a false one leaves it. R102: J,
BT and LPC offsets count halfwords from the base word; the return address is that of the halfword after it. R386, R411, R442:
register jumps, and R108's condition on their targets. R432, R494: NOP and YIELD. R108: a jump through a register to an odd
address raises MISALIGNED with EVAL the target; EPC names the jump, and x[d] is unchanged. -/
def Obligations.SkipsAndJumps : Prop :=
  (∀ (i : Instr) (k : Nat) (u : Uses) (f : State → Word → Word → Bool × Nat) (s t : State) (a b c : Word),
    skipOp i = some (k, u, f) → s.Begins u a b c t →
    ∃ t', exec i s = .next t' ∧ t.SameElsewhere t' ∧ (∀ r, t'.x r = t.x r) ∧ (∀ r, t'.v r = t.v r) ∧
      (∀ l, t'.byteAt l = t.byteAt l) ∧
      t'.me = { t.me with
        annul := if (f t a b).1 then k else t.me.annul
        regs := { t.me.regs with fcsr := t.me.regs.fcsr ||| w64 (f t a b).2 } }) ∧
  ((∀ (s t : State) (off : Int) (d a : Nat) (x y z : Word),
    (s.settled = true → exec (.br off) s = .next (s.setPc (s.cur.pc + w64 (2 * (s.cur.len - 1)) + BitVec.ofInt 64 (2 * off)))) ∧
    (s.settled = true → s.has 1 = true → exec (.call off) s = .next
      ((s.setX 1 (s.cur.pc + w64 (2 * s.cur.len))).setPc (s.cur.pc + w64 (2 * (s.cur.len - 1)) + BitVec.ofInt 64 (2 * off)))) ∧
    (s.Begins (usesA a) x y z t → x.getLsbD 0 = false → exec (.jr a) s = .next (t.setPc x)) ∧
    (s.Begins (usesDA d a) x y z t → x.getLsbD 0 = false → (t.setPc x).takes d (s.cur.pc + w64 (2 * s.cur.len)) →
      exec (.callr d a) s = .next (s.gives false (t.setPc x) d (s.cur.pc + w64 (2 * s.cur.len)))) ∧
    (s.Begins (usesA 1) x y z t → x.getLsbD 0 = false → exec .ret s = .next (t.setPc x)) ∧
    (s.settled = true → exec .nop s = .next s.advanced) ∧
    (s.settled = true → exec .yield s = .next (s.advanced.modMe fun h => { h with noBorrow := true }))) ∧
  (∀ (s t : State) (d a : Nat) (x y z : Word), x.getLsbD 0 = true →
    (s.Begins (usesA a) x y z t → exec (.jr a) s = .next (s.takeTrap 0x04 x none)) ∧
    (s.Begins (usesDA d a) x y z t → exec (.callr d a) s = .next (s.takeTrap 0x04 x none)) ∧
    (s.Begins (usesA 1) x y z t → exec .ret s = .next (s.takeTrap 0x04 x none))))

/-- The frame of the instructions that write x[d]: x[d] and the flags of FCSR change, and the pc. The frame of BR, CALL, JR,
CALLR, RET, NOP and YIELD: the pc, CALL's x1, CALLR's x[d], YIELD's lending. No other slot, no byte of memory, nothing else of
the device changes. -/
def Obligations.RegisterFrame : Prop :=
  (∀ (i : Instr) (d : Nat) (u : Uses) (f : State → Word → Word → Word → Word × Nat) (s t : State),
    scalarOp i = some (d, u, f) → i.wf = true → s.settled = true → u.plain s = true → exec i s = .next t →
    t.x 0 = 0 ∧ (∀ r, r ≠ d → t.x r = s.x r) ∧ (∀ r, t.v r = s.v r) ∧
    (∃ fcsr, t.me = { s.me with pc := s.nextPc, regs := { s.me.regs with fcsr } }) ∧
    s.SameElsewhere t ∧ ∀ l, t.byteAt l = s.byteAt l) ∧
  (∀ (s t : State) (i : Instr) (link : Nat) (off : Int) (d a : Nat), s.settled = true →
    ((i = .br off ∨ i = .nop ∨ i = .yield) ∨ (s.has 1 = true ∧ i = .call off ∧ link = 1) ∨
      (s.has a = true ∧ (s.x a).getLsbD 0 = false ∧ i = .jr a) ∨
      (s.has a = true ∧ s.has d = true ∧ (s.x a).getLsbD 0 = false ∧ i = .callr d a ∧ link = d) ∨
      (s.has 1 = true ∧ (s.x 1).getLsbD 0 = false ∧ i = .ret)) →
    exec i s = .next t →
    t.x 0 = 0 ∧ (∀ r, r ≠ link ∨ (∀ o, i ≠ .call o) ∧ (∀ e c, i ≠ .callr e c) → t.x r = s.x r) ∧ (∀ r, t.v r = s.v r) ∧
    (∃ pc lend, t.me = { s.me with pc, noBorrow := lend } ∧ (i ≠ .yield → lend = s.me.noBorrow)) ∧
    s.SameElsewhere t ∧ ∀ l, t.byteAt l = s.byteAt l)

/-! ## Accesses: where they go, when they trap -/

/-- R168, R209, R211: the local window: scratchpad, tile data and side entries are the core's own memory at the offset; at U the
reserved scratchpad is out of reach; ring-reserved tile slots (480 up, while rings are on) and, for a write, pinned ones raise
RING with the slot. R209, R211: the remote-local window names the scratchpad of a core of the partition by its partition index,
for plain accesses and atomics; AMOF, a watched read and a gather or scatter raise WINDOW there, and so does an index that the
partition does not have. R212: the device-register window: only above U, whatever the offset, and only 8-byte scalar loads and
stores; an offset past its extent raises WINDOW. -/
def Obligations.Places : Prop :=
  (∀ (s : State) (a : Acc) (f : Form) (write : Bool) (off size lane : Nat), s.cur.pp = false →
    (size = 1 ∨ size = 2 ∨ size = 4 ∨ size = 8) → off % size = 0 →
    let e : El := ⟨0xFE * 2 ^ 56 + off, size, lane⟩
    (off < 0x080000 → (s.me.priv ≠ .u ∨ off + size ≤ s.reservedFrom s.cur.unit) →
      checkAccess s a f write [e] = .ok (s, [(e, .sram s.cur.unit off)])) ∧
    (off < 0x080000 → s.me.priv = .u → s.reservedFrom s.cur.unit < off + size →
      checkAccess s a f write [e] = .error (.trap 0x06 (w64 e.va) none)) ∧
    (∀ n, (0x200000 ≤ off ∧ off < 0x400000 ∧ n = (off - 0x200000) / 0x1000 ∨
        0x400000 ≤ off ∧ off < 0x410000 ∧ n = (off - 0x400000) / 0x80) →
      ((s.ringOn s.cur.unit = true ∧ 480 ≤ n ∨ write = true ∧ s.myCore.pins.at n 0 ≠ 0) →
        checkAccess s a f write [e] = .error (.trap 0x0F (w64 n) none)) ∧
      ((s.ringOn s.cur.unit = false ∨ n < 480) → (write = false ∨ s.myCore.pins.at n 0 = 0) →
        s.slotBusy s.cur.unit s.cur.slot n = false →
        checkAccess s a f write [e] = .ok (s, [(e, .sram s.cur.unit off)]))) ∧
    ((0x080000 ≤ off ∧ off < 0x200000 ∨ 0x410000 ≤ off ∧ off < 2 ^ 56) →
      checkAccess s a f write [e] = .error (.trap 0x05 (w64 e.va) none))) ∧
  ((∀ (s : State) (a : Acc) (f : Form) (write : Bool) (p : Partition) (core off size lane : Nat), s.cur.pp = false →
    s.myPart = some p → (size = 1 ∨ size = 2 ∨ size = 4 ∨ size = 8) → off % size = 0 → off < 0x080000 → core < 1024 →
    let e : El := ⟨0xFD * 2 ^ 56 + core * 2 ^ 24 + off, size, lane⟩
    ((f = .scalar ∨ f = .vector ∨ f = .amo) → core < 16 * p.hemCount →
      (s.me.priv ≠ .u ∨ off + size ≤ s.reservedFrom (p.coreAt core)) →
      checkAccess s a f write [e] = .ok (s, [(e, .sram (p.coreAt core) off)])) ∧
    ((f = .amof ∨ f = .watch ∨ f = .indexed ∨ 16 * p.hemCount ≤ core) →
      checkAccess s a f write [e] = .error (.trap 0x05 (w64 e.va) none)) ∧
    ((f = .scalar ∨ f = .vector ∨ f = .amo) → core < 16 * p.hemCount → s.me.priv = .u →
      s.reservedFrom (p.coreAt core) < off + size → checkAccess s a f write [e] = .error (.trap 0x06 (w64 e.va) none))) ∧
  (∀ (s : State) (a : Acc) (f : Form) (write : Bool) (off size lane : Nat), s.cur.pp = false → off < 2 ^ 56 →
    (size = 1 ∨ size = 2 ∨ size = 4 ∨ size = 8) → off % size = 0 →
    let e : El := ⟨0xFC * 2 ^ 56 + off, size, lane⟩
    (s.me.priv = .u → checkAccess s a f write [e] = .error (.trap 0x02 (w64 e.va) none)) ∧
    (s.me.priv ≠ .u → 2 ^ 24 ≤ off → checkAccess s a f write [e] = .error (.trap 0x05 (w64 e.va) none)) ∧
    (off < 2 ^ 24 →
    (s.me.priv ≠ .u → (f = .amo ∨ f = .amof ∨ f = .watch) →
      checkAccess s a f write [e] = .error (.trap 0x05 (w64 e.va) none)) ∧
    (s.me.priv ≠ .u → (f = .vector ∨ f = .indexed ∨ f = .scalar ∧ size ≠ 8) →
      checkAccess s a f write [e] = .error (.trap 0x04 (w64 e.va) none)) ∧
    (s.me.priv ≠ .u → f = .scalar → size = 8 → checkAccess s a f write [e] = .ok (s, [(e, .device off)])))))

/-- R217, R218, R220, R221: an access in the global window through a cached leaf. The leaf gives the physical
address; the traps come in the order of R220: PAGE_INVALID or EXTENT_REVOKED for the address, PAGE_PROT for S and for
the permission, POISON for PSN, whose record names SRC 0 and the physical address (the model's choice, log entry 84). A leaf of space 4
leads to the register at its offset (R212). -/
def Obligations.CachedTranslation : Prop :=
  ∀ (s : State) (a : Acc) (f : Form) (write : Bool) (va size lane : Nat) (p : Partition) (t : TlbEntry),
    s.cur.pp = false → va + size ≤ 2 ^ 56 → (size = 1 ∨ size = 2 ∨ size = 4 ∨ size = 8) → va % size = 0 →
    s.partOfCore s.cur.unit = some p → s.tlbLook s.cur.unit p.id va = some t →
    let e : El := ⟨va, size, lane⟩
    let pa := fld t.pte 59 20 * 4096 + va % t.size
    (s.physOk p t.pte pa = .invalid → checkAccess s a f write [e] = .error (.trap 0x07 (w64 va) none)) ∧
    (s.physOk p t.pte pa = .revoked → checkAccess s a f write [e] = .error (.trap 0x11 (w64 va) none)) ∧
    (s.physOk p t.pte pa = .good → t.pte.getLsbD 4 = true ∧ s.me.priv = .u ∨ permitted a t.pte = false →
      checkAccess s a f write [e] = .error (.trap 0x06 (w64 va) none)) ∧
    (s.physOk p t.pte pa = .good → (t.pte.getLsbD 4 = false ∨ s.me.priv ≠ .u) → permitted a t.pte = true →
      (t.pte.getLsbD 62 = true → checkAccess s a f write [e] = .error (.trap 0x0A (w64 va) (some (0, pa)))) ∧
      (t.pte.getLsbD 62 = false → pa / 2 ^ 48 ≠ 4 → checkAccess s a f write [e] = .ok (s, [(e, .phys pa t.pte)])) ∧
      (t.pte.getLsbD 62 = false → pa / 2 ^ 48 = 4 → checkAccess s a f write [e] = .ok (s, [(e, .device (pa % 2 ^ 24))]))) ∧
    (t.size % 4096 = 0 → pa % size = 0)

/-- R210, R229: the checks of an access come in order, each for all of its elements before the next. First the alignment of each:
of several misaligned elements the first in lane order counts (the model's choice, log entry 85). Then the window, for all of
them as one: that of the lowest address, which at U must not be that of the device registers (R212), and whose extent must
hold the last byte of all. Then, in the global window, translation: the first element that meets a trap of R220 counts, whatever
pages before or after it are absent. R225, R226: with no trap, an access to an absent page parks its thread with PAGEFAULT and
sends its core's supervisor slot the page-fault record; of several such elements the first in lane order counts. -/
def Obligations.AccessTraps : Prop :=
  (∀ (s : State) (a : Acc) (f : Form) (write : Bool) (l r : List El) (e : El),
    ((∀ x ∈ l, x.va % x.size = 0) → e.va % e.size ≠ 0 →
      checkAccess s a f write (l ++ e :: r) = .error (.trap 0x04 (w64 e.va) none)) ∧
    (s.cur.pp = false → e.va % e.size = 0 → windowOf e.va = .none →
      checkAccess s a f write [e] = .error (.trap 0x05 (w64 e.va) none))) ∧
  (∀ (s : State) (a : Acc) (f : Form) (write : Bool) (els : List El) (lo hi : El), s.cur.pp = false →
    (∀ x ∈ els, x.va % x.size = 0 ∧ x.va < 2 ^ 64) → lo ∈ els → hi ∈ els →
    (∀ x ∈ els, lo.va ≤ x.va ∧ x.va + x.size ≤ hi.va + hi.size) →
    (s.me.priv = .u → windowOf lo.va = .device → checkAccess s a f write els = .error (.trap 0x02 (w64 lo.va) none)) ∧
    ((s.me.priv ≠ .u ∨ windowOf lo.va ≠ .device) →
      (extentOf lo.va = none ∨ ∃ x, extentOf lo.va = some x ∧ x.2 < hi.va + hi.size) →
      checkAccess s a f write els = .error (.trap 0x05 (w64 lo.va) none))) ∧
  (∀ (s : State) (a : Acc) (f : Form) (write : Bool) (l r : List El) (e : El), s.cur.pp = false →
    (∀ x ∈ l ++ e :: r, x.va % x.size = 0 ∧ x.va + x.size ≤ 2 ^ 56 ∧ 1 ≤ x.size) →
    let look (x : El) := s.translate s.cur.unit s.me.priv a x.va
    let here (x : El) : Prop := ∃ pa pte, look x = (.ok pa pte, s)
    let absent (x : El) : Prop := ∃ level pte, look x = (.absent level pte, s)
    (∀ c pa u, (∀ x ∈ l, here x ∨ absent x) → look e = (.trap c pa, u) →
      checkAccess s a f write (l ++ e :: r) = .error (.trap c (w64 e.va) (if c = 0x0A then some (0, pa) else none))) ∧
    (∀ level pte, (∀ x ∈ l, here x) → look e = (.absent level pte, s) → (∀ x ∈ r, here x ∨ absent x) →
      checkAccess s a f write (l ++ e :: r) = .error (.park .pagefault (.page e.va) fun t =>
        t.record t.cur.unit (pageFaultRecord t.myPartId t.cur.slot t.me.parkSeq level a.code pte e.va)))) ∧
  (∀ (s : State) (a : Acc) (f : Form) (write : Bool) (va size lane level : Nat) (p : Partition) (pte : Word),
    s.cur.pp = false → va + size ≤ 2 ^ 56 → (size = 1 ∨ size = 2 ∨ size = 4 ∨ size = 8) → va % size = 0 →
    s.partOfCore s.cur.unit = some p → s.tlbLook s.cur.unit p.id va = none →
    s.walk p s.myCore.regs.walkRoot va = .absent level pte →
    checkAccess s a f write [⟨va, size, lane⟩] = .error (.park .pagefault (.page va) fun t =>
      t.record t.cur.unit (pageFaultRecord t.myPartId t.cur.slot t.me.parkSeq level a.code pte va)))

/-! ## Scalar loads and stores -/

/-- R412 to R415: a scalar load whose bytes are here and clean: x[d] is their little-endian value, extended; with q1 as the
destination the value is pushed late (R505). R414: one that meets poison issues and goes on; its result is to come poisoned, with
the address that was read, so that the register's later use traps (as Operands states); of an acquire the thread waits. R458 to
R461: a scalar store whose place is here: the low bytes of x[d], little-endian, at the address and nowhere else; a release order
waits for what R268 names. This is also its frame. That an access to another core's scratchpad happens in the step that issues it
is the model's choice (log entry 14). -/
def Obligations.ScalarAccesses : Prop :=
  ((∀ (i : Instr) (x : Access) (s t r : State) (a b c : Word) (p : Machine.Place), loadOp i = some x → s.Begins x.uses a b c t →
    checkAccess t .load .scalar false [x.el a b] = .ok (r, [(x.el a b, p)]) → r.performs .load x.size p = true →
    r.clean (x.el a b) p = true → r.takes x.d (loaded x.size x.signed (r.value p x.size)) →
    exec i s = .next (s.gives true r x.d (loaded x.size x.signed (r.value p x.size)))) ∧
  (∀ (i : Instr) (x : Access) (s t r : State) (a b c : Word) (p : Machine.Place), loadOp i = some x → s.Begins x.uses a b c t →
    t.roomFor x.d → checkAccess t .load .scalar false [x.el a b] = .ok (r, [(x.el a b, p)]) →
    r.performs .load x.size p = true → r.clean (x.el a b) p = false →
    ∃ t' id, exec i s = .next t' ∧
      t'.me.pending =
        [⟨id, 0, if x.d = 121 then .q1 else .x x.d, w64 (x.el a b).va, x.size, x.signed, .poisoned (w64 (x.el a b).va)⟩] ∧
      t'.me.tstate = (if ordAcquires x.ord then .waiting else r.me.tstate) ∧
      (∀ n, t'.x n = r.x n) ∧ (∀ l, t'.byteAt l = r.byteAt l))) ∧
  (∀ (i : Instr) (x : Access) (s t r : State) (a b c : Word) (p : Machine.Place), storeOp i = some x → s.Begins x.uses a b c t →
    checkAccess t .store .scalar true [x.el a b] = .ok (r, [(x.el a b, p)]) → r.performs .store x.size p = true →
    r.clean (x.el a b) p = true → r.orderedOk x.ord = true →
    ∃ t', exec i s = .next t' ∧
      (∀ k, k < x.size → t'.byteAt (p.loc r k) = c.extractLsb' (8 * k) 8) ∧
      (∀ l, (∀ k, k < x.size → l ≠ p.loc r k) → t'.byteAt l = t.byteAt l) ∧
      (∀ n, t'.x n = t.x n) ∧ (∀ n, t'.v n = t.v n) ∧ t'.cur = s.cur ∧
      t'.me = { t.me with release := if ordReleases x.ord && x.ord.scope != .core && !s.cur.pp then ⟨0, 0⟩ else t.me.release } ∧
      (∀ pp u m, ¬ (pp = s.cur.pp ∧ u = s.cur.unit ∧ m = s.cur.slot) → t'.thread pp u m = t.thread pp u m))

/-- R212: a scalar load of a device register: its value, or WINDOW where no chapter assigns the offset. R212: a scalar store to a
device register: its effect, or PRIVILEGE, or WINDOW where no chapter assigns the offset. -/
def Obligations.DeviceRegisters : Prop :=
  (∀ (i : Instr) (x : Access) (s t r : State) (a b c v : Word) (off : Nat), loadOp i = some x → s.Begins x.uses a b c t →
    x.d < 120 → checkAccess t .load .scalar false [x.el a b] = .ok (r, [(x.el a b, .device off)]) → x.size = 8 →
    t.me.priv ≠ .u →
    (r.readReg r.cur.unit off = some v → exec i s = .next (r.setX x.d v)) ∧
    (r.readReg r.cur.unit off = none → exec i s = .next (s.takeTrap 0x05 (w64 (x.el a b).va) none))) ∧
  (∀ (i : Instr) (x : Access) (s t r : State) (a b c : Word) (off : Nat), storeOp i = some x → s.Begins x.uses a b c t →
    checkAccess t .store .scalar true [x.el a b] = .ok (r, [(x.el a b, .device off)]) → x.size = 8 → t.me.priv ≠ .u →
    r.orderedOk x.ord = true →
    (∀ t', (r.orderedAt x.ord).writeReg r.cur.unit off c = .done t' → exec i s = .next t') ∧
    ((r.orderedAt x.ord).writeReg r.cur.unit off c = .privilege → exec i s = .next (s.takeTrap 0x02 (w64 (x.el a b).va) none)) ∧
    ((r.orderedAt x.ord).writeReg r.cur.unit off c = .unassigned →
      exec i s = .next (s.takeTrap 0x05 (w64 (x.el a b).va) none)))

/-- R45, R266: a load of an UNCACHED or a WALK line asks its home: READ-MISS goes out with the address and the size,
and the result is still to come under its sequence, for x[d] or for the dword that q1 keeps for it (R505); an acquire waits for it
(R291). R223, R233, R266: a store to an UNCACHED or a WALK line goes to its home as WRITE-MISS with the value, and the thread is
WAITING at the store until the home has answered; with the answer the store is past, and with a FAIL it traps with the cause and
the address that the answer left. R301: with a release order the home is first asked whether it would refuse the store (word 5 is
odd); a refusal traps, and only the answer lets the release act and the store go out. The words of a message beyond those that R270
names, and its sequence number, are the model's choice (log entry 23); so is that the thread of an UNCACHED store waits (log entry
8), and the question before a release (log entry 88). -/
def Obligations.AccessAtHome : Prop :=
  (∀ (i : Instr) (x : Access) (s t r : State) (a b c : Word) (pa : Nat) (pte : Word), loadOp i = some x →
    s.Begins x.uses a b c t → t.roomFor x.d →
    checkAccess t .load .scalar false [x.el a b] = .ok (r, [(x.el a b, .phys pa pte)]) →
    pteProt pte = 0 ∨ pteProt pte = 7 → r.fenced r.myPartId = false →
    ∃ (t' : State) (f : Flit), exec i s = .next t' ∧ t'.net = r.net ++ [f] ∧ f.dst = .pp (s.homeFor pa) ∧
      f.src = .core s.cur.unit s.cur.slot ∧ f.type = 0 ∧ f.lane = 0 ∧ f.word 0 = w64 pa ∧ f.word 3 = w64 x.size ∧
      (∀ h : Thread, h = { r.me with pending :=
          [⟨r.seq, f.rseq, if x.d = 121 then .q1 else .x x.d, w64 (x.el a b).va, x.size, x.signed, .waiting⟩] } →
        t'.me = if ordAcquires x.ord then h.waits .results else h) ∧
      (∀ n, t'.x n = r.x n) ∧ (∀ l, t'.byteAt l = r.byteAt l)) ∧
  (∀ (i : Instr) (x : Access) (s t r : State) (a b c : Word) (pa : Nat) (pte : Word), storeOp i = some x →
    s.Begins x.uses a b c t → checkAccess t .store .scalar true [x.el a b] = .ok (r, [(x.el a b, .phys pa pte)]) →
    pteProt pte = 0 ∨ pteProt pte = 7 → s.fenced s.myPartId = false →
    ∃ (t' : State) (f : Flit), exec i s = .next t' ∧ t'.net = s.net ++ [f] ∧ f.dst = .pp (s.homeFor pa) ∧ f.type = 1 ∧
      f.lane = 0 ∧ f.word 0 = w64 pa ∧ f.word 3 = w64 x.size ∧ f.word 4 = w64 (c.toNat % 2 ^ (8 * x.size)) ∧
      f.word 5 = (if ordReleases x.ord then 1 else 0) ∧
      t'.me = { s.me.waits .asks with asks := [⟨f.rseq, if ordReleases x.ord then 4 else 2, 0, w64 (x.el a b).va, .waiting⟩] } ∧
      (∀ n, t'.x n = s.x n) ∧ (∀ l, t'.byteAt l = s.byteAt l)) ∧
  (∀ (i : Instr) (x : Access) (s t r : State) (a b c v : Word) (pa q : Nat) (pte : Word), storeOp i = some x →
    s.unasked.Begins x.uses a b c t → checkAccess t .store .scalar true [x.el a b] = .ok (r, [(x.el a b, .phys pa pte)]) →
    pteProt pte = 0 ∨ pteProt pte = 7 → ordReleases x.ord = true →
    (s.me.asks = [⟨q, 4, 0, w64 (x.el a b).va, .ready v⟩] → r.orderedOk x.ord = true → s.fenced s.myPartId = false →
      ∃ (t' : State) (f : Flit), exec i s = .next t' ∧ t'.net = s.net ++ [f] ∧ f.dst = .pp (s.homeFor pa) ∧ f.type = 1 ∧
      f.word 0 = w64 pa ∧ f.word 3 = w64 x.size ∧ f.word 4 = w64 (c.toNat % 2 ^ (8 * x.size)) ∧ f.word 5 = 2 ∧
      t'.me = { s.me.waits .asks with asks := s.me.asks ++ [⟨f.rseq, 2, 0, w64 (x.el a b).va, .waiting⟩] } ∧
      (∀ n, t'.x n = s.x n) ∧ (∀ l, t'.byteAt l = s.byteAt l)) ∧
    (∀ n e, s.me.asks = [⟨q, 4, 0, w64 (x.el a b).va, .failed n e⟩] → exec i s = .next (s.takeTrap n e none))) ∧
  (∀ (i : Instr) (x : Access) (s t : State) (a b c v : Word) (q : Nat) (l : List Ask) (va : Word), storeOp i = some x →
    s.unasked.Begins x.uses a b c t → (∀ y ∈ l, y.kind = 4) →
    (s.me.asks = l ++ [⟨q, 2, 0, va, .ready v⟩] → ∃ t' : State, exec i s = .next t' ∧
      t'.me = t.me ∧ t'.net = s.net ∧ (∀ n, t'.x n = t.x n) ∧ (∀ l, t'.byteAt l = s.byteAt l)) ∧
    (∀ n e, s.me.asks = l ++ [⟨q, 2, 0, va, .failed n e⟩] → exec i s = .next (s.takeTrap n e none)))

/-- R47, R265: a load of a block that the core holds in I parks with TAGWAIT, the block becomes BUSY and READ-MISS goes to its
home; of one that is BUSY it only parks. R265: a store to a block that the core holds read-only asks for
an UPGRADE, to one it does not hold sends WRITE-MISS; the thread parks with TAGWAIT and no byte changes. That a release order
finds this out before its release acts, but in a ONCE region, is the model's choice (log entry 88); so are the words of a message
beyond those that R270 names, and its sequence number (log entry 23), and what a core does whose data cache holds 1,024 blocks
already (log entry 72). -/
def Obligations.AccessMiss : Prop :=
  (∀ (i : Instr) (x : Access) (s t r : State) (a b c : Word) (pa : Nat) (pte : Word), loadOp i = some x →
    s.Begins x.uses a b c t → t.roomFor x.d →
    checkAccess t .load .scalar false [x.el a b] = .ok (r, [(x.el a b, .phys pa pte)]) →
    pteProt pte ≠ 0 → pteProt pte ≠ 7 → s.myCore.heldPartial (blockOf pa) = false →
    (s.myCore.tagAt (blockOf pa) = .busy → exec i s = .next (s.modMe fun h => h.parked .tagwait (.block (blockOf pa) (x.el a b).va))) ∧
    (s.myCore.tagAt (blockOf pa) = .i → s.myCore.asking (blockOf pa) = false → s.myCore.cache.length < 1024 →
      s.fenced s.myPartId = false → ∃ (t' : State) (f : Flit), exec i s = .next t' ∧
      t'.me = s.me.parked .tagwait (.block (blockOf pa) (x.el a b).va) ∧ (∀ n, t'.x n = s.x n) ∧
      (t'.myCore.block (blockOf pa)).tag = .busy ∧ t'.net = s.net ++ [f] ∧ f.dst = .pp (s.homeFor (blockOf pa)) ∧
      f.type = 0 ∧ f.lane = 0 ∧ f.word 0 = w64 (blockOf pa) ∧ (∀ l, t'.byteAt l = s.byteAt l))) ∧
  (∀ (i : Instr) (x : Access) (s t r : State) (a b c : Word) (pa : Nat) (pte : Word), storeOp i = some x →
    s.Begins x.uses a b c t → checkAccess t .store .scalar true [x.el a b] = .ok (r, [(x.el a b, .phys pa pte)]) →
    pteProt pte ≠ 0 → pteProt pte ≠ 7 → pteProt pte ≠ 6 → (pteProt pte = 5 → r.orderedOk x.ord = true) →
    s.myCore.tagAt (blockOf pa) = .i ∨ s.myCore.tagAt (blockOf pa) = .ro → s.myCore.asking (blockOf pa) = false →
    s.myCore.cache.length < 1024 → s.fenced s.myPartId = false →
    ∃ (t' : State) (f : Flit), exec i s = .next t' ∧ t'.me = s.me.parked .tagwait (.block (blockOf pa) (x.el a b).va) ∧
      t'.net = s.net ++ [f] ∧ f.dst = .pp (s.homeFor (blockOf pa)) ∧ f.lane = 0 ∧ f.word 0 = w64 (blockOf pa) ∧
      f.type = (if s.myCore.tagAt (blockOf pa) = .ro then 2 else 1) ∧
      (t'.myCore.block (blockOf pa)).tag = .busy ∧ (∀ n, t'.x n = s.x n) ∧ (∀ l, t'.byteAt l = s.byteAt l))

/-- R80, R229, R485: a vector load whose active elements are all here and clean: each active lane takes the value at its
address, the others keep theirs; nothing else changes. R80, R229, R485: a vector store whose active elements are all here and
clean: the bytes of each active lane go to its address, a later lane over an earlier one; no other byte changes, and no
register. That an element in another core's scratchpad is accessed in the step that issues it is the model's choice (log entry
14). -/
def Obligations.VectorAccesses : Prop :=
  (∀ (i : Instr) (x : VecAccess) (s t r : State) (a b c : Word) (ps : List (El × Machine.Place)), vloadOp i = some x →
    i.wf = true → s.Begins x.uses a b c t → checkAccess t .vload x.form false (x.els t a b) = .ok (r, ps) →
    (∀ q ∈ ps, r.performs .vload (2 ^ x.w) q.2 = true ∧ r.clean q.1 q.2 = true) →
    ∃ t', exec i s = .next t' ∧ ps.map (·.1) = x.els t a b ∧
      (∀ q ∈ ps, laneOf (t'.v x.d) x.w q.1.lane = r.value q.2 (2 ^ x.w)) ∧
      (∀ k, k < laneCount x.w → (t.mask x.m).getLsbD k = false → laneOf (t'.v x.d) x.w k = laneOf (t.v x.d) x.w k) ∧
      (∀ n, n ≠ x.d → t'.v n = t.v n) ∧ (∀ n, t'.x n = t.x n) ∧ t'.me = t.me ∧ t'.net = t.net ∧
      (∀ l, t'.byteAt l = t.byteAt l)) ∧
  (∀ (i : Instr) (x : VecAccess) (s t r : State) (a b c : Word) (ps : List (El × Machine.Place)), vstoreOp i = some x →
    i.wf = true → s.Begins x.uses a b c t → checkAccess t .vstore x.form true (x.els t a b) = .ok (r, ps) →
    (∀ q ∈ ps, r.performs .vstore (2 ^ x.w) q.2 = true ∧ r.clean q.1 q.2 = true) → r.orderedOk x.ord = true →
    ∃ t', exec i s = .next t' ∧ ps.map (·.1) = x.els t a b ∧
      (∀ q ∈ ps, ∀ k, k < 2 ^ x.w → (∀ q' ∈ ps, q.1.lane < q'.1.lane → ∀ j, j < 2 ^ x.w → q'.2.loc r j ≠ q.2.loc r k) →
        t'.byteAt (q.2.loc r k) = BitVec.ofNat 8 (laneOf (t.v x.d) x.w q.1.lane / 256 ^ k)) ∧
      (∀ l, (∀ q ∈ ps, ∀ k, k < 2 ^ x.w → l ≠ q.2.loc r k) → t'.byteAt l = t.byteAt l) ∧
      (∀ n, t'.v n = t.v n) ∧ (∀ n, t'.x n = t.x n) ∧ t'.cur = s.cur ∧
      (∀ pp u m, ¬ (pp = s.cur.pp ∧ u = s.cur.unit ∧ m = s.cur.slot) → t'.thread pp u m = t.thread pp u m))

/-! ## Atomics, watched reads, barriers, fences -/

/-- R370 to R375: an atomic whose place is here: the place takes the new value, and x[d], or q1 late (R505), the old one, extended; a
CAS that finds another value leaves it. Nothing else changes. R265, R266, R372: in the far form, and on UNCACHED and WALK lines,
FAR-AMO carries the operation to the home, which changes memory, not this step. On an UNCACHED or WALK line the thread is WAITING
until the home has answered; in the far form on another line, whose block has no request under way and no bytes of the core's own,
it parks with TAGWAIT and the block counts as BUSY. R301: with a release order the home is first asked whether it would refuse (word
5 is odd), and only then the release acts and FAR-AMO goes out. With the answer x[d] takes the old value, extended; with a FAIL the
atomic traps with the cause and the address that the answer left. The model's choices: an access to another core's scratchpad in
the step that issues it (log entry 14), the wait at the instruction (log entry 8), the block that counts as BUSY (log entry 74),
the words of a message beyond those that R270 names and its sequence number (log entry 23), the question before a release (log
entry 88). -/
def Obligations.Atomics : Prop :=
  (∀ (i : Instr) (x : AtomAccess) (s t r : State) (a b c : Word) (p : Machine.Place), atomOp i = some x →
    s.Begins x.uses a b c t →
    checkAccess t .atomic x.form true [⟨a.toNat, x.size, 0⟩] = .ok (r, [(⟨a.toNat, x.size, 0⟩, p)]) →
    (∀ pa pte, p = .phys pa pte → x.far = false) → r.performs .atomic x.size p = true →
    r.clean ⟨a.toNat, x.size, 0⟩ p = true → r.orderedOk x.ord = true →
    ∃ t' : State, (t'.takes x.d (loaded x.size x.signed (r.value p x.size)) →
        exec i s = .next (s.gives true t' x.d (loaded x.size x.signed (r.value p x.size)))) ∧
      t'.me = { t.me with release := if ordReleases x.ord && x.ord.scope != .core && !s.cur.pp then ⟨0, 0⟩ else t.me.release } ∧
      (∀ k, k < x.size → t'.byteAt (p.loc r k) = BitVec.ofNat 8 (x.new (r.value p x.size) b c / 256 ^ k)) ∧
      (∀ l, (∀ k, k < x.size → l ≠ p.loc r k) → t'.byteAt l = t.byteAt l) ∧ (∀ n, t'.x n = t.x n) ∧
      (∀ n, t'.v n = t.v n) ∧ t'.cur = s.cur ∧
      (∀ pp u m, ¬ (pp = s.cur.pp ∧ u = s.cur.unit ∧ m = s.cur.slot) → t'.thread pp u m = t.thread pp u m)) ∧
  (∀ (i : Instr) (x : AtomAccess) (s t r : State) (a b c : Word) (pa : Nat) (pte : Word), atomOp i = some x →
    s.unasked.Begins x.uses a b c t → t.roomFor x.d →
    checkAccess t .atomic x.form true [⟨a.toNat, x.size, 0⟩] = .ok (r, [(⟨a.toNat, x.size, 0⟩, .phys pa pte)]) →
    s.fenced s.myPartId = false → ∀ (asks home far : Prop) (form : Nat),
    (asks ↔ ordReleases x.ord = true ∧ pteProt pte < 8) → (home ↔ pteProt pte = 0 ∨ pteProt pte = 7) →
    (far ↔ x.far = true ∧ ¬ home ∧ s.myCore.asking (blockOf pa) = false ∧ (s.myCore.block (blockOf pa)).dirty = 0) →
    form = (if x.far then 4 else 0) → home ∨ far →
    (asks → s.me.asks = [] → ∃ (t' : State) (f : Flit), exec i s = .next t' ∧ t'.net = s.net ++ [f] ∧
      f.dst = .pp (s.homeFor pa) ∧ f.type = 3 ∧ f.lane = 0 ∧ f.word 0 = w64 pa ∧ f.word 2 = b ∧ f.word 5 = w64 (form + 1) ∧
      (home → t'.me = { s.me.waits .asks with asks := [⟨f.rseq, 4, 0, a, .waiting⟩] }) ∧
      (far → t'.me = { s.me.parked .tagwait .asks with asks := [⟨f.rseq, 4, 0, a, .waiting⟩] } ∧
        t'.myCore.tagAt (blockOf pa) = .busy) ∧
      (∀ n, t'.x n = s.x n) ∧ (∀ l, t'.byteAt l = s.byteAt l)) ∧
    ((∃ q v, asks ∧ s.me.asks = [⟨q, 4, 0, a, .ready v⟩]) ∨ ¬ asks ∧ s.me.asks = [] → r.orderedOk x.ord = true →
      ∃ (t' : State) (f : Flit), exec i s = .next t' ∧ t'.net = s.net ++ [f] ∧
      f.dst = .pp (s.homeFor pa) ∧ f.type = 3 ∧ f.lane = 0 ∧ f.word 0 = w64 pa ∧ f.word 2 = b ∧ (f.word 5).getLsbD 0 = false ∧
      (home → t'.me = { s.me.waits .asks with asks := s.me.asks ++ [⟨f.rseq, 2, 0, a, .waiting⟩] }) ∧
      (far → t'.me = { s.me.parked .tagwait .asks with asks := [⟨f.rseq, 3, 0, a, .waiting⟩] } ∧
        t'.myCore.tagAt (blockOf pa) = .busy) ∧
      (∀ n, t'.x n = s.x n) ∧ (∀ l, t'.byteAt l = s.byteAt l)) ∧
    (∀ q n e, asks → s.me.asks = [⟨q, 4, 0, a, .failed n e⟩] → exec i s = .next (s.takeTrap n e none))) ∧
  (∀ (i : Instr) (x : AtomAccess) (s t : State) (a b c v w : Word) (q k : Nat) (l : List Ask) (va : Word), atomOp i = some x →
    s.unasked.Begins x.uses a b c t → t.roomFor x.d → (k = 2 ∨ k = 3) → (∀ y ∈ l, y.kind = 4) →
    w = loaded x.size x.signed (v.toNat % 256 ^ x.size) → t.takes x.d w →
    (s.me.asks = l ++ [⟨q, k, 0, va, .ready v⟩] → ∃ t' : State, exec i s = .next t' ∧ t'.me = (s.gives true t x.d w).me ∧
      t'.net = s.net ∧ (∀ n, t'.x n = (s.gives true t x.d w).x n) ∧ (∀ l, t'.byteAt l = s.byteAt l)) ∧
    (∀ n e, s.me.asks = l ++ [⟨q, k, 0, va, .failed n e⟩] → exec i s = .next (s.takeTrap n e none)))

/-- R409, R488: WAITM completes when the watched dword differs from x[b], with that dword in x[d], or in q1 late (R505); while it is
equal the thread parks with MEMWAIT, and waits for a change of that dword at that address. JOIN completes when the watched dword is
zero; while it is not the thread parks with JOIN, and waits for that dword to be zero. R266: on an UNCACHED or a WALK line READ-MISS
goes to the home first, and the thread is WAITING until it has answered (the model's choice, log entry 8); then the same holds of
the answer. The words of a message beyond those that R270 names, and its sequence number, are the model's choice (log entry 23). -/
def Obligations.WatchedReads : Prop :=
  (∀ (s t r : State) (d a b : Nat) (imm : Int) (o : OrdFld) (x y z v : Word) (p : Machine.Place), v = w64 (r.value p 8) →
    (s.Begins (usesDAB d a b) x y z t → t.roomFor d →
      checkAccess t .load .watch false [⟨x.toNat, 8, 0⟩] = .ok (r, [(⟨x.toNat, 8, 0⟩, p)]) →
      r.performs .load 8 p = true → r.clean ⟨x.toNat, 8, 0⟩ p = true →
      (v ≠ y → r.takes d v → exec (.waitm d a b o) s = .next (s.gives true r d v)) ∧
      (v = y → exec (.waitm d a b o) s = .next (s.modMe fun h => h.parked .memwait
        (.differsAt x.toNat p.watchAt y p.watchHome s.time)))) ∧
    (∀ e : El, e = ⟨(x + BitVec.ofInt 64 (imm * 8)).toNat, 8, 0⟩ → s.Begins (usesA a) x y z t →
      checkAccess t .load .watch false [e] = .ok (r, [(e, p)]) → r.performs .load 8 p = true → r.clean e p = true →
      (v = 0 → exec (.join a imm) s = .next r) ∧
      (v ≠ 0 → exec (.join a imm) s = .next (s.modMe fun h => h.parked .join (.zeroAt e.va p.watchAt p.watchHome s.time))))) ∧
  (∀ (s t r : State) (i : Instr) (u : Uses) (e : El) (d a b pa : Nat) (imm : Int) (o : OrdFld) (x y z pte : Word),
    (i = .waitm d a b o ∧ u = usesDAB d a b ∧ t.roomFor d ∧ e = ⟨x.toNat, 8, 0⟩ ∨
      i = .join a imm ∧ u = usesA a ∧ e = ⟨(x + BitVec.ofInt 64 (imm * 8)).toNat, 8, 0⟩) →
    s.unasked.Begins u x y z t → checkAccess t .load .watch false [e] = .ok (r, [(e, .phys pa pte)]) →
    pteProt pte = 0 ∨ pteProt pte = 7 →
    (s.me.asks = [] → s.fenced s.myPartId = false → ∃ (t' : State) (f : Flit), exec i s = .next t' ∧ t'.net = s.net ++ [f] ∧
      f.dst = .pp (s.homeFor pa) ∧ f.type = 0 ∧ f.lane = 0 ∧ f.word 0 = w64 pa ∧ f.word 3 = 8 ∧
      t'.me = { s.me.waits .asks with asks := [⟨f.rseq, 1, e.va * 64 + 8, w64 e.va, .waiting⟩] } ∧
      (∀ n, t'.x n = s.x n) ∧ (∀ l, t'.byteAt l = s.byteAt l)) ∧
    (∀ (q : Nat) (v : Word), s.me.asks = [⟨q, 1, e.va * 64 + 8, w64 e.va, .ready v⟩] →
      (i = .waitm d a b o → v ≠ y → r.takes d v → ∃ t' : State, exec i s = .next t' ∧
        (∀ n, t'.x n = (s.gives true r d v).x n) ∧ t'.me = (s.gives true r d v).me) ∧
      (i = .waitm d a b o → v = y → exec i s = .next (s.modMe fun h => h.parked .memwait (.differsAt e.va pa y true s.time))) ∧
      (i = .join a imm → v = 0 → ∃ t' : State, exec i s = .next t' ∧ t'.me = r.me) ∧
      (i = .join a imm → v ≠ 0 → exec i s = .next (s.modMe fun h => h.parked .join (.zeroAt e.va pa true s.time)))))

/-- R377: BAR of a core's slot. With its DONE bit set it clears the bit and goes on, whatever the count. Else a count outside 1 to
16, or one that differs from a TARGET that is not 0, raises ILLEGAL with the count, bit 63 cleared, as EVAL; else, once the slot's
matrix operations have retired and its results are in, the arrival that makes the number of WAIT bits plus one the count makes DONE the
old WAIT, WAIT and TARGET 0 and GEN one more, and goes on; any other parks with BARRIER, its WAIT bit set and TARGET the count. -/
def Obligations.Barriers : Prop :=
  ∀ (s t : State) (i a : Nat) (x y z : Word), s.Begins (usesA a) x y z t → s.cur.pp = false → i < 16 →
    ∀ (w : Word) (done wait target gen n k : Nat), w = t.myCore.bar i → done = fld w 63 48 →
    wait = fld w 47 32 → target = fld w 20 16 → gen = fld w 15 0 → n = x.toNat →
    k = ((List.range 16).filter fun j => wait.testBit j).length →
    (done.testBit s.cur.slot = true → exec (.bar i a) s = .next (t.setBar i
      (w64 ((done - 2 ^ s.cur.slot) * 2 ^ 48 + wait * 2 ^ 32 + target * 2 ^ 16 + gen)))) ∧
    (done.testBit s.cur.slot = false → (n < 1 ∨ 16 < n) → exec (.bar i a) s = .next (s.takeTrap 0x01 (w64 (n % 2 ^ 63)) none)) ∧
    (done.testBit s.cur.slot = false → 1 ≤ n → n ≤ 16 → target ≠ 0 → n ≠ target →
      exec (.bar i a) s = .next (s.takeTrap 0x01 (w64 n) none)) ∧
    (done.testBit s.cur.slot = false → 1 ≤ n → n ≤ 16 → (target = 0 ∨ n = target) → t.drained false = true →
      (k + 1 = n → exec (.bar i a) s = .next (t.setBar i (w64 (wait * 2 ^ 48 + (gen + 1) % 2 ^ 16)))) ∧
      (k + 1 ≠ n → exec (.bar i a) s = .next ((s.modMe fun h => h.parked .barrier (.barrier i)).setBar i
        (w64 (done * 2 ^ 48 + (wait ||| 2 ^ s.cur.slot) * 2 ^ 32 + n * 2 ^ 16 + gen)))))

/-- R83, R378: BCARM adds x[a] to PEND of one of the thread's eight byte-count barriers, OVER unchanged, or raises ENGINE with the
barrier's number where the sum would carry out of bit 62. R379: BCWAIT, where the thread holds no failed job that counts at the
barrier, parks with BCOUNT while PEND is not 0; with PEND 0 it gives the barrier, OVER in bit 63, to x[d] or q1, and clears it. R257: where it holds
one, BCWAIT raises ENGINE with that job's id. -/
def Obligations.ByteCounts : Prop :=
  ∀ (s t : State) (i a d : Nat) (x y z : Word), s.cur.pp = false → i < 8 →
    (s.Begins (usesA a) x y z t →
      (fld (t.me.regs.barrier i) 62 0 + x.toNat < 2 ^ 63 → exec (.bcarm i a) s = .next (t.modMe fun h => { h with
        regs := h.regs.setBarrier i (w64 ((if (h.regs.barrier i).getLsbD 63 then 2 ^ 63 else 0) +
          (fld (h.regs.barrier i) 62 0 + x.toNat))) })) ∧
      (2 ^ 63 ≤ fld (t.me.regs.barrier i) 62 0 + x.toNat → exec (.bcarm i a) s = .next (s.takeTrap 0x0E (w64 i) none))) ∧
    (s.Begins (usesD d) x y z t →
      (∀ id, t.failedAt t.cur.unit t.cur.slot i = some id → exec (.bcwait d i) s = .next (s.takeTrap 0x0E (w64 id) none)) ∧
      (t.failedAt t.cur.unit t.cur.slot i = none → fld (t.me.regs.barrier i) 62 0 ≠ 0 →
        exec (.bcwait d i) s = .next (s.modMe fun h => h.parked .bcount (.bytes i))) ∧
      (∀ v r, v = (if (t.me.regs.barrier i).getLsbD 63 then BitVec.ofNat 64 (2 ^ 63) else 0) →
        r = (t.modMe fun h => { h with regs := h.regs.setBarrier i 0 }) →
        t.failedAt t.cur.unit t.cur.slot i = none → fld (t.me.regs.barrier i) 62 0 = 0 → r.takes d v →
        exec (.bcwait d i) s = .next (s.gives false r d v)))

/-- R192, R299, R403: a FENCE at a core completes when the thread's results are in and its matrix operations done, when for a release
at partition scope or wider no release action of the core is left, and when for an acquire every copy job of the thread has ended
or is a STREAM job (FENCE, FENCEE) and the thread's ring instructions have taken effect (FENCE, FENCER): each of its tiles has entered
its station and passed every station of the ring, and no application that one of them caused is still in an array's queue, which is
how far the model takes them (log entry 92). An acquire over engines parks with JOBWAIT while a job runs; one over rings is WAITING
until then. At privilege H it completes at issue. R268, R302: what a release of a core's thread
waits for: its matrix operations, then its results, and at partition scope or wider the release actions of the core, which the first
wait sends. -/
def Obligations.Fences : Prop :=
  (∀ (s : State) (i : Instr) (o : OrdFld) (engines rings wide : Bool), s.settled = true →
    (i = .fence o ∧ engines = true ∧ rings = true ∨ i = .fencem o ∧ engines = false ∧ rings = false ∨
      i = .fencee o ∧ engines = true ∧ rings = false ∨ i = .fencer o ∧ engines = false ∧ rings = true) →
    wide = (ordReleases o && o.scope != .core) →
    (s.cur.pp = true → exec i s = .next s.advanced) ∧
    (s.cur.pp = false → s.advanced.drained wide = true →
      (engines = true → ordAcquires o = true →
        ∀ e ∈ s.myHem.heldBy s.cur.unit s.cur.slot, e.2.state.ended = true ∨ e.2.kind = 5) →
      (rings = true → ordAcquires o = true → s.ringsOpen s.cur.unit s.cur.slot = false) →
      exec i s = .next (s.advanced.releasedAt wide)) ∧
    (s.cur.pp = false → s.advanced.drained wide = true → rings = true → ordAcquires o = true →
      (engines = true → ∀ e ∈ s.myHem.heldBy s.cur.unit s.cur.slot, e.2.state.ended = true ∨ e.2.kind = 5) →
      (∃ e ∈ s.myHem.ring.injectors, e.2.active = true ∧ e.2.core = s.cur.unit ∧ e.2.thread = s.cur.slot ∧
        (e.2.entered = false ∨ hLaps e.2.hdr = 0)) →
      exec i s = .next (s.modMe fun h => h.waits .rings)) ∧
    (s.cur.pp = false → s.advanced.drained wide = true → engines = true → ordAcquires o = true →
      (∃ e ∈ s.myHem.heldBy s.cur.unit s.cur.slot, e.2.state.ended = false ∧ e.2.kind ≠ 5) →
      exec i s = .next (s.modMe fun h => h.parked .jobwait .jobsEnd))) ∧
  (∀ (s : State) (wide : Bool), s.cur.pp = false → lateMark s.me = .ok () →
    (s.myCore.array.ops s.cur.slot ≠ [] → gate wide s = .error (.wait .matrix id)) ∧
    (s.myCore.array.ops s.cur.slot = [] → s.me.pending ≠ [] → gate wide s = .error (.wait .results id)) ∧
    (s.myCore.array.ops s.cur.slot = [] → s.me.pending = [] → wide = true → s.me.release.stage = 0 →
      (s.myCore.flushes ≠ [] ∨ s.myCore.closing ≠ [] ∨ ∃ e ∈ s.myCore.cache, s.needsFlush s.cur.unit e.2 = true) →
      gate wide s = .error (.wait .release State.startFlush)) ∧
    (s.drained wide = true → gate wide s = .ok (s.releasedAt wide)))

/-- R463: TAGQ gives the tag, PARTIAL, DIRTY, PROT and PSN of the block at x[a], 0x8000 where nothing maps it; outside the
global window it raises WINDOW, and PAGE_PROT at U for a supervisor page. R436: the prefetches. PREFR, PREFK and PREFW ask the home
for a block not held, PREFW also for an upgrade; the block becomes BUSY. PREFREL gives up a read-only block, and one in RW of the
INVALIDATE or MIGRATORY protocol with its data; the block is then in I. On a block in another tag they do nothing, and so where the
address names no block that R436 lets them act on.
The words of a message beyond those that R270 names, and its sequence number, are the model's choice (log entry 23). -/
def Obligations.Prefetches : Prop :=
  (∀ (s t : State) (d a : Nat) (x y z : Word), s.Begins (usesDA d a) x y z t →
    (x.toNat / 2 ^ 56 ≠ 0 → exec (.tagq d a) s = .next (s.takeTrap 0x05 x none)) ∧
    (x.toNat / 2 ^ 56 = 0 → t.leafFor x.toNat = none → t.takes d 0x8000 →
      exec (.tagq d a) s = .next (s.gives false t d 0x8000)) ∧
    (∀ pa pte, x.toNat / 2 ^ 56 = 0 → t.leafFor x.toNat = some (pa, pte) →
      (pte.getLsbD 4 = true → t.me.priv = .u → exec (.tagq d a) s = .next (s.takeTrap 0x06 x none)) ∧
      (∀ (k : Block) (v : Word), k = t.myCore.block (pa / 64 * 64) →
        v = w64 ((match t.myCore.tagAt (pa / 64 * 64) with | .i => 0 | .ro => 1 | .rw => 2 | .busy => 3) +
          (if k.partialCopy then 4 else 0) + (if k.dirty ≠ 0 then 8 else 0) + fld pte 11 8 * 2 ^ 8 +
          (if pte.getLsbD 62 then 2 ^ 12 else 0)) →
        pte.getLsbD 4 = false ∨ t.me.priv ≠ .u → t.takes d v → exec (.tagq d a) s = .next (s.gives false t d v)))) ∧
  (∀ (s t : State) (a : Nat) (imm : Int) (x y z : Word) (i : Instr), s.Begins (usesA a) x y z t →
    (i = .prefr a imm ∨ i = .prefk a imm ∨ i = .prefw a imm ∨ i = .prefrel a imm) →
    (prefBlock t (x + BitVec.ofInt 64 (imm * 64)) = none → exec i s = .next t) ∧
    (∀ b pte r, prefBlock t (x + BitVec.ofInt 64 (imm * 64)) = some (b, pte, r) → r.fenced r.myPartId = false →
      r.myCore.cache.length < 1024 →
      ((r.myCore.block b).tag = .i → i ≠ .prefrel a imm → ∃ (t' : State) (f : Flit), exec i s = .next t' ∧ t'.net = r.net ++ [f] ∧
        f.dst = .pp (r.homeFor b) ∧ f.type = (if i = .prefw a imm then 1 else 0) ∧ f.word 0 = w64 b ∧
        (t'.myCore.block b).tag = .busy ∧ (t'.myCore.block b).prefetch = true ∧ t'.me = t.me) ∧
      ((r.myCore.block b).tag = .i → i = .prefrel a imm → exec i s = .next t) ∧
      ((r.myCore.block b).tag = .rw → i ≠ .prefrel a imm → exec i s = .next t) ∧
      ((r.myCore.block b).tag = .ro → (i = .prefr a imm ∨ i = .prefk a imm) → exec i s = .next t) ∧
      ((r.myCore.block b).tag = .ro → i = .prefw a imm → ∃ (t' : State) (f : Flit), exec i s = .next t' ∧ t'.net = r.net ++ [f] ∧
        f.dst = .pp (r.homeFor b) ∧ f.type = 2 ∧ f.word 0 = w64 b ∧ (t'.myCore.block b).tag = .busy ∧ t'.me = t.me) ∧
      ((r.myCore.block b).tag = .ro → i = .prefrel a imm → ∃ (t' : State) (f : Flit), exec i s = .next t' ∧ t'.net = r.net ++ [f] ∧
        f.dst = .pp (r.homeFor b) ∧ f.type = 6 ∧ f.word 0 = w64 b ∧ f.payload = none ∧ (t'.myCore.block b).tag = .i ∧ t'.me = t.me) ∧
      ((r.myCore.block b).tag = .rw → i = .prefrel a imm →
        ((r.myCore.block b).prot = 1 ∨ (r.myCore.block b).prot = 3 → ∃ (t' : State) (f : Flit), exec i s = .next t' ∧
          t'.net = r.net ++ [f] ∧ f.dst = .pp (r.homeFor b) ∧ f.type = 6 ∧ f.word 0 = w64 b ∧
          f.payload = some (r.myCore.block b).data ∧ (t'.myCore.block b).tag = .i ∧ t'.me = t.me) ∧
        ((r.myCore.block b).prot ≠ 1 → (r.myCore.block b).prot ≠ 3 → exec i s = .next t))))

/-! ## Vectors and masks -/

/-- R143 to R151, R472 to R483: a lane operation writes each active lane with its value, keeps the other lanes, sets the OR of
the active lanes' flags, and changes nothing else (the instructions are those of `laneResult`). R80, R420, R421, R427, R474,
R481: an instruction that sets a mask sets each of its 128 bits; m0 reads all ones whatever is written; the other masks, the
registers and the rest stay. R421: at privilege H, m0 reads all ones, m1 to m7 read zero, and writes to them are discarded. -/
def Obligations.VectorResults : Prop :=
  (∀ (i : Instr) (d w m : Nat) (u : Uses) (f : State → Word → Word → Nat → Int × Nat) (s t : State) (a b c : Word),
    laneResult i = some (d, w, m, u, f) → i.wf = true → s.Begins u a b c t →
    ∃ t', exec i s = .next t' ∧
      (∀ k, k < laneCount w → laneOf (t'.v d) w k =
        if (t.mask m).getLsbD k then ((f t a b k).1 % (2 ^ laneBits w : Nat)).toNat else laneOf (t.v d) w k) ∧
      (∀ r, r ≠ d → t'.v r = t.v r) ∧ (∀ r, t'.x r = t.x r) ∧
      (∀ n, n = ((List.range (laneCount w)).filter fun k => (t.mask m).getLsbD k).foldl (fun n k => n ||| (f t a b k).2) 0 →
        t'.me = { t.me with regs := { t.me.regs with fcsr := t.me.regs.fcsr ||| w64 n } }) ∧
      t.SameElsewhere t' ∧ ∀ l, t'.byteAt l = t.byteAt l) ∧
  ((∀ (i : Instr) (d : Nat) (u : Uses) (f : State → Word → Nat → Bool × Nat) (s t : State) (a b c : Word),
    maskResult i = some (d, u, f) → i.wf = true → s.Begins u a b c t →
    ∃ t', exec i s = .next t' ∧
      (∀ k, k < 128 → (t'.mask d).getLsbD k = if d = 0 then true else if s.cur.pp then false else (f t a k).1) ∧
      (∀ r, r ≠ d → t'.mask r = t.mask r) ∧ (∀ r, t'.v r = t.v r) ∧ (∀ r, t'.x r = t.x r) ∧
      (∀ n, n = (List.range 128).foldl (fun n k => n ||| (f t a k).2) 0 → ∃ masks,
        t'.me = { t.me with regs := { t.me.regs with masks, fcsr := t.me.regs.fcsr ||| w64 n } }) ∧
      t.SameElsewhere t' ∧ ∀ l, t'.byteAt l = t.byteAt l) ∧
  (∀ (s : State) (d : Nat) (v : Mask), s.cur.pp = true →
    s.mask 0 = BitVec.allOnes 128 ∧ (∀ r, 1 ≤ r → r ≤ 7 → s.mask r = 0) ∧ s.setMask d v = s))

/-- R475 to R479, R484: VINS sets the lane that x[b] names; VDEC gives the value of each code of a quarter in a decode table, VENC
the code nearest each value, where a 4-bit table that no 4-bit format fits is FORMAT 16; VBSC gives the scale byte of each
block of 32 active lanes, in x[d] or in q1; R394: the three wait while a DTLD of another slot holds their table back; VCVT converts each active lane, and zeroes the lanes of a wider result that it has no source for. -/
def Obligations.VectorCodes : Prop :=
  ∀ (s t : State) (d a b w tab f ty m q : Nat) (four : Bool) (x y z : Word),
    (s.Begins ⟨false, .src a, .src b, .vec d⟩ x y z t → w ≤ 3 → ∃ t', exec (.vins d a b w) s = .next t' ∧
      (∀ k, k < laneCount w → laneOf (t'.v d) w k =
        if k = y.toNat % laneCount w then x.toNat % 2 ^ laneBits w else laneOf (t.v d) w k) ∧
      (∀ r, r ≠ d → t'.v r = t.v r) ∧ t'.me = t.me ∧ t.SameElsewhere t') ∧
    (t.myCore.tableHeld s.cur.slot tab = true →
      (s.Begins (usesVA d a) x y z t → exec (.vdec d a tab four q) s = .next (s.modMe fun h => h.waits (.table tab)) ∧
        exec (.venc d a tab four q) s = .next (s.modMe fun h => h.waits (.table tab))) ∧
      (s.Begins (usesXV d a) x y z t → exec (.vbsc d a tab ty m) s = .next (s.modMe fun h => h.waits (.table tab)))) ∧
    (t.myCore.tableHeld s.cur.slot tab = false →
    (s.Begins (usesVA d a) x y z t → four = true → t.myCore.fourOk tab = false →
      exec (.vdec d a tab four q) s = .next (s.takeTrap 0x10 16 none) ∧
      exec (.venc d a tab four q) s = .next (s.takeTrap 0x10 16 none)) ∧
    (s.Begins (usesVA d a) x y z t → (four = true → t.myCore.fourOk tab = true) → ∃ t',
      exec (.vdec d a tab four q) s = .next t' ∧
      (∀ l, l < 32 → laneOf (t'.v d) 2 l = t.myCore.dec tab (codeOf (t.v a) four (32 * q + l)) % 2 ^ 32) ∧
      (∀ r, r ≠ d → t'.v r = t.v r) ∧ t'.me = t.me ∧ t.SameElsewhere t') ∧
    (s.Begins (usesVA d a) x y z t → (four = true → t.myCore.fourOk tab = true) → 32 * q + 32 ≤ 1024 / codeBits four →
      ∃ t', exec (.venc d a tab four q) s = .next t' ∧
      (∀ l, l < 32 → codeOf (t'.v d) four (32 * q + l) = (encWith (t.myCore.codes tab four) (t.myCore.candidates tab four)
        (fmtS.unpack false (laneOf (t.v a) 2 l))).1 % 2 ^ codeBits four) ∧
      (∀ j, j < 32 * q ∨ 32 * q + 32 ≤ j → j < 1024 / codeBits four → codeOf (t'.v d) four j = codeOf (t.v d) four j) ∧
      (∀ r, r ≠ d → t'.v r = t.v r) ∧ t.SameElsewhere t') ∧
    (s.Begins (usesXV d a) x y z t → ty ≤ 2 → ∃ v flags,
      ((t.raise flags).takes d v → exec (.vbsc d a tab ty m) s = .next (s.gives false (t.raise flags) d v)) ∧
      (∀ k, k < laneCount (typeWidth ty) / 32 → v.toNat / 256 ^ k % 256 =
        ((t.myCore.bscale tab (((List.range (laneCount (typeWidth ty))).filter fun i =>
          (t.mask m).getLsbD i && i / 32 == k).map fun i => laneF ty false (t.v a) i)).1 % 256).toNat))) ∧
    (s.Begins (usesVA d a) x y z t → f ≤ 11 → ty ≤ 3 → ∃ t', exec (.vcvt d a f ty m) s = .next t' ∧
      (∀ k, k < laneCount (Nat.max (vcvtWidths f ty).1 (vcvtWidths f ty).2) → laneOf (t'.v d) (vcvtWidths f ty).2 k =
        if (t.mask m).getLsbD k then (vcvtVal f ty t.env (laneOf (t.v a) (vcvtWidths f ty).1 k)).1 % 2 ^ laneBits (vcvtWidths f ty).2
        else laneOf (t.v d) (vcvtWidths f ty).2 k) ∧
      (∀ k, laneCount (vcvtWidths f ty).1 ≤ k → k < laneCount (vcvtWidths f ty).2 → laneOf (t'.v d) (vcvtWidths f ty).2 k = 0) ∧
      (∀ r, r ≠ d → t'.v r = t.v r) ∧ t.SameElsewhere t')

/-! ## Matrix operations -/

/-- R173 to R177, R424 to R431, R471: MMA, MZERO, MLD, MST and TTRN. The traps come in the order of R175: the alignment of a
group, a slot that the rings reserve or pins hold, the format; within one of these the operand a before b, the source before the
destination, and of a group the lowest slot, as the model chooses (log entry 78). R394: while a DTLD of another slot holds back a
decode table that the operation uses, the thread waits, and the check of its 4-bit use comes after that. MST's result needs a place
in q1 if that is its destination. With four operations unretired the thread waits; else the operation joins the thread's queue
with the format context of now, MST's result is to come, and nothing else changes. -/
def Obligations.MatrixAccepted : Prop :=
  ∀ (s t : State) (i : Instr) (u : Uses) (x y z : Word) (m : MatForm), usesOf s i = some u → s.Begins u x y z t →
    matForm t x y z i = some m → s.cur.pp = false →
    (∀ p g r, m.groups = p ++ g :: r → (∀ h ∈ p, h.n % h.k = 0) → g.n % g.k ≠ 0 →
      exec i s = .next (s.takeTrap 0x10 (w64 (0x200 + g.n)) none)) ∧
    ((∀ g ∈ m.groups, g.n % g.k = 0) →
      (∀ n w, (m.groups.flatMap Group.slots).find? t.slotBarred = some (n, w) → exec i s = .next (s.takeTrap 0x0F (w64 n) none)) ∧
      ((m.groups.flatMap Group.slots).find? t.slotBarred = none →
        (m.fault = some 17 → exec i s = .next (s.takeTrap 0x10 17 none)) ∧
        (∀ j, m.fault ≠ some 17 → m.tables.find? (t.myCore.tableHeld s.cur.slot) = some j →
          exec i s = .next (s.modMe fun h => h.waits (.table j))) ∧
        (m.tables.find? (t.myCore.tableHeld s.cur.slot) = none →
          (∀ e, m.fault = some e → exec i s = .next (s.takeTrap 0x10 (w64 e) none)) ∧
          (∀ d a b f, m.fault = none → i = .mst d a b f → ¬ t.roomFor d → exec i s = .next s.noRoom) ∧
          (m.fault = none → (∀ d a b f, i = .mst d a b f → t.roomFor d) → 4 ≤ (t.myCore.array.ops s.cur.slot).length →
            exec i s = .next (s.modMe fun h => h.waits .matrix)) ∧
          (m.fault = none → (t.myCore.array.ops s.cur.slot).length < 4 →
            (∀ d a b f, i = .mst d a b f → t.roomFor d →
              exec i s = .next (({ t with seq := t.seq + 1 }.joined m.kind t.seq).awaits t.seq d)) ∧
            ((∀ d a b f, i ≠ .mst d a b f) → exec i s = .next (t.joined m.kind 0))))))

/-- R87, R423: MFMT gives the old format context and sets the new one, unless a reserved bit or a scale of a 16-bit kind
makes it FORMAT. R155, R393, R394: DTLD replaces a decode table by the 256 words at x[a]; a word with a reserved bit, or a
table without a finite value, makes it FORMAT, and nothing is replaced. Once its read is complete it holds the table back from
others, and waits until the operations on it that were accepted up to that cycle have retired. -/
def Obligations.FormatContext : Prop :=
  (∀ (s t r : State) (d a : Nat) (x y z : Word), s.Begins (usesDA d a) x y z t →
    ((fld x 63 20 ≠ 0 ∨ fld x 15 14 ≠ 0 ∨ fld x 7 6 ≠ 0) → exec (.mfmt d a) s = .next (s.takeTrap 0x10 18 none)) ∧
    (fld x 63 20 = 0 → fld x 15 14 = 0 → fld x 7 6 = 0 →
      (scaleOn16 (x.getLsbD 5) (fld x 4 3) = true ∨ scaleOn16 (x.getLsbD 13) (fld x 12 11) = true →
        exec (.mfmt d a) s = .next (s.takeTrap 0x10 17 none)) ∧
      (scaleOn16 (x.getLsbD 5) (fld x 4 3) = false → scaleOn16 (x.getLsbD 13) (fld x 12 11) = false →
        r = (t.modRegs fun g => { g with fmtctx := x }) → r.takes d t.me.regs.fmtctx →
        exec (.mfmt d a) s = .next (s.gives false r d t.me.regs.fmtctx)))) ∧
  (∀ (s t r : State) (i a : Nat) (x y z : Word) (l : List (Machine.Place × Nat)), s.Begins (usesA a) x y z t →
    (x.toNat % 64 ≠ 0 → exec (.dtld i a) s = .next (s.takeTrap 0x04 x none)) ∧
    (x.toNat % 64 = 0 → windowOf x.toNat = .device ∨ windowOf x.toNat = .remote →
      exec (.dtld i a) s = .next (s.takeTrap 0x05 x none)) ∧
    (x.toNat % 64 = 0 → windowOf x.toNat ≠ .device → windowOf x.toNat ≠ .remote →
      readNow .vload .vector ((List.range 256).map fun c => ⟨(x + w64 (4 * c)).toNat, 4, c⟩) t = .ok (l, r) →
      (∀ c, c < 256 → 2 ^ 19 ≤ (l.map (·.2)).getD c 0 → (∀ e, e < c → (l.map (·.2)).getD e 0 < 2 ^ 19) →
        exec (.dtld i a) s = .next (s.takeTrap 0x10 (w64 c) none)) ∧
      ((∀ e, e < 256 → (l.map (·.2)).getD e 0 < 2 ^ 19) →
        ((∀ w ∈ l, w.2 / 2 ^ 10 % 256 = 255) → exec (.dtld i a) s = .next (s.takeTrap 0x10 256 none)) ∧
        (∀ since, (∃ w ∈ l, w.2 / 2 ^ 10 % 256 ≠ 255) →
          since = (match r.me.tableHold with | some (j, n) => if j = i then n else s.time | none => s.time) →
          ((∃ o ∈ r.myCore.array.all, o.usesTable i = true ∧ o.accepted ≤ since) →
            exec (.dtld i a) s = .next (s.modMe fun h => { h.waits (.tableUsers i since) with tableHold := some (i, since) })) ∧
          ((∀ o ∈ r.myCore.array.all, o.usesTable i = true → since < o.accepted) →
          ∃ t' : State, exec (.dtld i a) s = .next t' ∧ t'.me = { r.me with tableHold := none } ∧
            (∀ b, t'.byteAt b = r.byteAt b) ∧
            (∀ c, c < 256 → (t'.myCore.dt.at (256 * i + c) 0).toNat = (l.map (·.2)).getD c 0) ∧
            (∀ k, (k < 256 * i ∨ 256 * i + 256 ≤ k) → t'.myCore.dt.at k 0 = r.myCore.dt.at k 0))))))

/-! ## Rings -/

/-- R191, R445: RINJ. The first of its conditions that fails raises RING with its value; with q1 as the destination and no place in
it the thread parks with QFULL; at the live cap it parks with LIVECAP; else the record is made, the slot pinned and the tile id is
to come, for x[d] or for the dword that q1 keeps. That it parks so too while a stop holds injections back, or where no record of
the station is free, is the model's choice (log entries 57 and 97). -/
def Obligations.RingInjection : Prop :=
  ∀ (s t : State) (i : Instr) (fam d a b : Nat) (x y z : Word), (i = .rinja d a b ∧ fam = 0 ∨ i = .rinjb d a b ∧ fam = 1) →
    s.Begins (usesDAB d a b) x y z t → s.cur.pp = false →
    (∀ e, t.injectFault fam x y = some e → exec i s = .next (s.takeTrap 0x0F (w64 e) none)) ∧
    (t.injectFault fam x y = none → ¬ t.roomFor d → exec i s = .next s.noRoom) ∧
    (t.injectFault fam x y = none → t.roomFor d →
      (t.myHem.cap fam ≤ t.myHem.live fam ∨ t.myHem.stopped = true ∨ t.myHem.freeInj fam (stationOf s.cur.unit) = none →
        exec i s = .next (s.modMe fun h => h.parked .livecap (.liveCap fam))) ∧
      (∀ n, t.myHem.live fam < t.myHem.cap fam → t.myHem.stopped = false →
        t.myHem.freeInj fam (stationOf s.cur.unit) = some n → t.drained true = true →
        ∃ t' r, exec i s = .next t' ∧ r = t'.myHem.ring.inj (injKey fam (stationOf s.cur.unit) n) ∧
          r.active = true ∧ r.entered = false ∧ r.core = s.cur.unit ∧ r.slot = x.toNat % 512 ∧ r.remain = hPartners y ∧
          r.thread = s.cur.slot ∧ hFam r.hdr = hFam y ∧ hMat r.hdr = hMat y ∧ hX r.hdr = hX y ∧ hK r.hdr = hK y ∧
          hLaps r.hdr = 0 ∧ t'.myCore.pins.at (x.toNat % 512) 0 = t.myCore.pins.at (x.toNat % 512) 0 + 1 ∧
          t'.me = ((t.releasedAt true).awaits t.seq d).me ∧ (∀ l, t'.byteAt l = t.byteAt l)))

/-- R195, R438: PCLR ends a pattern entry; that its other fields stay, and that a q5 record of it that still waits names no output any
more, is the model's choice (log entry 55). R203, R434: PMARK marks a step of an output applied, once, with 0, and gives 1 for one
applied or queued. R205, R447: RSTAT gives the applied bits, the pending bits, the counts of the hem; of a live tile the partners
that remain, its laps, bit 14, and bit 15 where a station pins it; 0 for a tile that is not live; of an entry that is not active it
raises RING 0x1004, of an output outside the pattern 0x1005, of another kind 0x100B. -/
def Obligations.RingQueries : Prop :=
  (∀ (s t : State) (b : Nat) (x y z : Word), s.Begins ⟨false, .none, .src b, .none⟩ x y z t →
    (t.myHem.hemctl.getLsbD 0 = false → exec (.pclr b) s = .next (s.takeTrap 0x0F 0x1001 none)) ∧
    (t.myHem.hemctl.getLsbD 0 = true → t.myHem.entry (fld y 3 0) = none →
      exec (.pclr b) s = .next (s.takeTrap 0x0F 0x1004 none)) ∧
    (∀ p, t.myHem.hemctl.getLsbD 0 = true → t.myHem.entry (fld y 3 0) = some p →
      (t.myHem.entryBusy (fld y 3 0) p = true → exec (.pclr b) s = .next (s.takeTrap 0x0F 0x1008 none)) ∧
      (t.myHem.entryBusy (fld y 3 0) p = false → ∃ t' : State, exec (.pclr b) s = .next t' ∧ t'.me = t.me ∧
        t'.myHem = { t.myHem with
          patterns := t.myHem.patterns.put (fld y 3 0) { p with active := false }
          q5waiting := t.myHem.q5waiting.map fun w => if w.2.2.1 = fld y 3 0 then (w.1, w.2.1, 16, 0) else w }))) ∧
  (∀ (s t : State) (d a b : Nat) (x y z : Word), s.Begins (usesDAB d a b) x y z t →
    (t.myHem.entry (fld x 63 60) = none → exec (.pmark d a b) s = .next (s.takeTrap 0x0F 0x1004 none)) ∧
    (∀ p, t.myHem.entry (fld x 63 60) = some p →
      (p.oi ≤ fld x 19 10 ∨ p.oj ≤ fld x 9 0 ∨ p.kb ≤ fld y 5 0 → exec (.pmark d a b) s = .next (s.takeTrap 0x0F 0x1005 none)) ∧
      (fld x 19 10 < p.oi → fld x 9 0 < p.oj → fld y 5 0 < p.kb → ¬ t.roomFor d → exec (.pmark d a b) s = .next s.noRoom) ∧
      (fld x 19 10 < p.oi → fld x 9 0 < p.oj → fld y 5 0 < p.kb → t.roomFor d → t.myCore.array.ops s.cur.slot = [] →
        ∀ o, o = t.myHem.output (fld x 63 60) (p.out (fld x 19 10) (fld x 9 0)) → s.cur.pp = false →
        (o.applied.getLsbD (fld y 5 0) = true ∨ o.pendingBits.getLsbD (fld y 5 0) = true → t.takes d 1 →
          exec (.pmark d a b) s = .next (s.gives true t d 1)) ∧
        (o.applied.getLsbD (fld y 5 0) = false → o.pendingBits.getLsbD (fld y 5 0) = false → ∃ t' : State,
          (t'.takes d 0 → exec (.pmark d a b) s = .next (s.gives true t' d 0)) ∧
          (t'.myHem.output (fld x 63 60) (p.out (fld x 19 10) (fld x 9 0))).applied.getLsbD (fld y 5 0) = true)))) ∧
  (∀ (s t : State) (d a : Nat) (x y z : Word), s.Begins (usesDA d a) x y z t →
    (3 < fld x 63 60 → exec (.rstat d a) s = .next (s.takeTrap 0x0F 0x100B none)) ∧
    (fld x 63 60 ≤ 1 → t.myHem.entry (fld x 59 56) = none → exec (.rstat d a) s = .next (s.takeTrap 0x0F 0x1004 none)) ∧
    (∀ p, fld x 63 60 ≤ 1 → t.myHem.entry (fld x 59 56) = some p →
      (p.oi ≤ fld x 19 10 ∨ p.oj ≤ fld x 9 0 → exec (.rstat d a) s = .next (s.takeTrap 0x0F 0x1005 none)) ∧
      (fld x 19 10 < p.oi → fld x 9 0 < p.oj → 0 < p.kb → ∀ (o : Output) (v : Word),
        o = t.myHem.output (fld x 59 56) (p.out (fld x 19 10) (fld x 9 0)) →
        v = (if fld x 63 60 = 0 then o.applied else o.pendingBits) → t.takes d v →
        exec (.rstat d a) s = .next (s.gives true t d v))) ∧
    (∀ v, (fld x 63 60 = 2 ∧ v = w64 (t.myHem.live 0 + t.myHem.live 1 * 2 ^ 8 + t.myHem.deferrals * 2 ^ 16 + t.myHem.misses * 2 ^ 32) ∨
        fld x 63 60 = 3 ∧ (∀ k r, t.myHem.tileRecord x = some (k, r) → r.active = false) ∧ v = 0 ∨
        ∃ k r, fld x 63 60 = 3 ∧ t.myHem.tileRecord x = some (k, r) ∧ r.active = true ∧
          v = w64 (r.remain + hLaps r.hdr * 2 ^ 10 + 2 ^ 14 + if t.myHem.ring.passing.any (fun e =>
            decide (e.1 / 256 = fld x 11 11) && e.2.inj == fld x 15 12 && e.2.record == fld x 10 5 && e.2.seq == r.seq &&
              decide (e.2.pins ≠ 0)) then 2 ^ 15 else 0)) → t.takes d v →
      exec (.rstat d a) s = .next (s.gives true t d v)))

/-- R195, R438: PSET, once its reads are done. The rings off, a misaligned descriptor, an entry in use, a field or an owner map that
breaks R195 trap; else the entry is active with the descriptor's fields, the owner map and x3, and its 128 outputs, the deferrals
and the misses are cleared; the rings' tiles, the thread and memory stay. -/
def Obligations.PatternSet : Prop :=
  ∀ (s t r1 r2 : State) (a b : Nat) (x y z : Word) (l m : List (Machine.Place × Nat)) (p : Pattern),
    s.Begins (usesAB a b) x y z t →
    (t.myHem.hemctl.getLsbD 0 = false → exec (.pset a b) s = .next (s.takeTrap 0x0F 0x1001 none)) ∧
    (t.myHem.hemctl.getLsbD 0 = true → x.toNat % 64 ≠ 0 → exec (.pset a b) s = .next (s.takeTrap 0x04 x none)) ∧
    (t.myHem.hemctl.getLsbD 0 = true → x.toNat % 64 = 0 → readNow .vload .vector (dwordEls x 8) t = .ok (l, r1) →
      ((r1.myHem.entry (fld y 3 0)).isSome → exec (.pset a b) s = .next (s.takeTrap 0x0F 0x1006 none)) ∧
      ∀ w : Nat → Word, (∀ i, w i = w64 ((l.map (·.2)).getD i 0)) → r1.myHem.entry (fld y 3 0) = none →
        p = ⟨true, w 0, w 1, w 2, w 3, w 4, w 5, w 6, [], r1.x 3⟩ →
        (r1.patternBad p (w 7) = true → exec (.pset a b) s = .next (s.takeTrap 0x0F 0x1007 none)) ∧
        (r1.patternBad p (w 7) = false → readNow .vload .vector
            ((List.range (p.oi * p.oj)).map fun i => ⟨(p.ownmap + w64 i).toNat, 1, i⟩) r1 = .ok (m, r2) →
          (Pattern.mapBad { p with owners := m.map (·.2) } = true → exec (.pset a b) s = .next (s.takeTrap 0x0F 0x1007 none)) ∧
          (Pattern.mapBad { p with owners := m.map (·.2) } = false → ∃ t' : State, exec (.pset a b) s = .next t' ∧ t'.me = r2.me ∧
            t'.myHem.entry (fld y 3 0) = some { p with owners := m.map (·.2) } ∧
            (∀ o, o < 128 → t'.myHem.output (fld y 3 0) o = Output.reset) ∧ t'.myHem.deferrals = 0 ∧ t'.myHem.misses = 0 ∧
            t'.myHem.ring = r2.myHem.ring ∧ (∀ l, t'.byteAt l = r2.byteAt l))))

/-- R204, R443: RFETCH. A destination slot that the rings reserve or pins hold raises RING with its number. Where no copy of the
tile exists x[d], or q1 late (R505), takes 1, and no byte changes; where one does, its 4,096 data bytes (zero-scale blocks as zero codes) and its 128
side bytes are in the destination slot, x[d] or q1 takes 0, and no other byte of the core's memory and none elsewhere changes. The
copy is that of the live tile's source slot, or of the lowest station whose passing set holds the tile id. The local memory it is
read from is in its canonical form. -/
def Obligations.TileFetch : Prop :=
  (∀ (s t : State) (d a b n : Nat) (x y z : Word), s.Begins (usesDAB d a b) x y z t → s.cur.pp = false → n = y.toNat % 512 →
    (t.slotBarred (n, true) = true → exec (.rfetch d a b) s = .next (s.takeTrap 0x0F (w64 n) none)) ∧
    (t.slotBarred (n, true) = false → ¬ t.roomFor d → exec (.rfetch d a b) s = .next s.noRoom) ∧
    (t.slotBarred (n, true) = false → t.roomFor d → t.slotBusy s.cur.unit s.cur.slot n = false →
      (t.tileSource (hemOf s.cur.unit) x = none → t.takes d 1 → exec (.rfetch d a b) s = .next (s.gives true t d 1)) ∧
      (∀ core slot fmt, t.tileSource (hemOf s.cur.unit) x = some (core, slot) → (t.core core).sram.wf = true →
        fmt = ((((t.myHem.tileRecord x).bind fun r => t.myHem.entryFor (fld x 11 11) (hMat r.2.hdr)).map (·.2.fmt)).getD 0) →
        ∃ t' : State, (t'.takes d 0 → exec (.rfetch d a b) s = .next (s.gives true t' d 0)) ∧ (∀ r, t'.x r = t.x r) ∧
        t'.me = t.me ∧
        (∀ o, o < 0x1000 → t'.byteAt (.sram s.cur.unit (0x200000 + 0x1000 * n + o)) =
          (tileContents (t.core core) slot (fld x 11 11) fmt).1.byte o) ∧
        (∀ o, o < 0x80 → t'.byteAt (.sram s.cur.unit (0x400000 + 0x80 * n + o)) = t.byteAt (.sram core (0x400000 + 0x80 * slot + o))) ∧
        (∀ l, (∀ o, o < 0x1000 → l ≠ .sram s.cur.unit (0x200000 + 0x1000 * n + o)) →
          (∀ o, o < 0x80 → l ≠ .sram s.cur.unit (0x400000 + 0x80 * n + o)) → t'.byteAt l = t.byteAt l)))) ∧
  (∀ (k : Core) (slot fam o : Nat) (fmt : Word), k.sram.wf = true → o < 0x1000 →
    (if fam = 0 then fmt.getLsbD 5 else fmt.getLsbD 13) = false →
    (tileContents k slot fam fmt).1.byte o = k.sram.byte (0x200000 + 0x1000 * slot + o))

/-! ## Queues and copy jobs -/

/-- R241, R384: BTAG on q1 raises QUEUE 121, on q7 at U PRIVILEGE; on an empty inbound queue it parks with QEMPTY; else it jumps to
its label plus 8 × bits [19:16] of the next dword of q0 or q2, or to its label for q3 to q7, and pops nothing. R244, R439: QSTAT counts
the dwords of q0 and q4 and of the q2 message that the slot holds or would claim, the free places of q1, and the records of q3, q5, q6
and q7; at H the dwords of q0, and 0 of every other queue. -/
def Obligations.QueueInstructions : Prop :=
  ∀ (s t : State) (n d : Nat) (off : Int) (x y z : Word), n < 8 →
    (s.Begins usesNone x y z t → s.cur.pp = false ∨ n = 0 →
      (n = 1 → exec (.btag n off) s = .next (s.takeTrap 0x0D 121 none)) ∧
      (n = 7 → s.me.priv = .u → exec (.btag n off) s = .next (s.takeTrap 0x02 0 none)) ∧
      (n ≠ 1 → (n = 7 → s.me.priv ≠ .u) →
        (t.pop n = none → exec (.btag n off) s = .next (s.modMe fun h => h.parked .qempty (.queue n 1))) ∧
        (∀ w q, t.pop n = some (w, q) → exec (.btag n off) s = .next (t.setPc (s.cur.pc + w64 (2 * (s.cur.len - 1)) +
          BitVec.ofInt 64 (2 * off) + w64 (8 * if n < 3 then fld w 19 16 else 0)))))) ∧
    (∀ v, s.Begins ⟨false, if n = 7 then .deque 127 else .none, .none, .dst d⟩ x y z t → t.takes d v →
      (s.cur.pp = true → v = w64 (if n = 0 then t.me.queues.q0.length else 0) →
        exec (.qstat d n) s = .next (s.gives false t d v)) ∧
      (s.cur.pp = false → v = w64 (match n with
        | 0 => t.me.queues.q0.length
        | 1 => 32 - (t.me.queues.q1.length + t.me.q1reserved)
        | 2 => if t.me.queues.q2claim ≠ [] then t.me.queues.q2claim.length
               else ((t.myCore.q2Next s.cur.slot).map (·.len)).getD 0
        | 3 => t.me.queues.q3.length
        | 4 => t.me.queues.q4.length
        | 5 => t.myCore.q5.length
        | 6 => t.myCore.q6.length
        | _ => t.myCore.q7.length) → exec (.qstat d n) s = .next (s.gives false t d v)))

/-- R79, R486: VPOP of a core's slot parks with QEMPTY, and pops nothing, where its queue cannot supply sixteen dwords; else it pops
them in order into lanes 0 to 15 of v[d] at width D. R237, R487: VPUSH parks with QFULL where q1 has not sixteen free dwords; the first
dword that would be a header and fails its checks raises QUEUE with the EVAL of R237, and nothing is pushed; else the sixteen lanes
of v[a] join q1, each header with SOURCE, once the release of a message that they complete has passed. What q1 holds of a message
under way is one dword at least and less than the message. That VPUSH parks before a header that would fail its checks traps is the
model's choice (log entry 34). -/
def Obligations.VectorQueues : Prop :=
  ∀ (s t r : State) (d a rem : Nat) (x y z : Word), s.cur.pp = false →
    (s.Begins ⟨false, .deque a, .none, .vec d⟩ x y z t →
      (t.popN (a - 120) 16 = none → exec (.vpop d a) s = .next (s.modMe fun h => h.parked .qempty (.queue (a - 120) 16))) ∧
      (∀ l, t.popN (a - 120) 16 = some (l, r) → ∃ v, exec (.vpop d a) s = .next (r.setV d v) ∧
        ∀ k, k < 16 → laneOf v 3 k = (l.getD k 0).toNat)) ∧
    (∀ l, s.Begins ⟨false, .vec a, .none, .dst d⟩ x y z t → l = ((List.range 16).map fun i => w64 (laneOf (t.v a) 3 i)) →
      (t.q1Room 16 = false → exec (.vpush d a) s = .next (s.modMe fun h => h.parked .qfull (.q1room 16))) ∧
      (t.q1Room 16 = true → ∀ e, t.headersFault t.me.queues l = some e →
        exec (.vpush d a) s = .next (s.takeTrap 0x0D (w64 e) none)) ∧
      (t.q1Room 16 = true → t.headersFault t.me.queues l = none → (t.me.queues.sends l = true → t.drained true = true) →
        (t.me.queues.q1partial = 0 ∧ rem = 0 ∨
          (1 ≤ t.me.queues.q1partial ∧ t.me.queues.q1partial ≤ t.me.queues.q1.length ∧
            ∀ h, h = t.me.queues.q1.getD (t.me.queues.q1.length - t.me.queues.q1partial) 0 → t.me.queues.q1partial ≤ fld h 23 20 ∧
              rem = fld h 23 20 + 1 - t.me.queues.q1partial)) →
        ∃ t' : State, exec (.vpush d a) s = .next t' ∧
          t'.me.queues.q1 = t.me.queues.q1 ++ sourced (w64 (t.threadId s.cur.unit s.cur.slot)) rem l ∧
          t'.me.pc = t.me.pc ∧ (∀ k, t'.x k = t.x k) ∧ (∀ k, t'.v k = t.v k) ∧ (∀ b, t'.byteAt b = t.byteAt b)))

/-- R245 to R250, R388: CPY reads a descriptor, checks it, and pushes a job: x[d] is its id; the thread waits while it holds
sixteen jobs or the queue is full. Which free entry the job takes is the model's choice (log entry 97). R256, R390: CWAIT gives word 0 of the record of an ended job and frees its entry, 0x40
where the thread holds no job of the id; while the job runs the thread parks with JOBWAIT. -/
def Obligations.CopyJobs : Prop :=
  (∀ (s t r1 r2 : State) (d a b k n : Nat) (x y z : Word) (p : Machine.Place) (raw : Nat) (l : List (Machine.Place × Nat)),
    s.Begins (usesDAB d a b) x y z t → readNow .vload .vector [⟨x.toNat, 32, 0⟩] t = .ok ([(p, raw)], r1) →
    n = fld (w64 (raw / 2 ^ 128)) 3 0 →
    ((n < 1 ∨ 12 < n) → exec (.cpy d a b k) s = .next (s.takeTrap 0x0E 0x101 none)) ∧
    (1 ≤ n → n ≤ 12 → readNow .vload .vector (dwordEls (x + 32) (3 * n)) r1 = .ok (l, r2) →
      ∀ j, j = r2.newJob x y k raw (l.map fun w => w64 w.2) →
      ∀ streams, streams = (r2.myHem.heldBy r2.cur.unit r2.cur.slot).any (fun e => e.2.kind == 5) →
      (∀ e, j.fault streams = some e → exec (.cpy d a b k) s = .next (s.takeTrap 0x0E (w64 e) none)) ∧
      (j.fault streams = none → r2.drained true = true →
        (r2.jobRoom r2.cur.unit r2.cur.slot = false →
          exec (.cpy d a b k) s = .next (s.modMe fun h => h.waits .jobRoom)) ∧
        (∀ e q v, r2.jobRoom r2.cur.unit r2.cur.slot = true → r2.myHem.freeEntry = some e →
          q = ((r2.releasedAt true).modMyHem fun h => { h with jobs := h.jobs.put e j, jobOrder := h.jobOrder + 1 }) →
          v = w64 (e * 256 + r2.myHem.jobSeq.at e 0) → q.takes d v →
          exec (.cpy d a b k) s = .next (s.gives false q d v))))) ∧
  (∀ (s t : State) (d a : Nat) (x y z : Word), s.Begins (usesDA d a) x y z t → t.roomFor d →
    (t.jobOf t.cur.unit t.cur.slot (fld x 15 0) = none → t.takes d 0x40 →
      exec (.cwait d a) s = .next (s.gives true t d 0x40)) ∧
    (∀ j, t.jobOf t.cur.unit t.cur.slot (fld x 15 0) = some j →
      (j.state.ended = false → exec (.cwait d a) s = .next (s.modMe fun h => h.parked .jobwait (.jobEnd (fld x 15 0)))) ∧
      (∀ q v, j.state.ended = true →
        q = ((t.modQueues fun q => { q with q3 := q.q3.filter fun r => r.job ≠ fld x 15 0 }).modMyHem fun h =>
          h.freeJob (fld x 15 8)) →
        v = w64 (j.state.kind + j.cause * 2 ^ 40 + fld x 15 0 * 2 ^ 48) → q.takes d v →
        exec (.cwait d a) s = .next (s.gives true q d v))))

/-! ## Tasks -/

/-- R51, R53, R404: FORK, once the release has passed, pushes a packet of kind 1 with the target and x3, x4, x5 to x12 on the
core's deque; with 64 packets there and no room for 32 in the spill ring it raises TASK 1. R51, R56, R405: FORKH raises MISALIGNED for an odd pc,
TASK 2 for a placement outside the partition or with a reserved bit; else it sends a PLACED packet of kind 2 with the pc and those
registers towards the core placed, with its radius, and no register changes. For a register beyond the thread's limit the packet
holds a value that the spec leaves open (log entry 71). -/
def Obligations.TaskPackets : Prop :=
  ∀ (s t : State) (off : Int) (a b : Nat) (x y z : Word), s.cur.pp = false → t.drained true = true →
    (s.Begins usesNone x y z t →
      (t.myCore.work.deque.length < 64 → ∃ (t' : State) (p : Packet), exec (.fork off) s = .next t' ∧
        t'.myCore.work.deque = t.myCore.work.deque ++ [p] ∧ p.kind = 1 ∧ p.part = t.launchPart s.cur.unit % 2 ^ 16 ∧
        p.pc = s.cur.pc + w64 (2 * (s.cur.len - 1)) + BitVec.ofInt 64 (2 * off) ∧ p.vals = t.taskVals ∧
        t'.me = (t.releasedAt true).me ∧ (∀ r, t'.x r = t.x r) ∧ (∀ l, t'.byteAt l = t.byteAt l)) ∧
      (64 ≤ t.myCore.work.deque.length → ringSize t.myCore.regs.spillb < t.myCore.work.spill.held + 32 →
        exec (.fork off) s = .next (s.takeTrap 0x12 1 none))) ∧
    (s.Begins (usesAB a b) x y z t →
      (x.getLsbD 0 = true → exec (.forkh a b) s = .next (s.takeTrap 0x04 x none)) ∧
      (x.getLsbD 0 = false → t.placement y = none → exec (.forkh a b) s = .next (s.takeTrap 0x12 2 none)) ∧
      (∀ c, x.getLsbD 0 = false → t.placement y = some c → t.fenced t.myPartId = false →
        ∃ (t' : State) (f : Flit) (p : Packet), exec (.forkh a b) s = .next t' ∧
        t'.net = t.net ++ [f] ∧ f.src = .core s.cur.unit s.cur.slot ∧ f.dst = .core c 15 ∧ f.body = .placed p (fld y 21 16) ∧ p.kind = 2 ∧
        p.part = t.launchPart s.cur.unit % 2 ^ 16 ∧ p.pc = x ∧ p.vals = t.taskVals ∧ t'.me = (t.releasedAt true).me ∧
        (∀ r, t'.x r = t.x r) ∧ (∀ l, t'.byteAt l = t.byteAt l)))

/-- R58, R59, R465: TARM. A misaligned record address, one outside the local window, and any other that R465 refuses trap; so does an
odd pc with MISALIGNED; a record that is armed raises TASK 4. Else, once the release has passed, the record holds x[b], STATE 1 and a
packet of kind 3 with the pc and x3, x4, x5 to x12; with x[b] at 0 or below STATE is 2 instead, and the packet is also the newest of
the class-3 list, where that list has room and nothing waits in the overflow ring. R466: TDEC of a record address that it may name
sends a decrement of n to the record's core, which counts as sent; no register changes. -/
def Obligations.CounterRecords : Prop :=
  ∀ (s t : State) (d a b n : Nat) (x y z : Word), s.cur.pp = false →
    (s.Begins (usesRead d a b) x y z t →
      (x.toNat % 128 ≠ 0 → exec (.tarm d a b) s = .next (s.takeTrap 0x04 x none)) ∧
      (x.toNat % 128 = 0 → windowOf x.toNat ≠ .localW → exec (.tarm d a b) s = .next (s.takeTrap 0x05 x none)) ∧
      (∀ c v, x.toNat % 128 = 0 → windowOf x.toNat = .localW → t.recordCheck x = .error (.trap c v none) →
        exec (.tarm d a b) s = .next (s.takeTrap c v none)) ∧
      (∀ u o, windowOf x.toNat = .localW → t.recordCheck x = .ok (u, o) →
        (z.getLsbD 0 = true → exec (.tarm d a b) s = .next (s.takeTrap 0x04 z none)) ∧
        (z.getLsbD 0 = false → t.drained true = true →
          (fld (t.myCore.sram.word (o + 8)) 1 0 = 1 → exec (.tarm d a b) s = .next (s.takeTrap 0x12 4 none)) ∧
          (fld (t.myCore.sram.word (o + 8)) 1 0 ≠ 1 → ∃ p : Packet, p.kind = 3 ∧ p.pc = z ∧ p.vals = t.taskVals ∧
            (0 < y.toInt → ∃ t' : State, exec (.tarm d a b) s = .next t' ∧
              t'.myCore.sram = t.myCore.sram.setWords o (y :: 1 :: p.words) ∧ t'.me = (t.releasedAt true).me) ∧
            (y.toInt ≤ 0 → t.myCore.work.class3.held < 64 → t.myCore.work.overflow.held = 0 →
              ∃ t' : State, exec (.tarm d a b) s = .next t' ∧
              t'.myCore.sram = (t.myCore.sram.setWords o (y :: 2 :: p.words)).setWords
                (0x071800 + (t.myCore.work.class3.pos + t.myCore.work.class3.held) % 64 * 96) p.words ∧
              t'.myCore.work.class3 = ⟨t.myCore.work.class3.pos, t.myCore.work.class3.held + 1⟩ ∧ t'.me = (t.releasedAt true).me))))) ∧
    (s.Begins (usesA a) x y z t →
      (∀ c v, t.recordCheck x = .error (.trap c v none) → exec (.tdec a n) s = .next (s.takeTrap c v none)) ∧
      (∀ u o, t.recordCheck x = .ok (u, o) → t.drained true = true → t.fenced t.myPartId = false →
        ∃ (t' : State) (f : Flit), exec (.tdec a n) s = .next t' ∧ t'.net = t.net ++ [f] ∧ f.body = .dec o n ∧
        f.dst = .core u 15 ∧ t'.myCore.work.sent = t.myCore.work.sent + 1 ∧ t'.me = (t.releasedAt true).me ∧
        (∀ r, t'.x r = t.x r) ∧ (∀ l, t'.byteAt l = t.byteAt l)))

/-- R395, R396: END is ILLEGAL in slot 15 and at H; it traps with QUEUE 0x203 in the middle of a message, waits until q1 is
empty and the copy jobs have ended, then frees the slot, and the launch ends with status 6 where the task was in TRAP (R310; that the
status holds the cause in ECAUSE is the model's choice, log entry 44). R450: SHIP above U is PRIVILEGE (also outside TRAP, the
model's choice, log entry 37), of an odd pc MISALIGNED, towards no core TASK 3, in the middle of a message QUEUE 0x203; else it
waits as END does, and until the router at its core takes its packet for the core named; in that step the packet leaves and the
task ends. A packet for its own core goes to the class-4 list. R313, R435: PPT at U zeroes the groups that its mask marks dead, as far as the thread's limits
go, and stops the thread, with that mask, where its core's stop time has come (R316); above U it only goes on. -/
def Obligations.TaskEnds : Prop :=
  ∀ (s t : State) (d a k : Nat) (x y z : Word),
    (s.Begins usesNone x y z t →
      (s.cur.pp = true ∨ s.cur.slot = 15 → exec .endTask s = .next (s.takeTrap 0x01 0 none)) ∧
      (s.cur.pp = false → s.cur.slot ≠ 15 →
        (t.me.queues.q1partial ≠ 0 → exec .endTask s = .next (s.takeTrap 0x0D 0x203 none)) ∧
        (t.me.queues.q1partial = 0 → t.drained true = true → (t.me.queues.q1 ≠ [] ∨ t.jobsOver = false) → ∃ t' : State,
          exec .endTask s = .next t' ∧ t'.me.tstate = .waiting ∧ t'.me.wait = .ending 1 ∧ (∀ r, t'.x r = s.x r)) ∧
        (t.me.queues.q1partial = 0 → t.me.endStep = 0 → t.drained true = true → t.me.queues.q1 = [] → t.jobsOver = true →
          exec .endTask s = .next ((((t.releasedAt true).freeHeld).endTrapped s.cur.unit s.cur.slot).endTask s.cur.unit s.cur.slot)) ∧
        (t.me.queues.q1partial = 0 → t.me.endStep = 1 → t.me.queues.q1 = [] → t.jobsOver = true →
          exec .endTask s = .next ((t.freeHeld.endTrapped s.cur.unit s.cur.slot).endTask s.cur.unit s.cur.slot)))) ∧
    (s.Begins ⟨false, .src a, .none, .src d⟩ x y z t → s.cur.pp = false →
      (s.me.priv ≠ .u → exec (.ship d a) s = .next (s.takeTrap 0x02 0 none)) ∧
      (s.me.priv = .u → z.getLsbD 0 = true → exec (.ship d a) s = .next (s.takeTrap 0x04 z none)) ∧
      (s.me.priv = .u → z.getLsbD 0 = false → (2 ^ 10 ≤ x.toNat ∨ (t.myPart.bind fun p => p.coreFor x.toNat) = none) →
        exec (.ship d a) s = .next (s.takeTrap 0x12 3 none)) ∧
      (∀ c, s.me.priv = .u → z.getLsbD 0 = false → x.toNat < 2 ^ 10 → (t.myPart.bind fun p => p.coreFor x.toNat) = some c →
        (t.me.queues.q1partial ≠ 0 → exec (.ship d a) s = .next (s.takeTrap 0x0D 0x203 none)) ∧
        (t.me.queues.q1partial = 0 → t.drained true = true → t.me.endStep = 0 →
          ((t.me.queues.q1 ≠ [] ∨ t.jobsOver = false) → exec (.ship d a) s = .next (s.modMe fun h => h.waits (.ending 0))) ∧
          (t.me.queues.q1 = [] → t.jobsOver = true →
            (c ≠ s.cur.unit → (t.releasedAt true).mayDepart c = false →
              exec (.ship d a) s = .next (s.modMe fun h => h.waits (.departure c))) ∧
            (∀ p r, ((t.releasedAt true).freeHeld).build s.cur.unit 5 z t.taskVals = (p, r) →
              (c = s.cur.unit → exec (.ship d a) s = .next ((r.addTask s.cur.unit 4 p).endTask s.cur.unit s.cur.slot)) ∧
              (c ≠ s.cur.unit → (t.releasedAt true).mayDepart c = true → t.fenced t.myPartId = false →
                ∃ f : Flit, f.body = .ship p ∧ f.src = .core s.cur.unit s.cur.slot ∧ f.dst = .core c 15 ∧ f.entered = true ∧
                exec (.ship d a) s =
                  .next ({ r.countSent s.cur.unit with net := r.net ++ [f] }.endTask s.cur.unit s.cur.slot))))))) ∧
    (s.Begins usesNone x y z t → s.cur.pp = false → k < 64 →
      (s.me.priv ≠ .u → exec (.ppt k) s = .next t) ∧
      (s.me.priv = .u → t.stopping = false → ∃ t' : State, exec (.ppt k) s = .next t' ∧
        (∀ r, r < 120 → t'.x r = if r ∈ deadScalars k s.slim then 0 else t.x r) ∧
        (∀ r, r < s.vlim → t'.v r = if k.testBit 3 then t.v r else 0) ∧
        t'.me.regs.fmtctx = (if k.testBit 5 then t.me.regs.fmtctx else 0) ∧
        (∀ m, 1 ≤ m → m ≤ 7 → t'.mask m = if k.testBit 4 then t.mask m else 0)) ∧
      (s.me.priv = .u → t.stopping = true → ∃ t' : State, exec (.ppt k) s = .next t' ∧ t'.me.tstate = .free ∧ t'.me.park = .stop ∧
        t'.me.saved.map (·.live) = some k ∧ ∀ r, r < 120 → t'.x r = if r ∈ deadScalars k s.slim then 0 else t.x r))

/-! ## System registers, traps, return -/

/-- R84 to R88, R454, R455: SRD and SWR in a task slot or a supervisor slot. A supervisor register named at U raises PRIVILEGE,
an unassigned number ILLEGAL, with the number. SRD gives the value to x[d] or to q1. A write sets the fields that R84 to R88 make
writable. R186: a write of HEMCTL with a cap of 0 or above 64 raises RING 0x100A, and so does one that clears RINGEN while a tile of
the hem is live or a pattern entry active; one that changes RINGEN otherwise zeroes the slots 480 to 511 and their side entries of
the hem's cores. R456: at H, SRD reads
FCSR, THREADID, CYCLE and TIME, SWR writes FCSR, and every other number is ILLEGAL. -/
def Obligations.SystemRegisters : Prop :=
  ∀ (s t : State) (d a n : Nat) (x y z : Word),
    (s.settled = true → s.sysDenied n = true →
      exec (.srd d n) s = .next (s.takeTrap 0x02 (w64 n) none) ∧ exec (.swr n a) s = .next (s.takeTrap 0x02 (w64 n) none)) ∧
    (s.Begins (usesD d) x y z t → s.sysDenied n = false →
      ((if s.cur.pp then n ∉ [0x000, 0x008, 0x020, 0x021] else sysUser n = false ∧ sysSuper n = false) →
        exec (.srd d n) s = .next (s.takeTrap 0x01 (w64 n) none)) ∧
      (∀ v, (s.cur.pp = false ∨ n ∈ [0x000, 0x008, 0x020, 0x021]) →
        (n, v) ∈ [(0x000, t.me.regs.fcsr), (0x001, t.me.regs.fmtctx), (0x002, t.me.regs.uhvec), (0x003, t.me.regs.uhpc),
          (0x004, t.me.regs.uhcause), (0x005, t.me.regs.uhval),
          (0x008, if s.cur.pp then w64 (s.cur.unit * 64 + s.cur.slot) else w64 (t.launchId s.cur.unit * 16 + s.cur.slot)),
          (0x009, w64 (t.vlim * 2 ^ 48 + vectorBase s.cur.slot * 2 ^ 32 + t.slim * 2 ^ 16 + scalarBase s.cur.slot)),
          (0x00A, t.me.regs.launchid), (0x010, t.me.regs.barrier 0), (0x011, t.me.regs.barrier 1),
          (0x012, t.me.regs.barrier 2), (0x013, t.me.regs.barrier 3), (0x014, t.me.regs.barrier 4), (0x015, t.me.regs.barrier 5),
          (0x016, t.me.regs.barrier 6), (0x017, t.me.regs.barrier 7),
          (0x020, w64 (t.me.cycles + (t.time - t.me.dispatched))), (0x021, w64 t.time), (0x100, t.me.regs.status),
          (0x101, t.me.regs.epc), (0x102, t.me.regs.ecause), (0x103, t.me.regs.eval), (0x104, t.myCore.regs.svec),
          (0x105, t.me.regs.ssave), (0x110, w64 t.myPartId), (0x111, t.myCore.regs.ptroot), (0x112, t.myCore.regs.regionbase),
          (0x113, t.myCore.regs.savearea), (0x120, t.myHem.hemctl), (0x130, w64 ((t.myPart.map (·.cls)).getD 0))] →
        t.takes d v → exec (.srd d n) s = .next (s.gives false t d v))) ∧
    (s.Begins (usesA a) x y z t → s.sysDenied n = false →
      ((if s.cur.pp then n ≠ 0 else n ∉ [0x000, 0x001, 0x002, 0x003, 0x004, 0x005, 0x100, 0x101, 0x102, 0x103, 0x104, 0x105,
          0x110, 0x111, 0x112, 0x113, 0x120, 0x130] ∧ (n < 0x10 ∨ 0x17 < n ∨ s.me.priv ≠ .s)) →
        exec (.swr n a) s = .next (s.takeTrap 0x01 (w64 n) none)) ∧
      (∀ f : Regs → Regs, (s.cur.pp = false ∨ n = 0) →
        (n = 0x000 ∧ f = (fun g => { g with fcsr := x &&& fcsrMask }) ∨ n = 0x001 ∧ f = (fun g => { g with fmtctx := x &&& fmtctxMask }) ∨
         n = 0x002 ∧ f = (fun g => { g with uhvec := x &&& ~~~1 }) ∨ n = 0x003 ∧ f = (fun g => { g with uhpc := x }) ∨
         n = 0x004 ∧ f = (fun g => { g with uhcause := x &&& 0xFF }) ∨ n = 0x005 ∧ f = (fun g => { g with uhval := x }) ∨
         0x10 ≤ n ∧ n ≤ 0x17 ∧ s.me.priv = .s ∧ f = (fun g => g.setBarrier (n - 0x10) x) ∨
         n = 0x100 ∧ f = (fun g => { g with status := (g.status &&& 16) ||| (x &&& 15) }) ∨
         n = 0x101 ∧ f = (fun g => { g with epc := x }) ∨ n = 0x102 ∧ f = (fun g => { g with ecause := x &&& 0xFF }) ∨
         n = 0x103 ∧ f = (fun g => { g with eval := x }) ∨ n = 0x105 ∧ f = (fun g => { g with ssave := x })) →
        exec (.swr n a) s = .next (t.modMe fun h => { h with regs := f h.regs })) ∧
      (s.cur.pp = false → n = 0x110 ∨ n = 0x130 → exec (.swr n a) s = .next t) ∧
      (∀ f : CoreRegs → CoreRegs, s.cur.pp = false →
        (n = 0x104 ∧ f = (fun k => { k with svec := x }) ∨ n = 0x111 ∧ f = (fun k => { k with ptroot := x &&& w64 0xFFFFFFFFFF000 }) ∨
         n = 0x112 ∧ f = (fun k => { k with regionbase := x &&& w64 0xFFFFFFFFFC000 }) ∨
         n = 0x113 ∧ f = (fun k => { k with savearea := x &&& w64 0xFFFFFFFFF0000 })) →
        exec (.swr n a) s = .next (t.modMyCore fun k => { k with regs := f k.regs })) ∧
      (s.cur.pp = false → n = 0x120 → (fld x 14 8 < 1 ∨ 64 < fld x 14 8 ∨ fld x 22 16 < 1 ∨ 64 < fld x 22 16) →
        exec (.swr n a) s = .next (s.takeTrap 0x0F 0x100A none)) ∧
      (s.cur.pp = false → n = 0x120 → 1 ≤ fld x 14 8 → fld x 14 8 ≤ 64 → 1 ≤ fld x 22 16 → fld x 22 16 ≤ 64 →
        t.myHem.hemctl.getLsbD 0 = x.getLsbD 0 →
        exec (.swr n a) s = .next (t.modMyHem fun h => { h with hemctl := x &&& w64 0x7F7F01 })) ∧
      (s.cur.pp = false → n = 0x120 → 1 ≤ fld x 14 8 → fld x 14 8 ≤ 64 → 1 ≤ fld x 22 16 → fld x 22 16 ≤ 64 →
        t.myHem.hemctl.getLsbD 0 ≠ x.getLsbD 0 →
        (x.getLsbD 0 = false → ((∃ e ∈ t.myHem.ring.injectors, e.2.active = true) ∨ ∃ e ∈ t.myHem.patterns, e.2.active = true) →
          exec (.swr n a) s = .next (s.takeTrap 0x0F 0x100A none)) ∧
        ((x.getLsbD 0 = true ∨ (∀ e ∈ t.myHem.ring.injectors, e.2.active = false) ∧ ∀ e ∈ t.myHem.patterns, e.2.active = false) →
          ∃ t' : State, exec (.swr n a) s = .next t' ∧ t'.myHem = { t.myHem with hemctl := x &&& w64 0x7F7F01 } ∧ t'.me = t.me ∧
            (∀ r, t'.x r = t.x r) ∧
            (∀ c o, c / 16 = s.cur.unit / 16 → (0x3E0000 ≤ o ∧ o < 0x400000 ∨ 0x40F000 ≤ o ∧ o < 0x410000) →
              t'.byteAt (.sram c o) = 0) ∧
            (∀ l, (∀ c o, l = .sram c o → ¬ (c / 16 = s.cur.unit / 16 ∧
                (0x3E0000 ≤ o ∧ o < 0x400000 ∨ 0x40F000 ≤ o ∧ o < 0x410000))) → t'.byteAt l = t.byteAt l))))

/-- R307: taking a trap in a tile core. STATUS, EPC, ECAUSE and EVAL are saved in the slot, the privilege becomes S, the annul
count 0, the state TRAP, and the pc SVEC; the registers, masks, memory and every other slot stay. R383, R468, R126: TRAP raises
SYSCALL and BRK raises BREAK with the immediate, and an encoding that nothing assigns raises ILLEGAL with the EVAL of R105.
R308: a trap in trap code whose STATUS holds PTRAP is a double trap: in a task slot it ends the thread and its launch. R280,
R305: any trap at H kills the handler slot. -/
def Obligations.Traps : Prop :=
  (∀ (s : State) (cause : Nat) (val : Word), s.cur.valid = true → s.cur.pp = false →
    ¬ (s.me.trapped = true ∧ s.me.regs.status.getLsbD 4 = true) →
    ∀ t, t = s.takeTrap cause val none →
      t.me.regs = { s.me.regs with
        status := w64 ((if s.me.trapped then 16 else 0) + s.me.annul * 4 + (if s.me.priv = .u then 0 else 1))
        epc := s.me.pc, ecause := w64 cause, eval := val } ∧
      t.me.priv = .s ∧ t.me.annul = 0 ∧ t.me.tstate = .trap ∧ t.me.pc = s.myCore.regs.svec ∧ t.me.parkSeq = s.me.parkSeq ∧
      t.me.queues = s.me.queues ∧ (∀ r, t.x r = s.x r) ∧ (∀ r, t.v r = s.v r) ∧ s.SameElsewhere t ∧
      ∀ l, t.byteAt l = s.byteAt l) ∧
  (∀ (s : State) (imm : Nat) (e : Word), s.settled = true →
    exec (.trap imm) s = .next (s.takeTrap 0x0B (w64 imm) none) ∧ exec (.brk imm) s = .next (s.takeTrap 0x0C (w64 imm) none) ∧
    exec (.unassignedEncoding e) s = .next (s.takeTrap 0x01 e none) ∧
    (∀ cause, s.cur.pp = false → s.cur.slot ≠ 15 → s.me.trapped = true → s.me.regs.status.getLsbD 4 = true →
      s.takeTrap cause e none = (((s.record s.cur.unit (doubleTrapRecord (s.partIdOf s.cur.unit) s.cur.slot cause s.me.pc)).endTask
        s.cur.unit s.cur.slot).launchError s.cur.unit (6 + cause * 256))) ∧
    (∀ cause, s.cur.pp = true → (s.takeTrap cause e none).thread true s.cur.unit s.cur.slot = Thread.reset))

/-- R309, R397: ERET. At U and H it traps; a bad mode in STATUS is ILLEGAL, an odd EPC MISALIGNED; else the mode, the annul
count and the pc come from STATUS and EPC, PTRAP is cleared, and the slot is READY, or, back in trap code, in TRAP. -/
def Obligations.TrapReturn : Prop :=
  ∀ (s t : State) (x y z : Word),
    (s.settled = true → s.me.priv = .u → exec .eret s = .next (s.takeTrap 0x02 0 none)) ∧
    (s.Begins usesNone.sup x y z t → s.cur.pp = true → exec .eret s = .next (s.takeTrap 0x01 0 none)) ∧
    (s.Begins usesNone.sup x y z t → s.cur.pp = false →
      (1 < fld s.me.regs.status 1 0 → exec .eret s = .next (s.takeTrap 0x01 0 none)) ∧
      (fld s.me.regs.status 1 0 ≤ 1 → s.me.regs.epc.getLsbD 0 = true → exec .eret s = .next (s.takeTrap 0x04 s.me.regs.epc none)) ∧
      (fld s.me.regs.status 1 0 ≤ 1 → s.me.regs.epc.getLsbD 0 = false → exec .eret s = .next (s.modMe fun h => { h with
        priv := if fld h.regs.status 1 0 = 0 then .u else .s
        annul := fld h.regs.status 3 2
        pc := h.regs.epc
        regs := { h.regs with status := h.regs.status &&& ~~~(16 : Word) }
        tstate := if fld h.regs.status 1 0 = 0 ∨ s.cur.slot = 15 then .ready else .trap })))

/-! ## Supervisor and handler instructions -/

/-- R48, R490, R491: a wake for the park of now makes the thread go on, with its WAIT bit of a barrier taken back, or, with a
cause, trap where the park is a page fault or a tag wait; one that comes before its park is kept; any other is stale. A reserved bit, slot 15 or no cause is ILLEGAL. At H
a wake names a slot of its protocol processor, and WAKET kills it. R492: XINV drops the translations of the
range and waits for the accesses that they translated and that are not yet performed (those of `State.translated`, log entry 73); R408: IDLE parks slot 15 while q7 is empty; R344, R387: CONERD stores the
cone's measurement. -/
def Obligations.SupervisorInstructions : Prop :=
  (∀ (s t : State) (d a b : Nat) (x y z : Word) (h : Thread), s.cur.pp = false → t.drained true = true →
    h = (t.releasedAt true).coreThread s.cur.unit (fld x 3 0) →
    (∀ i c, (s.Begins (usesA a).sup x y z t ∧ i = .wake a ∧ c = none ∨
        s.Begins (usesRead d a b).sup x y z t ∧ i = .waket d a b ∧ 1 ≤ y.toNat ∧ y.toNat ≤ 0x12 ∧ c = some (y.toNat, z)) →
      (fld x 47 4 ≠ 0 ∨ fld x 3 0 = 15 → exec i s = .next (s.takeTrap 0x01 (w64 (x.toNat % 2 ^ 63)) none)) ∧
      (fld x 47 4 = 0 → fld x 3 0 ≠ 15 → h.tstate = .parked → h.parkSeq = fld x 63 48 →
        (c = none → exec i s = .next
          (((t.releasedAt true).modCoreThread s.cur.unit (fld x 3 0) Thread.resumed).unwait false s.cur.unit (fld x 3 0))) ∧
        (∀ n v, c = some (n, v) → h.park = .pagefault ∨ h.park = .tagwait →
          exec i s = .next ((t.releasedAt true).trapThread s.cur.unit (fld x 3 0) n v none)) ∧
        (∀ n v, c = some (n, v) → h.park ≠ .pagefault → h.park ≠ .tagwait →
          exec i s = .next ((t.releasedAt true).stale s.cur.unit))) ∧
      (fld x 47 4 = 0 → fld x 3 0 ≠ 15 → (h.tstate = .ready ∨ h.tstate = .trap) → (h.parkSeq + 1) % 65536 = fld x 63 48 →
        exec i s = .next ((t.releasedAt true).modCoreThread s.cur.unit (fld x 3 0) fun g => { g with wakePending := true, wakeTrap := c })) ∧
      (fld x 47 4 = 0 → fld x 3 0 ≠ 15 → h.tstate = .waiting ∨ h.tstate = .free ∨ (h.tstate = .parked ∧ h.parkSeq ≠ fld x 63 48) ∨
          ((h.tstate = .ready ∨ h.tstate = .trap) ∧ (h.parkSeq + 1) % 65536 ≠ fld x 63 48) →
        exec i s = .next ((t.releasedAt true).stale s.cur.unit))) ∧
    (s.Begins (usesRead d a b).sup x y z t → fld x 47 4 = 0 → fld x 3 0 ≠ 15 → y = 0 ∨ 0x12 < y.toNat →
      exec (.waket d a b) s = .next (s.takeTrap 0x01 (w64 (y.toNat % 2 ^ 63)) none))) ∧
  (∀ (s t : State) (d a b : Nat) (x y z : Word), s.cur.pp = true → fld x 47 6 = 0 →
    (t.thread true s.cur.unit (fld x 5 0)).tstate = .parked → (t.thread true s.cur.unit (fld x 5 0)).parkSeq = fld x 63 48 →
    (s.Begins (usesA a).sup x y z t →
      exec (.wake a) s = .next (t.modThread true s.cur.unit (fld x 5 0) Thread.resumed)) ∧
    (s.Begins (usesRead d a b).sup x y z t → 1 ≤ y.toNat → y.toNat ≤ 0x12 →
      exec (.waket d a b) s = .next (t.killHandler s.cur.unit (fld x 5 0) 2 y.toNat z))) ∧
  (∀ (s t : State) (a b : Nat) (x y z : Word), s.Begins (usesAB a b).sup x y z t →
    (s.cur.pp = true → exec (.xinv a b) s = .next t) ∧
    (s.cur.pp = false → x.toNat / 2 ^ 56 ≠ 0 ∨ 2 ^ 56 < x.toNat + y.toNat → exec (.xinv a b) s = .next (s.takeTrap 0x05 x none)) ∧
    (∀ p, s.cur.pp = false → x.toNat / 2 ^ 56 = 0 → x.toNat + y.toNat ≤ 2 ^ 56 → t.myPart = some p → ∃ t' : State,
      exec (.xinv a b) s = .next t' ∧ t'.me.tstate = .waiting ∧
      t'.me.wait = .invalidations (p.hemList.flatMap fun h => t.translated h fun e =>
        e.meets (x.toNat / 4096 * 4096) ((x.toNat + y.toNat + 4095) / 4096 * 4096) p.id (y == 0)) ∧
      (∀ r, t'.x r = t.x r) ∧ t'.mem = t.mem ∧
      (∀ c ∈ p.cores, ∀ e ∈ (t'.core c).tlb, e ∈ (t.core c).tlb ∧ (e.part ≠ p.id ∨ (y ≠ 0 ∧
        ((x.toNat + y.toNat + 4095) / 4096 * 4096 ≤ e.va ∨ e.va + e.size ≤ x.toNat / 4096 * 4096)))))) ∧
  (∀ (s t : State) (x y z : Word), s.Begins usesNone.sup x y z t →
    (s.cur.slot ≠ 15 → exec .idle s = .next (s.takeTrap 0x01 0 none)) ∧
    (s.cur.slot = 15 → t.myCore.q7 ≠ [] → exec .idle s = .next t) ∧
    (s.cur.slot = 15 → t.myCore.q7 = [] → exec .idle s = .next (s.modMe fun h => h.parked .idle .q7))) ∧
  (∀ (s t r : State) (d a : Nat) (x y z : Word) (g : PartRegs), s.Begins (usesDA d a) x y z t →
    g = (t.myPart.map (·.regs)).getD PartRegs.reset →
    (x.toNat % 64 ≠ 0 → exec (.conerd d a) s = .next (s.takeTrap 0x04 x none)) ∧
    (x.toNat % 64 = 0 → storeAll .vstore .vector ((dwordEls x 16).map fun e => (e, (byteWord g.cone (8 * e.lane)).toNat))
        OrdFld.plain t = .ok r → r.takes d (byteWord g.cone 16) →
      exec (.conerd d a) s = .next (s.gives false r d (byteWord g.cone 16))))

/-- R315, R457: SSTOP, on the root core of a partition in RUN: the stop goes to every core and x[d] is its number; TASK 5 or 6
elsewhere. R320, R389: CQSC, in QUIESCED: x[d] is to come, with SAVING, once every engine has reported; TASK 6 in any other state, and
while one is under way. R469, R470: TSTART gives the status:
4 on no root core, 3 in no state that allows it, 1 and 2 for a descriptor that breaks R469, 0 as the restore begins. -/
def Obligations.StopInstructions : Prop :=
  ∀ (s t : State) (d a : Nat) (x y z : Word), s.Begins (usesDA d a).sup x y z t →
    (t.myPart = none → exec (.sstop d a) s = .next (s.takeTrap 0x12 5 none) ∧
      (t.takes d 4 → exec (.tstart d a) s = .next (s.gives true t d 4))) ∧
    (∀ p, t.myPart = some p →
      (p.root ≠ t.cur.unit → exec (.sstop d a) s = .next (s.takeTrap 0x12 5 none) ∧
        (t.takes d 4 → exec (.tstart d a) s = .next (s.gives true t d 4))) ∧
      (p.root = t.cur.unit → p.stop ≠ .run → exec (.sstop d a) s = .next (s.takeTrap 0x12 6 none)) ∧
      (p.root = t.cur.unit → p.stop = .run → ∃ t' : State,
        (t'.takes d (p.stopSeq + 1) → exec (.sstop d a) s = .next (s.gives false t' d (p.stopSeq + 1))) ∧
        t'.me = t.me ∧ t'.mem = t.mem ∧ (∀ r, t'.x r = t.x r) ∧
        (∀ q, t'.partById p.id = some q → q.stop = .stopping ∧ q.stopSeq = p.stopSeq + 1 ∧
          q.stopAt = (if s.time ≤ x.toNat then x.toNat else s.time)) ∧
        (∀ c ∈ p.cores, (t'.core c).stop.stopAt = some (if s.time ≤ x.toNat then x.toNat else s.time))) ∧
      (x ≠ 0 → exec (.cqsc d a) s = .next (s.takeTrap 0x01 (w64 (x.toNat % 2 ^ 63)) none)) ∧
      (x = 0 → p.stop ≠ .quiesced ∨ p.cqsc.isSome = true → exec (.cqsc d a) s = .next (s.takeTrap 0x12 6 none)) ∧
      (x = 0 → p.stop = .quiesced → p.cqsc = none → ¬ t.roomFor d → exec (.cqsc d a) s = .next s.noRoom) ∧
      (x = 0 → p.stop = .quiesced → p.cqsc = none → t.roomFor d → ∃ t' : State, exec (.cqsc d a) s = .next (t'.awaits t.seq d) ∧
        (∀ q, t'.partById p.id = some q → q.stop = .quiesced ∧ ∃ n, q.cqsc = some (s.cur.unit, s.cur.slot, t.seq, n))) ∧
      (¬ t.roomFor d → exec (.tstart d a) s = .next s.noRoom) ∧
      (p.root = t.cur.unit → (p.stop ≠ .empty ∧ p.stop ≠ .saved ∨ p.kiln ≠ none ∨ p.trust = .error) →
        t.takes d 3 → exec (.tstart d a) s = .next (s.gives true t d 3)) ∧
      (∀ l r, p.root = t.cur.unit → (p.stop = .empty ∨ p.stop = .saved) → p.kiln = none → p.trust ≠ .error →
        t.roomFor d → readNow .vload .vector (dwordEls x 8) t = .ok (l, r) → (∀ v, r.takes d v) → ∀ w : Nat → Word, (∀ i, w i = w64 ((l.map (·.2)).getD i 0)) →
        (fld (w 2) 2 0 ≠ p.level → exec (.tstart d a) s = .next (s.gives true r d 1)) ∧
        (fld (w 2) 2 0 = p.level → (fld (w 2) 63 3 ≠ 0 ∨ ∃ i, 3 ≤ i ∧ i ≤ 7 ∧ w i ≠ 0) → exec (.tstart d a) s = .next (s.gives true r d 2)) ∧
        (fld (w 2) 2 0 = p.level → r.areaList (w 0) p.hemCount = none ∨ r.areaList (w 1) (16 * p.hemCount) = none →
          exec (.tstart d a) s = .next (s.gives true r d 2)) ∧
        (∀ hs cs, fld (w 2) 2 0 = p.level → fld (w 2) 63 3 = 0 → (∀ i, 3 ≤ i → i ≤ 7 → w i = 0) →
          r.areaList (w 0) p.hemCount = some hs → r.areaList (w 1) (16 * p.hemCount) = some cs →
          exec (.tstart d a) s = .next (s.gives true (r.modPart p.id fun q =>
            { q with stop := .restoring, restore := some ⟨p.stop, hs, cs⟩ }) d 0))))

/-- R270, R277, R392, R407, R444: the instructions of a handler slot. HSEND sends a message of the lane, type and words its
header names, and gives its sequence where it expects an answer, which RCMD does not; it parks with QFULL while the output buffer is
full, whose depth the model leaves open (log entry 90), or eight answers are due; an answer to the handler's own request goes to all that the request
stands for, once. DLD and DST lock a directory entry and read or write a dword of it; BXF copies a block (R233, R234: a poisoned one kills the slot, but a copy engine's
write of a whole line clears its poison; that a misaligned address has EVAL 4 is the model's choice, log entry 40); GRANT answers with a block;
RGN reads a descriptor; HEND ends the slot, with FAIL where nothing has answered, and finishes the home's part of a region's close;
HDEFER puts its message at the end of its block's deferred list. A PROTOCOL trap of R277 kills the slot. A message's sequence beyond
the 8 bits of a header is the model's choice (log entry 23). -/
def Obligations.HandlerInstructions : Prop :=
  (∀ (s t : State) (d a b : Nat) (x y z : Word), s.Begins ⟨false, .src a, if b < 120 then .src b else .none, .dst d⟩ x y z t →
    s.cur.pp = true →
    ((fld x 47 46 = 0 ∨ fld x 47 46 = 3 ∨ t.handler.inbound = true ∧ fld x 47 46 = 1) →
      exec (.hsend d a b) s = .next (s.takeTrap 0x08 1 none)) ∧
    ((fld x 47 46 = 1 ∧ t.handler.inbound = false ∨ fld x 47 46 = 2) →
      (8 < fld x 43 40 ∨ 31 < b + fld x 43 40 - 1 ∨ typeReserved (fld x 47 46) (fld x 51 48) = true →
        exec (.hsend d a b) s = .next (s.takeTrap 0x08 2 none)) ∧
      (fld x 43 40 ≤ 8 → b + fld x 43 40 - 1 ≤ 31 → typeReserved (fld x 47 46) (fld x 51 48) = false →
        (((t.partById t.handler.part).bind fun p => p.agentFor (fld x 39 24) (fld x 47 46) (fld x 51 48)) = none →
          exec (.hsend d a b) s = .next (s.takeTrap 0x08 3 none)) ∧
        (∀ dst, ((t.partById t.handler.part).bind fun p => p.agentFor (fld x 39 24) (fld x 47 46) (fld x 51 48)) = some dst →
          (8 ≤ t.handler.awaiting.length ∨ t.outputFull s.cur.unit = true → exec (.hsend d a b) s = .next (s.modMe fun h => h.parked .qfull .answers)) ∧
          (t.handler.awaiting.length < 8 → t.outputFull s.cur.unit = false → t.fenced t.handler.part = false →
            (expectsAnswer (fld x 47 46) (fld x 51 48) = true →
              ∃ (t' : State) (f : Flit), exec (.hsend d a b) s = .next (s.gives false t' d (w64 (t.handler.nextSeq % 256))) ∧ t'.net = t.net ++ [f] ∧
                f.dst = dst ∧ f.src = .pp s.cur.unit ∧ f.lane = fld x 47 46 ∧ f.type = fld x 51 48 ∧ f.payload.isSome = x.getLsbD 52 ∧
                f.rseq = t.seq * 16384 + s.cur.slot * 256 + t.handler.nextSeq % 256 ∧
                t'.handler.awaiting = t.handler.awaiting ++ [f.rseq] ∧ (∀ i, i < fld x 43 40 → f.word i = t.x (b + i))) ∧
            (expectsAnswer (fld x 47 46) (fld x 51 48) = false → t.handler.req = none ∨ fld x 47 46 = 1 →
              ∃ (t' : State) (f : Flit), exec (.hsend d a b) s = .next (s.gives false t' d 0) ∧ t'.net = t.net ++ [f] ∧ f.dst = dst ∧
                f.lane = fld x 47 46 ∧ f.type = fld x 51 48 ∧ f.rseq = fld x 7 0 ∧ f.merged = [] ∧
                (∀ i, i < fld x 43 40 → f.word i = t.x (b + i))) ∧
            (∀ r, expectsAnswer (fld x 47 46) (fld x 51 48) = false → t.handler.req = some r → fld x 47 46 = 2 → t.agentCode r.src = fld x 39 24 →
              r.rseq % 256 = fld x 7 0 → t.fenced r.part = false →
              (t.handler.answered = false → ∃ (t' : State) (f : Flit), exec (.hsend d a b) s = .next (s.gives false t' d 0) ∧
                t'.net = t.net ++ [f] ∧ f.dst = r.src ∧ f.lane = 2 ∧ f.type = fld x 51 48 ∧ f.rseq = r.rseq ∧ f.merged = r.merged ∧
                t'.handler.answered = true ∧ (∀ i, i < fld x 43 40 → f.word i = t.x (b + i))) ∧
              (t.handler.answered = true → exec (.hsend d a b) s = .next (s.gives false (t.modPP s.cur.unit fun p =>
                { p with dropped := p.dropped + 1 }) d 0)))))))) ∧
  (∀ (s t : State) (d a : Nat) (imm : Int) (x y z : Word), s.cur.pp = true →
    (∀ i, (s.Begins (usesDA d a) x y z t ∧ i = .dld d a imm ∨ s.Begins ⟨false, .src a, .none, .src d⟩ x y z t ∧ i = .dst d a imm) →
      (x.toNat % 64 ≠ 0 ∨ 2 ^ 52 ≤ x.toNat ∨ t.homeFor x.toNat ≠ s.cur.unit → exec i s = .next (s.takeTrap 0x08 4 none)) ∧
      (x.toNat % 64 = 0 → x.toNat < 2 ^ 52 → t.homeFor x.toNat = s.cur.unit →
        (imm < 0 ∨ 3 < imm → exec i s = .next (s.takeTrap 0x08 5 none)) ∧
        (0 ≤ imm → imm ≤ 3 → t.handler.locks.contains x.toNat = false →
          ((∃ q ∈ t.handler.locks, x.toNat < q) → exec i s = .next (s.takeTrap 0x08 6 none)) ∧
          ((∀ q ∈ t.handler.locks, q ≤ x.toNat) → (t.entry x.toNat).locked = true →
            exec i s = .next (s.modMe fun h => h.parked .tagwait (.lock x.toNat)))))) ∧
    (∀ r, 0 ≤ imm → imm ≤ 3 → x.toNat % 64 = 0 → x.toNat < 2 ^ 52 → t.homeFor x.toNat = s.cur.unit →
      (t.handler.locks.contains x.toNat = true ∧ r = t ∨
        t.handler.locks.contains x.toNat = false ∧ (∀ q ∈ t.handler.locks, q ≤ x.toNat) ∧ (t.entry x.toNat).locked = false ∧
          r = (t.setEntry x.toNat { t.entry x.toNat with locked := true, hslot := s.cur.slot }).modMyHandler fun h =>
            { h with locks := h.locks ++ [x.toNat] }) →
      (s.Begins (usesDA d a) x y z t → exec (.dld d a imm) s = .next (s.gives false r d ((r.entry x.toNat).dword imm.toNat))) ∧
      (s.Begins ⟨false, .src a, .none, .src d⟩ x y z t →
        exec (.dst d a imm) s = .next (r.setEntry x.toNat ((r.entry x.toNat).setDword imm.toNat z))))) ∧
  (∀ (s t : State) (d a b : Nat) (x y z : Word), s.Begins (usesDAB d a b) x y z t → s.cur.pp = true ∨ d < 120 →
    (x ≠ 0 → x.toNat % 64 ≠ 0 → exec (.bxf d a b) s = .next (s.takeTrap 0x08 4 none)) ∧
    (∀ p q : Machine.Place, handlerBlock x t = .ok p → handlerBlock y t = .ok q →
      (∀ n e, t.poisonAt ⟨0, 64, 0⟩ p = some (n, e) → exec (.bxf d a b) s = .next (s.takeTrap 0x0A (w64 e) none)) ∧
      (t.poisonAt ⟨0, 64, 0⟩ p = none → p = q → exec (.bxf d a b) s = .next (s.gives false t d 0)) ∧
      (∀ r : State, t.poisonAt ⟨0, 64, 0⟩ p = none → p ≠ q → r = t.writePlace 64 (BitVec.ofNat 512 (t.readPlace 64 p)).toNat q →
        (t.poisonAt ⟨0, 64, 0⟩ q = none → exec (.bxf d a b) s = .next (s.gives false r d 0)) ∧
        (∀ n e, t.poisonAt ⟨0, 64, 0⟩ q = some (n, e) →
          (t.handler.writesLine s.cur.slot p q = true →
            exec (.bxf d a b) s = .next (s.gives false { r with poison := t.poison.del (e / 64) } d 0)) ∧
          (t.handler.writesLine s.cur.slot p q = false → exec (.bxf d a b) s = .next (s.takeTrap 0x0A (w64 e) none)))))) ∧
  (∀ (s t : State) (d a b : Nat) (x y z : Word), s.Begins (usesRead d a b) x y z t →
    (fld x 47 46 ≠ 2 ∨ 8 ≤ fld x 51 48 → exec (.grant d a b) s = .next (s.takeTrap 0x08 8 none)) ∧
    (∀ p dst, fld x 47 46 = 2 → fld x 51 48 < 8 → handlerBlock y t = .ok p → t.poisonAt ⟨0, 64, 0⟩ p = none →
      ((t.partById t.handler.part).bind fun p => p.agentFor (fld x 39 24) 2 (fld x 51 48)) = some dst →
      exec (.grant d a b) s = .next (t.handlerSend x dst [z] (some (BitVec.ofNat 512 (t.readPlace 64 p))) 0))) ∧
  (∀ (s t : State) (d a : Nat) (x y z : Word), s.Begins (usesDA d a) x y z t → s.cur.pp = true ∨ d < 120 →
    (40 ≤ fld x 5 0 ∨ t.partById t.handler.part = none → exec (.rgn d a) s = .next (s.takeTrap 0x08 9 none)) ∧
    (∀ p, t.partById t.handler.part = some p →
      (fld x 5 0 < 8 → exec (.rgn d a) s = .next (s.gives false t d (t.desc p (fld x 15 8) (fld x 5 0)))) ∧
      (8 ≤ fld x 5 0 → fld x 5 0 < 40 → exec (.rgn d a) s = .next (s.gives false t d (if (t.desc p (fld x 15 8) 2).getLsbD 8 then
        t.partWord p ((t.desc p (fld x 15 8) 3).toNat + 8 * (fld x 5 0 - 8)) else 0))))) ∧
  (∀ (s t : State) (x y z : Word), s.Begins usesNone x y z t → s.cur.pp = true →
    (t.handler.closes = false → t.handler.req = none ∨ t.handler.answered = true →
      exec .hend s = .next (t.endHandler s.cur.unit s.cur.slot)) ∧
    (t.handler.closes = true →
      exec .hend s = .next ((t.endHandler s.cur.unit s.cur.slot).homeDone t.handler.part t.handler.region)) ∧
    (∀ r, t.handler.req = some r → t.handler.answered = false → r.type ≠ 9 → exec .hend s = .next
      (((t.handlerFault s.cur.unit s.cur.slot 3 0 0).failReply (.pp s.cur.unit) r 0x09).endHandler s.cur.unit s.cur.slot)) ∧
    (∀ r t', t.handler.req = some r →
      t' = { t with deferred := t.deferred.put t.handler.block (t.deferred.at t.handler.block [] ++ [r]) } →
      exec .hdefer s = .next ((t'.endHandler s.cur.unit s.cur.slot).redispatch t.handler.block)))

/-! ## The step, decoding, reset -/

/-- R41 to R45, R104, R105, R111, R112, R316, R505: a step that a slot takes. A trap that a late push left is taken first, but not before an
instruction that goes on after its own access is done (R13). An annulled
instruction is consumed. Else the chain at the pc is fetched and decoded, and the step is exec of the instruction at that state, with
its length noted; of a stopping core it is the stop of the thread where the instruction would make it so. A fetch that traps, parks or
waits does so; a chain that does not decode takes the course of an unassigned encoding, with its EVAL. An attempt that leaves the thread
waiting before its instruction has used no position. Which slot issues is the order that the model chose among those R41 to R43 allow
(log entry 3), and no fetch goes through an instruction cache (log entry 15). -/
def Obligations.StepRunsDecoded : Prop :=
  ∀ (s r : State) (pp : Bool) (u t : Nat), s.issuer = some (pp, u, t, r) → ∀ (e g : State) (aft : State → State),
    e = r.aim pp u t → g = e.took pp u t (decide (e.me.annul ≠ 0)) → (∀ n, aft n = if n.heldBack then n.untake e else n) →
    (∀ c v, e.me.lateTrap = some (c, v) → e.me.committed = false → step s = .next (g.takeTrap c v none)) ∧
    (e.me.lateTrap = none ∨ e.me.committed = true → e.me.annul ≠ 0 → step s = .next g.consume.afterIssue) ∧
    (e.me.lateTrap = none ∨ e.me.committed = true → e.me.annul = 0 →
      (∀ h, fetchChain 5 g g.cur.pc = .error h → step s = .next (aft (g.halt h).afterIssue)) ∧
      (∀ (hws : List Nat) (f : State), fetchChain 5 g g.cur.pc = .ok (hws, f) →
        (∀ (i : Instr) (len : Nat), decode pp hws = .ok i len → ∀ k : State, k = { f with cur := { f.cur with len } } →
          (∀ n, exec i k = .next n → k.stopsBefore n i = false → step s = .next (aft n.afterIssue)) ∧
          (∀ n, exec i k = .next n → k.stopsBefore n i = true →
            step s = .next (aft (k.stopThread k.cur.unit k.cur.slot 0xFF false))) ∧
          (∀ x, exec i k = .fault x → step s = .fault x) ∧ (∀ x, exec i k = .refused x → step s = .refused x)) ∧
        (∀ (x : Reject) (len : Nat) (n : State), decode pp hws = .illegal x len →
          exec (.unassignedEncoding x.eval) { f with cur := { f.cur with len } } = .next n → step s = .next (aft n)))) ∧
    g.cur = ⟨pp, u, t, (r.thread pp u t).pc, 1⟩ ∧ g.mem = r.mem ∧ g.net = r.net ∧ g.agenda = r.agenda

/-- R94, R104, R112, R273: what a fetch reads. Up to five prefixes and the halfword after them, each two bytes at its address:
at H of physical memory, on a core of the block that its data cache holds at the place that the translation for execution gives; of an
UNCACHED or a WALK line the home is asked first with a READ-MISS of its two bytes, and the thread waits (R266); a poisoned line
kills a handler's slot (R233, R280); R112: an address outside the global window raises WINDOW
with it. An event that the outside asks for is carried out; with nothing to do a cycle ends. That the thread of an UNCACHED fetch
waits is the model's choice (log entry 8), and so are that bit 0 of an odd pc is not looked at (log entry 100) and the words of the
READ-MISS beyond those that R270 names (log entry 23). -/
def Obligations.FetchedBytes : Prop :=
  (∀ (n : Nat) (s f : State) (pc : Word) (h : Nat), fetchHalf s pc pc = .ok (h, f) →
    (h / 4096 ≠ 15 → fetchChain (n + 1) s pc = .ok ([h], f)) ∧
    (h / 4096 = 15 → ∀ l g, fetchChain n f (pc + 2) = .ok (l, g) → fetchChain (n + 1) s pc = .ok (h :: l, g))) ∧
  (∀ (s : State) (pc : Word), s.cur.pp = true → pc.toNat < 2 ^ 48 →
    (s.poisoned (pc.toNat / 2 * 2) = false → fetchHalf s pc pc = .ok (s.mem.read (pc.toNat / 2 * 2) 2, s)) ∧
    (s.poisoned (pc.toNat / 2 * 2) = true → fetchHalf s pc pc = .error (.trap cPoison pc none))) ∧
  (∀ (s f : State) (pc pte : Word) (pa : Nat), s.cur.pp = false → windowOf pc.toNat = .global →
    s.translate s.cur.unit s.me.priv .fetch (pc.toNat / 2 * 2) = (.ok pa pte, f) → pa / 2 ^ 48 ≠ 4 →
    (f.performs .fetch 2 (.phys pa pte) = true → fetchHalf s pc pc = .ok (f.value (.phys pa pte) 2, f)) ∧
    (pteProt pte = 0 ∨ pteProt pte = 7 →
      (∀ v, f.askVal 0 (pc.toNat / 2 * 2) = some (.ready v) → fetchHalf s pc pc = .ok (v.toNat % 65536, f)) ∧
      (f.askVal 0 (pc.toNat / 2 * 2) = none → ∃ g, fetchHalf s pc pc = .error (.wait .asks g) ∧
        ∀ k : State, k.me.asks = [] → k.fenced k.myPartId = false → ∃ q : Flit, (g k).net = k.net ++ [q] ∧
          q.src = .core k.cur.unit k.cur.slot ∧ q.dst = .pp (k.homeFor pa) ∧ q.lane = 0 ∧ q.type = 0 ∧ q.word 0 = w64 pa ∧
          q.word 3 = 2 ∧ (g k).me = { k.me with asks := [⟨q.rseq, 0, pc.toNat / 2 * 2, pc, .waiting⟩] }))) ∧
  (∀ (s : State) (pc : Word), s.cur.pp = false → windowOf pc.toNat ≠ .global →
    fetchHalf s pc pc = .error (.trap cWindow pc none)) ∧
  (∀ (s : State) (i : Instr) (r : List Action), s.agenda = .event i :: r → step s = exec i { s with agenda := r }) ∧
  (∀ (s : State), s.agenda = [] → s.autoEvent = none → s.nextIssue = none → ∃ t : State, step s = .next t ∧
    t.time = s.time + 1 ∧ t.issued = [] ∧ t.mem = s.mem ∧ t.net = s.net ∧ t.parts = s.parts ∧ t.hems = s.hems)

/-- R94 to R126: the encoder's halfwords of a well-formed instruction decode to it, with their number as its length, whatever
follows them. -/
def Obligations.DecodeEncode : Prop :=
  ∀ (i : Instr) (l : List Nat), i.wf = true → decode i.onPP (encode i ++ l) = .ok i (encode i).length

/-- R94 to R126: words written out from the encoding tables, one or more of each page, stand for their instructions, and chains
that R105 refuses are refused with its reason and EVAL. -/
def Obligations.DecodeWords : Prop :=
  decode false [0x0567] = .ok (.add 5 6 7) 1 ∧
  decode false [0xF480, 0x0567] = .ok (.add 21 6 7) 2 ∧
  decode false [0x5771] = .ok (.addi 7 7 1) 1 ∧
  decode false [0xF001, 0x682C] = .ok (.li 8 300) 2 ∧
  decode false [0x9A56] = .ok (.sklt 2 5 (.reg 6)) 1 ∧
  decode false [0x8720] = .ok (.st 7 2 0 ⟨.plain, .core, .normal⟩) 1 ∧
  decode false [0xFD40, 0x7121] = .ok (.ld 1 2 1 ⟨.acquire, .partition, .normal⟩) 2 ∧
  decode false [0xBFFC] = .ok (.br (-4)) 1 ∧
  decode false [0xD161] = .ok (.callr 1 6) 1 ∧
  decode false [0xE361] = .ok (.shri 3 33) 1 ∧
  decode false [0xF811, 0x2123] = .ok (.divu 1 2 3) 2 ∧
  decode false [0xF801, 0xF040, 0xC568] = .ok (.extu 5 6 8 16) 3 ∧
  decode false [0xF832, 0x0453] = .ok (.ldhu 4 5 3 ⟨.plain, .core, .normal⟩) 2 ∧
  decode false [0xF932, 0x4120] = .ok (.vld 1 2 0 2 3 ⟨.plain, .core, .normal⟩) 2 ∧
  decode false [0xF802, 0xFF40, 0x9000] = .ok (.fence ⟨.acqRel, .partition, .normal⟩) 3 ∧
  decode false [0xFB03, 0x0123] = .ok (.amoadd 1 2 3 true true ⟨.plain, .core, .normal⟩) 2 ∧
  decode false [0xF803, 0x4052] = .ok (.bar 2 5) 2 ∧
  decode false [0xF924, 0x0123] = .ok (.vadd 1 2 3 2 2) 2 ∧
  decode false [0xFB24, 0x0123] = .ok (.vaddSat 1 2 3 2 2) 2 ∧
  decode false [0xF905, 0x9124] = .ok (.vcvt 1 2 4 2 0) 2 ∧
  decode false [0xF806, 0xF412, 0x0045] = .ok (.mma 0 20 21 false false) 3 ∧
  decode false [0xF807, 0x1503] = .ok (.qstat 5 3) 2 ∧
  decode false [0xF817, 0x4123] = .ok (.cpy 1 2 3 1) 2 ∧
  decode false [0xF808, 0x3065] = .ok (.tdec 6 5) 2 ∧
  decode false [0xF808, 0x7502] = .ok (.tid 5 2) 2 ∧
  decode false [0xF819, 0x0123] = .ok (.fadd 1 2 3 true) 2 ∧
  decode false [0xF809, 0x8612] = .ok (.fskle 1 1 2 false) 2 ∧
  decode false [0xF80A, 0xF012, 0x0534] = .ok (.lih 5 0x1234) 3 ∧
  decode false [0xF80B, 0x3531] = .ok (.mpop 5 3) 2 ∧
  decode true [0xF80D, 0x0123] = .ok (.hsend 1 2 3) 2 ∧
  decode true [0xF80D, 0x2122] = .ok (.dld 1 2 2) 2 ∧
  decode false [0xF80E, 0x102A] = .ok (.brk 0x2A) 2 ∧
  decode false [0xF80E, 0xF002, 0x250C] = .ok (.srd 5 0x2C) 3 ∧
  decode false [0xF480, 0xF480, 0x8520] = .illegal ⟨.duplicated, 1, 0xF480⟩ 3 ∧
  decode false [0xF481, 0x8520] = .illegal ⟨.reservedBits, 0, 0xF481⟩ 2 ∧
  decode false [0xF001, 0x0123] = .illegal ⟨.prefixNotAccepted, 0, 0xF001⟩ 2 ∧
  decode false [0xF000, 0xF000, 0xF000, 0xF000, 0xF000, 0x5220] = .illegal ⟨.fifthPrefix, 4, 0xF000⟩ 5 ∧
  decode false [0xF80C, 0x0000] = .illegal ⟨.unassignedPage, 0, 0xF80C⟩ 2 ∧
  decode false [0xF80D, 0x0000] = .illegal ⟨.pageOnTile, 0, 0xF80D⟩ 2 ∧
  decode false [0x9056] = .illegal ⟨.outOfRange, 0, 0x9056⟩ 1 ∧
  decode false [0xF816, 0x1300] = .illegal ⟨.reservedBits, 0, 0xF816⟩ 2 ∧
  decode false [0xF812, 0xA560] = .illegal ⟨.reservedBits, 0, 0xF812⟩ 2 ∧
  decode false [0xFE40, 0x7121] = .illegal ⟨.ordNotAccepted, 0, 0xFE40⟩ 2

/-- R8, R84, R186, R213, R332, R360: the device right after reset. BOOTST is 0, no partition exists, every slot is FREE, the
registers that the spec gives a reset value hold it, no line is poisoned, and memory is in its canonical form. A register
without one holds 0, and so does a byte that nothing has written: that is the model's choice (log entries 1 and 2). -/
def Obligations.Reset : Prop :=
  ∀ s : State, s = State.reset →
    s.dev.bootst = 0 ∧ s.dev.weights = 0x01010101 ∧ s.dev.retired = 0 ∧ s.parts = [] ∧ s.net = [] ∧ s.extents = [] ∧
    (∀ c t, ((s.core c).thread t).tstate = .free) ∧ (∀ n t, ((s.pp n).handler t).thread.tstate = .free) ∧
    (∀ c, (s.core c).regs.sprsv = 32 ∧ (s.core c).regs.spillb = 6 ∧ (s.core c).regs.ovfb = 6 ∧ (s.core c).regs.sweep = 12 ∧
      (s.core c).regs.q2cfg = 0x47F000 ∧ (s.core c).regs.stale = 0) ∧
    (∀ h, (s.hem h).hemctl = 0x101000 ∧ (s.hem h).patterns = [] ∧ (s.hem h).jobs = []) ∧
    (∀ c b, ((s.core c).block b).tag = .i) ∧ (∀ a, s.poisoned a = false) ∧
    s.mem.wf = true ∧ (∀ a, s.mem.byte a = 0) ∧ (∀ pp u t r, s.xOf pp u t r = 0)

/-- Every step keeps the canonical form of physical memory: addresses strictly rising, no listed byte 0. -/
def Obligations.MemoryCanonical : Prop :=
  ∀ s t : State, s.mem.wf = true → step s = .next t → t.mem.wf = true

/-! ## Events of the device -/

/-- R45, R50, R414: a result that comes goes to its register, extended, and a thread that waits for it goes on; a poisoned
or a refused one makes the waiting thread trap. R505: a header that comes late and fails its checks is not pushed, and the next issue
traps. R47, R48: a latched wake ends the park, and a BAR that it ends counts its arrival again, or, with a cause, is a trap of a page
fault or a tag wait; a wake source ends the park or the wait whose condition holds (for every wait: `State.goesOn`), and no other. R410,
R489: 1,024 cycles after its last read a watched word that carries no tag is asked of its home again, and a handler looks at its own slice
itself. R220, R221, R225, R228: the walk for a fetch parks the thread, or caches the leaf. That a walk takes one event, and an access walks
within its instruction, is the model's choice (log entry 26). -/
def Obligations.ThreadEvents : Prop :=
  ∀ (s e : State) (pp : Bool) (u t n : Nat), (⟨pp, u, t, 0, 0⟩ : Actor).valid = true → n = (if pp then 1024 + u else u) →
    e = { s with cur := ⟨pp, u, t, (s.thread pp u t).pc, 1⟩ } →
    (∀ (id q r size : Nat) (va v : Word) (sg : Bool), r < 120 → 1 ≤ size → size ≤ 8 → e.me.pending = [⟨id, q, .x r, va, size, sg, .ready v⟩] →
      exec (.resultArrival n t) s = .next { (e.setX r (loaded size sg (v.toNat % 256 ^ size))).modMe (fun h =>
        if e.me.tstate = .waiting ∧ (e.me.wait = .regs id ∨ e.me.wait = .results) then { h with pending := [] }.resumed
        else { h with pending := [] }) with cur := s.cur }) ∧
    (∀ (id q k : Nat) (va v : Word), e.me.pending = [⟨id, q, .q1, va, 8, false, .ready v⟩] → e.me.queues.q1partial = 0 →
      e.headerFault v = some k → e.me.tstate = .ready →
      exec (.resultArrival n t) s = .next { e.modMe (fun h => { h with pending := [], lateTrap := some (0x0D, w64 (0x1000 + k)) })
        with cur := s.cur }) ∧
    (∀ (id q size c : Nat) (d : LateDest) (va a : Word) (sg : Bool) (x : LateVal), e.me.saved = none → e.me.tstate = .waiting →
      e.me.wait = .regs id ∨ e.me.wait = .results → (x = .poisoned a ∧ c = 0x0A ∨ x = .failed c a) →
      e.me.pending = [⟨id, q, d, va, size, sg, x⟩] →
      exec (.poisonedResult n t) s = .next { (e.modMe fun h => h.unmark id).takeTrap c a none with cur := s.cur }) ∧
    (e.me.tstate = .parked → e.me.wakePending = true → e.me.wakeTrap = none →
      exec (.threadWake n t) s =
        .next { (e.modMe fun h => { h with wakePending := false }.resumed).unwait pp u t with cur := s.cur }) ∧
    (∀ c v, pp = false → e.me.tstate = .parked → e.me.wakePending = true → e.me.wakeTrap = some (c, v) →
      e.me.park = .pagefault ∨ e.me.park = .tagwait → exec (.threadWake n t) s = .next
        { (e.modMe fun h => { h with wakePending := false, wakeTrap := none }).takeTrap c v none with cur := s.cur }) ∧
    ((e.me.tstate = .parked ∧ e.me.wakePending = false ∨ e.me.tstate = .waiting) →
      (e.goesOn → exec (.threadWake n t) s = .next { e.modMe Thread.resumed with cur := s.cur }) ∧
      (¬ e.goesOn → exec (.threadWake n t) s = .next s)) ∧
    (∀ (va pa at_ : Nat) (w : WaitFor), pp = false → at_ + 1024 ≤ s.time → e.me.tstate = .parked → e.me.asks = [] → e.fenced e.myPartId = false →
      (e.me.wait = .zeroAt va pa true at_ ∧ w = .zeroAt va pa true s.time ∨
        ∃ v, e.me.wait = .differsAt va pa v true at_ ∧ w = .differsAt va pa v true s.time) →
      ∃ (r : State) (f : Flit), exec (.joinReread n t) s = .next r ∧ r.cur = s.cur ∧ r.net = s.net ++ [f] ∧ f.dst = .pp (s.homeFor pa) ∧
        f.type = 0 ∧ f.lane = 0 ∧ f.word 0 = w64 pa ∧ r.mem = s.mem ∧
        r.thread pp u t = { s.thread pp u t with wait := w, asks := [⟨f.rseq, 1, 0, w64 va, .waiting⟩] }) ∧
    (∀ (va pa at_ : Nat), pp = true → at_ + 1024 ≤ s.time → e.me.tstate = .parked → e.me.asks = [] → s.poisoned pa = false →
      e.me.wait = .zeroAt va pa true at_ → exec (.joinReread n t) s = .next { e.modMe (fun h =>
        if s.mem.word pa = 0 then h.resumed else { h with wait := .zeroAt va pa true s.time }) with cur := s.cur }) ∧
    (∀ (p : Partition) (va : Nat), pp = false → (e.me.tstate = .ready ∨ e.me.tstate = .trap) → va = e.me.pc.toNat →
      windowOf va = .global → s.partOfCore u = some p → s.tlbLook u p.id va = none → e.stopping = false →
      (∀ (l : Nat) (x : Word), s.walk p (s.core u).regs.walkRoot va = .absent l x →
        exec (.translationWalk n t) s = .next { e.halt (pageFault .fetch va l x) with cur := s.cur }) ∧
      (∀ (x : Word) (size : Nat) (path : List Nat), s.walk p (s.core u).regs.walkRoot va = .leaf x size path →
        s.lineStored path = none → ∃ r : State, exec (.translationWalk n t) s = .next r ∧ r.cur = s.cur ∧ r.mem = s.mem ∧
          (r.core u).tlb.head? = some ⟨va / size * size, size, x, path, p.id⟩ ∧
          (r.hem (hemOf u)).tlb.head? = some ⟨va / size * size, size, x, path, p.id⟩))

/-- R232, R235: an error of storage poisons its line, its granule or its accumulator; a dirty block of a data cache poisons its line, a
clean one is dropped, and so for a line of a slice, whose state the spec leaves unseen (log entry 16). R78: a record that waits enters q7.
R161, R179, R180: a free array takes an operation for its cycles; not the match unit's while its core stops or a DTLD holds its table back
(R208, R394). R161, R177, R182, R184: at its end it writes its results: MZERO clears the accumulator, MLD loads it, MMA adds the products,
MST writes it in FP32, rounded to BF16 or FP16, or as codes of 8 or 4 bits with a scale for each 32 of a row, and its count is ready, TTRN
writes the transpose of the 8-bit, 4-bit or 16-bit elements, with the side entry of a code kind. -/
def Obligations.CoreEvents : Prop :=
  (∀ (s : State) (u a : Nat), u < 1024 →
    (∃ t : State, exec (.uncorrectableError 0 u a) s = .next t ∧ t.poisoned a = true ∧ t.dev.replace = true ∧ t.mem = s.mem ∧
      t.cores = s.cores) ∧
    (Config.sliceDirty s.time (a / 64) = true → ∃ t : State, exec (.uncorrectableError 2 u a) s = .next t ∧ t.poisoned a = true ∧
      t.dev.replace = true ∧ t.mem = s.mem ∧ t.cores = s.cores) ∧
    (Config.sliceDirty s.time (a / 64) = false → exec (.uncorrectableError 2 u a) s = .next s) ∧
    ((((s.core u).block (blockOf a)).tag = .ro ∨ ((s.core u).block (blockOf a)).tag = .rw) →
      ∃ t : State, exec (.uncorrectableError 1 u a) s = .next t ∧ ((t.core u).block (blockOf a)).tag = .i ∧
        t.poisoned (blockOf a) = (s.poisoned (blockOf a) || decide (((s.core u).block (blockOf a)).dirty ≠ 0)) ∧ t.mem = s.mem) ∧
    (∀ space, (space = 3 ∨ space = 4) → localExtent a ≠ none → ∃ t : State, exec (.uncorrectableError space u a) s = .next t ∧
      (t.core u).sramPoison.at (a / 64) false = true ∧ (t.core u).sram = (s.core u).sram) ∧
    (a < 8 → ∃ t : State, exec (.uncorrectableError 5 u a) s = .next t ∧ (t.core u).accPoison.at a false = true ∧
      (t.core u).acc = (s.core u).acc)) ∧
  (∀ (s : State) (u : Nat) (x : Q7Rec) (l : List Q7Rec), u < 1024 → (s.core u).q7waiting = x :: l →
    ((s.core u).q7.filter fun r => r.foreign == x.foreign).length < (if x.foreign then 16 else 48) →
    exec (.q7RecordArrival u) s = .next (s.modCore u fun k => { k with q7 := k.q7 ++ [x], q7waiting := l })) ∧
  (∀ (s : State) (u q n : Nat) (o : MatOp) (l : List MatOp), u < 1024 → q < 17 → s.fenced (s.partIdOf u) = false →
    (q = 16 → (s.core u).stop.reached = false ∧ (s.core u).appHeld o = false) →
    (s.core u).array.running = none → (s.core u).array.queues.at q [] = o :: l → o.accepted < s.time →
    (∀ r, r ≠ q → (s.core u).array.queues.at r [] = []) →
    n = (match o.kind with
      | .mzero _ => 16
      | .mst f _ _ => if f = 3 then 96 else 64
      | .ttrn _ _ => if fld o.ctx 4 3 < 2 then 32 else 64
      | _ => 64) →
    exec (.arrayGrant u) s = .next (s.modCore u fun k => { k with array :=
      ⟨k.array.queues.put q l, some (q, o, s.time + n), q⟩ })) ∧
  (∀ (s : State) (u : Nat) (o : MatOp) (l : List MatOp), u < 1024 → (s.core u).array.queues.at 16 [] = o :: l →
    (∀ r, r ≠ 16 → (s.core u).array.queues.at r [] = []) → ((s.core u).stop.reached = true ∨ (s.core u).appHeld o = true) →
    s.fenced (s.partIdOf u) = false → exec (.arrayGrant u) s = .next (s.modCore u fun k => k)) ∧
  (∀ (s : State) (u q late at_ done : Nat) (ctx : Word), u < 1024 → done ≤ s.time →
    (∀ acc, (s.core u).array.running = some (q, ⟨.mzero acc, ctx, late, at_, none⟩, done) →
      ∃ t : State, exec (.matrixRetire u) s = .next t ∧ (t.core u).array.running = none ∧ (t.core u).sram = (s.core u).sram ∧
        ∀ i j, i < 64 → j < 64 → (t.core u).accWord acc i j = 0) ∧
    (∀ acc m, (s.core u).array.running = some (q, ⟨.mld acc m, ctx, late, at_, none⟩, done) → (s.core u).sramPoison = [] →
      ∃ t : State, exec (.matrixRetire u) s = .next t ∧ (t.core u).array.running = none ∧ (t.core u).sram = (s.core u).sram ∧
        ∀ i j, i < 64 → j < 64 → (t.core u).accWord acc i j = (s.core u).sram.read (0x200000 + 4096 * m + 4 * (64 * i + j)) 4) ∧
    (∀ acc a b clear tr, (s.core u).array.running = some (q, ⟨.mma acc a b clear tr, ctx, late, at_, none⟩, done) →
      (s.core u).sramPoison = [] → (s.core u).accPoison = [] →
      ∃ t : State, exec (.matrixRetire u) s = .next t ∧ (t.core u).array.running = none ∧ (t.core u).sram = (s.core u).sram ∧
        ∀ i j, i < 64 → j < 64 → (t.core u).accWord acc i j =
          (let p (q : Nat) : FVal := mulExact ((s.core u).aVal ctx a i q) ((s.core u).bVal ctx tr b q j)
           blockSum (blockSum (if clear then 0 else (s.core u).accWord acc i j) ((List.range 32).map p))
             ((List.range 32).map fun q => p (q + 32))) % 2 ^ 32) ∧
    (∀ acc m, (s.core u).array.running = some (q, ⟨.mst 0 acc m, ctx, late, at_, none⟩, done) →
      (s.core u).accPoison.at acc false = false → (s.core u).sram.wf = true →
      ∃ t : State, exec (.matrixRetire u) s = .next t ∧ (t.core u).array.running = none ∧
        (t.coreThread u q).pending = ((s.coreThread u q).settle late (.ready 0)).pending ∧
        ∀ i j b, i < 64 → j < 64 → b < 4 → (t.byteAt (.sram u (0x200000 + 4096 * m + 4 * (64 * i + j) + b))).toNat =
          (s.core u).accWord acc i j / 256 ^ b % 256) ∧
    (∀ f F acc m, (f = 1 ∧ F = fmtBF ∨ f = 2 ∧ F = fmtH) →
      (s.core u).array.running = some (q, ⟨.mst f acc m, ctx, late, at_, none⟩, done) → (s.core u).accPoison.at acc false = false →
      (s.core u).sram.wf = true → ∀ v : Nat → Nat → Nat, (∀ i j, v i j = match fmtS.unpack false ((s.core u).accWord acc i j) with
        | .nan _ => F.nan
        | .inf n => F.inf n
        | .fin n g e => (F.round ⟨0, false⟩ n g e).1) →
      ∃ t : State, exec (.matrixRetire u) s = .next t ∧ (t.core u).array.running = none ∧
        (t.coreThread u q).pending = ((s.coreThread u q).settle late (.ready (w64 ((List.range 4096).countP fun k =>
          (fmtS.unpack false ((s.core u).accWord acc (k / 64) (k % 64))).isFin &&
            (v (k / 64) (k % 64) == F.inf true || v (k / 64) (k % 64) == F.inf false))))).pending ∧
        ∀ i j b, i < 64 → j < 64 → b < 2 → (t.byteAt (.sram u (0x200000 + 4096 * m + 2 * (64 * i + j) + b))).toNat =
          v i j / 256 ^ b % 256) ∧
    (∀ acc m, (s.core u).array.running = some (q, ⟨.mst 3 acc m, ctx, late, at_, none⟩, done) →
      (s.core u).accPoison.at acc false = false → (s.core u).sram.wf = true → m < 512 →
      ∀ (sc : Nat → Nat → Int) (c : Nat → Nat → Nat),
        (∀ i b, sc i b = ((s.core u).bscale (fld ctx 18 16) ((List.range 32).map fun r =>
          fmtS.unpack false ((s.core u).accWord acc i (32 * b + r)))).1) →
        (∀ i j, c i j = ((s.core u).enc (fld ctx 18 16) (ctx.getLsbD 19) (if sc i (j / 32) = -128 then .fin false 0 0
          else (fmtS.unpack false ((s.core u).accWord acc i j)).scaleBy (-(sc i (j / 32))))).1) →
      ∃ t : State, exec (.matrixRetire u) s = .next t ∧ (t.core u).array.running = none ∧
        (∀ i b, i < 64 → b < 2 → t.byteAt (.sram u (0x400000 + 128 * m + 2 * i + b)) = BitVec.ofInt 8 (sc i b)) ∧
        (ctx.getLsbD 19 = false → ∀ i j, i < 64 → j < 64 →
          (t.byteAt (.sram u (0x200000 + 4096 * m + 64 * i + j))).toNat = c i j % 256) ∧
        (ctx.getLsbD 19 = true → (∀ i j, i < 64 → j < 64 →
            (t.byteAt (.sram u (0x200000 + 4096 * m + (64 * i + j) / 2))).toNat / 16 ^ (j % 2) % 16 = c i j % 16) ∧
          ∀ k, 2048 ≤ k → k < 4096 → t.byteAt (.sram u (0x200000 + 4096 * m + k)) = 0)) ∧
    (∀ d a, (s.core u).array.running = some (q, ⟨.ttrn d a, ctx, late, at_, none⟩, done) → d < 512 → a < 512 →
      (s.core u).sram.wf = true → ∃ t : State, exec (.matrixRetire u) s = .next t ∧ (t.core u).array.running = none ∧
        (fld ctx 4 3 = 0 → ∀ i j, i < 64 → j < 64 → t.byteAt (.sram u (0x200000 + 4096 * d + 64 * i + j)) =
          s.byteAt (.sram u (0x200000 + 4096 * a + 64 * j + i))) ∧
        (fld ctx 4 3 = 1 → (∀ i j, i < 64 → j < 64 →
            (t.byteAt (.sram u (0x200000 + 4096 * d + (64 * i + j) / 2))).toNat / 16 ^ (j % 2) % 16 =
              (s.byteAt (.sram u (0x200000 + 4096 * a + (64 * j + i) / 2))).toNat / 16 ^ (i % 2) % 16) ∧
          ∀ k, 2048 ≤ k → k < 4096 → t.byteAt (.sram u (0x200000 + 4096 * d + k)) = 0) ∧
        (fld ctx 4 3 < 2 → ∀ k, k < 128 → t.byteAt (.sram u (0x400000 + 128 * d + k)) = s.byteAt (.sram u (0x400000 + 128 * a + k))) ∧
        (2 ≤ fld ctx 4 3 → d < 511 → (∀ i j b, i < 64 → j < 64 → b < 2 →
            t.byteAt (.sram u (0x200000 + 4096 * d + 2 * (64 * i + j) + b)) =
              s.byteAt (.sram u (0x200000 + 4096 * a + 2 * (64 * j + i) + b))) ∧
          ∀ k, k < 256 → t.byteAt (.sram u (0x400000 + 128 * d + k)) = s.byteAt (.sram u (0x400000 + 128 * d + k)))))

/-- R38, R40, R52, R63, R84, R93: a core with a FREE task slot that has dispatched nothing in this cycle takes a packet of its deque, the
last pushed; the thread begins at the packet's pc with the launch's budgets, x1 the exit address, x2 the top of
the slot's stack range (whose place the spec leaves open, log entry 5), x3 to x12 the packet's values, x13 and above, the vector registers
and the masks 0, as far as the budget goes, and of the system registers only the trap registers keep their values; a restored thread goes on in its own slot. R55, R65, R66: an idle core asks the first
victim of its sweep; a victim gives the oldest packet of its deque, or EMPTY where it has none or its owner claims it; a packet that
comes goes to the steal buffer, and after EMPTY from the last victim the sweep is over. R57, R61: a SHIP packet joins the class-4 list.
R59: a decrement lowers its record's count, and at 0 or below makes the record's packet a class-3 task. -/
def Obligations.TaskEvents : Prop :=
  (∀ (s : State) (u t : Nat) (p : Packet) (l : List Packet) (n : Launch), u < 1024 → s.dispatches u = true →
    (s.core u).work.dispatchedAt ≠ some s.time →
    (s.partOfCore u).bind (·.launch) = some n → (s.core u).work.restored = [] → (s.core u).work.class2.held = 0 →
    (s.core u).work.class3.held = 0 → (s.core u).work.class4.held = 0 → (s.core u).work.deque = l ++ [p] →
    (s.core u).freeSlot = some t → p.vals.length = 10 →
    ∃ r : State, exec (.taskDispatch u) s = .next r ∧ (r.core u).work.deque = l ∧ (r.core u).work.dispatchedAt = some s.time ∧
      (r.thread false u t).tstate = .ready ∧
      (r.thread false u t).pc = p.pc ∧ (r.thread false u t).priv = .u ∧ (r.thread false u t).slim = n.slim ∧
      (r.thread false u t).vlim = n.vlim ∧ (1 < n.slim → r.xOf false u t 1 = (s.core u).regs.texit) ∧
      (2 < n.slim → r.xOf false u t 2 = Config.stackTop (s.launchId u) t) ∧
      (∀ i, i < 10 → 3 + i < n.slim → r.xOf false u t (3 + i) = p.vals.getD i 0) ∧
      (∀ i, 13 ≤ i → i < n.slim → r.xOf false u t i = 0) ∧ (∀ i, i < n.vlim → (r.core u).vrf.at (32 * t + i) 0 = 0) ∧
      (r.thread false u t).annul = 0 ∧ (r.thread false u t).regs = { Regs.reset with
        launchid := n.launchid, epc := (s.thread false u t).regs.epc, ecause := (s.thread false u t).regs.ecause
        eval := (s.thread false u t).regs.eval, ssave := (s.thread false u t).regs.ssave } ∧
      r.mem = s.mem ∧ r.net = s.net ∧ ∀ v, v ≠ u → r.core v = s.core v) ∧
  (∀ (s : State) (u t : Nat) (x : Saved) (l : List Nat), u < 1024 → s.dispatches u = true → (s.core u).work.dispatchedAt ≠ some s.time →
    (s.core u).work.aging < 8 →
    (s.core u).work.restored = t :: l → (s.thread false u t).saved = some x → x.tstate = .ready →
    ∃ r : State, exec (.taskDispatch u) s = .next r ∧ (r.core u).work.restored = l ∧ (r.thread false u t).tstate = .ready ∧
      (r.thread false u t).saved = none ∧ (r.thread false u t).pc = (s.thread false u t).pc) ∧
  (∀ (s : State) (u v : Nat) (p : Partition) (n : Launch) (l : List Nat), u < 1024 → s.dispatches u = true →
    s.partOfCore u = some p → p.launch = some n → (s.core u).freeSlot.isSome = true → (∀ c, 1 ≤ c → c ≤ 6 → (s.core u).candidate c = false) →
    (s.core u).work.steal.active = false → (∀ a, (s.core u).work.steal.started = some a → a + 512 ≤ s.time) →
    victims p n.domain u (s.core u).work.steal.lastTried = v :: l → s.fenced p.id = false →
    ∃ r : State, exec (.stealSweep u) s = .next r ∧ (r.core u).work.steal.active = true ∧
      (r.core u).work.steal.started = some s.time ∧ (r.core u).work.steal.victims = l ∧
      r.net = s.net ++ [newFlit (.core u 15) (.core v 15) p.cls p.id 0 .stealReq []]) ∧
  (∀ (s : State) (n u x : Nat) (f : Flit), s.arrival n = some f → f.dst = .core u x → s.fate u = .take →
    (f.body = .stealReq → s.fenced f.part = false →
      (∀ q l, (s.core u).work.deque = q :: l → (s.core u).work.spill.held = 0 → s.dispatches u = true → s.ownerTakes u = false →
        ∃ r : State, exec (.stealRequest n) s = .next r ∧ (r.core u).work.deque = l ∧
        (r.core u).work.sent = (s.core u).work.sent + 1 ∧
        r.net = afterSend (s.net.eraseIdx n) (newFlit f.dst f.src f.cls f.part 0 (.stealRep (some q)) [])) ∧
      ((s.core u).work.deque = [] ∧ (s.core u).work.spill.held = 0 ∨ s.ownerTakes u = true ∨ s.dispatches u = false →
        ∃ r : State, exec (.stealRequest n) s = .next r ∧ r.cores = s.cores ∧
        r.net = afterSend (s.net.eraseIdx n) (newFlit f.dst f.src f.cls f.part 0 (.stealRep none) []))) ∧
    (∀ q : Packet, f.body = .stealRep (some q) → s.packetOk u q = true → ∃ r : State, exec (.stealReply n) s = .next r ∧
      (r.core u).work.steal.buffer = some q ∧ (r.core u).work.steal.active = false ∧
      (r.core u).work.received = (s.core u).work.received + 1 ∧ r.net = s.net.eraseIdx n) ∧
    (f.body = .stealRep none → (s.core u).work.steal.victims = [] → ∃ r : State, exec (.stealReply n) s = .next r ∧
      (r.core u).work.steal.buffer = (s.core u).work.steal.buffer ∧ (r.core u).work.steal.active = false ∧ r.net = s.net.eraseIdx n) ∧
    (∀ q : Packet, f.body = .ship q → s.packetOk u q = true → (s.core u).work.class4.held < 64 → (s.core u).work.overflow.held = 0 →
      ∃ r : State, exec (.shipPacketArrival n) s = .next r ∧ (r.core u).work.class4.held = (s.core u).work.class4.held + 1 ∧
        (r.core u).sram = (s.core u).sram.setWords
          (0x073000 + ((s.core u).work.class4.pos + (s.core u).work.class4.held) % 64 * 96) q.words ∧
        (r.core u).work.received = (s.core u).work.received + 1 ∧ r.net = s.net.eraseIdx n) ∧
    (∀ (off m : Nat) (v : Word), f.body = .dec off m → fld ((s.core u).sram.word (off + 8)) 1 0 = 1 →
      v = (s.core u).sram.word off - w64 m →
      (0 < v.toInt → ∃ r : State, exec (.decrementMessage n) s = .next r ∧
        (r.core u).sram = (s.core u).sram.setWord off v ∧ (r.core u).work.received = (s.core u).work.received + 1 ∧
        r.net = s.net.eraseIdx n) ∧
      (∀ q : Packet, v.toInt ≤ 0 → (∀ i, i < 12 → q.words.getD i 0 = (s.core u).sram.word (off + 16 + 8 * i)) →
        q.vals.length = 10 →
        s.packetOk u q = true → (s.core u).work.class3.held < 64 → (s.core u).work.overflow.held = 0 →
        ∃ r : State, exec (.decrementMessage n) s = .next r ∧
          (r.core u).work.class3.held = (s.core u).work.class3.held + 1 ∧
          (r.core u).sram = (((s.core u).sram.setWord off v).setWord (off + 8) 2).setWords
            (0x071800 + ((s.core u).work.class3.pos + (s.core u).work.class3.held) % 64 * 96) q.words ∧
          (r.core u).work.received = (s.core u).work.received + 1 ∧ r.net = s.net.eraseIdx n)))

/-- R31, R236, R238: a whole message at the head of a slot's q1 leaves it for the mesh where its queue has room beside what is on its way
there, and counts as sent where it goes to another core (R67). It is appended whole to q0 of its slot, or to the q2 ring, and
counts as received. R200, R201: a q5 or a q6 record that waits in a station enters its queue; the output is then complete, and its
decrement leaves. R242: Q2CFG is written while q2 is empty, with a ring that R242 allows, and is ignored else. That the sender learns
of the queue's room at once, and that the write position is then 0, are the model's choices (log entries 70 and 81). -/
def Obligations.MessageEvents : Prop :=
  (∀ (s : State) (u t v : Nat) (p : Partition) (h : Word) (l q : List Word), u < 1024 → t < 16 → (s.core u).stop.reached = false →
    (s.coreThread u t).queues.q1 = h :: l ++ q → (s.coreThread u t).queues.q1partial ≤ q.length → l.length = fld h 23 20 →
    s.partOfCore u = some p → p.coreFor (fld h 13 4) = some v → s.coming v h + l.length + 1 ≤ s.queueFree v h → s.fenced p.id = false →
    ∃ r : State, exec (.messageArrival u t) s = .next r ∧ (r.coreThread u t).queues.q1 = q ∧
      r.net = s.net ++ [newFlit (.core u t) (.core v 15) p.cls p.id 0 (.message (h :: l) false) []] ∧
      (r.core u).work.sent = (s.core u).work.sent + (if v = u then 0 else 1) ∧ r.mem = s.mem) ∧
  (∀ (s : State) (v i : Nat) (f : Flit) (h : Word) (l : List Word), v < 1024 → s.nextMessage v = some (i, f, h :: l) →
    s.fate v = .take → l.length + 1 ≤ s.queueFree v h →
    (h.getLsbD 14 = false → ∃ r : State, exec (.messageArrival v 16) s = .next r ∧ r.net = s.net.eraseIdx i ∧
      (r.coreThread v (fld h 3 0)).queues.q0 = (s.coreThread v (fld h 3 0)).queues.q0 ++ h :: l ∧
      (r.core v).work.received = (s.core v).work.received + (if f.src.node = f.dst.node then 0 else 1)) ∧
    (h.getLsbD 14 = true → ∃ r : State, exec (.messageArrival v 16) s = .next r ∧ r.net = s.net.eraseIdx i ∧
      (r.core v).q2 = (s.core v).q2 ++ [⟨(s.core v).q2next % q2Size (s.core v).regs.q2cfg, l.length + 1, none, false⟩] ∧
      (r.core v).work.received = (s.core v).work.received + (if f.src.node = f.dst.node then 0 else 1))) ∧
  (∀ (s : State) (h st e o : Nat) (a b c : Word), h < 64 → (s.core (h * 16 + st)).q5.length < 16 →
    ((s.hem h).q5waiting = [(st, [a, b], e, o)] →
      ∃ r : State, exec (.q5RecordPush h st) s = .next r ∧ (r.hem h).q5waiting = [] ∧ (e < 16 → ((r.hem h).output e o).completed = true) ∧
        (r.core (h * 16 + st)).q5 = (s.core (h * 16 + st)).q5 ++ [[a, b]] ∧ r.net = s.net) ∧
    ((s.hem h).q5waiting = [(st, [a, b, c], e, o)] → s.fenced (s.partIdOf (h * 16 + st)) = false →
      ∃ (r : State) (f : Flit), exec (.q5RecordPush h st) s = .next r ∧ (r.hem h).q5waiting = [] ∧
        (e < 16 → ((r.hem h).output e o).completed = true) ∧ (r.core (h * 16 + st)).q5 = (s.core (h * 16 + st)).q5 ++ [[a, b]] ∧
        r.net = s.net ++ [f] ∧ f.body = .dec (s.recordAt (h * 16 + st) c).2 1 ∧ f.dst = .core (s.recordAt (h * 16 + st) c).1 15)) ∧
  (∀ (s : State) (h st : Nat) (w : List Word), h < 64 → (s.hem h).q6waiting = [(st, w)] → (s.core (h * 16 + st)).q6.length < 16 →
      ∃ r : State, exec (.q6RecordPush h st) s = .next r ∧ (r.hem h).q6waiting = [] ∧
        (r.core (h * 16 + st)).q6 = (s.core (h * 16 + st)).q6 ++ [w]) ∧
  (∀ (s : State) (u : Nat) (v w : Word), u < 1024 → v = w &&& 0xF7FFFF →
    ((s.core u).q2 = [] → q2cfgOk (s.reservedFrom u) v = true →
      exec (.q2cfg u w) s = .next (s.modCore u fun k => { k with q2next := 0, regs := { k.regs with q2cfg := v } })) ∧
    ((s.core u).q2 ≠ [] ∨ q2cfgOk (s.reservedFrom u) v = false → exec (.q2cfg u w) s = .next s))

/-- R191, R192: an accepted tile enters its station as a link slot begins in which no tile of its family passes it; its thread gets the tile
id, and it is on the link, for 12 cycles (R24, R206); while the hem stops it stays in its record, and only the id comes (R208). R193, R194: a
tile whose hop has ended, and that meets none of the other family, goes on to the next link of its direction. That the link slots of all
stations are 12 cycles long and begin together is the model's choice (log entry 93).
R251, R253: an engine starts its oldest queued job; R252, R254: the last piece of an element of a STREAM job goes to q4 and counts as
delivered; JOBRES retries or fails a paused job. -/
def Obligations.StationEvents : Prop :=
  (∀ (s : State) (h st fam : Nat), h < 64 → st < 16 → fam < 2 → (s.hem h).stopped = false →
    (s.time % 12 ≠ 0 ∨ (s.hem h).ring.saveBuffer ≠ [] ∨ ((s.hem h).arrivingTile fam st s.time).isSome = true ∨
      ((s.hem h).ring.links.look (16 * fam + st)).isSome = true ∨ (s.hem h).ring.departing.at (16 * fam + st) [] ≠ []) →
    exec (.tileEntry h st fam) s = .next s) ∧
  (∀ (s : State) (h st fam k : Nat) (i : Injector), h < 64 → st < 16 → fam < 2 → k < 64 → (s.hem h).stopped = true →
    (s.hem h).ring.injectors = [(injKey fam st k, i)] → i.active = true → i.entered = false →
    exec (.tileEntry h st fam) s = .next (s.modCoreThread i.core i.thread fun t =>
      t.settle i.late (.ready (w64 (st * 2 ^ 12 + fam * 2 ^ 11 + k * 2 ^ 5 + i.seq))))) ∧
  (∀ (s : State) (h st fam k : Nat) (i : Injector), h < 64 → st < 16 → fam < 2 → (s.hem h).stopped = false →
    (s.hem h).ring.passing = [] → (s.hem h).waitingInj fam st = some (k, i) → s.time % 12 = 0 → (s.hem h).ring.saveBuffer = [] →
    (s.hem h).arrivingTile fam st s.time = none → (s.hem h).ring.links.look (16 * fam + st) = none →
    (s.hem h).ring.departing.at (16 * fam + st) [] = [] →
    ∃ (r : State) (x : Tile), exec (.tileEntry h st fam) s = .next r ∧ ((r.hem h).ring.inj (injKey fam st k)).entered = true ∧
      (r.coreThread i.core i.thread).pending = ((s.coreThread i.core i.thread).settle i.late
        (.ready (w64 (st * 2 ^ 12 + fam * 2 ^ 11 + k * 2 ^ 5 + i.seq)))).pending ∧
      (r.hem h).ring.links.look (16 * fam + st) = some x ∧ (x.fam, x.inj, x.record, x.seq, x.due) = (fam, st, k, i.seq, s.time + 12)) ∧
  (∀ (s : State) (h st fam link : Nat) (t : Tile), h < 64 → st < 16 → fam < 2 → (s.hem h).stopped = false →
    (s.hem h).ring.saveBuffer = [] → (s.hem h).ring.passing = [] → (s.hem h).ring.departing = [] →
    link = 16 * fam + (if fam = 0 then (st + 15) % 16 else (st + 1) % 16) →
    (s.hem h).ring.links.look link = some t → t.due ≤ s.time → t.fam = fam → t.inj ≠ st →
    (fam = 1 → (s.hem h).arrivingTile 0 st s.time = none) → (s.hem h).ring.links.look (16 * fam + st) = none →
    ∃ (r : State) (x : Tile), exec (.tileArrival h st fam) s = .next r ∧ (r.hem h).ring.links.look link = none ∧
      (r.hem h).ring.links.look (16 * fam + st) = some x ∧
      (x.fam, x.inj, x.record, x.seq, x.due, x.data, x.side) = (fam, t.inj, t.record, t.seq, (s.time + 11) / 12 * 12 + 12, t.data, t.side)) ∧
  (∀ (s : State) (h e : Nat) (j : Job) (p : Partition) (w : Word) (v : Nat), h < 64 →
    ((s.hem h).jobs = [(e, j)] → j.state = .queued → ∃ r : State, exec (.jobStart h) s = .next r ∧
      (r.hem h).job e = some { j with state := .running }) ∧
    ((s.hem h).job e = some j → s.partOfHem h = some p → p.cqsc = none → j.state = .running → j.kind = 5 → j.waiting = false →
      j.zskip = false → j.bcen = false → j.esz = 3 → j.wrote = 0 → j.buf = [v] → j.pos + 1 ≠ j.total →
      (s.coreThread j.core j.slot).queues.q4.length < 32 →
      ∃ r : State, exec (.elementDelivery h e) s = .next r ∧
        (r.coreThread j.core j.slot).queues.q4 = (s.coreThread j.core j.slot).queues.q4 ++ [w64 v] ∧
        ∃ k : Job, (r.hem h).job e = some k ∧ k.pos = j.pos + 1 ∧ k.delivered = j.delivered + 8 ∧ k.buf = []) ∧
    ((s.hem h).job e = some j → j.state = .paused → (s.hem h).jobId e = fld w 15 0 → fld w 15 8 = e →
      (w.getLsbD 16 = false → ∃ r : State, exec (.jobres h w) s = .next r ∧ (r.hem h).job e = some { j with state := .running }) ∧
      (w.getLsbD 16 = true → ∃ r : State, exec (.jobres h w) s = .next r ∧
        (r.hem h).job e = some { j with state := .failed, cause := 0x07, waiting := false })))

/-- R30 to R33: a packet goes into the router of its sender's place, then hop by hop along X and along Y, where the next buffer has
room; one for a port leaves the device as the port's channel gives credit (R345). R56: a PLACED packet is taken by the core at its place
where that lies near enough and is free, else it goes on; at its target it joins the class-4 list. R33: two far AMO-ADDs that meet become
one with the sum of their addends, the one received first before the other, and its reply two, the second with the value its request
would have found. R222: a hem drops what it walked through a line, and answers once the accesses so translated have been
performed; the store to the line is performed once every hem has answered. How many flits a packet fills, how deep a link's channels
are, the words of a message beyond those that R270 names, that the reply is split where its way begins, and that a PLACED packet which a
core takes is no dispatch of R63, are the model's choice (log entries 17, 23, 86, 89 and 98). -/
def Obligations.MeshEvents : Prop :=
  (∀ (s : State) (n : Nat) (f : Flit),
    (∀ q : Nat × Nat, s.net[n]? = some f → f.body.isPlaced = false → (f.lane = 2 → f.merged = []) → f.arrived = false → f.body.waitsHome = false →
      blockedBy (s.net.take n) f = false → s.hasSlot f = true →
      q = (if f.entered then
          (if f.x < f.dst.xy.1 then (f.x + 1, f.y) else if f.dst.xy.1 < f.x then (f.x - 1, f.y)
            else if f.y < f.dst.xy.2 then (f.x, f.y + 1) else (f.x, f.y - 1))
        else (f.x, f.y)) →
      ∃ g : Flit, exec (.meshFlitHop n) s = .next { s with net := s.net.eraseIdx n ++ [g] } ∧ (g.x, g.y) = q ∧ g.entered = true ∧
        { g with x := f.x, y := f.y, entered := f.entered, got := f.got, gotLast := f.gotLast } = f) ∧
    (∀ p c, s.arrival n = some f → f.dst = .port p → c = linkChannel p f.lane f.cls →
      (s.links.used.at c 0 < linkDepth → exec (.meshFlitHop n) s = .next { s with
        net := s.net.eraseIdx n
        links := { s.links with used := s.links.used.put c (s.links.used.at c 0 + 1), out := s.links.out ++ [f] } }) ∧
      (linkDepth ≤ s.links.used.at c 0 → exec (.meshFlitHop n) s = .next s))) ∧
  (∀ (s r : State) (n c c0 x0 u x1 radius : Nat) (f : Flit) (p : Packet), s.net[n]? = some f → f.src = .core c0 x0 → f.dst = .core u x1 →
    f.body = .placed p radius → c = coreAt f.x f.y → blockedBy (s.net.take n) f = false →
    (s.placedNear f.part c u radius = false ∨ s.dispatchDue c = false) →
    r = (if f.entered then (s.drop n).countReceived c else s.drop n) →
    (∀ t, s.takesPlaced f.part c u radius = some t →
      (r.packetOk c p = true → exec (.placedPacketHop n) s = .next (r.startTask c t p)) ∧
      (r.packetOk c p = false → exec (.placedPacketHop n) s = .next (r.taskFault c 15 1 0))) ∧
    (s.takesPlaced f.part c u radius = none → c ≠ u → (f.entered = true ∨ (s.core c0).stop.reached = false) →
      s.hasSlot { f with entered := true } = true →
      ∃ (g : Flit) (w : State), exec (.placedPacketHop n) s = .next (if f.entered then w else w.countSent c) ∧
        w = { s with net := s.net.eraseIdx n ++ [g] } ∧ (g.x, g.y) = hopFrom f.x f.y f.dst.xy ∧ g.entered = true ∧ g.body = f.body ∧
        g.src = f.src ∧ g.dst = f.dst ∧ g.part = f.part ∧ g.cls = f.cls) ∧
    (s.takesPlaced f.part c u radius = none → c = u → s.fate u = .take → s.packetOk u p = true →
      (s.core u).work.class4.held < 64 → (s.core u).work.overflow.held = 0 →
      ∃ w : State, exec (.placedPacketHop n) s = .next w ∧ w.net = s.net.eraseIdx n ∧
        (w.core u).work.class4.held = (s.core u).work.class4.held + 1 ∧
        (w.core u).work.received = (s.core u).work.received + (if f.entered then 1 else 0))) ∧
  (∀ (s : State) (n k : Nat) (f g : Flit) (m : Msg), n ≠ k → s.net[n]? = some f → s.net[k]? = some g → mayCombine f g = true →
    (f.gotLast < g.got ∨ f.gotLast = g.got ∧ n < k) → firstOfWay (s.net.take k) f g = true → f.body = .msg m → 3 ≤ m.words.length →
    ∃ c : Flit, exec (.routerCombine n k) s = .next { s with net := (s.net.set n c).eraseIdx k } ∧
      c.word 2 = (if (f.word 1).getLsbD 8 then f.word 2 + g.word 2 else w64 ((f.word 2 + g.word 2).toNat % 2 ^ 32)) ∧
      c.word 0 = f.word 0 ∧ c.word 1 = f.word 1 ∧ c.merged = f.requesters ++ g.requesters ∧ c.dst = f.dst ∧ (c.x, c.y) = (f.x, f.y)) ∧
  (∀ (s : State) (n : Nat) (f : Flit) (old : Word) (w : List Word) (l : Option Line) (a b : Merged), s.net[n]? = some f →
    f.body = .msg ⟨2, 7, old :: w, l⟩ → f.merged = [a, b] →
    exec (.combinedReplySplit n) s = .next { s with
        net := s.net.take n ++ [{ f with dst := a.src, rseq := a.rseq, merged := [] },
          { f with dst := b.src, rseq := b.rseq, merged := [], body := .msg ⟨2, 7, (old + a.addend) :: w, l⟩ }] ++ s.net.drop (n + 1) }) ∧
  (∀ (s : State) (n h b : Nat) (f : Flit) (i : List Nat), f.dst = .hem h → h < 64 → s.fenced f.part = false →
    (∀ (w : List Word) (l : Option Line), s.arrival n = some f → f.body = .msg ⟨2, 2, w, l⟩ → f.rseq = 2 ^ 62 + 2 → b = f.block →
      i = s.translated h (fun e => e.path.any fun a => blockOf a == b) →
      ∃ r : State, exec (.walkInvalidation n) s = .next r ∧ r.mem = s.mem ∧
        (∀ e ∈ (r.hem h).tlb, ∀ a ∈ e.path, blockOf a ≠ b) ∧
        (∀ st, st < 16 → ∀ e ∈ (r.core (h * 16 + st)).tlb, ∀ a ∈ e.path, blockOf a ≠ b) ∧
        (i ≠ [] → r.net = s.net.set n { f with body := .drain b i }) ∧
        (i = [] → r.net = afterSend (s.net.eraseIdx n) (newFlit f.dst f.src f.cls f.part (2 ^ 62 + 2) (msg 2 6 [w64 b]) []))) ∧
    (s.net[n]? = some f → f.body = .drain b i →
      ((∀ q ∈ i, s.unperformed q = false) → exec (.walkInvalidation n) s = .next { s with
        net := afterSend (s.net.eraseIdx n) (newFlit f.dst f.src f.cls f.part (2 ^ 62 + 2) (msg 2 6 [w64 b]) []) }) ∧
      (∀ q ∈ i, s.unperformed q = true → exec (.walkInvalidation n) s = .next s))) ∧
  (∀ (s : State) (u t b : Nat) (f : Flit) (p : Partition), u < 1024 → s.walkStores = [(b, ⟨f, 0⟩)] → f.src = .core u t →
    s.partById f.part = some p → f.type = 1 → s.fenced f.part = false → s.deferred.at b [] = [] →
    ∃ r : State, exec (.walkStorePerformed u t) s = .next r ∧ r.walkStores = [] ∧
      r.mem = s.mem.write (f.word 0).toNat (f.word 3).toNat (f.word 4).toNat ∧
      r.net = afterSend s.net (f.answer (r.homeFor b) 6 [f.word 0, w64 f.prot] none))

/-- R266, R301, R347: a request on an UNCACHED line is carried out at memory as it is served, and answered: a read with the bytes, a write
with ACK, an atomic with the old value, a copy engine's with a line or with ACK. R233, R234: of a poisoned line FAIL with cause POISON
answers, but a copy engine's write of the whole line clears the poison. An access that only asks whether it would be refused changes
nothing (log entry 88). R262: a swap that puts a command into a CMD word sends the control home
RCMD. R222: a write to a WALK line first has every hem that may translate through it drop what it walked. Words of a message beyond those that
R270 names are the model's choice (log entry 23), and so is the lane of RCMD (log entry 76). -/
def Obligations.PlainRequests : Prop :=
  (∀ (s : State) (n u pa : Nat) (f : Flit) (p : Partition), f.prot = 0 → pa = (f.word 0).toNat → s.poisoned pa = false →
    (s.served n 0 p f u = true → exec (.readMiss n) s = .next { s with
      net := afterSend (s.net.eraseIdx n) (f.answer u 7 [w64 (s.mem.read pa (f.word 3).toNat), f.word 0] none) }) ∧
    (s.served n 1 p f u = true → exec (.writeMiss n) s = .next { s with
      mem := s.mem.write pa (f.word 3).toNat (f.word 4).toNat, net := afterSend (s.net.eraseIdx n) (f.answer u 6 [f.word 0, 0] none) }) ∧
    (s.served n 3 p f u = true → fld (f.word 1) 7 4 = 0 → (f.word 1).getLsbD 8 = true → (f.word 1).getLsbD 9 = false →
      exec (.farAmo n) s = .next { s with
          mem := s.mem.write pa 8 ((s.mem.read pa 8 + (f.word 2).toNat) % 2 ^ 64)
          net := afterSend (s.net.eraseIdx n) (f.answer u 7 [w64 (s.mem.read pa 8), f.word 0] none) }) ∧
    (∀ (i : Instr) (ty : Nat), (i = .writeMiss n ∧ ty = 1 ∨ i = .farAmo n ∧ ty = 3) → s.reached n ty p f u = true → f.asksOnly = true →
      exec i s = .next { s with net := afterSend (s.net.eraseIdx n) (f.answer u 6 [f.word 0] none) }) ∧
    (s.served n 3 p f u = true → s.commandOf p f = true → (f.word 1).getLsbD 9 = false → s.fenced f.part = false →
      exec (.farAmo n) s = .next { s with
          mem := s.mem.write pa 8 (f.word 2).toNat
          net := afterSend (s.net.eraseIdx n) (f.answer u 7 [w64 (s.mem.read pa 8), f.word 0] none) ++
            [newFlit (.pp u) (.pp u) f.cls f.part 0 (msg 0 9 [w64 (pa - 56), f.word 2]) []] }) ∧
    (s.served n 7 p f u = true → exec (.engineRead n) s = .next { s with
      net := afterSend (s.net.eraseIdx n) (f.answer u 7 [f.word 0] (some (s.mem.line f.block))) }) ∧
    (∀ l, s.served n 8 p f u = true → (f.word 1).toNat ≠ 2 ^ 64 - 1 → f.payload = some l → exec (.engineWrite n) s = .next { s with
      mem := s.mem.setLine f.block l (f.word 1).toNat, net := afterSend (s.net.eraseIdx n) (f.answer u 6 [f.word 0] none) })) ∧
  (∀ (s : State) (n u : Nat) (f : Flit) (p : Partition) (l : Line), f.prot = 0 → s.served n 8 p f u = true →
    (f.word 1).toNat = 2 ^ 64 - 1 → f.payload = some l → exec (.engineWrite n) s = .next { s with
      mem := s.mem.setLine f.block l (2 ^ 64 - 1), poison := s.poison.del (f.block / 64)
      net := afterSend (s.net.eraseIdx n) (f.answer u 6 [f.word 0] none) }) ∧
  (∀ (s : State) (n u ty : Nat) (i : Instr) (f : Flit) (p : Partition), (f.prot = 0 ∨ f.prot = 7) → s.poisoned (f.word 0).toNat = true →
    (i = .readMiss n ∧ ty = 0 ∨ i = .writeMiss n ∧ ty = 1 ∨ i = .farAmo n ∧ ty = 3 ∨ i = .engineRead n ∧ ty = 7 ∨
      i = .engineWrite n ∧ ty = 8 ∧ (f.word 1).toNat ≠ 2 ^ 64 - 1) →
    s.reached n ty p f u = true → f.hasAsked = false → exec i s = .next { s with
      net := afterSend (s.net.eraseIdx n) (f.answer u 5 [f.word 0, 0x0A, w64 (s.poisonSrc (f.word 0).toNat)] none) }) ∧
  (∀ (s : State) (n u b h : Nat) (f : Flit) (p : Partition), f.prot = 7 → b = f.block → s.poisoned (f.word 0).toNat = false →
    s.served n 1 p f u = true → hemsOf (s.walkSharers.at b 0) = [h] →
    (s.walkStores.look b = none → ∃ r : State, exec (.writeMiss n) s = .next r ∧ r.mem = s.mem ∧ r.walkStores.look b = some ⟨f, 1⟩ ∧
      r.net = afterSend (s.net.eraseIdx n) (newFlit (.pp u) (.hem h) f.cls f.part (2 ^ 62 + 2) (msg 2 2 [w64 b]) [])) ∧
    ((s.walkStores.look b).isSome = true → exec (.writeMiss n) s = .next { s with
      net := s.net.eraseIdx n, deferred := s.deferred.put b (s.deferred.at b [] ++ [f]) }))

/-- R275, R276, R282: a request of the INVALIDATE protocol that nothing holds back is served by its home: the entry and the answer, or first a
RECALL to the writer or an INVALIDATE to a holder, the entry locked meanwhile. R263, R264, R275: a request of a locked block, or of a region
that is closing or closed, is deferred; one of a region that is not bound, or of a block whose handler was killed, FAIL
answers. R233: FAIL with cause POISON answers a custom protocol's request of a poisoned block. R272, R274, R275: a request of a custom
protocol starts its handler in a free slot of its group, with the entry locked; one of a row with no handler is answered FAIL. That a vendor handler's work takes one step is the model's choice (log entry 10). -/
def Obligations.VendorRequests : Prop :=
  (∀ (s : State) (n u b : Nat) (f : Flit) (p : Partition) (e : DirEntry), f.prot = 1 → b = f.block → u = s.homeFor b → e = s.entry b →
    s.serves n p f = true →
    (s.served n 0 p f u = true → fld e.dword0 51 48 ≠ 2 → ∃ r : State, exec (.readMiss n) s = .next r ∧ r.mem = s.mem ∧
      r.net = afterSend (s.net.eraseIdx n) (f.answer u 0 [w64 b] (some (s.mem.line b))) ∧ fld (r.entry b).dword0 51 48 = 1 ∧
      (r.entry b).sharers = e.sharers ||| w64 (2 ^ f.hem) ∧ (r.entry b).locked = false) ∧
    (s.served n 0 p f u = true → fld e.dword0 51 48 = 2 → s.portsOf b = [] → ∃ r : State, exec (.readMiss n) s = .next r ∧ r.mem = s.mem ∧
      r.net = afterSend (s.net.eraseIdx n) (newFlit (.pp u) (.hem (hemOf (fld e.dword0 45 36))) f.cls f.part (2 ^ 62) (msg 2 3 [w64 b, 1]) []) ∧
      (r.txns.look b).isSome = true ∧ (r.entry b).locked = true) ∧
    (s.served n 2 p f u = true → fld e.dword0 51 48 ≠ 2 → s.portsOf b = [] → e.sharers = 0 → f.core < 1024 → ∃ r : State,
      exec (.upgrade n) s = .next r ∧ r.mem = s.mem ∧
      r.net = afterSend (s.net.eraseIdx n) (f.answer u 1 [w64 b] (some (s.mem.line b))) ∧ fld (r.entry b).dword0 51 48 = 2 ∧
      fld (r.entry b).dword0 45 36 = f.core ∧ (r.entry b).sharers = w64 (2 ^ f.hem)) ∧
    (∀ h, s.served n 2 p f u = true → fld e.dword0 51 48 ≠ 2 → s.portsOf b = [] → hemsOf e.sharers = [h] → ∃ r : State,
      exec (.upgrade n) s = .next r ∧ r.mem = s.mem ∧ (r.txns.look b).isSome = true ∧
      r.net = afterSend (s.net.eraseIdx n) (newFlit (.pp u) (.hem h) f.cls f.part (2 ^ 62) (msg 2 2 [w64 b, w64 (f.core + 1)]) [])) ∧
    (s.served n 3 p f u = true → fld e.dword0 51 48 ≠ 2 → s.portsOf b = [] → e.sharers = 0 → fld (f.word 1) 7 4 = 0 →
      (f.word 1).getLsbD 8 = true → (f.word 1).getLsbD 9 = false → ∃ r : State, exec (.farAmo n) s = .next r ∧
      r.mem = s.mem.write (f.word 0).toNat 8 ((s.mem.read (f.word 0).toNat 8 + (f.word 2).toNat) % 2 ^ 64) ∧
      r.net = afterSend (s.net.eraseIdx n) (f.answer u 7 [w64 (s.mem.read (f.word 0).toNat 8), f.word 0] none)) ∧
    (s.served n 7 p f u = true → fld e.dword0 51 48 ≠ 2 → ∃ r : State, exec (.engineRead n) s = .next r ∧ r.mem = s.mem ∧
      r.net = afterSend (s.net.eraseIdx n) (f.answer u 7 [w64 b] (some (s.mem.line b)))) ∧
    (∀ l, f.payload = some l →
      (s.served n 4 p f u = true → ∃ r : State, exec (.flush n) s = .next r ∧ r.mem = s.mem.setLine b l (f.word 1).toNat ∧
        r.net = afterSend (s.net.eraseIdx n) (f.answer u 6 [f.word 0] none)) ∧
      (s.served n 6 p f u = true → ∃ r : State, exec (.evict n) s = .next r ∧ r.mem = s.mem.setLine b l (2 ^ 64 - 1) ∧
        r.net = afterSend (s.net.eraseIdx n) (f.answer u 6 [w64 b] none)) ∧
      (s.served n 8 p f u = true → fld e.dword0 51 48 ≠ 2 → s.portsOf b = [] → e.sharers = 0 → ∃ r : State,
        exec (.engineWrite n) s = .next r ∧ r.mem = s.mem.setLine b l (f.word 1).toNat ∧
        r.net = afterSend (s.net.eraseIdx n) (f.answer u 6 [w64 b] none)))) ∧
  (∀ (s : State) (n u b c : Nat) (f : Flit) (p : Partition), 1 ≤ f.prot → f.prot ≤ 15 → f.prot ≠ 7 → b = f.block →
    c = 2 ^ 60 + f.part * 256 + f.region → s.txns.look b = none → s.reached n 0 p f u = true →
    (s.admission p f = .go → (s.entry b).failed = false → (s.entry b).locked = true → exec (.readMiss n) s = .next { s with
      net := s.net.eraseIdx n, deferred := s.deferred.put b (s.deferred.at b [] ++ [f]) }) ∧
    ((fld (s.desc p f.region 2) 15 12 = 2 ∨ fld (s.desc p f.region 2) 15 12 = 3) → exec (.readMiss n) s = .next { s with
        net := s.net.eraseIdx n, deferred := s.deferred.put c (s.deferred.at c [] ++ [f]) }) ∧
    (fld (s.desc p f.region 2) 15 12 = 0 → (s.entry b).failed = false → (s.entry b).locked = false → exec (.readMiss n) s = .next { s with
      net := afterSend (s.net.eraseIdx n) (f.answer u 5 [f.word 0, 8, w64 (s.poisonSrc (f.word 0).toNat)] none) }) ∧
    (s.admission p f ≠ .wait → (s.entry b).failed = true → exec (.readMiss n) s = .next { s with
      net := afterSend (s.net.eraseIdx n) (f.answer u 5 [f.word 0, 9, w64 (s.poisonSrc (f.word 0).toNat)] none) })) ∧
  (∀ (s : State) (n u b : Nat) (f : Flit) (p : Partition), 1 ≤ f.prot → f.prot ≤ 14 → f.prot ≠ 7 → b = f.block →
    s.reached n 0 p f u = true → s.admission p f = .go → (s.entry b).failed = false → (s.entry b).locked = false → s.txns.look b = none →
    ((s.poison.look (b / 64)).isNone = false → 8 ≤ f.prot → exec (.readMiss n) s = .next { s with
      net := afterSend (s.net.eraseIdx n) (f.answer u 5 [f.word 0, 0x0A, w64 (s.poisonSrc (f.word 0).toNat)] none) }) ∧
    ((s.poison.look (b / 64)).isNone = true →
    ((s.pp u).hpc f.prot 0 = 0 → exec (.readMiss n) s = .next { s with
      net := afterSend (s.net.eraseIdx n) (f.answer u 5 [f.word 0, 8, w64 (s.poisonSrc (f.word 0).toNat)] none) }) ∧
    ((s.pp u).hpc f.prot 0 ≠ 0 → s.slotFor u n f = none → exec (.readMiss n) s = .next s) ∧
    (∀ t turn, 8 ≤ f.prot → (s.pp u).hpc f.prot 0 ≠ 0 → s.slotFor u n f = some (t, turn) → ∃ (r : State) (h : Handler), exec (.readMiss n) s = .next r ∧
      r.net = s.net.eraseIdx n ∧ r.mem = s.mem ∧ r.entry b = { s.entry b with locked := true, hslot := t } ∧
      (r.pp u).handlers.look t = some h ∧ h.req = some f ∧ h.locks = [b] ∧ h.block = b ∧ h.thread.tstate = .ready ∧
      h.thread.pc = (s.pp u).hpc f.prot 0 ∧ h.thread.priv = .h ∧ r.xOf true u t 3 = (s.pp u).dataPtr f.prot ∧
      ∀ i, i < 2 → i < f.words.length → r.xOf true u t (5 + i) = f.word i)))

/-- R262 to R264: the control home carries out the command of a CMD word: NONE, BIND, CLOSE, REOPEN, and STATUS says how it ended; REOPEN zeroes
the partials in the partition's own frames (R2). An RCMD of a handler says nothing to a vendor protocol (R262). R263: each home of
a region takes its part of the close, and once every home has, the region is CLOSED. R284, R285: a CLOSE of a participant sets its bit,
the last one makes every home combine its blocks, and once all have, RSUB is COMBINED. R279: the watchdog kills a handler. The lane of RCMD is the
model's choice (log entry 76), and so is which of several free slots a handler takes. -/
def Obligations.RegionEvents : Prop :=
  (∀ (s : State) (n u q k : Nat) (f : Flit) (p : Partition) (c m : Word), s.requestAt n 5 = some (f, u) → s.partById f.part = some p →
    f.prot = 6 → c = s.desc p f.region 2 → fld c 15 12 = 1 → fld c 3 0 = 6 → k = fld c 47 42 → (s.entry f.block).failed = false →
    (s.entry f.block).locked = false → (s.pp u).hpc 6 5 ≠ 0 → (s.slotFor u n f).isSome = true → s.deferred = [] → s.txns = [] →
    s.fenced f.part = false → s.position p f.region (f.word 1).toNat = some q → m = s.desc p f.region 5 ||| w64 (2 ^ q) →
    ((s.setDesc p f.region 5 m).desc p f.region 2) = c →
    (m ≠ w64 (2 ^ (k + 1) - 1) → ∃ r : State, exec (.close n) s = .next r ∧ r.mem = (s.setDesc p f.region 5 m).mem ∧
      r.net = afterSend (s.net.eraseIdx n) (f.answer u 6 [f.word 0] none)) ∧
    (m = w64 (2 ^ (k + 1) - 1) → fld c 23 20 = 0 → p.id = f.part → ∃ (r : State) (l : List Flit), exec (.close n) s = .next r ∧
      r.mem = ((s.setDesc p f.region 5 m).setRegion p f.region 1 1).mem ∧ r.net = afterSend (s.net.eraseIdx n) (f.answer u 6 [f.word 0] none) ++ l ∧
      l.map (·.dst) = (r.homesOf p f.region).map Agent.pp ∧ ∀ g ∈ l, g.lane = 1 ∧ g.type = 10 ∧ g.rseq = 2 ^ 62 + 1)) ∧
  (∀ (s : State) (n u k : Nat) (f : Flit) (p : Partition), s.partById f.part = some p → p.id = f.part → k = s.regionOf p (f.word 0).toNat →
    (s.requestAt n 9 = some (f, u) → f.lane = 1 → fld (s.desc p k 2) 3 0 < 8 → exec (.rcmd n) s = .next (s.drop n)) ∧
    (s.requestAt n 9 = some (f, u) → f.lane = 0 → f.rseq ≠ 2 ^ 62 →
      (fld (f.word 1) 7 0 = 0 → exec (.rcmd n) s = .next ((s.drop n).setStatus p k 1)) ∧
      (3 < fld (f.word 1) 7 0 → exec (.rcmd n) s = .next ((s.drop n).setStatus p k 4))) ∧
    (s.requestAt n 9 = some (f, u) → f.lane = 0 → f.rseq = 2 ^ 62 → fld (s.desc p k 2) 3 0 < 8 → s.entriesAt p k u = [] → s.deferredAt p k u = [] →
      s.regionBusyAt p k u = false → (s.pp u).hpc (fld (s.desc p k 2) 3 0) 9 ≠ 0 → (s.slotFor u n f).isSome = true → s.txns = [] →
      ∃ (r : State) (q : Partition), exec (.rcmd n) s = .next r ∧ r.net = s.net.eraseIdx n ∧ r.mem = s.mem ∧
        r.partById f.part = some q ∧ q.regionBusy.at k 0 = p.regionBusy.at k 0 - 1) ∧
    (s.requestAt n 10 = some (f, u) → f.rseq = 2 ^ 62 + 1 → s.deferredAt p k u = [] → (s.pp u).hpc 6 10 ≠ 0 →
      (s.slotFor u n f).isSome = true → s.txns = [] → s.fenced f.part = false →
      (s.entriesAt p k u = [] → ∃ r : State, exec (.homecast n) s = .next r ∧ r.mem = s.mem ∧
        r.net = afterSend (s.net.eraseIdx n) (f.answer u 6 [f.word 0] none)) ∧
      (∀ b q e c, s.entriesAt p k u = [(b, e)] → e = s.entry b → c = s.desc p k 2 → q ≤ fld c 47 42 → e.pw0 = w64 (2 ^ q) →
        s.partialOk p k q b = true →
        s.switchErrs b = false → ∃ r : State, exec (.homecast n) s = .next r ∧
          r.net = afterSend (s.net.eraseIdx n) (f.answer u 6 [f.word 0] none) ∧ (r.entry b).pw0 = 0 ∧ r.mem = s.mem.setLine b
            (combineLine (fld c 39 36) (fld c 41 40) (s.mem.line b) (s.mem.line (s.partialAt p k q b))) (2 ^ 64 - 1)))) ∧
  (∀ (s : State) (i k : Nat) (p : Partition), s.partById i = some p → k < 256 →
    (fld (s.desc p k 2) 3 0 = 6 → fld (s.desc p k 2) 15 12 = 1 → fld (s.desc p k 2) 23 20 = 1 → p.regionBusy.at (256 + k) 0 = 0 →
      s.deferred = [] → exec (.reduceDone i k) s = .next (s.setRegion p k 1 2)) ∧
    (∀ m, s.commandAt p k 0 = some m → exec (.regionNone i k) s = .next ((s.drop m).setStatus p k 1)) ∧
    (∀ m, s.commandAt p k 1 = some m → (fld (s.desc p k 2) 15 12 = 1 ∨ fld (s.desc p k 2) 15 12 = 2) →
      exec (.regionBind i k) s = .next ((s.drop m).setStatus p k 3)) ∧
    (∀ m, s.commandAt p k 1 = some m → (fld (s.desc p k 2) 15 12 = 0 ∨ fld (s.desc p k 2) 15 12 = 3) →
      ((s.drop m).bindOk p k = true → fld (s.desc p k 2) 3 0 ≠ 6 → exec (.regionBind i k) s =
        .next ((((s.drop m).setRegion p k 1 0).setStatus p k 1).redispatch (2 ^ 60 + p.id * 256 + k))) ∧
      ((s.drop m).bindOk p k = true → fld (s.desc p k 2) 3 0 = 6 → exec (.regionBind i k) s =
        .next (((((s.drop m).setDesc p k 5 0).setRegion p k 1 0).setStatus p k 1).redispatch (2 ^ 60 + p.id * 256 + k))) ∧
      ((s.drop m).bindOk p k = false → exec (.regionBind i k) s = .next ((s.drop m).setStatus p k 2))) ∧
    (∀ m, s.commandAt p k 2 = some m → fld (s.desc p k 2) 15 12 ≠ 1 → exec (.regionClose i k) s = .next ((s.drop m).setStatus p k 3)) ∧
    (∀ m, s.commandAt p k 2 = some m → fld (s.desc p k 2) 15 12 = 1 → exec (.regionClose i k) s = .next
      (((s.drop m).setRegion p k 2 (fld (s.desc p k 2) 23 20)).tellHomes p k 9 (2 ^ 62) 0 k (s.desc p k 7))) ∧
    (fld (s.desc p k 2) 15 12 = 2 → p.regionBusy.at k 0 = 0 → p.regionBusy.at (256 + k) 0 = 0 → s.dir = [] →
      exec (.regionClosed i k) s = .next ((s.setRegion p k 3 0).setStatus p k 1)) ∧
    (∀ m c b l, s.commandAt p k 3 = some m → c = s.desc p k 2 → fld c 15 12 = 1 → fld c 3 0 = 6 → fld c 23 20 = 2 →
      b = (s.desc p k 0).toNat → l = (s.desc p k 1).toNat → s.dir = [] →
      ∃ w : State, exec (.regionReopen i k) s = .next (((w.setDesc p k 5 0).setRegion p k 1 0).setStatus p k 1) ∧
        w.cores = s.cores ∧ w.dir = [] ∧ w.net = s.net.eraseIdx m ∧
        ∀ a, ((∃ q, q ≤ fld c 47 42 ∧ s.partialAt p k q b ≤ a ∧ a ≤ s.partialAt p k q l) → p.ownsWord a = true → w.mem.byte a = 0) ∧
          (p.ownsWord a = false ∨ (∀ q, q ≤ fld c 47 42 → a < s.partialAt p k q b ∨ s.partialAt p k q l < a) →
            w.mem.byte a = s.mem.byte a)) ∧
    (∀ m, s.commandAt p k 3 = some m → fld (s.desc p k 2) 3 0 ≠ 6 → exec (.regionReopen i k) s = .next ((s.drop m).setStatus p k 3))) ∧
  (∀ (s : State) (n t : Nat) (h : Handler) (c : Word), n < 50 → (s.pp n).handlers.look t = some h → c = (s.pp n).table.at (32 * h.prot) 0 →
    ((if fld c 63 48 = 0 then 2048 else fld c 63 48) ≤ h.issued → exec (.handlerKill n t) s = .next (s.killHandler n t 0 0 0)) ∧
    (h.issued < (if fld c 63 48 = 0 then 2048 else fld c 63 48) →
      (h.started + (if fld c 47 16 = 0 then 200000 else fld c 47 16) < s.time →
        exec (.handlerKill n t) s = .next (s.killHandler n t 1 0 0)) ∧
      (s.time ≤ h.started + (if fld c 47 16 = 0 then 200000 else fld c 47 16) → exec (.handlerKill n t) s = .next s)))

/-- R267: a grant gives its block the tag and the bytes, or leaves it I where an INVALIDATE came before a GRANT-RO. R45, R266, R414: DATA
makes a late result ready, and an instruction that waits for the answers of its accesses issues again; R268: ACK ends a release action. R233,
R267, R437: a FAIL makes the block I and the threads parked on it trap, or drops a prefetch; of an access that an instruction waits
for it traps at once with the access's address; of a late result it marks it. R267, R276: INVALIDATE takes the copy, or marks a block with a
request under way; RECALL takes the RW copy or leaves it RO, its dirty bytes go with the answer; PUSH puts bytes into a copy or
makes one, but for bytes that a core has itself written; that a FLUSH which FAIL answers counts as answered, that those bytes stay also
while a FLUSH with them is unanswered, and what a full data cache does with a PUSH, are the model's choice (log entries 42, 95 and 72). Words of
a message beyond those that R270 names, and its sequence number, are too (log entry 23). -/
def Obligations.ReplyEvents : Prop :=
  (∀ (s : State) (n c x b : Nat) (f : Flit) (k : Block) (l : Line), f.dst = .core c x → (s.core c).requested f.rseq = some (b, k) →
    f.payload = some l →
    (s.replyAt n 0 = some f → exec (.grantRo n) s = .next ((s.drop n).setBlock c b { k with
      tag := if k.invalPending then .i else .ro, data := l, dirty := 0, partialCopy := false, invalPending := false, prefetch := false,
      rseq := 0 })) ∧
    (s.replyAt n 1 = some f → exec (.grantRw n) s = .next ((s.drop n).setBlock c b { k with
      tag := .rw, data := l, dirty := 0, invalPending := false, prefetch := false, rseq := 0 }))) ∧
  (∀ (s : State) (n c t : Nat) (f : Flit) (h : Thread), f.dst = .core c t → h = s.coreThread c t →
    (∀ (i : Instr) (v : Word), (∀ j, j < 16 → (s.coreThread c j).wait.seen = none) → f.rseq % 4 = 1 →
      (i = .data n ∧ s.replyAt n 7 = some f ∧ v = f.word 0 ∨ i = .ack n ∧ s.replyAt n 6 = some f ∧ v = 0) →
      (h.asks = [] → h.tstate = .ready → ∃ r : State, exec i s = .next r ∧ r.net = s.net.eraseIdx n ∧ r.mem = s.mem ∧
        (r.core c).far = ((s.core c).far.filter fun e => e.2 != f.rseq) ∧ r.coreThread c t = { h with
          pending := h.pending.map (Late.answer f.rseq (.ready v)) }) ∧
      (h.wait = .asks → h.tstate = .waiting ∨ h.tstate = .parked → (∀ a ∈ h.asks, a.rseq = f.rseq ∨ a.val ≠ .waiting) → h.pending = [] →
        ∃ r : State, exec i s = .next r ∧ r.net = s.net.eraseIdx n ∧ r.mem = s.mem ∧ r.coreThread c t = { h with
          asks := h.asks.map (Ask.answer f.rseq (.ready v)) }.resumed)) ∧
    (s.replyAt n 6 = some f → f.rseq % 4 = 2 → exec (.ack n) s = .next ((s.drop n).modCore c fun k => { k with
      flushes := k.flushes.filter fun x => x.rseq != f.rseq })) ∧
    (∀ b k, s.replyAt n 5 = some f → f.rseq % 4 = 0 → (s.core c).requested f.rseq = some (b, k) →
      (k.prefetch = true → exec (.fail n) s = .next ((s.drop n).modCore c fun m => { m with cache := m.cache.del b })) ∧
      (∀ i va, k.prefetch = false → (s.core c).parkedOn b = [(i, va)] → exec (.fail n) s =
        .next (((s.drop n).modCore c fun m => { m with cache := m.cache.del b }).trapThread c i (f.word 1).toNat (w64 va) f.poison))) ∧
    (s.replyAt n 5 = some f → f.rseq % 4 = 1 → (s.core c).far = [] →
      (∀ l, h.asks = [] → h.pending = [l] → l.rseq = f.rseq → l.val = .waiting → (f.word 1).toNat ≠ 0x0A → f.word 1 ≠ 0x0A →
        exec (.fail n) s = .next ((s.drop n).modCoreThread c t fun h => { h with
          pending := [{ l with val := .failed (f.word 1).toNat l.va }] })) ∧
      (∀ a, h.asks = [a] → a.rseq = f.rseq → h.wait = .asks → h.tstate = .waiting ∨ h.tstate = .parked → h.pending = [] →
        exec (.fail n) s = .next ((s.drop n).trapThread c t (f.word 1).toNat a.va f.poison))) ∧
    (∀ b, s.replyAt n 5 = some f → f.rseq % 4 = 1 → (s.core c).far = [(b, f.rseq)] → h.asks = [] → h.pending = [] →
      (s.core c).parkedOn b = [] → exec (.fail n) s = .next (((s.drop n).modCore c fun k => { k with far := [] }).modCore c fun m =>
        { m with cache := m.cache.del b })) ∧
    (∀ r : State, s.replyAt n 5 = some f → f.rseq % 4 = 2 →
      r = ((s.drop n).modCore c fun k => { k with flushes := k.flushes.filter fun x => x.rseq != f.rseq }) →
      ((∃ x ∈ (s.core c).flushes, x.rseq = f.rseq ∧ x.block = f.block ∧ x.mask ≠ 0) →
        ((s.core c).parkedOn f.block = [] → exec (.fail n) s = .next (r.modCore c fun m => { m with cache := m.cache.del f.block })) ∧
        (∀ i va, (s.core c).parkedOn f.block = [(i, va)] → exec (.fail n) s =
          .next ((r.modCore c fun m => { m with cache := m.cache.del f.block }).trapThread c i (f.word 1).toNat (w64 va) f.poison))) ∧
      ((∀ x ∈ (s.core c).flushes, x.rseq = f.rseq → x.block = f.block → x.mask = 0) → exec (.fail n) s = .next r))) ∧
  (∀ (s : State) (n c b : Nat) (f : Flit) (k : Block) (l : Line) (e : DirEntry), (∀ u, f.dst ≠ .pp u) → c ∈ f.reaches →
    (∀ u ∈ f.reaches, u = c ∨ ((s.core u).block b).tag ≠ .rw) → (f.type ≠ 3 → f.reaches = [c]) → f.rseq ≠ 2 ^ 62 + 2 → s.fenced f.part = false → b = f.block → k = (s.core c).block b → e = s.entry b →
    ∀ ack : List Flit, ack = afterSend (s.net.eraseIdx n) (newFlit f.dst f.src f.cls f.part f.rseq (msg 2 6 [w64 b]) []) →
    (s.replyAt n 2 = some f → (s.core c).cache.look b = some k →
      (k.rseq = 0 → exec (.invalidate n) s = .next { s.modCore c fun m => { m with cache := m.cache.del b } with net := ack }) ∧
      (k.rseq ≠ 0 → exec (.invalidate n) s = .next { s.setBlock c b { k with tag := .busy, invalPending := true } with net := ack })) ∧
    (s.replyAt n 3 = some f →
      (∀ q, k.tag = .rw →
        q = afterSend (s.net.eraseIdx n) (newFlit f.dst f.src f.cls f.part f.rseq (.msg ⟨2, 7, [w64 b, w64 k.dirty], some k.data⟩) []) →
        ∃ r : State, exec (.recall n) s = .next r ∧ r.net = q ∧ r.mem = s.mem ∧ (∀ u, u ≠ c → (r.core u).cache = (s.core u).cache) ∧
          (fld (f.word 1) 0 0 = 1 → (r.core c).cache = (s.core c).cache.put b { k with tag := .ro, dirty := 0 }) ∧
          (fld (f.word 1) 0 0 = 0 → (r.core c).cache = (s.core c).cache.del b)) ∧
      (k.tag ≠ .rw → ∃ r : State, exec (.recall n) s = .next r ∧ (∀ u, (r.core u).cache = (s.core u).cache) ∧ r.net = ack)) ∧
    (s.replyAt n 4 = some f → f.payload = some l → (s.core c).fullFor b = false →
      (k.tag = .i → exec (.push n) s = .next { s.setBlock c b { k with
        tag := .ro, data := l, dirty := 0, prot := fld e.dword0 55 52, region := fld e.dword0 15 8 } with net := ack }) ∧
      (k.tag = .ro ∨ k.tag = .busy → exec (.push n) s = .next { s.setBlock c b { k with
        tag := .ro, data := l, dirty := 0, invalPending := false } with net := ack }) ∧
      (k.tag = .rw → k.prot ≠ 2 → exec (.push n) s = .next { s.setBlock c b { k with data := l, dirty := 0 } with net := ack }) ∧
      (k.tag = .rw → k.prot = 2 → ∃ r : State, exec (.push n) s = .next r ∧ r.net = ack ∧ ((r.core c).block b).tag = .rw ∧
        ((r.core c).block b).dirty = k.dirty ∧ ∀ i, i < 64 → lineRead ((r.core c).block b).data i 1 =
          lineRead (if k.dirty.testBit i ∨ (∃ x ∈ (s.core c).flushes, x.block = b ∧ x.mask.testBit i) then k.data else l) i 1)))

/-- R208, R316 to R320, R396: at T a core stops its parked threads, from T + D + 16 any other; CQSC's count comes when the engines are
quiet, and the saves begin. R319, R322: once every dirty block is home the partition is SAVED, its slots hold no thread. R319, R325: a restore that
finds its areas good runs the saved launch; another goes back, with the record of what failed. R68 to R72, R318, R506: a sweep keeps what it
finds; the second that finds all idle ends the launch, or all parked reports the stall, or all stopped the stop; an error ends the launch with
every task slot FREE; that one met between SSTOP and the save goes into the area and ends the launch after the restore, and what a save area
holds beyond the manual's layout, are the model's choices (log entries 94 and 11). What the restore replays may itself meet an error (R62). -/
def Obligations.StopEvents : Prop :=
  (∀ (s : State) (u t a : Nat) (h : Thread), u < 1024 → t < 15 → (s.core u).stop.stopAt = some a →
    ((s.core u).stop.reached = false → a ≤ s.time → (s.core u).work.steal.buffer = none → (s.hem (hemOf u)).stopped = true →
      (s.core u).threads = [(t, h)] → h.tstate = .parked → h.asks = [] → exec (.stopTimeReached u) s =
        .next ((s.modCore u fun k => { k with stop := { k.stop with reached := true } }).stopThread u t 0xFF false)) ∧
    ((s.core u).stop.reached = false → s.time < a → exec (.stopTimeReached u) s = .next s) ∧
    ((s.core u).stop.reached = true → (s.coreThread u t).tstate ≠ .free → (s.coreThread u t).endStep = 0 →
      (s.coreThread u t).asks = [] →
      (a + s.gapOf u + 16 ≤ s.time → exec (.forcedStop u t) s = .next (s.stopThread u t 0xFF true)) ∧
      (s.time < a + s.gapOf u + 16 → exec (.forcedStop u t) s = .next s))) ∧
  (∀ (s : State) (i : Nat) (p : Partition) (x : Restore), s.partById i = some p → p.id = i →
    (∀ c t late n, p.cqsc = some (c, t, late, n) → p.stop = .quiesced → (∀ h, (s.hem h).jobs = []) → (∀ c, (s.core c).cache = []) →
      ∃ (r : State) (q : Partition), exec (.cqscComplete i) s = .next r ∧ r.partById i = some q ∧ q.stop = .saving ∧ q.cqsc = none ∧
        (r.coreThread c t).pending = ((s.coreThread c t).settle late (.ready (w64 n))).pending ∧ r.net = s.net ∧ r.mem = s.mem) ∧
    (p.stop = .saving → s.flushesOpen p = false → (∀ c ∈ p.cores, (s.core c).closing = []) → s.arraysQuiet p = true →
      ∃ (r : State) (q : Partition), exec (.saveComplete i) s = .next r ∧ r.partById i = some q ∧ q.stop = .saved ∧ q.launch = none ∧
        ∀ c ∈ p.cores, ∀ t, t < 15 → (r.coreThread c t).saved = none) ∧
    (∀ l, p.restore = some x → p.stop = .restoring → s.restoreFault p x = none → (∀ e ∈ s.parts, e.2.id = e.1) →
      (∀ c q, s.partOfCore c = some q → q.id = i → q = p) → l = Launch.ofWords (s.areaWords (x.hems.headD 0) 0x40 7) →
      ∃ (r : State) (q : Partition) (e : Option Nat), exec (.restoreComplete i) s = .next r ∧ r.partById i = some q ∧ q.stop = .run ∧
        q.restore = none ∧ q.launch = some { l with error := e } ∧ (l.error ≠ none → e = l.error) ∧ q.lastSweep = none) ∧
    (∀ (st a : Nat), p.restore = some x → p.stop = .restoring → s.restoreFault p x = some (st, a) → exec (.restoreComplete i) s =
      .next ((s.record p.root [w64 (0x24 + st * 2 ^ 8 + i * 2 ^ 16), w64 a]).modPart i fun q => { q with
        stop := x.origin, restore := none }))) ∧
  (∀ (s : State) (i : Nat) (p : Partition) (l : Launch) (w : SweepSum), s.partById i = some p → p.id = i → p.launch = some l →
    (s.sweepDue p = false → exec (.sweep i) s = .next s) ∧
    (s.sweepDue p = true → p.before = none → exec (.sweep i) s = .next (s.modPart i fun q => { q with
      lastSweep := some (s.sweepOf p), sweepAt := s.time })) ∧
    (s.sweepDue p = true → w = s.sweepOf p → p.lastSweep = some w → w.sent = w.received →
      (p.stop = .run → l.ending = false → l.error = none →
        (w.idle = true → exec (.sweep i) s = .next (((s.record p.root (sweepRecord 0x20 i 0 s.time)).endLaunch i 0).modPart i
          fun q => { q with stop := .empty, launch := none, lastSweep := none })) ∧
        (w.idle = false → w.quiet = true → l.stalled = false → ∃ (r : State) (q : Partition), exec (.sweep i) s = .next r ∧
          r.partById i = some q ∧ q.launch = some { l with stalled := true } ∧ q.stop = .run ∧
          (r.core p.root).q7 = ((s.core p.root).pushQ7 false (sweepRecord 0x21 i w.threads s.time)).q7)) ∧
      (p.stop = .stopping → p.stopAt ≤ p.sweepAt → w.stopped = true → exec (.sweep i) s = .next
        ((s.record p.root (sweepRecord 0x22 i w.threads s.time)).modPart i fun q => { q with stop := .quiesced, lastSweep := none }))) ∧
    (∀ e, l.error = some e → e < 65536 → (Launch.ofWords l.words).error = some e) ∧
    (p.stop ≠ .run → exec (.launchErrorEnd i) s = .next s) ∧
    (∀ e, p.stop = .run → l.error = some e → l.ending = false → ∃ (r : State) (q : Partition), exec (.launchErrorEnd i) s = .next r ∧
      r.partById i = some q ∧ q.launch = some { l with ending := true } ∧ r.mem = s.mem ∧
      ∀ c ∈ p.cores, (r.core c).work.deque = [] ∧ (r.core c).q5 = [] ∧ ∀ t, t < 15 → (r.coreThread c t).tstate = .free))

/-- R331, R337, R342, R352: the commands of a partition, with PRESULT. R334, R335: a write to a frozen setting makes the partition enter ERROR, with
every slot FREE. R338, R339, R361: the five phases of the Kiln; the rows that stay unclear after the retry of phase 5 keep their bits clear, and
their hems are retired. R341, R342, R344: its end, with the next scrub sequence; a Kiln of lower hems ends first, and a slot that has still to issue in this cycle
reads the old cone. What an ERROR does to a Kiln under way, and that a Kiln of lower hems under way holds the end back, are the model's
choices (log entry 28). -/
def Obligations.TenantEvents : Prop :=
  (∀ (s : State) (i : Nat) (p : Partition) (w : Word), s.partById i = some p → p.id = i → p.kiln = none →
    (p.trust = .unlocked → (p.stop = .empty ∨ p.stop = .saved) →
      (∃ (r : State) (q : Partition), exec (.lock i) s = .next r ∧ r.partById i = some q ∧ q.trust = .locked ∧
        q.regs.presult = 0x101 ∧ q.regs.bindv = p.regs.bindv ∧ q.stop = p.stop ∧ r.dev.lockSeq = s.dev.lockSeq + 1) ∧
      exec (.kiln i) s = .next (s.modPart i fun q => { q with kiln := some ⟨.plain, 0, q.regs.kbind, 0, 0, false⟩ })) ∧
    (p.trust ≠ .unlocked → exec (.lock i) s = .next (s.modPart i fun q => { q with regs := { q.regs with presult := 0x201 } }) ∧
      exec (.kiln i) s = .next (s.modPart i fun q => { q with regs := { q.regs with presult := 0x204 } })) ∧
    ((p.trust = .locked ∨ p.trust = .run) → (p.stop = .empty ∨ p.stop = .saved) → ∃ (r : State) (q : Partition),
      exec (.unlock i) s = .next r ∧ r.partById i = some q ∧ q.kiln = some ⟨.unlock, 0, p.regs.kbind, 0, 0, false⟩ ∧
      q.regs.aseq = (s.dev.aseq + 1) % 2 ^ 32 ∧ q.trust = p.trust) ∧
    (p.trust = .error → ∃ (r : State) (q : Partition), exec (.clear i) s = .next r ∧ r.partById i = some q ∧ q.trust = .unlocked ∧
      q.regs.presult = 0x103) ∧
    (p.trust = .unlocked → p.stop = .empty → 1 ≤ p.level → fld w 15 0 ≠ fld w 31 16 → s.idFree (fld w 15 0) [i] = true →
      s.idFree (fld w 31 16) [i] = true → ∃ (r : State) (a b : Partition), exec (.split i w) s = .next r ∧
        r.partById (fld w 15 0) = some a ∧ r.partById (fld w 31 16) = some b ∧ a.level = p.level - 1 ∧ b.level = p.level - 1 ∧
        a.node = 2 * p.node ∧ b.node = 2 * p.node + 1 ∧ a.stop = .forming ∧ b.stop = .forming ∧
        a.kiln = some ⟨.split, 0, 0, 0, 0, false⟩ ∧ b.kiln = some ⟨.split, 0, 0, 0, 0, false⟩) ∧
    (∀ q, p.trust = .unlocked → p.stop = .empty → p.level < 6 → s.sibling p = some q → q.trust = .unlocked → q.stop = .empty →
      q.kiln = none → s.idFree (fld w 15 0) [i, q.id] = true → ∃ (r : State) (a : Partition), exec (.merge i w) s = .next r ∧
        r.partById (fld w 15 0) = some a ∧ a.level = p.level + 1 ∧ a.node = p.node / 2 ∧ a.stop = .forming ∧
        a.kiln = some ⟨.merge, 0, 0, 0, 0, false⟩)) ∧
  (∀ (s : State) (i : Nat) (p : Partition) (w : Word), s.partById i = some p → p.id = i → (fld w 7 0 = 0 ∨ 6 < fld w 7 0) →
    (p.kiln = none → exec (.unknownOp i w) s =
      .next (s.modPart i fun q => { q with regs := { q.regs with presult := w64 (0x500 + fld w 7 0) } })) ∧
    (p.kiln ≠ none → exec (.unknownOp i w) s =
      .next (s.modPart i fun q => { q with regs := { q.regs with presult := w64 (0x300 + fld w 7 0) } }))) ∧
  (∀ (s : State) (i off : Nat) (p : Partition) (w : Word), s.partById i = some p → p.id = i → p.kiln = none →
    (off = 0x018 ∨ off = 0x040 ∨ off = 0x0F8) → (p.trust = .locked ∨ p.trust = .run) → ∃ (r : State) (q : Partition),
      exec (.frozenSettingWrite i off w) s = .next r ∧ r.partById i = some q ∧ q.trust = .error ∧
      q.kiln = some ⟨.error, 0, p.regs.kbind, 0, 0, false⟩ ∧ q.regs.bindv = p.regs.bindv ∧ q.launch = none ∧
      ∀ c ∈ p.cores, ∀ t, t < 16 → (r.coreThread c t).tstate = .free) ∧
  (∀ (s : State) (i f g : Nat) (p : Partition) (k : KilnRun), s.partById i = some p → p.id = i → p.kiln = some k →
    (k.phase = 0 → ∃ (r : State) (q : Partition), exec (.kilnPhase i f g) s = .next r ∧ r.partById i = some q ∧
      q.kiln = some { k with phase := 1, classes := k.classes ||| 0x2000, reported := s.time } ∧
      r.net = (s.net.filter fun f => f.part != i) ∧ r.cores = s.cores ∧ r.mem = s.mem) ∧
    (k.phase = 1 → ∃ (r : State) (q : Partition), exec (.kilnPhase i f g) s = .next r ∧ r.partById i = some q ∧
      q.kiln = some { k with phase := 2, classes := k.classes ||| 0x111FF, reported := s.time } ∧ r.mem = s.mem ∧
      ∀ c ∈ p.cores, (r.core c).sram = [] ∧ (r.core c).acc = [] ∧ (r.core c).dt = [] ∧ ∀ t n, r.xOf false c t n = 0) ∧
    (k.phase = 2 → ∃ (r : State) (q : Partition), exec (.kilnPhase i f g) s = .next r ∧ r.partById i = some q ∧
      q.kiln = some { k with phase := 3, classes := k.classes ||| 0x0E00, reported := s.time } ∧ r.mem = s.mem ∧
      ∀ h, h < 64 → p.covers h = true → (r.hem h).patterns = [] ∧ (r.hem h).jobs = [] ∧ (r.hem h).ring.links = []) ∧
    (k.phase = 3 → ∃ (r : State) (q : Partition), exec (.kilnPhase i f g) s = .next r ∧ r.partById i = some q ∧
      q.kiln = some { k with phase := 4, classes := k.classes ||| 0xC000, reported := s.time } ∧ r.mem = s.mem ∧
      (∀ e ∈ r.pps, ∀ h ∈ e.2.handlers, h.2.part ≠ i) ∧ ∀ t ∈ r.txns, t.2.req.part ≠ i) ∧
    (k.phase = 4 → w64 g &&& 0x1DFFF = 0 ∨ (∀ e ∈ s.parts, e.2.running = false) → ∃ (r : State) (q : Partition),
      exec (.kilnPhase i f g) s = .next r ∧ r.partById i = some q ∧ r.mem = s.mem ∧
      q.kiln = some { k with phase := 5, classes := k.classes &&& ~~~(w64 g &&& 0x1DFFF), reported := s.time } ∧
      r.dev.retired = s.dev.retired ||| (if w64 g &&& 0x1DFFF = 0 then 0 else w64 f &&& p.hems) ∧
      ∀ c ∈ p.cores, (r.core c).sram = [] ∧ (r.core c).acc = []) ∧
    (s.lowerKiln p = true ∨ s.mayIssue p = true → exec (.kilnComplete i) s = .next s) ∧
    (k.phase = 5 → s.lowerKiln p = false → s.mayIssue p = false → ∃ (r : State) (q : Partition), exec (.kilnComplete i) s = .next r ∧
      r.partById i = some q ∧ q.stop = .empty ∧ q.launch = none ∧ r.dev.scrubSeq = s.dev.scrubSeq + 1 ∧
      (k.failed = false → q.kiln = none) ∧ (k.failed = true → q.kiln = some ⟨.error, 0, p.regs.kbind, 0, 0, false⟩) ∧
      (k.why = .boot → r.dev.bootst = 1) ∧ (k.why ≠ .boot → r.dev.bootst = s.dev.bootst) ∧
      (k.why = .unlock → k.failed = false → p.trust ≠ .error → q.trust = .unlocked ∧ q.regs.presult = 0x102) ∧
      (k.why = .plain → k.failed = false → q.regs.presult = 0x104 ∧ q.trust = p.trust)))

/-- R329, R330, R332, R334, R348, R360: what a host write at an aperture offset does, and a host read. R345: a request that comes over a
port waits for its home on the inbound lane, in the class of its partition, and a credit of a link's channel comes back. R350, R351: an extent is revoked, and is REVOKED
once nothing of it is held; R352: an answer to a page request reaches the core that asked, or is counted. R359, R360: GO and bring-up;
R361 to R363: retired hems, the page log, throttling and temperature. The model's choices: RESET leaves memory as it is (log entry 46), GO after a
bring-up begins another, which goes on counting scrubs (49 and 80), an answer for a core outside the partition is counted as a drop (66), and a
queue that a Kiln has fenced takes none (28). -/
def Obligations.DeviceEvents : Prop :=
  (∀ (s : State) (off core o : Nat) (v : Word), off % 8 = 0 → core = off / 2 ^ 24 % 1024 → o = off % 2 ^ 16 →
    (off / 2 ^ 16 % 256 = 7 → o = 0x008 → exec (.registerWrite off v) s = .next { s with dev := { s.dev with imgaddr := v } }) ∧
    (off / 2 ^ 16 % 256 = 7 → o = 0x010 → v.getLsbD 0 = true → exec (.registerWrite off v) s = exec .go s) ∧
    (off / 2 ^ 16 % 256 = 4 → o = 0 → exec (.registerWrite off v) s =
      .next { s with dev := { s.dev with weights := v &&& 0xFFFFFFFF } }) ∧
    (off / 2 ^ 16 % 256 = 6 → o = 0x010 → exec (.registerWrite off v) s = exec (.ovflog v) s) ∧
    (∀ p, s.ctlPart core = some p → off / 2 ^ 16 % 256 = 3 →
      (o = 0x008 → fld v 7 0 = 1 → exec (.registerWrite off v) s = exec (.lock p.id) s) ∧
      (o = 0x008 → fld v 7 0 = 5 → exec (.registerWrite off v) s = exec (.split p.id (w64 (fld v 63 32))) s) ∧
      (o = 0x018 → p.trust = .unlocked → exec (.registerWrite off v) s = .next (s.modPart p.id fun q => { q with
        regs := { q.regs with bindv := v } })) ∧
      (o = 0x018 → p.trust = .locked → exec (.registerWrite off v) s = exec (.frozenSettingWrite p.id 0x018 v) s))) ∧
  (∀ (s : State) (off : Nat) (v : Word), off % 8 ≠ 0 → exec (.registerWrite off v) s = .next s) ∧
  (∀ (s t : State) (l : List Action), t = { s with agenda := l } →
    (∀ off v, s.agenda = .hostRead off :: l → t.readReg (off / 2 ^ 24 % 1024) (off % 2 ^ 24) = some v →
      step s = .next { t with dev := { s.dev with apertureRead := v } }) ∧
    (∀ port ch c, s.agenda = .credit port ch :: l → c = port / 256 * 16 + ch % 8 → ∃ r : State, step s = .next r ∧
      r.links.used.at c 0 = s.links.used.at c 0 - 1 ∧ r.net = s.net ∧ r.mem = s.mem) ∧
    (∀ d w, s.agenda = .sensor d w :: l → d < 4 → step s = .next { t with
      dev := { s.dev with temp := s.dev.temp.put d (w &&& 0xFFFF) } }) ∧
    (∀ port dst cls part rseq m p, s.agenda = .arrive port dst cls part rseq m :: l → s.partById part = some p → p.portOk port = true →
      cls = p.cls → m.lane = 1 → s.fenced part = false →
      (s.net.countP fun f => !f.entered && f.link == some (port / 256) && f.lane == 1 && f.cls == cls) < linkDepth →
      step s = .next { t with net := s.net ++ [newFlit (.port port) (.pp (s.homeFor (m.words.getD 0 0).toNat)) cls part rseq (.msg m) []] })) ∧
  (∀ (s : State) (v : Word), ∃ r : State, exec (.ovflog v) s = .next r ∧
    r.dev.replace = (s.dev.replace && !v.getLsbD 0) ∧ r.dev.ovflog = (s.dev.ovflog && !v.getLsbD 1) ∧
    r.dev.plog = (if v.getLsbD 1 then [] else s.dev.plog) ∧ r.mem = s.mem ∧ r.cores = s.cores ∧ r.parts = s.parts) ∧
  (∀ (s : State) (e : Nat) (x y : Extent), e < 32 → x = s.extents.at e ⟨0, 0⟩ → y = { x with last := setFld x.last 1 0 2 } → s.dir = [] →
    (∃ r : State, exec (.extentRevoke e) s = .next r ∧ r.extents.at e ⟨0, 0⟩ = y ∧ r.mem = s.mem ∧
      (∀ c, ∀ t ∈ (r.core c).tlb, t.leadsTo y = false) ∧ (∀ h, ∀ t ∈ (r.hem h).tlb, t.leadsTo y = false)) ∧
    (fld x.last 1 0 = 2 → s.extentBusy x = false → exec (.revoked e) s = .next { s with
      extents := s.extents.put e { x with last := setFld x.last 1 0 3 } }) ∧
    (fld x.last 1 0 ≠ 2 ∨ s.extentBusy x = true → exec (.revoked e) s = .next s)) ∧
  (∀ (s : State) (c : Nat) (a b d : Word),
    (∀ p, s.partById (fld a 31 16) = some p → p.regs.aseq = fld d 31 0 → p.covers (hemOf c) = true →
      (∀ q, s.partOfCore c = some q → s.fenced q.id = true → exec (.pageRequestAnswer c a b d) s = .next s) ∧
      ((∀ q, s.partOfCore c = some q → s.fenced q.id = false) → exec (.pageRequestAnswer c a b d) s =
        .next (s.modCore c fun k => k.pushQ7 true [(a &&& 0xFFFF1FFFFFFF0000) ||| 0x15, b, d &&& 0xFFFFFFFF]))) ∧
    ((∀ p, s.partById (fld a 31 16) = some p → p.regs.aseq ≠ fld d 31 0 ∨ p.covers (hemOf c) = false) → s.dev.drops < 0xFFFFFFFF →
      exec (.pageRequestAnswer c a b d) s = .next { s with dev := { s.dev with drops := s.dev.drops + 1 } })) ∧
  (∀ s : State, exec .reset s = .next { State.reset with
      mem := s.mem, poison := s.poison, agenda := s.agenda, seq := s.seq } ∧
    (s.dev.bootst ≠ 4 → exec .go s = .next { s with dev := { s.dev with bootst := 4 } }) ∧
    (s.dev.bootst = 4 → exec .go s = .next s) ∧
    (s.dev.bootst ≠ 4 → exec .bringUp s = .next s) ∧
    (s.dev.bootst = 4 → s.parts = [] → exec .bringUp s = .next (if s.imageOk = false then { s with dev := { s.dev with bootst := 2 } }
      else if Config.trains = false then { s with dev := { s.dev with bootst := 3 } } else s.bringUp)) ∧
    s.bringUp.dev.bootst = s.dev.bootst ∧ s.bringUp.dev.scrubSeq = s.dev.scrubSeq ∧ s.bringUp.mem = s.mem ∧
    ∃ p, s.bringUp.parts = [(1, p)] ∧ p.id = 1 ∧ p.level = 6 ∧ p.node = 0 ∧ p.hems = ~~~s.dev.retired ∧ p.stop = .forming ∧ p.trust = .unlocked ∧
      p.kiln = some ⟨.boot, 0, 0, 0, 0, false⟩) ∧
  (∀ (s : State) (h : Nat), h < 64 → s.dev.retired.getLsbD h = false → ∃ r : State, exec (.hemRetire h) s = .next r ∧
    r.dev.retired = s.dev.retired ||| w64 (2 ^ h) ∧ r.dev.replace = true ∧ r.dev.hostEvents = s.dev.hostEvents + 1 ∧
    r.partOfHem h = none ∧
    ∀ p q, s.partOfHem h = some p → s.partById p.id = some p → r.partById p.id = some q →
      (p.stop = .run → p.trust ≠ .error → q.trust = .error) ∧ (p.stop = .empty → q = p)) ∧
  (∀ (s : State) (d : Nat), d < 4 → exec (.throttleEvent d) s = .next { s with
    dev := { s.dev with throt := s.dev.throt.put d (s.dev.throt.at d 0 + 1) } })

/-- R353 to R358: the device serves at most eight queues at once, none past its quantum, and a queue's privileged block is read as it is mapped. The packet
at RIDX is taken in hand, or its queue goes to ERROR with the first reason that holds. R343, R355, R356: a LAUNCH that passes its checks runs, with
its packet in the start core's class-4 list; one that fails completes with the status; FENCE waits for its queue's launch, SIGNAL for
nothing, and each writes its word. R357: a queue in ERROR is restarted at RIDX, or stays there where that lies beyond WIDX. -/
def Obligations.LaunchEvents : Prop :=
  ∀ (s : State) (i q a n : Nat) (p : Partition) (m : Mapped) (l : List Word), s.partById i = some p → p.id = i →
    (∀ k ∈ s.keptQueues p, s.time < k.since + p.regs.quantum) ∧
    (p.kiln = none → p.trust ≠ .error →
      ((s.keptQueues p).length < 8 → s.nextReady p = some (q, a) → exec (.queueMap i q) s = .next (s.modPart i fun x => { x with
        queues := s.keptQueues p ++ [⟨q, a, fld (s.devWord (a + 0x10)) 51 6 * 64, fld (s.devWord (a + 0x18)) 4 0,
          s.devWord (a + 0x20), s.time, none⟩], nextQueue := q + 1 })) ∧
      (p.mapped q = some m → m.packet = none → s.turnOver p m = false → n = (s.devWord (m.qcb + 0x88)).toNat →
        a = m.base + 64 * (n % 2 ^ m.log2) →
        (s.packetFault p a = true → exec (.packetRead i q) s = .next (s.setQueue m.qcb 1 3)) ∧
        (s.packetFault p a = false → fld (s.devWord a) 31 16 ≠ n % 65536 → exec (.packetRead i q) s = .next s) ∧
        (s.packetFault p a = false → fld (s.devWord a) 31 16 = n % 65536 →
          (fld (s.devWord a) 7 0 = 0 ∨ 3 < fld (s.devWord a) 7 0 → exec (.packetRead i q) s = .next (s.setQueue m.qcb 1 1)) ∧
          (1 ≤ fld (s.devWord a) 7 0 → fld (s.devWord a) 7 0 ≤ 3 →
            (fld (s.devWord a) 15 8 ≠ 0 ∨ fld (s.devWord a) 63 32 ≠ 0 → exec (.packetRead i q) s = .next (s.setQueue m.qcb 1 2)) ∧
            (fld (s.devWord a) 15 8 = 0 → fld (s.devWord a) 63 32 = 0 →
              exec (.packetRead i q) s = .next (s.modPart i fun x => { x with queues := x.queues.map fun (k : Mapped) =>
                if k.index = m.index then { k with packet := some (s.devWords a 8) } else k }))))) ∧
      (p.mapped q = some m → m.packet = some l → fld (l.getD 0 0) 7 0 = 1 → p.launch = none → p.stop = .empty →
        launchCheck p m.conemin l = 0 → ∀ c, c = p.coreAt (fld (l.getD 7 0) 15 0) → (s.core c).work.class4.held < 64 →
        (s.core c).work.overflow.held = 0 → ∃ (r : State) (x : Partition) (y : Launch), exec (.launchPacket i q) s = .next r ∧
          r.partById i = some x ∧ x.stop = .run ∧ x.trust = (if p.trust = .locked then .run else p.trust) ∧ x.launch = some y ∧
          y.slim = fld (l.getD 6 0) 7 0 ∧ y.vlim = fld (l.getD 6 0) 13 8 ∧ y.domain = fld (l.getD 6 0) 18 16 ∧
          y.gap = fld (l.getD 6 0) 51 20 ∧ y.caddr = l.getD 4 0 ∧ y.cval = l.getD 5 0 ∧
          (r.core c).work.class4.held = (s.core c).work.class4.held + 1) ∧
      (p.mapped q = some m → m.packet = some l → fld (l.getD 0 0) 7 0 = 1 → p.launch = none → p.stop = .empty →
        launchCheck p m.conemin l ≠ 0 → exec (.launchPacket i q) s = .next (((s.leaveHand p m).completion p (l.getD 4 0) (l.getD 5 0)
          (launchCheck p m.conemin l)).countPacket m.qcb)) ∧
      (∀ w, p.mapped q = some m → m.packet = some l →
        w = (if s.mayWrite p (l.getD 1 0).toNat 8 then s.devSetWord (l.getD 1 0).toNat (l.getD 2 0) else s) →
        (fld (l.getD 0 0) 7 0 = 2 → (∀ y, p.launch = some y → y.qcb ≠ m.qcb) → exec (.fencePacket i q) s =
          .next ((w.leaveHand p m).countPacket m.qcb)) ∧
        (fld (l.getD 0 0) 7 0 = 2 → ∀ y, p.launch = some y → y.qcb = m.qcb → exec (.fencePacket i q) s = .next s) ∧
        (fld (l.getD 0 0) 7 0 = 3 → exec (.signalPacket i q) s = .next ((w.leaveHand p m).countPacket m.qcb)))) ∧
    ((s.qcbs p)[q]? = some a → s.qcbServed p q a = true → fld (s.devWord (a + 0x80)) 1 0 = 1 → (s.devWord (a + 0x50)).getLsbD 0 = true →
      ((s.devWord (a + 0x48)).toNat ≤ (s.devWord (a + 0x40)).toNat → p.trust ≠ .error → exec (.queueRestart i q) s =
        .next ((((s.setQueue a 0 0).devSetWord (a + 0x88) (s.devWord (a + 0x48))).devSetWord (a + 0x50) 0).modPart i fun x => { x with
          queues := x.queues.filter fun m => m.index != q })) ∧
      ((s.devWord (a + 0x40)).toNat < (s.devWord (a + 0x48)).toNat → exec (.queueRestart i q) s =
        .next ((s.setQueue a 1 5).devSetWord (a + 0x50) 0)))
end

