-- ==== Sys2Proof/Laws/Store.lean ====
section
/-! SUPPORT. Reading after writing in the sparse tables and in the byte memories, and that every memory operation keeps
the canonical form. -/

namespace Sys2Proof.Machine

/-! ## Tables -/

@[simp] theorem Map.look_nil {α : Type} (j : Nat) : Map.look ([] : Map α) j = none := rfl

@[simp] theorem Map.look_put_self {α : Type} (m : Map α) (k : Nat) (v : α) : (m.put k v).look k = some v := by
  induction m with
  | nil => simp [Map.put, Map.look]
  | cons e t ih =>
    obtain ⟨j, w⟩ := e
    unfold Map.put
    split
    · simp [Map.look]
    · split
      · simp [Map.look]
      · simp_all [Map.look]

theorem Map.look_put_ne {α : Type} (m : Map α) {k j : Nat} (v : α) (h : j ≠ k) : (m.put k v).look j = m.look j := by
  induction m with
  | nil => simp [Map.put, Map.look, h]
  | cons e t ih =>
    obtain ⟨i, w⟩ := e
    unfold Map.put
    split
    · next hk => subst hk; simp [Map.look, h]
    · split
      · simp [Map.look, h]
      · simp [Map.look, ih]

theorem Map.look_put {α : Type} (m : Map α) (k j : Nat) (v : α) :
    (m.put k v).look j = if j = k then some v else m.look j := by
  split
  · next h => subst h; simp
  · next h => exact Map.look_put_ne m v h

@[simp] theorem Map.at_put_self {α : Type} (m : Map α) (k : Nat) (v d : α) : (m.put k v).at k d = v := by
  simp [Map.at]

theorem Map.at_put_ne {α : Type} (m : Map α) {k j : Nat} (v d : α) (h : j ≠ k) : (m.put k v).at j d = m.at j d := by
  simp [Map.at, Map.look_put_ne m v h]

theorem Map.at_put {α : Type} (m : Map α) (k j : Nat) (v d : α) :
    (m.put k v).at j d = if j = k then v else m.at j d := by
  simp only [Map.at, Map.look_put]; split <;> rfl

/-- Writing twice under one key is writing once. -/
@[simp] theorem Map.put_put {α : Type} (m : Map α) (k : Nat) (v w : α) : (m.put k v).put k w = m.put k w := by
  induction m with
  | nil => simp [Map.put]
  | cons e t ih =>
    obtain ⟨i, x⟩ := e
    by_cases h : k = i
    · simp [Map.put, h]
    · by_cases h' : k < i
      · simp [Map.put, h, h']
      · simp [Map.put, h, h', ih]

/-- What a fold that writes other keys leaves. -/
theorem Map.look_del_ne {α : Type} (m : Map α) {k j : Nat} (h : j ≠ k) : (m.del k).look j = m.look j := by
  induction m with
  | nil => rfl
  | cons e t ih =>
    obtain ⟨i, x⟩ := e
    by_cases hi : i = k
    · subst hi
      have : Map.del ((i, x) :: t) i = Map.del t i := by simp [Map.del]
      rw [this, ih]; simp [Map.look, h]
    · have : Map.del ((i, x) :: t) k = (i, x) :: Map.del t k := by simp [Map.del, hi]
      rw [this]; simp only [Map.look]; rw [ih]

@[simp] theorem Map.look_del_self {α : Type} (m : Map α) (k : Nat) : (m.del k).look k = none := by
  induction m with
  | nil => rfl
  | cons e t ih =>
    obtain ⟨i, x⟩ := e
    by_cases hi : i = k
    · subst hi
      have : Map.del ((i, x) :: t) i = Map.del t i := by simp [Map.del]
      rw [this, ih]
    · have : Map.del ((i, x) :: t) k = (i, x) :: Map.del t k := by simp [Map.del, hi]
      rw [this]; simp only [Map.look]; rw [ih]; simp [Ne.symm hi]

/-! ## Bytes -/

@[simp] theorem Memory.byte_clear_self (m : Memory) (a : Nat) : (m.clear a).byte a = 0 := by
  induction m with
  | nil => rfl
  | cons e t ih =>
    obtain ⟨i, x⟩ := e
    by_cases hi : i = a
    · have : Memory.clear ((i, x) :: t) a = Memory.clear t a := by simp [Memory.clear, hi]
      rw [this, ih]
    · have : Memory.clear ((i, x) :: t) a = (i, x) :: Memory.clear t a := by simp [Memory.clear, hi]
      rw [this]; simp only [Memory.byte]; rw [ih]; simp [Ne.symm hi]

theorem Memory.byte_clear_ne (m : Memory) {a k : Nat} (h : a ≠ k) : (m.clear k).byte a = m.byte a := by
  induction m with
  | nil => rfl
  | cons e t ih =>
    obtain ⟨i, x⟩ := e
    by_cases hi : i = k
    · have : Memory.clear ((i, x) :: t) k = Memory.clear t k := by simp [Memory.clear, hi]
      rw [this, ih]; subst hi; simp [Memory.byte, h]
    · have : Memory.clear ((i, x) :: t) k = (i, x) :: Memory.clear t k := by simp [Memory.clear, hi]
      rw [this]; simp only [Memory.byte]; rw [ih]

theorem Memory.byte_list (m : Memory) (a k : Nat) (b : Byte) :
    (m.list k b).byte a = if a = k then b else m.byte a := by
  induction m with
  | nil => simp [Memory.list, Memory.byte]
  | cons e t ih =>
    obtain ⟨i, x⟩ := e
    unfold Memory.list
    split
    · next hk => subst hk; simp only [Memory.byte]; split <;> rfl
    · split
      · simp only [Memory.byte]
      · simp only [Memory.byte, ih]
        split
        · next h1 h2 h3 => subst h3; simp [Ne.symm h1]
        · rfl

/-- Reading a byte after writing one. -/
theorem Memory.byte_setByte (m : Memory) (a k : Nat) (b : Byte) :
    (m.setByte k b).byte a = if a = k then b else m.byte a := by
  unfold Memory.setByte
  split
  · next hb =>
    by_cases h : a = k
    · subst h; simp [hb]
    · simp [h, Memory.byte_clear_ne m h]
  · exact Memory.byte_list m a k b

/-- Bytes outside a store are as before. -/
theorem Memory.byte_write_ne (m : Memory) (a : Nat) (n v k : Nat) (h : k < a ∨ a + n ≤ k) :
    (m.write a n v).byte k = m.byte k := by
  induction n generalizing m a v with
  | zero => rfl
  | succ n ih =>
    simp only [Memory.write]
    rw [ih _ _ _ (by omega), Memory.byte_setByte, if_neg (by omega)]

theorem Memory.read_congr (m m' : Memory) (a n : Nat) (h : ∀ k, a ≤ k → k < a + n → m.byte k = m'.byte k) :
    m.read a n = m'.read a n := by
  induction n generalizing a with
  | zero => rfl
  | succ n ih =>
    simp only [Memory.read]
    rw [h a (by omega) (by omega), ih (a + 1) fun k h1 h2 => h k (by omega) (by omega)]

/-- Reading outside a store. -/
theorem Memory.read_write_ne (m : Memory) (a n v b k : Nat) (h : b + k ≤ a ∨ a + n ≤ b) :
    (m.write a n v).read b k = m.read b k :=
  Memory.read_congr _ _ _ _ fun _ _ _ => Memory.byte_write_ne m a n v _ (by omega)

/-- Reading what was stored. -/
theorem Memory.read_write_self (m : Memory) (a n v : Nat) : (m.write a n v).read a n = v % 256 ^ n := by
  induction n generalizing m a v with
  | zero => simp [Memory.read, Nat.mod_one]
  | succ n ih =>
    simp only [Memory.write, Memory.read]
    rw [ih, Memory.byte_write_ne _ _ _ _ _ (by omega), Memory.byte_setByte, if_pos rfl]
    rw [BitVec.toNat_ofNat, Nat.pow_succ 256 n, Nat.mul_comm (256 ^ n) 256, Nat.mod_mul]

theorem Memory.read_lt (m : Memory) (a n : Nat) : m.read a n < 256 ^ n := by
  induction n generalizing a with
  | zero => simp [Memory.read]
  | succ n ih =>
    simp only [Memory.read, Nat.pow_succ]
    have h1 := ih (a + 1)
    have h2 := (m.byte a).isLt
    omega

@[simp] theorem Memory.word_setWord_self (m : Memory) (a : Nat) (v : Word) : (m.setWord a v).word a = v := by
  have h := v.isLt
  simp only [Memory.word, Memory.setWord, w64]
  rw [Memory.read_write_self]
  apply BitVec.eq_of_toNat_eq
  simp only [BitVec.toNat_ofNat]
  omega

/-! ## The canonical form -/

theorem Memory.wf_tail {e : Host.Cell} {t : Memory} (h : Memory.wf (e :: t) = true) : t.wf = true := by
  obtain ⟨k, v⟩ := e
  cases t with
  | nil => rfl
  | cons f u => simp [Memory.wf] at h; exact h.2

theorem Memory.wf_head {k : Nat} {v : Byte} {t : Memory} (h : Memory.wf ((k, v) :: t) = true) : v ≠ 0 := by
  cases t with
  | nil => simpa [Memory.wf] using h
  | cons f u => simp [Memory.wf] at h; exact h.1.1

theorem Memory.wf_lt {e : Host.Cell} {t : Memory} (h : Memory.wf (e :: t) = true) : ∀ f ∈ t, e.1 < f.1 := by
  induction t generalizing e with
  | nil => simp
  | cons f u ih =>
    intro g hg
    have hef : e.1 < f.1 := by
      simp [Memory.wf] at h; exact h.1.2
    rcases List.mem_cons.1 hg with rfl | hu
    · exact hef
    · exact Nat.lt_trans hef (ih (Memory.wf_tail h) g hu)

theorem Memory.wf_cons {k : Nat} {v : Byte} {t : Memory} (hv : v ≠ 0) (ht : t.wf = true) (hl : ∀ f ∈ t, k < f.1) :
    Memory.wf ((k, v) :: t) = true := by
  cases t with
  | nil => simpa [Memory.wf] using hv
  | cons f u =>
    have := hl f (List.mem_cons_self ..)
    simp [Memory.wf, this, ht]; exact hv

/-- Any part of a canonical memory taken by a filter is canonical. -/
theorem Memory.wf_filter (m : Memory) (p : Host.Cell → Bool) (h : m.wf = true) :
    Memory.wf (List.filter p m) = true := by
  induction m with
  | nil => rfl
  | cons e t ih =>
    obtain ⟨k, v⟩ := e
    have ht := ih (Memory.wf_tail h)
    by_cases hp : p (k, v) = true
    · rw [List.filter_cons_of_pos hp]
      refine Memory.wf_cons (Memory.wf_head h) ht fun f hf => ?_
      exact Memory.wf_lt h f (List.mem_of_mem_filter hf)
    · rw [List.filter_cons_of_neg hp]; exact ht

theorem Memory.wf_clear (m : Memory) (a : Nat) (h : m.wf = true) : (m.clear a).wf = true := Memory.wf_filter _ _ h

theorem Memory.mem_list (m : Memory) (a : Nat) (b : Byte) : ∀ f ∈ m.list a b, f.1 = a ∨ f ∈ m := by
  induction m with
  | nil => intro f hf; simp [Memory.list] at hf; simp [hf]
  | cons e t ih =>
    obtain ⟨k, v⟩ := e
    intro f hf
    unfold Memory.list at hf
    split at hf
    · rcases List.mem_cons.1 hf with rfl | h
      · left; rfl
      · right; exact List.mem_cons_of_mem _ h
    · split at hf
      · rcases List.mem_cons.1 hf with rfl | h
        · left; rfl
        · right; exact h
      · rcases List.mem_cons.1 hf with rfl | h
        · right; exact List.mem_cons_self ..
        · rcases ih f h with h | h
          · left; exact h
          · right; exact List.mem_cons_of_mem _ h

theorem Memory.wf_list (m : Memory) (a : Nat) (b : Byte) (hb : b ≠ 0) (h : m.wf = true) : (m.list a b).wf = true := by
  induction m with
  | nil => simpa [Memory.list, Memory.wf] using hb
  | cons e t ih =>
    obtain ⟨k, v⟩ := e
    have ht := Memory.wf_tail h
    unfold Memory.list
    split
    · next hk => subst hk; exact Memory.wf_cons hb ht (Memory.wf_lt h)
    · split
      · next hlt =>
        refine Memory.wf_cons hb h fun f hf => ?_
        rcases List.mem_cons.1 hf with rfl | hf
        · exact hlt
        · exact Nat.lt_trans hlt (Memory.wf_lt h f hf)
      · next h1 h2 =>
        refine Memory.wf_cons (Memory.wf_head h) (ih ht) fun f hf => ?_
        rcases Memory.mem_list t a b f hf with h' | h'
        · omega
        · exact Memory.wf_lt h f h'

/-- Writing a byte keeps the canonical form. -/
theorem Memory.wf_setByte (m : Memory) (a : Nat) (b : Byte) (h : m.wf = true) : (m.setByte a b).wf = true := by
  unfold Memory.setByte
  split
  · exact Memory.wf_clear m a h
  · next hb => exact Memory.wf_list m a b hb h

theorem Memory.wf_write (m : Memory) (a n v : Nat) (h : m.wf = true) : (m.write a n v).wf = true := by
  induction n generalizing m a v with
  | zero => exact h
  | succ n ih => exact ih _ _ _ (Memory.wf_setByte m a _ h)

theorem Memory.wf_setWord (m : Memory) (a : Nat) (v : Word) (h : m.wf = true) : (m.setWord a v).wf = true :=
  Memory.wf_write m a 8 _ h

theorem Memory.wf_setWords (m : Memory) (a : Nat) (l : List Word) (h : m.wf = true) : (m.setWords a l).wf = true := by
  induction l generalizing m a with
  | nil => exact h
  | cons v t ih => exact ih _ _ (Memory.wf_setWord m a v h)

/-- A fold of steps that each keep the form keeps it. -/
theorem Memory.wf_foldl {β : Type} (f : Memory → β → Memory) (hf : ∀ m b, m.wf = true → (f m b).wf = true) (l : List β)
    (m : Memory) (h : m.wf = true) : (l.foldl f m).wf = true := by
  induction l generalizing m with
  | nil => exact h
  | cons b t ih => exact ih _ (hf m b h)

theorem Memory.wf_setLine (m : Memory) (a : Nat) (v : Line) (mask : Nat) (h : m.wf = true) :
    (m.setLine a v mask).wf = true := by
  refine Memory.wf_foldl _ (fun m i hm => ?_) _ _ h
  split
  · exact Memory.wf_setByte m _ _ hm
  · exact hm

theorem Memory.wf_clearRange (m : Memory) (lo hi : Nat) (h : m.wf = true) : (m.clearRange lo hi).wf = true :=
  Memory.wf_filter _ _ h

theorem Memory.wf_paste (m : Memory) (a n : Nat) (run : Memory) (h : m.wf = true) : (m.paste a n run).wf = true := by
  refine Memory.wf_foldl _ (fun m c hm => ?_) _ _ (Memory.wf_clearRange m _ _ h)
  split
  · exact Memory.wf_setByte m _ _ hm
  · exact hm

end Sys2Proof.Machine
end

