-- ==== Sys2Proof/Laws/State.lean ====
section
/-! SUPPORT. What an update of one part of the device leaves unchanged, field by field, and reading a part after
writing one. -/

namespace Sys2Proof.Machine

/-! ## Parts of the device -/

@[simp] theorem State.setCore_time (s : State) (c : Nat) (k : Core) : (s.setCore c k).time = s.time := rfl
@[simp] theorem State.setCore_hems (s : State) (c : Nat) (k : Core) : (s.setCore c k).hems = s.hems := rfl
@[simp] theorem State.setCore_pps (s : State) (c : Nat) (k : Core) : (s.setCore c k).pps = s.pps := rfl
@[simp] theorem State.setCore_parts (s : State) (c : Nat) (k : Core) : (s.setCore c k).parts = s.parts := rfl
@[simp] theorem State.setCore_mem (s : State) (c : Nat) (k : Core) : (s.setCore c k).mem = s.mem := rfl
@[simp] theorem State.setCore_poison (s : State) (c : Nat) (k : Core) : (s.setCore c k).poison = s.poison := rfl
@[simp] theorem State.setCore_dir (s : State) (c : Nat) (k : Core) : (s.setCore c k).dir = s.dir := rfl
@[simp] theorem State.setCore_deferred (s : State) (c : Nat) (k : Core) : (s.setCore c k).deferred = s.deferred := rfl
@[simp] theorem State.setCore_txns (s : State) (c : Nat) (k : Core) : (s.setCore c k).txns = s.txns := rfl
@[simp] theorem State.setCore_walkSharers (s : State) (c : Nat) (k : Core) : (s.setCore c k).walkSharers = s.walkSharers := rfl
@[simp] theorem State.setCore_walkStores (s : State) (c : Nat) (k : Core) : (s.setCore c k).walkStores = s.walkStores := rfl
@[simp] theorem State.setCore_net (s : State) (c : Nat) (k : Core) : (s.setCore c k).net = s.net := rfl
@[simp] theorem State.setCore_extents (s : State) (c : Nat) (k : Core) : (s.setCore c k).extents = s.extents := rfl
@[simp] theorem State.setCore_links (s : State) (c : Nat) (k : Core) : (s.setCore c k).links = s.links := rfl
@[simp] theorem State.setCore_dev (s : State) (c : Nat) (k : Core) : (s.setCore c k).dev = s.dev := rfl
@[simp] theorem State.setCore_cur (s : State) (c : Nat) (k : Core) : (s.setCore c k).cur = s.cur := rfl
@[simp] theorem State.setCore_issued (s : State) (c : Nat) (k : Core) : (s.setCore c k).issued = s.issued := rfl
@[simp] theorem State.setCore_agenda (s : State) (c : Nat) (k : Core) : (s.setCore c k).agenda = s.agenda := rfl
@[simp] theorem State.setCore_seq (s : State) (c : Nat) (k : Core) : (s.setCore c k).seq = s.seq := rfl
@[simp] theorem State.modCore_time (s : State) (c : Nat) (f : Core → Core) : (s.modCore c f).time = s.time := rfl
@[simp] theorem State.modCore_hems (s : State) (c : Nat) (f : Core → Core) : (s.modCore c f).hems = s.hems := rfl
@[simp] theorem State.modCore_pps (s : State) (c : Nat) (f : Core → Core) : (s.modCore c f).pps = s.pps := rfl
@[simp] theorem State.modCore_parts (s : State) (c : Nat) (f : Core → Core) : (s.modCore c f).parts = s.parts := rfl
@[simp] theorem State.modCore_mem (s : State) (c : Nat) (f : Core → Core) : (s.modCore c f).mem = s.mem := rfl
@[simp] theorem State.modCore_poison (s : State) (c : Nat) (f : Core → Core) : (s.modCore c f).poison = s.poison := rfl
@[simp] theorem State.modCore_dir (s : State) (c : Nat) (f : Core → Core) : (s.modCore c f).dir = s.dir := rfl
@[simp] theorem State.modCore_deferred (s : State) (c : Nat) (f : Core → Core) : (s.modCore c f).deferred = s.deferred := rfl
@[simp] theorem State.modCore_txns (s : State) (c : Nat) (f : Core → Core) : (s.modCore c f).txns = s.txns := rfl
@[simp] theorem State.modCore_walkSharers (s : State) (c : Nat) (f : Core → Core) : (s.modCore c f).walkSharers = s.walkSharers := rfl
@[simp] theorem State.modCore_walkStores (s : State) (c : Nat) (f : Core → Core) : (s.modCore c f).walkStores = s.walkStores := rfl
@[simp] theorem State.modCore_net (s : State) (c : Nat) (f : Core → Core) : (s.modCore c f).net = s.net := rfl
@[simp] theorem State.modCore_extents (s : State) (c : Nat) (f : Core → Core) : (s.modCore c f).extents = s.extents := rfl
@[simp] theorem State.modCore_links (s : State) (c : Nat) (f : Core → Core) : (s.modCore c f).links = s.links := rfl
@[simp] theorem State.modCore_dev (s : State) (c : Nat) (f : Core → Core) : (s.modCore c f).dev = s.dev := rfl
@[simp] theorem State.modCore_cur (s : State) (c : Nat) (f : Core → Core) : (s.modCore c f).cur = s.cur := rfl
@[simp] theorem State.modCore_issued (s : State) (c : Nat) (f : Core → Core) : (s.modCore c f).issued = s.issued := rfl
@[simp] theorem State.modCore_agenda (s : State) (c : Nat) (f : Core → Core) : (s.modCore c f).agenda = s.agenda := rfl
@[simp] theorem State.modCore_seq (s : State) (c : Nat) (f : Core → Core) : (s.modCore c f).seq = s.seq := rfl
@[simp] theorem State.setHem_time (s : State) (h : Nat) (k : Hem) : (s.setHem h k).time = s.time := rfl
@[simp] theorem State.setHem_cores (s : State) (h : Nat) (k : Hem) : (s.setHem h k).cores = s.cores := rfl
@[simp] theorem State.setHem_pps (s : State) (h : Nat) (k : Hem) : (s.setHem h k).pps = s.pps := rfl
@[simp] theorem State.setHem_parts (s : State) (h : Nat) (k : Hem) : (s.setHem h k).parts = s.parts := rfl
@[simp] theorem State.setHem_mem (s : State) (h : Nat) (k : Hem) : (s.setHem h k).mem = s.mem := rfl
@[simp] theorem State.setHem_poison (s : State) (h : Nat) (k : Hem) : (s.setHem h k).poison = s.poison := rfl
@[simp] theorem State.setHem_dir (s : State) (h : Nat) (k : Hem) : (s.setHem h k).dir = s.dir := rfl
@[simp] theorem State.setHem_deferred (s : State) (h : Nat) (k : Hem) : (s.setHem h k).deferred = s.deferred := rfl
@[simp] theorem State.setHem_txns (s : State) (h : Nat) (k : Hem) : (s.setHem h k).txns = s.txns := rfl
@[simp] theorem State.setHem_walkSharers (s : State) (h : Nat) (k : Hem) : (s.setHem h k).walkSharers = s.walkSharers := rfl
@[simp] theorem State.setHem_walkStores (s : State) (h : Nat) (k : Hem) : (s.setHem h k).walkStores = s.walkStores := rfl
@[simp] theorem State.setHem_net (s : State) (h : Nat) (k : Hem) : (s.setHem h k).net = s.net := rfl
@[simp] theorem State.setHem_extents (s : State) (h : Nat) (k : Hem) : (s.setHem h k).extents = s.extents := rfl
@[simp] theorem State.setHem_links (s : State) (h : Nat) (k : Hem) : (s.setHem h k).links = s.links := rfl
@[simp] theorem State.setHem_dev (s : State) (h : Nat) (k : Hem) : (s.setHem h k).dev = s.dev := rfl
@[simp] theorem State.setHem_cur (s : State) (h : Nat) (k : Hem) : (s.setHem h k).cur = s.cur := rfl
@[simp] theorem State.setHem_issued (s : State) (h : Nat) (k : Hem) : (s.setHem h k).issued = s.issued := rfl
@[simp] theorem State.setHem_agenda (s : State) (h : Nat) (k : Hem) : (s.setHem h k).agenda = s.agenda := rfl
@[simp] theorem State.setHem_seq (s : State) (h : Nat) (k : Hem) : (s.setHem h k).seq = s.seq := rfl
@[simp] theorem State.modHem_time (s : State) (h : Nat) (f : Hem → Hem) : (s.modHem h f).time = s.time := rfl
@[simp] theorem State.modHem_cores (s : State) (h : Nat) (f : Hem → Hem) : (s.modHem h f).cores = s.cores := rfl
@[simp] theorem State.modHem_pps (s : State) (h : Nat) (f : Hem → Hem) : (s.modHem h f).pps = s.pps := rfl
@[simp] theorem State.modHem_parts (s : State) (h : Nat) (f : Hem → Hem) : (s.modHem h f).parts = s.parts := rfl
@[simp] theorem State.modHem_mem (s : State) (h : Nat) (f : Hem → Hem) : (s.modHem h f).mem = s.mem := rfl
@[simp] theorem State.modHem_poison (s : State) (h : Nat) (f : Hem → Hem) : (s.modHem h f).poison = s.poison := rfl
@[simp] theorem State.modHem_dir (s : State) (h : Nat) (f : Hem → Hem) : (s.modHem h f).dir = s.dir := rfl
@[simp] theorem State.modHem_deferred (s : State) (h : Nat) (f : Hem → Hem) : (s.modHem h f).deferred = s.deferred := rfl
@[simp] theorem State.modHem_txns (s : State) (h : Nat) (f : Hem → Hem) : (s.modHem h f).txns = s.txns := rfl
@[simp] theorem State.modHem_walkSharers (s : State) (h : Nat) (f : Hem → Hem) : (s.modHem h f).walkSharers = s.walkSharers := rfl
@[simp] theorem State.modHem_walkStores (s : State) (h : Nat) (f : Hem → Hem) : (s.modHem h f).walkStores = s.walkStores := rfl
@[simp] theorem State.modHem_net (s : State) (h : Nat) (f : Hem → Hem) : (s.modHem h f).net = s.net := rfl
@[simp] theorem State.modHem_extents (s : State) (h : Nat) (f : Hem → Hem) : (s.modHem h f).extents = s.extents := rfl
@[simp] theorem State.modHem_links (s : State) (h : Nat) (f : Hem → Hem) : (s.modHem h f).links = s.links := rfl
@[simp] theorem State.modHem_dev (s : State) (h : Nat) (f : Hem → Hem) : (s.modHem h f).dev = s.dev := rfl
@[simp] theorem State.modHem_cur (s : State) (h : Nat) (f : Hem → Hem) : (s.modHem h f).cur = s.cur := rfl
@[simp] theorem State.modHem_issued (s : State) (h : Nat) (f : Hem → Hem) : (s.modHem h f).issued = s.issued := rfl
@[simp] theorem State.modHem_agenda (s : State) (h : Nat) (f : Hem → Hem) : (s.modHem h f).agenda = s.agenda := rfl
@[simp] theorem State.modHem_seq (s : State) (h : Nat) (f : Hem → Hem) : (s.modHem h f).seq = s.seq := rfl
@[simp] theorem State.setPP_time (s : State) (n : Nat) (k : PP) : (s.setPP n k).time = s.time := rfl
@[simp] theorem State.setPP_cores (s : State) (n : Nat) (k : PP) : (s.setPP n k).cores = s.cores := rfl
@[simp] theorem State.setPP_hems (s : State) (n : Nat) (k : PP) : (s.setPP n k).hems = s.hems := rfl
@[simp] theorem State.setPP_parts (s : State) (n : Nat) (k : PP) : (s.setPP n k).parts = s.parts := rfl
@[simp] theorem State.setPP_mem (s : State) (n : Nat) (k : PP) : (s.setPP n k).mem = s.mem := rfl
@[simp] theorem State.setPP_poison (s : State) (n : Nat) (k : PP) : (s.setPP n k).poison = s.poison := rfl
@[simp] theorem State.setPP_dir (s : State) (n : Nat) (k : PP) : (s.setPP n k).dir = s.dir := rfl
@[simp] theorem State.setPP_deferred (s : State) (n : Nat) (k : PP) : (s.setPP n k).deferred = s.deferred := rfl
@[simp] theorem State.setPP_txns (s : State) (n : Nat) (k : PP) : (s.setPP n k).txns = s.txns := rfl
@[simp] theorem State.setPP_walkSharers (s : State) (n : Nat) (k : PP) : (s.setPP n k).walkSharers = s.walkSharers := rfl
@[simp] theorem State.setPP_walkStores (s : State) (n : Nat) (k : PP) : (s.setPP n k).walkStores = s.walkStores := rfl
@[simp] theorem State.setPP_net (s : State) (n : Nat) (k : PP) : (s.setPP n k).net = s.net := rfl
@[simp] theorem State.setPP_extents (s : State) (n : Nat) (k : PP) : (s.setPP n k).extents = s.extents := rfl
@[simp] theorem State.setPP_links (s : State) (n : Nat) (k : PP) : (s.setPP n k).links = s.links := rfl
@[simp] theorem State.setPP_dev (s : State) (n : Nat) (k : PP) : (s.setPP n k).dev = s.dev := rfl
@[simp] theorem State.setPP_cur (s : State) (n : Nat) (k : PP) : (s.setPP n k).cur = s.cur := rfl
@[simp] theorem State.setPP_issued (s : State) (n : Nat) (k : PP) : (s.setPP n k).issued = s.issued := rfl
@[simp] theorem State.setPP_agenda (s : State) (n : Nat) (k : PP) : (s.setPP n k).agenda = s.agenda := rfl
@[simp] theorem State.setPP_seq (s : State) (n : Nat) (k : PP) : (s.setPP n k).seq = s.seq := rfl
@[simp] theorem State.modPP_time (s : State) (n : Nat) (f : PP → PP) : (s.modPP n f).time = s.time := rfl
@[simp] theorem State.modPP_cores (s : State) (n : Nat) (f : PP → PP) : (s.modPP n f).cores = s.cores := rfl
@[simp] theorem State.modPP_hems (s : State) (n : Nat) (f : PP → PP) : (s.modPP n f).hems = s.hems := rfl
@[simp] theorem State.modPP_parts (s : State) (n : Nat) (f : PP → PP) : (s.modPP n f).parts = s.parts := rfl
@[simp] theorem State.modPP_mem (s : State) (n : Nat) (f : PP → PP) : (s.modPP n f).mem = s.mem := rfl
@[simp] theorem State.modPP_poison (s : State) (n : Nat) (f : PP → PP) : (s.modPP n f).poison = s.poison := rfl
@[simp] theorem State.modPP_dir (s : State) (n : Nat) (f : PP → PP) : (s.modPP n f).dir = s.dir := rfl
@[simp] theorem State.modPP_deferred (s : State) (n : Nat) (f : PP → PP) : (s.modPP n f).deferred = s.deferred := rfl
@[simp] theorem State.modPP_txns (s : State) (n : Nat) (f : PP → PP) : (s.modPP n f).txns = s.txns := rfl
@[simp] theorem State.modPP_walkSharers (s : State) (n : Nat) (f : PP → PP) : (s.modPP n f).walkSharers = s.walkSharers := rfl
@[simp] theorem State.modPP_walkStores (s : State) (n : Nat) (f : PP → PP) : (s.modPP n f).walkStores = s.walkStores := rfl
@[simp] theorem State.modPP_net (s : State) (n : Nat) (f : PP → PP) : (s.modPP n f).net = s.net := rfl
@[simp] theorem State.modPP_extents (s : State) (n : Nat) (f : PP → PP) : (s.modPP n f).extents = s.extents := rfl
@[simp] theorem State.modPP_links (s : State) (n : Nat) (f : PP → PP) : (s.modPP n f).links = s.links := rfl
@[simp] theorem State.modPP_dev (s : State) (n : Nat) (f : PP → PP) : (s.modPP n f).dev = s.dev := rfl
@[simp] theorem State.modPP_cur (s : State) (n : Nat) (f : PP → PP) : (s.modPP n f).cur = s.cur := rfl
@[simp] theorem State.modPP_issued (s : State) (n : Nat) (f : PP → PP) : (s.modPP n f).issued = s.issued := rfl
@[simp] theorem State.modPP_agenda (s : State) (n : Nat) (f : PP → PP) : (s.modPP n f).agenda = s.agenda := rfl
@[simp] theorem State.modPP_seq (s : State) (n : Nat) (f : PP → PP) : (s.modPP n f).seq = s.seq := rfl
@[simp] theorem State.modHandler_time (s : State) (n t : Nat) (f : Handler → Handler) : (s.modHandler n t f).time = s.time := rfl
@[simp] theorem State.modHandler_cores (s : State) (n t : Nat) (f : Handler → Handler) : (s.modHandler n t f).cores = s.cores := rfl
@[simp] theorem State.modHandler_hems (s : State) (n t : Nat) (f : Handler → Handler) : (s.modHandler n t f).hems = s.hems := rfl
@[simp] theorem State.modHandler_parts (s : State) (n t : Nat) (f : Handler → Handler) : (s.modHandler n t f).parts = s.parts := rfl
@[simp] theorem State.modHandler_mem (s : State) (n t : Nat) (f : Handler → Handler) : (s.modHandler n t f).mem = s.mem := rfl
@[simp] theorem State.modHandler_poison (s : State) (n t : Nat) (f : Handler → Handler) : (s.modHandler n t f).poison = s.poison := rfl
@[simp] theorem State.modHandler_dir (s : State) (n t : Nat) (f : Handler → Handler) : (s.modHandler n t f).dir = s.dir := rfl
@[simp] theorem State.modHandler_deferred (s : State) (n t : Nat) (f : Handler → Handler) : (s.modHandler n t f).deferred = s.deferred := rfl
@[simp] theorem State.modHandler_txns (s : State) (n t : Nat) (f : Handler → Handler) : (s.modHandler n t f).txns = s.txns := rfl
@[simp] theorem State.modHandler_walkSharers (s : State) (n t : Nat) (f : Handler → Handler) : (s.modHandler n t f).walkSharers = s.walkSharers := rfl
@[simp] theorem State.modHandler_walkStores (s : State) (n t : Nat) (f : Handler → Handler) : (s.modHandler n t f).walkStores = s.walkStores := rfl
@[simp] theorem State.modHandler_net (s : State) (n t : Nat) (f : Handler → Handler) : (s.modHandler n t f).net = s.net := rfl
@[simp] theorem State.modHandler_extents (s : State) (n t : Nat) (f : Handler → Handler) : (s.modHandler n t f).extents = s.extents := rfl
@[simp] theorem State.modHandler_links (s : State) (n t : Nat) (f : Handler → Handler) : (s.modHandler n t f).links = s.links := rfl
@[simp] theorem State.modHandler_dev (s : State) (n t : Nat) (f : Handler → Handler) : (s.modHandler n t f).dev = s.dev := rfl
@[simp] theorem State.modHandler_cur (s : State) (n t : Nat) (f : Handler → Handler) : (s.modHandler n t f).cur = s.cur := rfl
@[simp] theorem State.modHandler_issued (s : State) (n t : Nat) (f : Handler → Handler) : (s.modHandler n t f).issued = s.issued := rfl
@[simp] theorem State.modHandler_agenda (s : State) (n t : Nat) (f : Handler → Handler) : (s.modHandler n t f).agenda = s.agenda := rfl
@[simp] theorem State.modHandler_seq (s : State) (n t : Nat) (f : Handler → Handler) : (s.modHandler n t f).seq = s.seq := rfl
@[simp] theorem State.modMyCore_time (s : State) (f : Core → Core) : (s.modMyCore f).time = s.time := rfl
@[simp] theorem State.modMyCore_hems (s : State) (f : Core → Core) : (s.modMyCore f).hems = s.hems := rfl
@[simp] theorem State.modMyCore_pps (s : State) (f : Core → Core) : (s.modMyCore f).pps = s.pps := rfl
@[simp] theorem State.modMyCore_parts (s : State) (f : Core → Core) : (s.modMyCore f).parts = s.parts := rfl
@[simp] theorem State.modMyCore_mem (s : State) (f : Core → Core) : (s.modMyCore f).mem = s.mem := rfl
@[simp] theorem State.modMyCore_poison (s : State) (f : Core → Core) : (s.modMyCore f).poison = s.poison := rfl
@[simp] theorem State.modMyCore_dir (s : State) (f : Core → Core) : (s.modMyCore f).dir = s.dir := rfl
@[simp] theorem State.modMyCore_deferred (s : State) (f : Core → Core) : (s.modMyCore f).deferred = s.deferred := rfl
@[simp] theorem State.modMyCore_txns (s : State) (f : Core → Core) : (s.modMyCore f).txns = s.txns := rfl
@[simp] theorem State.modMyCore_walkSharers (s : State) (f : Core → Core) : (s.modMyCore f).walkSharers = s.walkSharers := rfl
@[simp] theorem State.modMyCore_walkStores (s : State) (f : Core → Core) : (s.modMyCore f).walkStores = s.walkStores := rfl
@[simp] theorem State.modMyCore_net (s : State) (f : Core → Core) : (s.modMyCore f).net = s.net := rfl
@[simp] theorem State.modMyCore_extents (s : State) (f : Core → Core) : (s.modMyCore f).extents = s.extents := rfl
@[simp] theorem State.modMyCore_links (s : State) (f : Core → Core) : (s.modMyCore f).links = s.links := rfl
@[simp] theorem State.modMyCore_dev (s : State) (f : Core → Core) : (s.modMyCore f).dev = s.dev := rfl
@[simp] theorem State.modMyCore_cur (s : State) (f : Core → Core) : (s.modMyCore f).cur = s.cur := rfl
@[simp] theorem State.modMyCore_issued (s : State) (f : Core → Core) : (s.modMyCore f).issued = s.issued := rfl
@[simp] theorem State.modMyCore_agenda (s : State) (f : Core → Core) : (s.modMyCore f).agenda = s.agenda := rfl
@[simp] theorem State.modMyCore_seq (s : State) (f : Core → Core) : (s.modMyCore f).seq = s.seq := rfl
@[simp] theorem State.modMyHem_time (s : State) (f : Hem → Hem) : (s.modMyHem f).time = s.time := rfl
@[simp] theorem State.modMyHem_cores (s : State) (f : Hem → Hem) : (s.modMyHem f).cores = s.cores := rfl
@[simp] theorem State.modMyHem_pps (s : State) (f : Hem → Hem) : (s.modMyHem f).pps = s.pps := rfl
@[simp] theorem State.modMyHem_parts (s : State) (f : Hem → Hem) : (s.modMyHem f).parts = s.parts := rfl
@[simp] theorem State.modMyHem_mem (s : State) (f : Hem → Hem) : (s.modMyHem f).mem = s.mem := rfl
@[simp] theorem State.modMyHem_poison (s : State) (f : Hem → Hem) : (s.modMyHem f).poison = s.poison := rfl
@[simp] theorem State.modMyHem_dir (s : State) (f : Hem → Hem) : (s.modMyHem f).dir = s.dir := rfl
@[simp] theorem State.modMyHem_deferred (s : State) (f : Hem → Hem) : (s.modMyHem f).deferred = s.deferred := rfl
@[simp] theorem State.modMyHem_txns (s : State) (f : Hem → Hem) : (s.modMyHem f).txns = s.txns := rfl
@[simp] theorem State.modMyHem_walkSharers (s : State) (f : Hem → Hem) : (s.modMyHem f).walkSharers = s.walkSharers := rfl
@[simp] theorem State.modMyHem_walkStores (s : State) (f : Hem → Hem) : (s.modMyHem f).walkStores = s.walkStores := rfl
@[simp] theorem State.modMyHem_net (s : State) (f : Hem → Hem) : (s.modMyHem f).net = s.net := rfl
@[simp] theorem State.modMyHem_extents (s : State) (f : Hem → Hem) : (s.modMyHem f).extents = s.extents := rfl
@[simp] theorem State.modMyHem_links (s : State) (f : Hem → Hem) : (s.modMyHem f).links = s.links := rfl
@[simp] theorem State.modMyHem_dev (s : State) (f : Hem → Hem) : (s.modMyHem f).dev = s.dev := rfl
@[simp] theorem State.modMyHem_cur (s : State) (f : Hem → Hem) : (s.modMyHem f).cur = s.cur := rfl
@[simp] theorem State.modMyHem_issued (s : State) (f : Hem → Hem) : (s.modMyHem f).issued = s.issued := rfl
@[simp] theorem State.modMyHem_agenda (s : State) (f : Hem → Hem) : (s.modMyHem f).agenda = s.agenda := rfl
@[simp] theorem State.modMyHem_seq (s : State) (f : Hem → Hem) : (s.modMyHem f).seq = s.seq := rfl

/-! ## Slots -/

@[simp] theorem State.setThread_time (s : State) (pp : Bool) (u t : Nat) (th : Thread) : (s.setThread pp u t th).time = s.time := by cases pp <;> rfl
@[simp] theorem State.setThread_hems (s : State) (pp : Bool) (u t : Nat) (th : Thread) : (s.setThread pp u t th).hems = s.hems := by cases pp <;> rfl
@[simp] theorem State.setThread_parts (s : State) (pp : Bool) (u t : Nat) (th : Thread) : (s.setThread pp u t th).parts = s.parts := by cases pp <;> rfl
@[simp] theorem State.setThread_mem (s : State) (pp : Bool) (u t : Nat) (th : Thread) : (s.setThread pp u t th).mem = s.mem := by cases pp <;> rfl
@[simp] theorem State.setThread_poison (s : State) (pp : Bool) (u t : Nat) (th : Thread) : (s.setThread pp u t th).poison = s.poison := by cases pp <;> rfl
@[simp] theorem State.setThread_dir (s : State) (pp : Bool) (u t : Nat) (th : Thread) : (s.setThread pp u t th).dir = s.dir := by cases pp <;> rfl
@[simp] theorem State.setThread_deferred (s : State) (pp : Bool) (u t : Nat) (th : Thread) : (s.setThread pp u t th).deferred = s.deferred := by cases pp <;> rfl
@[simp] theorem State.setThread_txns (s : State) (pp : Bool) (u t : Nat) (th : Thread) : (s.setThread pp u t th).txns = s.txns := by cases pp <;> rfl
@[simp] theorem State.setThread_walkSharers (s : State) (pp : Bool) (u t : Nat) (th : Thread) : (s.setThread pp u t th).walkSharers = s.walkSharers := by cases pp <;> rfl
@[simp] theorem State.setThread_walkStores (s : State) (pp : Bool) (u t : Nat) (th : Thread) : (s.setThread pp u t th).walkStores = s.walkStores := by cases pp <;> rfl
@[simp] theorem State.setThread_net (s : State) (pp : Bool) (u t : Nat) (th : Thread) : (s.setThread pp u t th).net = s.net := by cases pp <;> rfl
@[simp] theorem State.setThread_extents (s : State) (pp : Bool) (u t : Nat) (th : Thread) : (s.setThread pp u t th).extents = s.extents := by cases pp <;> rfl
@[simp] theorem State.setThread_links (s : State) (pp : Bool) (u t : Nat) (th : Thread) : (s.setThread pp u t th).links = s.links := by cases pp <;> rfl
@[simp] theorem State.setThread_dev (s : State) (pp : Bool) (u t : Nat) (th : Thread) : (s.setThread pp u t th).dev = s.dev := by cases pp <;> rfl
@[simp] theorem State.setThread_cur (s : State) (pp : Bool) (u t : Nat) (th : Thread) : (s.setThread pp u t th).cur = s.cur := by cases pp <;> rfl
@[simp] theorem State.setThread_issued (s : State) (pp : Bool) (u t : Nat) (th : Thread) : (s.setThread pp u t th).issued = s.issued := by cases pp <;> rfl
@[simp] theorem State.setThread_agenda (s : State) (pp : Bool) (u t : Nat) (th : Thread) : (s.setThread pp u t th).agenda = s.agenda := by cases pp <;> rfl
@[simp] theorem State.setThread_seq (s : State) (pp : Bool) (u t : Nat) (th : Thread) : (s.setThread pp u t th).seq = s.seq := by cases pp <;> rfl
@[simp] theorem State.modThread_time (s : State) (pp : Bool) (u t : Nat) (f : Thread → Thread) : (s.modThread pp u t f).time = s.time := by cases pp <;> rfl
@[simp] theorem State.modThread_hems (s : State) (pp : Bool) (u t : Nat) (f : Thread → Thread) : (s.modThread pp u t f).hems = s.hems := by cases pp <;> rfl
@[simp] theorem State.modThread_parts (s : State) (pp : Bool) (u t : Nat) (f : Thread → Thread) : (s.modThread pp u t f).parts = s.parts := by cases pp <;> rfl
@[simp] theorem State.modThread_mem (s : State) (pp : Bool) (u t : Nat) (f : Thread → Thread) : (s.modThread pp u t f).mem = s.mem := by cases pp <;> rfl
@[simp] theorem State.modThread_poison (s : State) (pp : Bool) (u t : Nat) (f : Thread → Thread) : (s.modThread pp u t f).poison = s.poison := by cases pp <;> rfl
@[simp] theorem State.modThread_dir (s : State) (pp : Bool) (u t : Nat) (f : Thread → Thread) : (s.modThread pp u t f).dir = s.dir := by cases pp <;> rfl
@[simp] theorem State.modThread_deferred (s : State) (pp : Bool) (u t : Nat) (f : Thread → Thread) : (s.modThread pp u t f).deferred = s.deferred := by cases pp <;> rfl
@[simp] theorem State.modThread_txns (s : State) (pp : Bool) (u t : Nat) (f : Thread → Thread) : (s.modThread pp u t f).txns = s.txns := by cases pp <;> rfl
@[simp] theorem State.modThread_walkSharers (s : State) (pp : Bool) (u t : Nat) (f : Thread → Thread) : (s.modThread pp u t f).walkSharers = s.walkSharers := by cases pp <;> rfl
@[simp] theorem State.modThread_walkStores (s : State) (pp : Bool) (u t : Nat) (f : Thread → Thread) : (s.modThread pp u t f).walkStores = s.walkStores := by cases pp <;> rfl
@[simp] theorem State.modThread_net (s : State) (pp : Bool) (u t : Nat) (f : Thread → Thread) : (s.modThread pp u t f).net = s.net := by cases pp <;> rfl
@[simp] theorem State.modThread_extents (s : State) (pp : Bool) (u t : Nat) (f : Thread → Thread) : (s.modThread pp u t f).extents = s.extents := by cases pp <;> rfl
@[simp] theorem State.modThread_links (s : State) (pp : Bool) (u t : Nat) (f : Thread → Thread) : (s.modThread pp u t f).links = s.links := by cases pp <;> rfl
@[simp] theorem State.modThread_dev (s : State) (pp : Bool) (u t : Nat) (f : Thread → Thread) : (s.modThread pp u t f).dev = s.dev := by cases pp <;> rfl
@[simp] theorem State.modThread_cur (s : State) (pp : Bool) (u t : Nat) (f : Thread → Thread) : (s.modThread pp u t f).cur = s.cur := by cases pp <;> rfl
@[simp] theorem State.modThread_issued (s : State) (pp : Bool) (u t : Nat) (f : Thread → Thread) : (s.modThread pp u t f).issued = s.issued := by cases pp <;> rfl
@[simp] theorem State.modThread_agenda (s : State) (pp : Bool) (u t : Nat) (f : Thread → Thread) : (s.modThread pp u t f).agenda = s.agenda := by cases pp <;> rfl
@[simp] theorem State.modThread_seq (s : State) (pp : Bool) (u t : Nat) (f : Thread → Thread) : (s.modThread pp u t f).seq = s.seq := by cases pp <;> rfl
@[simp] theorem State.modCoreThread_time (s : State) (c t : Nat) (f : Thread → Thread) : (s.modCoreThread c t f).time = s.time := rfl
@[simp] theorem State.modCoreThread_hems (s : State) (c t : Nat) (f : Thread → Thread) : (s.modCoreThread c t f).hems = s.hems := rfl
@[simp] theorem State.modCoreThread_pps (s : State) (c t : Nat) (f : Thread → Thread) : (s.modCoreThread c t f).pps = s.pps := rfl
@[simp] theorem State.modCoreThread_parts (s : State) (c t : Nat) (f : Thread → Thread) : (s.modCoreThread c t f).parts = s.parts := rfl
@[simp] theorem State.modCoreThread_mem (s : State) (c t : Nat) (f : Thread → Thread) : (s.modCoreThread c t f).mem = s.mem := rfl
@[simp] theorem State.modCoreThread_poison (s : State) (c t : Nat) (f : Thread → Thread) : (s.modCoreThread c t f).poison = s.poison := rfl
@[simp] theorem State.modCoreThread_dir (s : State) (c t : Nat) (f : Thread → Thread) : (s.modCoreThread c t f).dir = s.dir := rfl
@[simp] theorem State.modCoreThread_deferred (s : State) (c t : Nat) (f : Thread → Thread) : (s.modCoreThread c t f).deferred = s.deferred := rfl
@[simp] theorem State.modCoreThread_txns (s : State) (c t : Nat) (f : Thread → Thread) : (s.modCoreThread c t f).txns = s.txns := rfl
@[simp] theorem State.modCoreThread_walkSharers (s : State) (c t : Nat) (f : Thread → Thread) : (s.modCoreThread c t f).walkSharers = s.walkSharers := rfl
@[simp] theorem State.modCoreThread_walkStores (s : State) (c t : Nat) (f : Thread → Thread) : (s.modCoreThread c t f).walkStores = s.walkStores := rfl
@[simp] theorem State.modCoreThread_net (s : State) (c t : Nat) (f : Thread → Thread) : (s.modCoreThread c t f).net = s.net := rfl
@[simp] theorem State.modCoreThread_extents (s : State) (c t : Nat) (f : Thread → Thread) : (s.modCoreThread c t f).extents = s.extents := rfl
@[simp] theorem State.modCoreThread_links (s : State) (c t : Nat) (f : Thread → Thread) : (s.modCoreThread c t f).links = s.links := rfl
@[simp] theorem State.modCoreThread_dev (s : State) (c t : Nat) (f : Thread → Thread) : (s.modCoreThread c t f).dev = s.dev := rfl
@[simp] theorem State.modCoreThread_cur (s : State) (c t : Nat) (f : Thread → Thread) : (s.modCoreThread c t f).cur = s.cur := rfl
@[simp] theorem State.modCoreThread_issued (s : State) (c t : Nat) (f : Thread → Thread) : (s.modCoreThread c t f).issued = s.issued := rfl
@[simp] theorem State.modCoreThread_agenda (s : State) (c t : Nat) (f : Thread → Thread) : (s.modCoreThread c t f).agenda = s.agenda := rfl
@[simp] theorem State.modCoreThread_seq (s : State) (c t : Nat) (f : Thread → Thread) : (s.modCoreThread c t f).seq = s.seq := rfl
@[simp] theorem State.setMe_time (s : State) (th : Thread) : (s.setMe th).time = s.time := State.setThread_time ..
@[simp] theorem State.setMe_hems (s : State) (th : Thread) : (s.setMe th).hems = s.hems := State.setThread_hems ..
@[simp] theorem State.setMe_parts (s : State) (th : Thread) : (s.setMe th).parts = s.parts := State.setThread_parts ..
@[simp] theorem State.setMe_mem (s : State) (th : Thread) : (s.setMe th).mem = s.mem := State.setThread_mem ..
@[simp] theorem State.setMe_poison (s : State) (th : Thread) : (s.setMe th).poison = s.poison := State.setThread_poison ..
@[simp] theorem State.setMe_dir (s : State) (th : Thread) : (s.setMe th).dir = s.dir := State.setThread_dir ..
@[simp] theorem State.setMe_deferred (s : State) (th : Thread) : (s.setMe th).deferred = s.deferred := State.setThread_deferred ..
@[simp] theorem State.setMe_txns (s : State) (th : Thread) : (s.setMe th).txns = s.txns := State.setThread_txns ..
@[simp] theorem State.setMe_walkSharers (s : State) (th : Thread) : (s.setMe th).walkSharers = s.walkSharers := State.setThread_walkSharers ..
@[simp] theorem State.setMe_walkStores (s : State) (th : Thread) : (s.setMe th).walkStores = s.walkStores := State.setThread_walkStores ..
@[simp] theorem State.setMe_net (s : State) (th : Thread) : (s.setMe th).net = s.net := State.setThread_net ..
@[simp] theorem State.setMe_extents (s : State) (th : Thread) : (s.setMe th).extents = s.extents := State.setThread_extents ..
@[simp] theorem State.setMe_links (s : State) (th : Thread) : (s.setMe th).links = s.links := State.setThread_links ..
@[simp] theorem State.setMe_dev (s : State) (th : Thread) : (s.setMe th).dev = s.dev := State.setThread_dev ..
@[simp] theorem State.setMe_cur (s : State) (th : Thread) : (s.setMe th).cur = s.cur := State.setThread_cur ..
@[simp] theorem State.setMe_issued (s : State) (th : Thread) : (s.setMe th).issued = s.issued := State.setThread_issued ..
@[simp] theorem State.setMe_agenda (s : State) (th : Thread) : (s.setMe th).agenda = s.agenda := State.setThread_agenda ..
@[simp] theorem State.setMe_seq (s : State) (th : Thread) : (s.setMe th).seq = s.seq := State.setThread_seq ..
@[simp] theorem State.modMe_time (s : State) (f : Thread → Thread) : (s.modMe f).time = s.time := State.setMe_time ..
@[simp] theorem State.modMe_hems (s : State) (f : Thread → Thread) : (s.modMe f).hems = s.hems := State.setMe_hems ..
@[simp] theorem State.modMe_parts (s : State) (f : Thread → Thread) : (s.modMe f).parts = s.parts := State.setMe_parts ..
@[simp] theorem State.modMe_mem (s : State) (f : Thread → Thread) : (s.modMe f).mem = s.mem := State.setMe_mem ..
@[simp] theorem State.modMe_poison (s : State) (f : Thread → Thread) : (s.modMe f).poison = s.poison := State.setMe_poison ..
@[simp] theorem State.modMe_dir (s : State) (f : Thread → Thread) : (s.modMe f).dir = s.dir := State.setMe_dir ..
@[simp] theorem State.modMe_deferred (s : State) (f : Thread → Thread) : (s.modMe f).deferred = s.deferred := State.setMe_deferred ..
@[simp] theorem State.modMe_txns (s : State) (f : Thread → Thread) : (s.modMe f).txns = s.txns := State.setMe_txns ..
@[simp] theorem State.modMe_walkSharers (s : State) (f : Thread → Thread) : (s.modMe f).walkSharers = s.walkSharers := State.setMe_walkSharers ..
@[simp] theorem State.modMe_walkStores (s : State) (f : Thread → Thread) : (s.modMe f).walkStores = s.walkStores := State.setMe_walkStores ..
@[simp] theorem State.modMe_net (s : State) (f : Thread → Thread) : (s.modMe f).net = s.net := State.setMe_net ..
@[simp] theorem State.modMe_extents (s : State) (f : Thread → Thread) : (s.modMe f).extents = s.extents := State.setMe_extents ..
@[simp] theorem State.modMe_links (s : State) (f : Thread → Thread) : (s.modMe f).links = s.links := State.setMe_links ..
@[simp] theorem State.modMe_dev (s : State) (f : Thread → Thread) : (s.modMe f).dev = s.dev := State.setMe_dev ..
@[simp] theorem State.modMe_cur (s : State) (f : Thread → Thread) : (s.modMe f).cur = s.cur := State.setMe_cur ..
@[simp] theorem State.modMe_issued (s : State) (f : Thread → Thread) : (s.modMe f).issued = s.issued := State.setMe_issued ..
@[simp] theorem State.modMe_agenda (s : State) (f : Thread → Thread) : (s.modMe f).agenda = s.agenda := State.setMe_agenda ..
@[simp] theorem State.modMe_seq (s : State) (f : Thread → Thread) : (s.modMe f).seq = s.seq := State.setMe_seq ..
@[simp] theorem State.modRegs_time (s : State) (f : Regs → Regs) : (s.modRegs f).time = s.time := State.modMe_time ..
@[simp] theorem State.modRegs_hems (s : State) (f : Regs → Regs) : (s.modRegs f).hems = s.hems := State.modMe_hems ..
@[simp] theorem State.modRegs_parts (s : State) (f : Regs → Regs) : (s.modRegs f).parts = s.parts := State.modMe_parts ..
@[simp] theorem State.modRegs_mem (s : State) (f : Regs → Regs) : (s.modRegs f).mem = s.mem := State.modMe_mem ..
@[simp] theorem State.modRegs_poison (s : State) (f : Regs → Regs) : (s.modRegs f).poison = s.poison := State.modMe_poison ..
@[simp] theorem State.modRegs_dir (s : State) (f : Regs → Regs) : (s.modRegs f).dir = s.dir := State.modMe_dir ..
@[simp] theorem State.modRegs_deferred (s : State) (f : Regs → Regs) : (s.modRegs f).deferred = s.deferred := State.modMe_deferred ..
@[simp] theorem State.modRegs_txns (s : State) (f : Regs → Regs) : (s.modRegs f).txns = s.txns := State.modMe_txns ..
@[simp] theorem State.modRegs_walkSharers (s : State) (f : Regs → Regs) : (s.modRegs f).walkSharers = s.walkSharers := State.modMe_walkSharers ..
@[simp] theorem State.modRegs_walkStores (s : State) (f : Regs → Regs) : (s.modRegs f).walkStores = s.walkStores := State.modMe_walkStores ..
@[simp] theorem State.modRegs_net (s : State) (f : Regs → Regs) : (s.modRegs f).net = s.net := State.modMe_net ..
@[simp] theorem State.modRegs_extents (s : State) (f : Regs → Regs) : (s.modRegs f).extents = s.extents := State.modMe_extents ..
@[simp] theorem State.modRegs_links (s : State) (f : Regs → Regs) : (s.modRegs f).links = s.links := State.modMe_links ..
@[simp] theorem State.modRegs_dev (s : State) (f : Regs → Regs) : (s.modRegs f).dev = s.dev := State.modMe_dev ..
@[simp] theorem State.modRegs_cur (s : State) (f : Regs → Regs) : (s.modRegs f).cur = s.cur := State.modMe_cur ..
@[simp] theorem State.modRegs_issued (s : State) (f : Regs → Regs) : (s.modRegs f).issued = s.issued := State.modMe_issued ..
@[simp] theorem State.modRegs_agenda (s : State) (f : Regs → Regs) : (s.modRegs f).agenda = s.agenda := State.modMe_agenda ..
@[simp] theorem State.modRegs_seq (s : State) (f : Regs → Regs) : (s.modRegs f).seq = s.seq := State.modMe_seq ..
@[simp] theorem State.modQueues_time (s : State) (f : Queues → Queues) : (s.modQueues f).time = s.time := State.modMe_time ..
@[simp] theorem State.modQueues_hems (s : State) (f : Queues → Queues) : (s.modQueues f).hems = s.hems := State.modMe_hems ..
@[simp] theorem State.modQueues_parts (s : State) (f : Queues → Queues) : (s.modQueues f).parts = s.parts := State.modMe_parts ..
@[simp] theorem State.modQueues_mem (s : State) (f : Queues → Queues) : (s.modQueues f).mem = s.mem := State.modMe_mem ..
@[simp] theorem State.modQueues_poison (s : State) (f : Queues → Queues) : (s.modQueues f).poison = s.poison := State.modMe_poison ..
@[simp] theorem State.modQueues_dir (s : State) (f : Queues → Queues) : (s.modQueues f).dir = s.dir := State.modMe_dir ..
@[simp] theorem State.modQueues_deferred (s : State) (f : Queues → Queues) : (s.modQueues f).deferred = s.deferred := State.modMe_deferred ..
@[simp] theorem State.modQueues_txns (s : State) (f : Queues → Queues) : (s.modQueues f).txns = s.txns := State.modMe_txns ..
@[simp] theorem State.modQueues_walkSharers (s : State) (f : Queues → Queues) : (s.modQueues f).walkSharers = s.walkSharers := State.modMe_walkSharers ..
@[simp] theorem State.modQueues_walkStores (s : State) (f : Queues → Queues) : (s.modQueues f).walkStores = s.walkStores := State.modMe_walkStores ..
@[simp] theorem State.modQueues_net (s : State) (f : Queues → Queues) : (s.modQueues f).net = s.net := State.modMe_net ..
@[simp] theorem State.modQueues_extents (s : State) (f : Queues → Queues) : (s.modQueues f).extents = s.extents := State.modMe_extents ..
@[simp] theorem State.modQueues_links (s : State) (f : Queues → Queues) : (s.modQueues f).links = s.links := State.modMe_links ..
@[simp] theorem State.modQueues_dev (s : State) (f : Queues → Queues) : (s.modQueues f).dev = s.dev := State.modMe_dev ..
@[simp] theorem State.modQueues_cur (s : State) (f : Queues → Queues) : (s.modQueues f).cur = s.cur := State.modMe_cur ..
@[simp] theorem State.modQueues_issued (s : State) (f : Queues → Queues) : (s.modQueues f).issued = s.issued := State.modMe_issued ..
@[simp] theorem State.modQueues_agenda (s : State) (f : Queues → Queues) : (s.modQueues f).agenda = s.agenda := State.modMe_agenda ..
@[simp] theorem State.modQueues_seq (s : State) (f : Queues → Queues) : (s.modQueues f).seq = s.seq := State.modMe_seq ..

/-! ## Registers -/

@[simp] theorem State.setXOf_time (s : State) (pp : Bool) (u t r : Nat) (v : Word) : (s.setXOf pp u t r v).time = s.time := by
  cases pp <;> (unfold State.setXOf; split <;> rfl)
@[simp] theorem State.setXOf_hems (s : State) (pp : Bool) (u t r : Nat) (v : Word) : (s.setXOf pp u t r v).hems = s.hems := by
  cases pp <;> (unfold State.setXOf; split <;> rfl)
@[simp] theorem State.setXOf_parts (s : State) (pp : Bool) (u t r : Nat) (v : Word) : (s.setXOf pp u t r v).parts = s.parts := by
  cases pp <;> (unfold State.setXOf; split <;> rfl)
@[simp] theorem State.setXOf_mem (s : State) (pp : Bool) (u t r : Nat) (v : Word) : (s.setXOf pp u t r v).mem = s.mem := by
  cases pp <;> (unfold State.setXOf; split <;> rfl)
@[simp] theorem State.setXOf_poison (s : State) (pp : Bool) (u t r : Nat) (v : Word) : (s.setXOf pp u t r v).poison = s.poison := by
  cases pp <;> (unfold State.setXOf; split <;> rfl)
@[simp] theorem State.setXOf_dir (s : State) (pp : Bool) (u t r : Nat) (v : Word) : (s.setXOf pp u t r v).dir = s.dir := by
  cases pp <;> (unfold State.setXOf; split <;> rfl)
@[simp] theorem State.setXOf_deferred (s : State) (pp : Bool) (u t r : Nat) (v : Word) : (s.setXOf pp u t r v).deferred = s.deferred := by
  cases pp <;> (unfold State.setXOf; split <;> rfl)
@[simp] theorem State.setXOf_txns (s : State) (pp : Bool) (u t r : Nat) (v : Word) : (s.setXOf pp u t r v).txns = s.txns := by
  cases pp <;> (unfold State.setXOf; split <;> rfl)
@[simp] theorem State.setXOf_walkSharers (s : State) (pp : Bool) (u t r : Nat) (v : Word) : (s.setXOf pp u t r v).walkSharers = s.walkSharers := by
  cases pp <;> (unfold State.setXOf; split <;> rfl)
@[simp] theorem State.setXOf_walkStores (s : State) (pp : Bool) (u t r : Nat) (v : Word) : (s.setXOf pp u t r v).walkStores = s.walkStores := by
  cases pp <;> (unfold State.setXOf; split <;> rfl)
@[simp] theorem State.setXOf_net (s : State) (pp : Bool) (u t r : Nat) (v : Word) : (s.setXOf pp u t r v).net = s.net := by
  cases pp <;> (unfold State.setXOf; split <;> rfl)
@[simp] theorem State.setXOf_extents (s : State) (pp : Bool) (u t r : Nat) (v : Word) : (s.setXOf pp u t r v).extents = s.extents := by
  cases pp <;> (unfold State.setXOf; split <;> rfl)
@[simp] theorem State.setXOf_links (s : State) (pp : Bool) (u t r : Nat) (v : Word) : (s.setXOf pp u t r v).links = s.links := by
  cases pp <;> (unfold State.setXOf; split <;> rfl)
@[simp] theorem State.setXOf_dev (s : State) (pp : Bool) (u t r : Nat) (v : Word) : (s.setXOf pp u t r v).dev = s.dev := by
  cases pp <;> (unfold State.setXOf; split <;> rfl)
@[simp] theorem State.setXOf_cur (s : State) (pp : Bool) (u t r : Nat) (v : Word) : (s.setXOf pp u t r v).cur = s.cur := by
  cases pp <;> (unfold State.setXOf; split <;> rfl)
@[simp] theorem State.setXOf_issued (s : State) (pp : Bool) (u t r : Nat) (v : Word) : (s.setXOf pp u t r v).issued = s.issued := by
  cases pp <;> (unfold State.setXOf; split <;> rfl)
@[simp] theorem State.setXOf_agenda (s : State) (pp : Bool) (u t r : Nat) (v : Word) : (s.setXOf pp u t r v).agenda = s.agenda := by
  cases pp <;> (unfold State.setXOf; split <;> rfl)
@[simp] theorem State.setXOf_seq (s : State) (pp : Bool) (u t r : Nat) (v : Word) : (s.setXOf pp u t r v).seq = s.seq := by
  cases pp <;> (unfold State.setXOf; split <;> rfl)
@[simp] theorem State.setX_time (s : State) (r : Nat) (v : Word) : (s.setX r v).time = s.time := State.setXOf_time ..
@[simp] theorem State.setX_hems (s : State) (r : Nat) (v : Word) : (s.setX r v).hems = s.hems := State.setXOf_hems ..
@[simp] theorem State.setX_parts (s : State) (r : Nat) (v : Word) : (s.setX r v).parts = s.parts := State.setXOf_parts ..
@[simp] theorem State.setX_mem (s : State) (r : Nat) (v : Word) : (s.setX r v).mem = s.mem := State.setXOf_mem ..
@[simp] theorem State.setX_poison (s : State) (r : Nat) (v : Word) : (s.setX r v).poison = s.poison := State.setXOf_poison ..
@[simp] theorem State.setX_dir (s : State) (r : Nat) (v : Word) : (s.setX r v).dir = s.dir := State.setXOf_dir ..
@[simp] theorem State.setX_deferred (s : State) (r : Nat) (v : Word) : (s.setX r v).deferred = s.deferred := State.setXOf_deferred ..
@[simp] theorem State.setX_txns (s : State) (r : Nat) (v : Word) : (s.setX r v).txns = s.txns := State.setXOf_txns ..
@[simp] theorem State.setX_walkSharers (s : State) (r : Nat) (v : Word) : (s.setX r v).walkSharers = s.walkSharers := State.setXOf_walkSharers ..
@[simp] theorem State.setX_walkStores (s : State) (r : Nat) (v : Word) : (s.setX r v).walkStores = s.walkStores := State.setXOf_walkStores ..
@[simp] theorem State.setX_net (s : State) (r : Nat) (v : Word) : (s.setX r v).net = s.net := State.setXOf_net ..
@[simp] theorem State.setX_extents (s : State) (r : Nat) (v : Word) : (s.setX r v).extents = s.extents := State.setXOf_extents ..
@[simp] theorem State.setX_links (s : State) (r : Nat) (v : Word) : (s.setX r v).links = s.links := State.setXOf_links ..
@[simp] theorem State.setX_dev (s : State) (r : Nat) (v : Word) : (s.setX r v).dev = s.dev := State.setXOf_dev ..
@[simp] theorem State.setX_cur (s : State) (r : Nat) (v : Word) : (s.setX r v).cur = s.cur := State.setXOf_cur ..
@[simp] theorem State.setX_issued (s : State) (r : Nat) (v : Word) : (s.setX r v).issued = s.issued := State.setXOf_issued ..
@[simp] theorem State.setX_agenda (s : State) (r : Nat) (v : Word) : (s.setX r v).agenda = s.agenda := State.setXOf_agenda ..
@[simp] theorem State.setX_seq (s : State) (r : Nat) (v : Word) : (s.setX r v).seq = s.seq := State.setXOf_seq ..
@[simp] theorem State.setV_time (s : State) (r : Nat) (v : Vec) : (s.setV r v).time = s.time := rfl
@[simp] theorem State.setV_hems (s : State) (r : Nat) (v : Vec) : (s.setV r v).hems = s.hems := rfl
@[simp] theorem State.setV_pps (s : State) (r : Nat) (v : Vec) : (s.setV r v).pps = s.pps := rfl
@[simp] theorem State.setV_parts (s : State) (r : Nat) (v : Vec) : (s.setV r v).parts = s.parts := rfl
@[simp] theorem State.setV_mem (s : State) (r : Nat) (v : Vec) : (s.setV r v).mem = s.mem := rfl
@[simp] theorem State.setV_poison (s : State) (r : Nat) (v : Vec) : (s.setV r v).poison = s.poison := rfl
@[simp] theorem State.setV_dir (s : State) (r : Nat) (v : Vec) : (s.setV r v).dir = s.dir := rfl
@[simp] theorem State.setV_deferred (s : State) (r : Nat) (v : Vec) : (s.setV r v).deferred = s.deferred := rfl
@[simp] theorem State.setV_txns (s : State) (r : Nat) (v : Vec) : (s.setV r v).txns = s.txns := rfl
@[simp] theorem State.setV_walkSharers (s : State) (r : Nat) (v : Vec) : (s.setV r v).walkSharers = s.walkSharers := rfl
@[simp] theorem State.setV_walkStores (s : State) (r : Nat) (v : Vec) : (s.setV r v).walkStores = s.walkStores := rfl
@[simp] theorem State.setV_net (s : State) (r : Nat) (v : Vec) : (s.setV r v).net = s.net := rfl
@[simp] theorem State.setV_extents (s : State) (r : Nat) (v : Vec) : (s.setV r v).extents = s.extents := rfl
@[simp] theorem State.setV_links (s : State) (r : Nat) (v : Vec) : (s.setV r v).links = s.links := rfl
@[simp] theorem State.setV_dev (s : State) (r : Nat) (v : Vec) : (s.setV r v).dev = s.dev := rfl
@[simp] theorem State.setV_cur (s : State) (r : Nat) (v : Vec) : (s.setV r v).cur = s.cur := rfl
@[simp] theorem State.setV_issued (s : State) (r : Nat) (v : Vec) : (s.setV r v).issued = s.issued := rfl
@[simp] theorem State.setV_agenda (s : State) (r : Nat) (v : Vec) : (s.setV r v).agenda = s.agenda := rfl
@[simp] theorem State.setV_seq (s : State) (r : Nat) (v : Vec) : (s.setV r v).seq = s.seq := rfl
@[simp] theorem State.setMask_time (s : State) (r : Nat) (v : Mask) : (s.setMask r v).time = s.time := by
  unfold State.setMask; split <;> simp
@[simp] theorem State.setMask_hems (s : State) (r : Nat) (v : Mask) : (s.setMask r v).hems = s.hems := by
  unfold State.setMask; split <;> simp
@[simp] theorem State.setMask_parts (s : State) (r : Nat) (v : Mask) : (s.setMask r v).parts = s.parts := by
  unfold State.setMask; split <;> simp
@[simp] theorem State.setMask_mem (s : State) (r : Nat) (v : Mask) : (s.setMask r v).mem = s.mem := by
  unfold State.setMask; split <;> simp
@[simp] theorem State.setMask_poison (s : State) (r : Nat) (v : Mask) : (s.setMask r v).poison = s.poison := by
  unfold State.setMask; split <;> simp
@[simp] theorem State.setMask_dir (s : State) (r : Nat) (v : Mask) : (s.setMask r v).dir = s.dir := by
  unfold State.setMask; split <;> simp
@[simp] theorem State.setMask_deferred (s : State) (r : Nat) (v : Mask) : (s.setMask r v).deferred = s.deferred := by
  unfold State.setMask; split <;> simp
@[simp] theorem State.setMask_txns (s : State) (r : Nat) (v : Mask) : (s.setMask r v).txns = s.txns := by
  unfold State.setMask; split <;> simp
@[simp] theorem State.setMask_walkSharers (s : State) (r : Nat) (v : Mask) : (s.setMask r v).walkSharers = s.walkSharers := by
  unfold State.setMask; split <;> simp
@[simp] theorem State.setMask_walkStores (s : State) (r : Nat) (v : Mask) : (s.setMask r v).walkStores = s.walkStores := by
  unfold State.setMask; split <;> simp
@[simp] theorem State.setMask_net (s : State) (r : Nat) (v : Mask) : (s.setMask r v).net = s.net := by
  unfold State.setMask; split <;> simp
@[simp] theorem State.setMask_extents (s : State) (r : Nat) (v : Mask) : (s.setMask r v).extents = s.extents := by
  unfold State.setMask; split <;> simp
@[simp] theorem State.setMask_links (s : State) (r : Nat) (v : Mask) : (s.setMask r v).links = s.links := by
  unfold State.setMask; split <;> simp
@[simp] theorem State.setMask_dev (s : State) (r : Nat) (v : Mask) : (s.setMask r v).dev = s.dev := by
  unfold State.setMask; split <;> simp
@[simp] theorem State.setMask_cur (s : State) (r : Nat) (v : Mask) : (s.setMask r v).cur = s.cur := by
  unfold State.setMask; split <;> simp
@[simp] theorem State.setMask_issued (s : State) (r : Nat) (v : Mask) : (s.setMask r v).issued = s.issued := by
  unfold State.setMask; split <;> simp
@[simp] theorem State.setMask_agenda (s : State) (r : Nat) (v : Mask) : (s.setMask r v).agenda = s.agenda := by
  unfold State.setMask; split <;> simp
@[simp] theorem State.setMask_seq (s : State) (r : Nat) (v : Mask) : (s.setMask r v).seq = s.seq := by
  unfold State.setMask; split <;> simp

/-! ## Partitions -/

@[simp] theorem State.modPart_time (s : State) (id : Nat) (f : Partition → Partition) : (s.modPart id f).time = s.time := by
  unfold State.modPart; split <;> rfl
@[simp] theorem State.modPart_cores (s : State) (id : Nat) (f : Partition → Partition) : (s.modPart id f).cores = s.cores := by
  unfold State.modPart; split <;> rfl
@[simp] theorem State.modPart_hems (s : State) (id : Nat) (f : Partition → Partition) : (s.modPart id f).hems = s.hems := by
  unfold State.modPart; split <;> rfl
@[simp] theorem State.modPart_pps (s : State) (id : Nat) (f : Partition → Partition) : (s.modPart id f).pps = s.pps := by
  unfold State.modPart; split <;> rfl
@[simp] theorem State.modPart_mem (s : State) (id : Nat) (f : Partition → Partition) : (s.modPart id f).mem = s.mem := by
  unfold State.modPart; split <;> rfl
@[simp] theorem State.modPart_poison (s : State) (id : Nat) (f : Partition → Partition) : (s.modPart id f).poison = s.poison := by
  unfold State.modPart; split <;> rfl
@[simp] theorem State.modPart_dir (s : State) (id : Nat) (f : Partition → Partition) : (s.modPart id f).dir = s.dir := by
  unfold State.modPart; split <;> rfl
@[simp] theorem State.modPart_deferred (s : State) (id : Nat) (f : Partition → Partition) : (s.modPart id f).deferred = s.deferred := by
  unfold State.modPart; split <;> rfl
@[simp] theorem State.modPart_txns (s : State) (id : Nat) (f : Partition → Partition) : (s.modPart id f).txns = s.txns := by
  unfold State.modPart; split <;> rfl
@[simp] theorem State.modPart_walkSharers (s : State) (id : Nat) (f : Partition → Partition) : (s.modPart id f).walkSharers = s.walkSharers := by
  unfold State.modPart; split <;> rfl
@[simp] theorem State.modPart_walkStores (s : State) (id : Nat) (f : Partition → Partition) : (s.modPart id f).walkStores = s.walkStores := by
  unfold State.modPart; split <;> rfl
@[simp] theorem State.modPart_net (s : State) (id : Nat) (f : Partition → Partition) : (s.modPart id f).net = s.net := by
  unfold State.modPart; split <;> rfl
@[simp] theorem State.modPart_extents (s : State) (id : Nat) (f : Partition → Partition) : (s.modPart id f).extents = s.extents := by
  unfold State.modPart; split <;> rfl
@[simp] theorem State.modPart_links (s : State) (id : Nat) (f : Partition → Partition) : (s.modPart id f).links = s.links := by
  unfold State.modPart; split <;> rfl
@[simp] theorem State.modPart_dev (s : State) (id : Nat) (f : Partition → Partition) : (s.modPart id f).dev = s.dev := by
  unfold State.modPart; split <;> rfl
@[simp] theorem State.modPart_cur (s : State) (id : Nat) (f : Partition → Partition) : (s.modPart id f).cur = s.cur := by
  unfold State.modPart; split <;> rfl
@[simp] theorem State.modPart_issued (s : State) (id : Nat) (f : Partition → Partition) : (s.modPart id f).issued = s.issued := by
  unfold State.modPart; split <;> rfl
@[simp] theorem State.modPart_agenda (s : State) (id : Nat) (f : Partition → Partition) : (s.modPart id f).agenda = s.agenda := by
  unfold State.modPart; split <;> rfl
@[simp] theorem State.modPart_seq (s : State) (id : Nat) (f : Partition → Partition) : (s.modPart id f).seq = s.seq := by
  unfold State.modPart; split <;> rfl

/-! ## Reading a part after writing one -/

@[simp] theorem State.core_setCore_self (s : State) (c : Nat) (k : Core) : (s.setCore c k).core c = k := by
  simp [State.core, State.setCore]
theorem State.core_setCore_ne (s : State) {c d : Nat} (k : Core) (h : d ≠ c) : (s.setCore c k).core d = s.core d := by
  simp [State.core, State.setCore, Map.at_put_ne _ _ _ h]
@[simp] theorem State.core_modCore_self (s : State) (c : Nat) (f : Core → Core) : (s.modCore c f).core c = f (s.core c) := by
  simp [State.modCore]
theorem State.core_modCore_ne (s : State) {c d : Nat} (f : Core → Core) (h : d ≠ c) :
    (s.modCore c f).core d = s.core d := State.core_setCore_ne s _ h
@[simp] theorem State.hem_setHem_self (s : State) (h : Nat) (k : Hem) : (s.setHem h k).hem h = k := by
  simp [State.hem, State.setHem]
theorem State.hem_setHem_ne (s : State) {h g : Nat} (k : Hem) (n : g ≠ h) : (s.setHem h k).hem g = s.hem g := by
  simp [State.hem, State.setHem, Map.at_put_ne _ _ _ n]
@[simp] theorem State.hem_modHem_self (s : State) (h : Nat) (f : Hem → Hem) : (s.modHem h f).hem h = f (s.hem h) := by
  simp [State.modHem]
theorem State.hem_modHem_ne (s : State) {h g : Nat} (f : Hem → Hem) (n : g ≠ h) :
    (s.modHem h f).hem g = s.hem g := State.hem_setHem_ne s _ n
@[simp] theorem State.pp_setPP_self (s : State) (n : Nat) (k : PP) : (s.setPP n k).pp n = k := by
  simp [State.pp, State.setPP]
theorem State.pp_setPP_ne (s : State) {n m : Nat} (k : PP) (h : m ≠ n) : (s.setPP n k).pp m = s.pp m := by
  simp [State.pp, State.setPP, Map.at_put_ne _ _ _ h]
@[simp] theorem State.pp_modPP_self (s : State) (n : Nat) (f : PP → PP) : (s.modPP n f).pp n = f (s.pp n) := by
  simp [State.modPP]
theorem State.pp_modPP_ne (s : State) {n m : Nat} (f : PP → PP) (h : m ≠ n) :
    (s.modPP n f).pp m = s.pp m := State.pp_setPP_ne s _ h

@[simp] theorem State.hem_modCore (s : State) (c : Nat) (f : Core → Core) (h : Nat) : (s.modCore c f).hem h = s.hem h := rfl
@[simp] theorem State.pp_modCore (s : State) (c : Nat) (f : Core → Core) (n : Nat) : (s.modCore c f).pp n = s.pp n := rfl
@[simp] theorem State.core_modHem (s : State) (c : Nat) (f : Hem → Hem) (h : Nat) : (s.modHem h f).core c = s.core c := rfl
@[simp] theorem State.core_modPP (s : State) (c : Nat) (f : PP → PP) (n : Nat) : (s.modPP n f).core c = s.core c := rfl
@[simp] theorem State.hem_modPP (s : State) (h : Nat) (f : PP → PP) (n : Nat) : (s.modPP n f).hem h = s.hem h := rfl
@[simp] theorem State.pp_modHem (s : State) (n : Nat) (f : Hem → Hem) (h : Nat) : (s.modHem h f).pp n = s.pp n := rfl

@[simp] theorem Core.thread_setThread_self (k : Core) (t : Nat) (th : Thread) : (k.setThread t th).thread t = th := by
  simp [Core.thread, Core.setThread]
theorem Core.thread_setThread_ne (k : Core) {t u : Nat} (th : Thread) (h : u ≠ t) :
    (k.setThread t th).thread u = k.thread u := by
  simp [Core.thread, Core.setThread, Map.at_put_ne _ _ _ h]

/-- The slot that is written. -/
@[simp] theorem State.thread_setThread_self (s : State) (pp : Bool) (u t : Nat) (th : Thread) :
    (s.setThread pp u t th).thread pp u t = th := by
  cases pp <;> simp [State.thread, State.setThread, State.modHandler, PP.handler]

/-- Every other slot. -/
theorem State.thread_setThread_ne (s : State) (pp qq : Bool) (u t v r : Nat) (th : Thread)
    (h : ¬ (qq = pp ∧ v = u ∧ r = t)) : (s.setThread pp u t th).thread qq v r = s.thread qq v r := by
  cases pp <;> cases qq
  · by_cases hv : v = u
    · subst hv
      have hr : r ≠ t := fun e => h ⟨rfl, rfl, e⟩
      simp [State.thread, State.setThread, Core.thread_setThread_ne _ _ hr]
    · simp [State.thread, State.setThread, State.core_modCore_ne _ _ hv]
  · simp [State.thread, State.setThread]
  · simp [State.thread, State.setThread, State.modHandler]
  · by_cases hv : v = u
    · subst hv
      have hr : r ≠ t := fun e => h ⟨rfl, rfl, e⟩
      simp [State.thread, State.setThread, State.modHandler, PP.handler, Map.at_put_ne _ _ _ hr]
    · simp [State.thread, State.setThread, State.modHandler, State.pp_modPP_ne _ _ hv]

@[simp] theorem State.me_setMe (s : State) (th : Thread) : (s.setMe th).me = th := by
  simp [State.me, State.setMe]
@[simp] theorem State.me_modMe (s : State) (f : Thread → Thread) : (s.modMe f).me = f s.me := by
  simp [State.modMe]

/-- A slot's update leaves the rest of its core. -/
theorem State.core_setThread (s : State) (pp : Bool) (u t : Nat) (th : Thread) (c : Nat) :
    (s.setThread pp u t th).core c = if pp = false ∧ c = u then (s.core c).setThread t th else s.core c := by
  cases pp
  · by_cases h : c = u
    · subst h; simp [State.setThread]
    · simp [State.setThread, State.core_modCore_ne _ _ h, h]
  · simp [State.setThread, State.modHandler]

@[simp] theorem State.hem_setThread (s : State) (pp : Bool) (u t : Nat) (th : Thread) (h : Nat) :
    (s.setThread pp u t th).hem h = s.hem h := by simp [State.hem]

@[simp] theorem State.hem_modMe (s : State) (f : Thread → Thread) (h : Nat) : (s.modMe f).hem h = s.hem h := by
  simp [State.hem]

/-- What the register files are after a slot's own update: unchanged. -/
@[simp] theorem State.xOf_setThread (s : State) (pp qq : Bool) (u t v r n : Nat) (th : Thread) :
    (s.setThread pp u t th).xOf qq v r n = s.xOf qq v r n := by
  unfold State.xOf
  split
  · rfl
  · cases qq
    · simp only [Bool.false_eq_true, if_false, State.core_setThread]
      split <;> rfl
    · cases pp
      · rfl
      · by_cases hv : v = u
        · subst hv; simp [State.setThread, State.modHandler]
        · simp [State.setThread, State.modHandler, State.pp_modPP_ne _ _ hv]

@[simp] theorem State.x_modMe (s : State) (f : Thread → Thread) (r : Nat) : (s.modMe f).x r = s.x r := by
  simp [State.x, State.modMe, State.setMe]
@[simp] theorem State.v_modMe (s : State) (f : Thread → Thread) (r : Nat) : (s.modMe f).v r = s.v r := by
  simp only [State.v, State.myCore, State.modMe, State.setMe, State.core_setThread, State.setThread_cur]
  split <;> rfl

/-- The register that is written; x0 stays zero (R39). -/
theorem State.xOf_setXOf_self (s : State) (pp : Bool) (u t r : Nat) (v : Word) :
    (s.setXOf pp u t r v).xOf pp u t r = if r = 0 then 0 else v := by
  unfold State.setXOf State.xOf
  split
  · rfl
  · cases pp <;> simp

theorem State.x_setX_self (s : State) (r : Nat) (v : Word) : (s.setX r v).x r = if r = 0 then 0 else v := by
  simp only [State.x, State.setX_cur]
  exact State.xOf_setXOf_self ..

/-- Every other register of the slot. -/
theorem State.xOf_setXOf_ne (s : State) (pp : Bool) (u t r n : Nat) (v : Word) (h : n ≠ r) :
    (s.setXOf pp u t r v).xOf pp u t n = s.xOf pp u t n := by
  unfold State.setXOf
  split
  · rfl
  · unfold State.xOf
    split
    · rfl
    · cases pp
      · have : scalarBase t + n ≠ scalarBase t + r := by omega
        simp [Map.at_put_ne _ _ _ this]
      · have : t * 32 + n ≠ t * 32 + r := by omega
        simp [Map.at_put_ne _ _ _ this]

theorem State.x_setX_ne (s : State) {r n : Nat} (v : Word) (h : n ≠ r) : (s.setX r v).x n = s.x n := by
  simp only [State.x, State.setX_cur]
  exact State.xOf_setXOf_ne _ _ _ _ _ _ _ h

@[simp] theorem State.thread_setXOf (s : State) (pp qq : Bool) (u t r a b : Nat) (v : Word) :
    (s.setXOf pp u t r v).thread qq a b = s.thread qq a b := by
  unfold State.setXOf
  split
  · rfl
  · cases pp
    · by_cases h : a = u
      · subst h; cases qq <;> simp [State.thread, Core.thread]
      · cases qq <;> simp [State.thread, State.core_modCore_ne _ _ h]
    · by_cases h : a = u
      · subst h; cases qq <;> simp [State.thread, PP.handler]
      · cases qq <;> simp [State.thread, State.pp_modPP_ne _ _ h]

end Sys2Proof.Machine
end

