-- ==== Sys2Proof/Laws/Ops.lean ====
section
/-! SUPPORT. What carrying out one instruction does, said once: every meaning is `issue` of its fields and its body. -/

namespace Sys2Proof.Machine

@[simp] theorem except_ok_bind {ε α β : Type} (a : α) (f : α → Except ε β) : (Except.ok a >>= f) = f a := rfl
@[simp] theorem except_error_bind {ε α β : Type} (e : ε) (f : α → Except ε β) : (Except.error e >>= f) = .error e := rfl

@[simp] theorem must_true (c : Nat) (v : Nat) : must true c v = .ok () := rfl

theorem State.settled_iff (s : State) :
    s.settled = true ↔ s.cur.valid = true ∧ s.me.lateTrap = none ∧ s.me.pending = [] ∧ s.me.asks = [] := by
  simp [State.settled, and_assoc]

theorem State.has_iff (s : State) (r : Nat) : s.has r = true ↔ r < 120 ∧ (r = 0 ∨ r < s.slim) := by simp [State.has]
theorem State.hasV_iff (s : State) (r : Nat) : s.hasV r = true ↔ r < s.vlim := by simp [State.hasV]

theorem Fld.legal_q7 {s : State} {f : Fld} (h : f.legal s = true) : (s.me.priv == .u && f.q7) = false := by
  cases f <;> simp only [Fld.legal, Fld.q7, Bool.and_false] at h ⊢
  all_goals
    cases hp : s.me.priv == .u <;> simp_all [State.has]
  all_goals omega

theorem Fld.legal_bound {s : State} {f : Fld} (h : f.legal s = true) : f.unbound s.slim s.vlim = Option.none := by
  cases f <;> simp_all [Fld.legal, Fld.unbound, State.has, State.hasV]
  all_goals omega

theorem Fld.legal_way {s : State} {f : Fld} (h : f.legal s = true) : f.wrongWay = Option.none := by
  cases f <;> simp_all [Fld.legal, Fld.wrongWay, State.has] <;> omega

theorem Fld.plain_legal {s : State} {f : Fld} (h : f.plain s = true) : f.legal s = true := by
  cases f <;> simp_all [Fld.plain, Fld.legal]

theorem readFld_some {s t : State} {f : Fld} {v : Word} (h : s.operand f = some (v, t)) (l : List Fld) :
    readFld f l s = .ok (v, t) := by
  cases f <;> simp only [State.operand, readFld] at h ⊢
  all_goals first
    | (simp only [Option.some.injEq, Prod.mk.injEq] at h; obtain ⟨rfl, rfl⟩ := h; rfl)
    | (split at h
       · next hr =>
         simp only [Option.some.injEq, Prod.mk.injEq] at h; obtain ⟨rfl, rfl⟩ := h; simp [hr]
       · next hr => simp [hr, h])

/-- The checks of R104 that follow decoding pass for legal fields. -/
theorem checkFields_legal {s : State} {u : Uses} (h : u.legal s = true) : checkFields s u = .ok () := by
  simp only [Uses.legal, Uses.list, List.all_cons, List.all_nil, Bool.and_true, Bool.and_eq_true, Bool.not_eq_true'] at h
  obtain ⟨⟨ha, hb, hd⟩, hsys⟩ := h
  have hq : (s.me.priv == .u && (u.sys || u.list.any Fld.q7)) = false := by
    have h1 := Fld.legal_q7 ha
    have h2 := Fld.legal_q7 hb
    have h3 := Fld.legal_q7 hd
    simp only [Uses.list, List.any_cons, List.any_nil, Bool.or_false]
    generalize (s.me.priv == Priv.u) = p at *
    cases p <;> simp_all
  have hb' : u.list.findSome? (Fld.unbound s.slim s.vlim) = none := by
    simp [Uses.list, Fld.legal_bound ha, Fld.legal_bound hb, Fld.legal_bound hd]
  have hw : u.list.findSome? Fld.wrongWay = none := by
    simp [Uses.list, Fld.legal_way ha, Fld.legal_way hb, Fld.legal_way hd]
  simp only [checkFields, hq, hb', hw, Bool.not_false, must_true, except_ok_bind]

/-- An instruction that gets past its operand checks has its own effect on the state whose pc is past it. -/
theorem issue_begins {u : Uses} {body : Word → Word → Word → State → Exec State} {s t : State} {a b c : Word}
    (h : s.Begins u a b c t) : issue u body s = .next (s.ends (body a b c t)) := by
  obtain ⟨hs, hu, r, ho, rfl⟩ := h
  obtain ⟨hv, hl, hp, hk⟩ := (State.settled_iff s).1 hs
  have hpend : checkPending s u = .ok () := by simp [checkPending, lateTrapOf, hp]
  unfold State.operands at ho
  split at ho
  · simp at ho
  · next ha =>
    split at ho
    · simp at ho
    · next hb =>
      split at ho
      · simp at ho
      · next hd =>
        simp only [Option.some.injEq, Prod.mk.injEq] at ho
        obtain ⟨rfl, rfl, rfl, rfl⟩ := ho
        simp only [issue, hv, if_true, runInstr, runBody, hl, checkFields_legal hu, hpend, except_ok_bind,
          readFld_some ha, readFld_some hb, readFld_some hd, hk]
        rfl

/-- Fields that name registers supply them. -/
theorem State.begins_plain {s : State} {u : Uses} (hs : s.settled = true) (hu : u.plain s = true)
    (hp : (u.sys && s.me.priv == .u) = false) :
    s.Begins u (u.a.value s) (u.b.value s) (u.d.value s) s.advanced := by
  simp only [Uses.plain, Uses.list, List.all_cons, List.all_nil, Bool.and_true, Bool.and_eq_true] at hu
  obtain ⟨ha, hb, hd⟩ := hu
  have ho (f : Fld) (hf : f.plain s = true) : s.operand f = some (f.value s, s) := by
    cases f <;> simp_all [Fld.plain, State.operand, Fld.value, State.has]
  refine ⟨hs, ?_, s, ?_, rfl⟩
  · simp [Uses.legal, Uses.list, Fld.plain_legal ha, Fld.plain_legal hb, Fld.plain_legal hd, hp]
  · simp [State.operands, ho _ ha, ho _ hb, ho _ hd]

set_option maxHeartbeats 4000000 in
/-- Every instruction with fields is `issue` of them. -/
theorem exec_eq_issue {s : State} {i : Instr} {u : Uses} (h : usesOf s i = some u) : ∃ body, exec i s = issue u body s := by
  cases i
  all_goals first | (injection h with h; subst h; exact ⟨_, rfl⟩) | (injection h)

/-- An instruction that fails the checks of its fields. -/
theorem issue_checks {u : Uses} {body : Word → Word → Word → State → Exec State} {s : State} {h : Halt}
    (hv : s.cur.valid = true) (hl : s.me.lateTrap = none) (hc : checkFields s u = .error h) :
    issue u body s = .next (s.halt h) := by
  simp only [issue, hv, if_true, runInstr, runBody, hl, hc, except_ok_bind, except_error_bind]

end Sys2Proof.Machine
end

