-- ==== Sys2Proof/Laws/Frames.lean ====
section
/-! SUPPORT. What the updates of the issuing slot leave unchanged: its own thread and registers apart, everything. -/

namespace Sys2Proof.Machine

@[simp] theorem State.rest_modMe (s : State) (f : Thread → Thread) : (s.modMe f).rest = s.rest := by
  unfold State.modMe State.setMe State.setThread
  split <;> rfl

@[simp] theorem State.cur_of_rest {s t : State} (h : t.rest = s.rest) : t.cur = s.cur := by
  have := congrArg State.cur h
  exact this

namespace State.SameElsewhere

theorem refl (s : State) : s.SameElsewhere s :=
  ⟨rfl, fun _ => rfl, fun _ => rfl, fun _ _ => rfl, fun _ _ _ _ => rfl, fun _ _ _ _ _ _ => rfl, fun _ _ _ _ _ => rfl⟩

theorem trans {s t u : State} (h : s.SameElsewhere t) (g : t.SameElsewhere u) : s.SameElsewhere u := by
  have hc : t.cur = s.cur := State.cur_of_rest h.rest
  exact ⟨g.rest.trans h.rest, fun c => (g.cores c).trans (h.cores c), fun n => (g.pps n).trans (h.pps n),
    fun n r => (g.handlers n r).trans (h.handlers n r),
    fun p v r n => (g.threads p v r (by rwa [hc])).trans (h.threads p v r n),
    fun p v r n a b => (g.scalars p v r n (by rwa [hc]) b).trans (h.scalars p v r n a b),
    fun v r n a b => (g.vectors v r n (by rwa [hc]) b).trans (h.vectors v r n a b)⟩

end State.SameElsewhere

theorem State.core_modMe (s : State) (f : Thread → Thread) (c : Nat) :
    (s.modMe f).core c = if s.cur.pp = false ∧ c = s.cur.unit then (s.core c).setThread s.cur.slot (f s.me) else s.core c := by
  simp only [State.modMe, State.setMe]
  exact State.core_setThread ..

theorem State.pp_modMe (s : State) (f : Thread → Thread) (n : Nat) :
    (s.modMe f).pp n = if s.cur.pp = true ∧ n = s.cur.unit then
      { s.pp n with handlers := (s.pp n).handlers.put s.cur.slot { (s.pp n).handler s.cur.slot with thread := f s.me } }
      else s.pp n := by
  simp only [State.modMe, State.setMe, State.setThread]
  split
  · next h =>
    by_cases hn : n = s.cur.unit
    · subst hn; simp [State.modHandler, h]
    · simp [State.modHandler, State.pp_modPP_ne _ _ hn, hn]
  · next h => simp [h]

/-- An update of the issuing slot's thread leaves everything else. -/
theorem State.sameElsewhere_modMe (s : State) (f : Thread → Thread) : s.SameElsewhere (s.modMe f) where
  rest := State.rest_modMe s f
  cores c := by rw [State.core_modMe]; split <;> rfl
  pps n := by rw [State.pp_modMe]; split <;> rfl
  handlers n r := by
    rw [State.pp_modMe]
    split
    · by_cases h : r = s.cur.slot
      · subst h; simp [PP.handler, Handler.rest]
      · simp [PP.handler, Map.at_put_ne _ _ _ h]
    · rfl
  threads p u r h := by
    simp only [State.modMe, State.setMe]
    exact State.thread_setThread_ne _ _ _ _ _ _ _ _ h
  scalars p u r n _ _ := by simp [State.modMe, State.setMe]
  vectors u r n _ _ := by rw [State.core_modMe]; split <;> rfl

/-- A scalar window of one slot does not meet another's (R38, R40). -/
theorem scalarBase_ne {t r d n : Nat} (ht : ownEntry false t d = true) (hr : ownEntry false r n = true) (h : r ≠ t) :
    scalarBase r + n ≠ scalarBase t + d := by
  unfold ownEntry at ht hr
  unfold scalarBase
  simp only [Bool.false_or, beq_iff_eq] at ht hr
  split at ht <;> split at hr <;> simp_all <;> omega

/-- A write to one of the slot's own scalar registers leaves everything else. -/
theorem State.sameElsewhere_setX (s : State) (d : Nat) (v : Word) (hd : ownEntry s.cur.pp s.cur.slot d = true) :
    s.SameElsewhere (s.setX d v) := by
  unfold State.setX State.setXOf
  split
  · exact .refl s
  split
  · next hpp =>
    refine ⟨rfl, fun _ => rfl, fun n => ?_, fun n r => ?_, fun p u r h => ?_, fun p u r n h ho => ?_, fun _ _ _ _ _ => rfl⟩
    · by_cases e : n = s.cur.unit
      · subst e; simp [PP.rest]
      · simp [State.pp_modPP_ne _ _ e]
    · by_cases e : n = s.cur.unit
      · subst e; simp [PP.handler]
      · simp [State.pp_modPP_ne _ _ e]
    · cases p
      · simp [State.thread]
      · by_cases e : u = s.cur.unit
        · subst e; simp [State.thread, PP.handler]
        · simp [State.thread, State.pp_modPP_ne _ _ e]
    · unfold State.xOf
      split
      · rfl
      · cases p
        · simp
        · by_cases e : u = s.cur.unit
          · subst e
            have hr : r ≠ s.cur.slot := fun e => h ⟨hpp.symm, rfl, e⟩
            have : r * 32 + n ≠ s.cur.slot * 32 + d := by
              rw [hpp] at hd
              simp [ownEntry] at hd ho; omega
            simp [Map.at_put_ne _ _ _ this]
          · simp [State.pp_modPP_ne _ _ e]
  · next hpp =>
    have hpp : s.cur.pp = false := by simpa using hpp
    refine ⟨rfl, fun c => ?_, fun _ => rfl, fun _ _ => rfl, fun p u r h => ?_, fun p u r n h ho => ?_, fun u r n _ _ => ?_⟩
    · by_cases e : c = s.cur.unit
      · subst e; simp [Core.rest]
      · simp [State.core_modCore_ne _ _ e]
    · cases p
      · by_cases e : u = s.cur.unit
        · subst e; simp [State.thread, Core.thread]
        · simp [State.thread, State.core_modCore_ne _ _ e]
      · simp [State.thread]
    · unfold State.xOf
      split
      · rfl
      · cases p
        · by_cases e : u = s.cur.unit
          · subst e
            have hr : r ≠ s.cur.slot := fun e => h ⟨hpp.symm, rfl, e⟩
            rw [hpp] at hd
            have := scalarBase_ne hd ho hr
            simp [Map.at_put_ne _ _ _ this]
          · simp [State.core_modCore_ne _ _ e]
        · simp
    · by_cases e : u = s.cur.unit
      · subst e; simp
      · simp [State.core_modCore_ne _ _ e]

/-- A write to one of the slot's own vector registers leaves everything else. -/
theorem State.sameElsewhere_setV (s : State) (d : Nat) (v : Vec) (hd : d < 32) (hpp : s.cur.pp = false) :
    s.SameElsewhere (s.setV d v) := by
  unfold State.setV State.modMyCore
  refine ⟨rfl, fun c => ?_, fun _ => rfl, fun _ _ => rfl, fun p u r h => ?_, fun p u r n h ho => ?_, fun u r n h hn => ?_⟩
  · by_cases e : c = s.cur.unit
    · subst e; simp [Core.rest]
    · simp [State.core_modCore_ne _ _ e]
  · cases p
    · by_cases e : u = s.cur.unit
      · subst e; simp [State.thread, Core.thread]
      · simp [State.thread, State.core_modCore_ne _ _ e]
    · simp [State.thread]
  · unfold State.xOf
    split
    · rfl
    · cases p
      · by_cases e : u = s.cur.unit
        · subst e; simp
        · simp [State.core_modCore_ne _ _ e]
      · simp
  · by_cases e : u = s.cur.unit
    · subst e
      have hr : r ≠ s.cur.slot := fun e => h ⟨hpp, rfl, e⟩
      have : vectorBase r + n ≠ vectorBase s.cur.slot + d := by unfold vectorBase; omega
      simp [Map.at_put_ne _ _ _ this]
    · simp [State.core_modCore_ne _ _ e]

/-- Where two states agree elsewhere, every byte of memory is the same. -/
theorem State.SameElsewhere.byteAt {s t : State} (h : s.SameElsewhere t) (l : Loc) : t.byteAt l = s.byteAt l := by
  have hc (c : Nat) : (t.core c).sram = (s.core c).sram ∧ (t.core c).cache = (s.core c).cache :=
    have h1 := congrArg Core.sram (h.cores c)
    have h2 := congrArg Core.cache (h.cores c)
    ⟨h1, h2⟩
  have hp (n : Nat) : (t.pp n).sram = (s.pp n).sram := by
    have := congrArg PP.sram (h.pps n)
    exact this
  have hm : t.mem = s.mem := by
    have := congrArg State.mem h.rest
    exact this
  cases l with
  | phys a => simp [State.byteAt, hm]
  | sram c off => simp [State.byteAt, (hc c).1]
  | handler n off => simp [State.byteAt, hp n]
  | cached c pa => simp [State.byteAt, Core.block, (hc c).2]

/-- A register of the window is an entry of the slot's own. -/
theorem State.ownEntry_of_has {s : State} {d : Nat} (hv : s.cur.valid = true) (h : s.has d = true) :
    ownEntry s.cur.pp s.cur.slot d = true := by
  obtain ⟨h1, h2⟩ := (State.has_iff s d).1 h
  simp only [State.slim, State.slimOf] at h2
  unfold ownEntry
  by_cases hp : (s.cur.pp || s.cur.slot == 15) = true
  · simp only [hp, if_true] at h2 ⊢; simp; omega
  · simp only [hp] at h2 ⊢
    simp only [Bool.or_eq_true, beq_iff_eq, not_or] at hp
    have hv' : s.cur.slot < 16 := by
      have : s.cur.pp = false := by simpa using hp.1
      simp [Actor.valid, this] at hv; exact hv.2
    simp [h1]; omega

/-! ## The issuing slot's own view -/

@[simp] theorem State.modMe_modMe (s : State) (f g : Thread → Thread) : (s.modMe f).modMe g = s.modMe fun t => g (f t) := by
  unfold State.modMe State.setMe
  simp only [State.setThread_cur]
  have : (s.setThread s.cur.pp s.cur.unit s.cur.slot (f s.me)).me = f s.me := by
    simp [State.me]
  rw [this]
  unfold State.setThread
  by_cases hp : s.cur.pp = true
  · simp only [hp, if_true]
    simp [State.modHandler, State.modPP, State.setPP, State.pp, PP.handler]
  · simp only [hp]
    simp [State.modCore, State.setCore, State.core, Core.setThread]

@[simp] theorem State.me_setX (s : State) (r : Nat) (v : Word) : (s.setX r v).me = s.me := by
  simp only [State.me, State.setX_cur]
  exact State.thread_setXOf ..

@[simp] theorem State.v_setX (s : State) (r n : Nat) (v : Word) : (s.setX r v).v n = s.v n := by
  unfold State.setX State.setXOf State.v State.myCore
  split
  · rfl
  split
  · rfl
  · simp

@[simp] theorem State.me_setV (s : State) (r : Nat) (v : Vec) : (s.setV r v).me = s.me := by
  have hc : (s.setV r v).cur = s.cur := rfl
  unfold State.me State.thread
  rw [hc]
  cases s.cur.pp
  · simp [State.setV, State.modMyCore, Core.thread]
  · rfl

@[simp] theorem State.v_setV_self (s : State) (r : Nat) (v : Vec) : (s.setV r v).v r = v := by
  simp [State.v, State.myCore, State.setV, State.modMyCore]
theorem State.v_setV_ne (s : State) {r n : Nat} (v : Vec) (h : n ≠ r) : (s.setV r v).v n = s.v n := by
  have : vectorBase s.cur.slot + n ≠ vectorBase s.cur.slot + r := by omega
  simp [State.v, State.myCore, State.setV, State.modMyCore, Map.at_put_ne _ _ _ this]
@[simp] theorem State.x_setV (s : State) (r n : Nat) (v : Vec) : (s.setV r v).x n = s.x n := by
  have hc : (s.setV r v).cur = s.cur := rfl
  unfold State.x State.xOf
  rw [hc]
  split
  · rfl
  · cases s.cur.pp <;> simp [State.setV, State.modMyCore]

/-- The pc of the state that is past the instruction. -/
@[simp] theorem State.me_advanced (s : State) : s.advanced.me = { s.me with pc := s.nextPc } := by
  simp [State.advanced, State.setPc]
@[simp] theorem State.cur_advanced (s : State) : s.advanced.cur = s.cur := by simp [State.advanced, State.setPc]
@[simp] theorem State.x_advanced (s : State) (r : Nat) : s.advanced.x r = s.x r := by simp [State.advanced, State.setPc]
@[simp] theorem State.v_advanced (s : State) (r : Nat) : s.advanced.v r = s.v r := by simp [State.advanced, State.setPc]
@[simp] theorem State.mask_advanced (s : State) (r : Nat) : s.advanced.mask r = s.mask r := by
  unfold State.mask; rw [State.me_advanced, State.cur_advanced]
@[simp] theorem State.rm_advanced (s : State) : s.advanced.rm = s.rm := by simp [State.rm]
@[simp] theorem State.ftz_advanced (s : State) : s.advanced.ftz = s.ftz := by simp [State.ftz]
@[simp] theorem State.env_advanced (s : State) : s.advanced.env = s.env := by simp [State.env]

theorem State.raise_eq (s : State) (n : Nat) :
    s.raise n = if n = 0 then s else s.modMe fun t => { t with regs := { t.regs with fcsr := t.regs.fcsr ||| w64 n } } := rfl

@[simp] theorem State.raise_zero (s : State) : s.raise 0 = s := rfl
@[simp] theorem State.cur_raise (s : State) (n : Nat) : (s.raise n).cur = s.cur := by
  rw [State.raise_eq]; split <;> simp
@[simp] theorem State.me_raise (s : State) (n : Nat) :
    (s.raise n).me = { s.me with regs := { s.me.regs with fcsr := s.me.regs.fcsr ||| w64 n } } := by
  rw [State.raise_eq]
  split
  · next h => subst h; simp
  · simp
@[simp] theorem State.x_raise (s : State) (n r : Nat) : (s.raise n).x r = s.x r := by
  rw [State.raise_eq]; split <;> simp
@[simp] theorem State.v_raise (s : State) (n r : Nat) : (s.raise n).v r = s.v r := by
  rw [State.raise_eq]; split <;> simp
theorem State.sameElsewhere_raise (s : State) (n : Nat) : s.SameElsewhere (s.raise n) := by
  rw [State.raise_eq]
  split
  · exact .refl s
  · exact State.sameElsewhere_modMe ..
theorem State.sameElsewhere_advanced (s : State) : s.SameElsewhere s.advanced :=
  State.sameElsewhere_modMe s fun t => { t with pc := s.nextPc }

end Sys2Proof.Machine
end

