-- ==== Sys2Proof/Laws/Operands.lean ====
section
/-! SUPPORT. The integer computations of Machine/Operands.lean are those of the manual's entries (R139 to R142, R366 to
R495). -/

namespace Sys2Proof.Machine

theorem toNat_lt64 (x : Word) : x.toNat < 2 ^ 64 := x.isLt

theorem zextN_8 (x : Word) : zextN 8 x = (x.setWidth 8).setWidth 64 := by
  apply BitVec.eq_of_toNat_eq; simp [zextN]
theorem zextN_16 (x : Word) : zextN 16 x = (x.setWidth 16).setWidth 64 := by
  apply BitVec.eq_of_toNat_eq; simp [zextN]
theorem zextN_32 (x : Word) : zextN 32 x = (x.setWidth 32).setWidth 64 := by
  apply BitVec.eq_of_toNat_eq; simp [zextN]

theorem sextN_eq (n : Nat) (x : Word) : sextN n x = signExt n x := by
  simp only [sextN, signExt, wInt, BitVec.signExtend, BitVec.toInt_setWidth]
  congr 1
  rw [Int.natCast_emod]
  exact Int.emod_bmod _ _

theorem sextN_w64 (n : Nat) (h : n ≤ 64) (k : Nat) : sextN n (w64 k) = (BitVec.ofNat n k).signExtend 64 := by
  rw [sextN_eq]
  simp only [signExt, w64]
  rw [BitVec.setWidth_ofNat_of_le h]

theorem shl64_eq (x : Word) (n : Nat) : shl64 x n = BitVec.ofNat 64 (x.toNat * 2 ^ n) := by
  apply BitVec.eq_of_toNat_eq
  simp [shl64, BitVec.toNat_shiftLeft, Nat.shiftLeft_eq]
theorem shr64_eq (x : Word) (n : Nat) : shr64 x n = BitVec.ofNat 64 (x.toNat / 2 ^ n) := by
  apply BitVec.eq_of_toNat_eq
  have : x.toNat / 2 ^ n < 2 ^ 64 := Nat.lt_of_le_of_lt (Nat.div_le_self ..) x.isLt
  rw [shr64, BitVec.toNat_ushiftRight, Nat.shiftRight_eq_div_pow, BitVec.toNat_ofNat, Nat.mod_eq_of_lt this]
theorem sra64_eq (x : Word) (n : Nat) : sra64 x n = BitVec.ofInt 64 (x.toInt / 2 ^ n) := by
  apply BitVec.eq_of_toInt_eq
  rw [sra64, BitVec.toInt_sshiftRight, BitVec.toInt_ofInt, Int.shiftRight_eq_div_pow]
  have h1 := BitVec.le_toInt x
  have h2 := BitVec.toInt_lt (x := x)
  have hp : (0 : Int) < 2 ^ n := by positivity
  symm
  simp only [Nat.cast_pow, Nat.cast_ofNat]
  apply Int.bmod_eq_of_le
  · have : (-(2 ^ 63) : Int) ≤ x.toInt / 2 ^ n := by
      rw [Int.le_ediv_iff_mul_le hp]
      have : (1 : Int) ≤ 2 ^ n := hp
      norm_num at h1 ⊢; nlinarith
    norm_num at this ⊢; omega
  · have : x.toInt / 2 ^ n < 2 ^ 63 := by
      rw [Int.ediv_lt_iff_lt_mul hp]
      have : (1 : Int) ≤ 2 ^ n := hp
      norm_num at h2 ⊢; nlinarith
    norm_num at this ⊢; omega

theorem mul64_eq (x y : Word) : x * y = BitVec.ofInt 64 (x.toInt * y.toInt) := by
  rw [BitVec.ofInt_mul, BitVec.ofInt_toInt, BitVec.ofInt_toInt]

theorem slt_iff (x y : Word) : x.slt y = decide (x.toInt < y.toInt) := rfl

theorem minS_eq (x y : Word) : minS x y = if x.toInt ≤ y.toInt then x else y := by
  simp only [minS, slt_iff]
  by_cases h : x.toInt < y.toInt
  · simp [h, Int.le_of_lt h]
  · by_cases h' : x.toInt = y.toInt
    · have := BitVec.eq_of_toInt_eq h'; simp [this]
    · have : ¬ x.toInt ≤ y.toInt := by omega
      simp [h, this]
theorem maxS_eq (x y : Word) : maxS x y = if x.toInt ≤ y.toInt then y else x := by
  simp only [maxS, slt_iff]
  by_cases h : x.toInt < y.toInt
  · simp [h, Int.le_of_lt h]
  · by_cases h' : x.toInt = y.toInt
    · have := BitVec.eq_of_toInt_eq h'; simp [this]
    · have : ¬ x.toInt ≤ y.toInt := by omega
      simp [h, this]
theorem minU_eq (x y : Word) : minU x y = if x.toNat ≤ y.toNat then x else y := by
  simp only [minU, BitVec.lt_def]
  by_cases h : x.toNat < y.toNat
  · simp [h, Nat.le_of_lt h]
  · by_cases h' : x.toNat = y.toNat
    · have := BitVec.eq_of_toNat_eq h'; simp [this]
    · have : ¬ x.toNat ≤ y.toNat := by omega
      simp [h, this]
theorem maxU_eq (x y : Word) : maxU x y = if x.toNat ≤ y.toNat then y else x := by
  simp only [maxU, BitVec.lt_def]
  by_cases h : x.toNat < y.toNat
  · simp [h, Nat.le_of_lt h]
  · by_cases h' : x.toNat = y.toNat
    · have := BitVec.eq_of_toNat_eq h'; simp [this]
    · have : ¬ x.toNat ≤ y.toNat := by omega
      simp [h, this]

/-- The index of the first element that meets a condition is how many before it do not. -/
theorem find_range_getD (p : Nat → Bool) (n : Nat) :
    ((List.range n).find? p).getD n = ((List.range n).takeWhile fun k => !p k).length := by
  induction n with
  | zero => rfl
  | succ n ih =>
    rw [List.range_succ, List.find?_append]
    by_cases h : (List.range n).find? p = none
    · have h' := List.find?_eq_none.1 h
      have hall : ∀ x ∈ List.range n, (!p x) = true := by
        intro x hx; have := h' x hx; simpa using this
      rw [List.takeWhile_append_of_pos hall, h]
      by_cases hp : p n <;> simp [hp]
    · obtain ⟨k, hk⟩ := Option.ne_none_iff_exists'.1 h
      rw [hk] at ih ⊢
      simp only [Option.getD_some, Option.some_or] at ih ⊢
      rw [ih, List.takeWhile_append]
      have hlt : ((List.range n).takeWhile fun k => !p k).length ≠ (List.range n).length := by
        rw [← ih]
        have := List.mem_of_find?_eq_some hk
        simp at this ⊢; omega
      simp only [hlt, if_false]

theorem clz64_eq (x : Word) :
    clz64 x = BitVec.ofNat 64 ((List.range 64).takeWhile fun k => !x.getLsbD (63 - k)).length := by
  simp only [clz64, find_range_getD]
theorem ctz64_eq (x : Word) :
    ctz64 x = BitVec.ofNat 64 ((List.range 64).takeWhile fun k => !x.getLsbD k).length := by
  simp only [ctz64, find_range_getD]
theorem popc64_eq (x : Word) :
    popc64 x = BitVec.ofNat 64 ((List.range 64).filter fun k => x.getLsbD k).length := by
  simp only [popc64, List.countP_eq_length_filter]

/-- Adding a multiple of 2^32 before keeping the low 32 bits. -/
theorem wordOp_eq (f : Nat → Nat → Nat) (g : BitVec 32 → BitVec 32 → BitVec 32) (x y : Word)
    (h : ∀ m n, m < 2 ^ 32 → n < 2 ^ 32 → BitVec.ofNat 32 (f m n) = g (BitVec.ofNat 32 m) (BitVec.ofNat 32 n)) :
    wordOp f x y = word32 g x y := by
  simp only [wordOp, word32]
  rw [sextN_w64 32 (by omega), h _ _ (Nat.mod_lt _ (by decide)) (Nat.mod_lt _ (by decide))]
  have hx : BitVec.ofNat 32 (x.toNat % 2 ^ 32) = x.setWidth 32 := by apply BitVec.eq_of_toNat_eq; simp
  have hy : BitVec.ofNat 32 (y.toNat % 2 ^ 32) = y.setWidth 32 := by apply BitVec.eq_of_toNat_eq; simp
  rw [hx, hy]

theorem addw_eq (x y : Word) : wordOp (· + ·) x y = word32 (· + ·) x y :=
  wordOp_eq _ _ x y fun m n _ _ => BitVec.ofNat_add m n
theorem subw_eq (x y : Word) : wordOp (fun m n => m + 2 ^ 32 - n) x y = word32 (· - ·) x y :=
  wordOp_eq _ _ x y fun m n hm hn => by
    apply BitVec.eq_of_toNat_eq
    simp only [BitVec.toNat_ofNat, BitVec.toNat_sub, Nat.mod_eq_of_lt hm, Nat.mod_eq_of_lt hn]
    congr 1; omega
theorem mulw_eq (x y : Word) : wordOp (· * ·) x y = word32 (· * ·) x y :=
  wordOp_eq _ _ x y fun m n _ _ => BitVec.ofNat_mul m n

theorem highImm_eq (o : Word) (imm : Int) : highImm o imm = BitVec.ofInt 32 imm ++ o.setWidth 32 := by
  apply BitVec.eq_of_toNat_eq
  rw [BitVec.toNat_append]
  have h1 : (BitVec.ofInt 64 imm).toNat % 2 ^ 32 = (BitVec.ofInt 32 imm).toNat := by
    rw [BitVec.toNat_ofInt, BitVec.toNat_ofInt]; omega
  have h2 : (BitVec.ofInt 32 imm).toNat < 2 ^ 32 := BitVec.isLt _
  simp only [highImm, wInt, w64, BitVec.toNat_ofNat, h1, BitVec.toNat_setWidth]
  rw [← Nat.shiftLeft_add_eq_or_of_lt (by exact Nat.mod_lt _ (by decide)), Nat.shiftLeft_eq]
  omega

theorem abs64_eq (x : Word) : (if x.msb then -x else x) = if x.toInt < 0 then 0 - x else x := by
  simp only [BitVec.msb_eq_toInt, decide_eq_true_eq]
  split
  · exact (BitVec.zero_sub x).symm
  · rfl

theorem not64_eq (x : Word) : ~~~x = x ^^^ BitVec.allOnes 64 := by
  rw [BitVec.xor_allOnes]

theorem divS_eq (x y : Word) : divS x y = if y = 0 then BitVec.allOnes 64 else BitVec.ofInt 64 (x.toInt.tdiv y.toInt) := by
  unfold divS
  split
  · rfl
  · apply BitVec.eq_of_toInt_eq; rw [BitVec.toInt_sdiv, BitVec.toInt_ofInt]
theorem divU_eq (x y : Word) : divU x y = if y = 0 then BitVec.allOnes 64 else BitVec.ofNat 64 (x.toNat / y.toNat) := by
  unfold divU
  split
  · rfl
  · apply BitVec.eq_of_toNat_eq
    have : x.toNat / y.toNat < 2 ^ 64 := Nat.lt_of_le_of_lt (Nat.div_le_self ..) x.isLt
    rw [BitVec.toNat_udiv, BitVec.toNat_ofNat, Nat.mod_eq_of_lt this]
theorem remS_eq (x y : Word) : remS x y = if y = 0 then x else BitVec.ofInt 64 (x.toInt.tmod y.toInt) := by
  unfold remS
  split
  · rfl
  · apply BitVec.eq_of_toInt_eq
    rw [BitVec.toInt_srem, BitVec.toInt_ofInt]
    have h : (x.toInt.tmod y.toInt).natAbs < 2 ^ 63 := by
      rw [Int.natAbs_tmod]
      have h1 := BitVec.le_toInt y
      have h2 := BitVec.toInt_lt (x := y)
      have h3 : y.toInt ≠ 0 := fun e => by
        have : y = 0 := BitVec.eq_of_toInt_eq (by simpa using e)
        contradiction
      exact Nat.lt_of_lt_of_le (Nat.mod_lt _ (by omega)) (by norm_num at h1 h2 ⊢; omega)
    symm
    generalize x.toInt.tmod y.toInt = r at h
    apply Int.bmod_eq_of_le <;> norm_num at h ⊢ <;> omega
theorem remU_eq (x y : Word) : remU x y = if y = 0 then x else BitVec.ofNat 64 (x.toNat % y.toNat) := by
  unfold remU
  split
  · rfl
  · apply BitVec.eq_of_toNat_eq
    have : x.toNat % y.toNat < 2 ^ 64 := Nat.lt_of_le_of_lt (Nat.mod_le ..) x.isLt
    rw [BitVec.toNat_umod, BitVec.toNat_ofNat, Nat.mod_eq_of_lt this]

theorem extractU_eq (x : Word) (pos len : Nat) : extractU x pos len = BitVec.ofNat 64 (x.toNat / 2 ^ pos % 2 ^ bfLen len) := rfl

theorem extractS_eq (x : Word) (pos len : Nat) (h : len ≤ 64) :
    extractS x pos len = signExt (bfLen len) (BitVec.ofNat 64 (x.toNat / 2 ^ pos)) := by
  have hl : bfLen len ≤ 64 := by unfold bfLen; split <;> omega
  show sextN (bfLen len) (w64 (x.toNat / 2 ^ pos % 2 ^ bfLen len)) = _
  rw [sextN_w64 _ hl]
  simp only [signExt]
  congr 1
  apply BitVec.eq_of_toNat_eq
  have hd : 2 ^ bfLen len ∣ 2 ^ 64 := Nat.pow_dvd_pow 2 hl
  simp only [BitVec.toNat_ofNat, BitVec.toNat_setWidth]
  rw [Nat.mod_mod_of_dvd _ hd]
  exact Nat.mod_mod _ _

/-- A dword with a bit field replaced, as bits above, the field, bits below. -/
theorem insertBits_eq (o x : Word) (pos len : Nat) (_h : pos + bfLen len ≤ 64) :
    insertBits o x pos len = BitVec.ofNat 64 (o.toNat / 2 ^ (pos + bfLen len) * 2 ^ (pos + bfLen len) +
      x.toNat % 2 ^ bfLen len * 2 ^ pos + o.toNat % 2 ^ pos) := by
  have hl : 1 ≤ bfLen len := by unfold bfLen; split <;> omega
  have e : pos + bfLen len - 1 - pos + 1 = bfLen len := by omega
  simp only [insertBits, setFld, fld, bits]
  show w64 (o.toNat - o.toNat / 2 ^ pos % 2 ^ (pos + bfLen len - 1 - pos + 1) * 2 ^ pos +
    x.toNat % 2 ^ (pos + bfLen len - 1 - pos + 1) * 2 ^ pos) = _
  rw [e]
  congr 1
  have h1 : o.toNat = o.toNat / 2 ^ pos * 2 ^ pos + o.toNat % 2 ^ pos := (Nat.div_add_mod' _ _).symm
  have h2 : o.toNat / 2 ^ pos = o.toNat / 2 ^ pos / 2 ^ bfLen len * 2 ^ bfLen len + o.toNat / 2 ^ pos % 2 ^ bfLen len :=
    (Nat.div_add_mod' _ _).symm
  have h3 : o.toNat / 2 ^ pos / 2 ^ bfLen len = o.toNat / 2 ^ (pos + bfLen len) := by
    rw [Nat.div_div_eq_div_mul, ← Nat.pow_add]
  have h4 : o.toNat = o.toNat / 2 ^ (pos + bfLen len) * 2 ^ (pos + bfLen len) +
      o.toNat / 2 ^ pos % 2 ^ bfLen len * 2 ^ pos + o.toNat % 2 ^ pos := by
    conv_lhs => rw [h1, h2, h3]
    rw [Nat.add_mul, Nat.mul_assoc, ← Nat.pow_add, Nat.add_comm (bfLen len) pos]
  omega

theorem bswap64_eq (x : Word) : bswap64 x = BitVec.ofNat 64 (x.toNat % 256 * 2 ^ 56 + x.toNat / 2 ^ 8 % 256 * 2 ^ 48 +
    x.toNat / 2 ^ 16 % 256 * 2 ^ 40 + x.toNat / 2 ^ 24 % 256 * 2 ^ 32 + x.toNat / 2 ^ 32 % 256 * 2 ^ 24 +
    x.toNat / 2 ^ 40 % 256 * 2 ^ 16 + x.toNat / 2 ^ 48 % 256 * 2 ^ 8 + x.toNat / 2 ^ 56 % 256) := by
  simp only [bswap64, bytesLE, fromLE, List.reverse_cons, List.reverse_nil, List.nil_append, List.cons_append,
    Nat.div_div_eq_div_mul, Nat.mod_mod, Nat.reducePow, Nat.reduceMul, w64]
  generalize x.toNat % 256 = a0
  generalize x.toNat / 256 % 256 = a1
  generalize x.toNat / 65536 % 256 = a2
  generalize x.toNat / 16777216 % 256 = a3
  generalize x.toNat / 4294967296 % 256 = a4
  generalize x.toNat / 1099511627776 % 256 = a5
  generalize x.toNat / 281474976710656 % 256 = a6
  generalize x.toNat / 72057594037927936 % 256 = a7
  refine congrArg (BitVec.ofNat 64) ?_
  omega

end Sys2Proof.Machine
end

