-- ==== Sys2Proof/Laws/Begins.lean ====
section
/-! SUPPORT. What getting an instruction's operands leaves of the issuing slot. -/

namespace Sys2Proof.Machine

/-- A change of the core that leaves its slots leaves the issuing thread. -/
theorem State.me_modMyCore {s : State} {f : Core → Core} (h : (f s.myCore).threads = s.myCore.threads) :
    (s.modMyCore f).me = s.me := by
  unfold State.me State.thread
  rw [State.modMyCore_cur]
  cases hp : s.cur.pp
  · simp only [Bool.false_eq_true, if_false, State.modMyCore, State.core_modCore_self, Core.thread]
    rw [show (f (s.core s.cur.unit)).threads = (s.core s.cur.unit).threads from h]
  · rfl

theorem State.me_modPP {s : State} {u : Nat} {f : PP → PP} (h : (f (s.pp u)).handlers = (s.pp u).handlers) :
    (s.modPP u f).me = s.me := by
  unfold State.me State.thread
  rw [State.modPP_cur]
  cases hp : s.cur.pp
  · rfl
  · simp only [if_true, PP.handler]
    by_cases hu : s.cur.unit = u
    · rw [hu, State.pp_modPP_self, h]
    · rw [State.pp_modPP_ne _ _ hu]

/-- The same slot, with the same thread but for its queues. -/
def State.KeepsSlot (s t : State) : Prop := t.cur = s.cur ∧ ∃ queues, t.me = { s.me with queues }

theorem State.KeepsSlot.step {s t u : State} (h : s.KeepsSlot t) (hc : u.cur = t.cur) (hm : u.me = t.me) : s.KeepsSlot u := by
  obtain ⟨c, g, m⟩ := h
  exact ⟨hc.trans c, g, hm.trans m⟩

theorem State.KeepsSlot.queues {s t : State} (h : s.KeepsSlot t) (f : Queues → Queues) : s.KeepsSlot (t.modQueues f) := by
  obtain ⟨c, g, m⟩ := h
  exact ⟨by simp [State.modQueues, c], f g, by simp [State.modQueues, m]⟩

theorem State.KeepsSlot.core {s t : State} (h : s.KeepsSlot t) {f : Core → Core}
    (hf : (f t.myCore).threads = t.myCore.threads) : s.KeepsSlot (t.modMyCore f) := h.step rfl (State.me_modMyCore hf)

theorem State.KeepsSlot.refl (s : State) : s.KeepsSlot s := ⟨rfl, _, rfl⟩

/-- What a pop leaves of the popping slot. -/
theorem State.pop_keeps {s t : State} {q : Nat} {w : Word} (h : s.pop q = some (w, t)) : s.KeepsSlot t := by
  have r := State.KeepsSlot.refl s
  unfold State.pop at h
  simp only [] at h
  split at h
  · simp at h
  split at h
  · split at h
    · split at h
      all_goals simp only [Option.some.injEq, Prod.mk.injEq] at h; obtain ⟨rfl, rfl⟩ := h
      · exact (r.queues _).step (by simp) (State.me_modPP rfl)
      · exact r.queues _
    · simp at h
  · split at h
    · simp only [Option.some.injEq, Prod.mk.injEq] at h; obtain ⟨rfl, rfl⟩ := h
      split
      · exact (r.queues _).core (by simp [Core.spendQ2])
      · exact r.queues _
    · split at h
      · simp only [Option.some.injEq, Prod.mk.injEq] at h; obtain ⟨rfl, rfl⟩ := h
        split
        · refine State.KeepsSlot.core (.queues (.core r ?_) _) ?_ <;> simp [Core.spendQ2]
        · exact .queues (.core r rfl) _
      · simp at h
  · split at h
    · simp only [Option.some.injEq, Prod.mk.injEq] at h; obtain ⟨rfl, rfl⟩ := h
      exact (r.queues _).step rfl rfl
    · simp only [Option.some.injEq, Prod.mk.injEq] at h; obtain ⟨rfl, rfl⟩ := h
      exact r.queues _
    · simp at h
  · split at h
    · simp only [Option.some.injEq, Prod.mk.injEq] at h; obtain ⟨rfl, rfl⟩ := h
      exact r.queues _
    · simp at h
  · cases hq : popRec s.myCore.q5 <;> simp only [hq, Option.map_none, Option.map_some, reduceCtorEq, Option.some.injEq, Prod.mk.injEq] at h
    obtain ⟨rfl, rfl⟩ := h
    exact r.core rfl
  · cases hq : popRec s.myCore.q6 <;> simp only [hq, Option.map_none, Option.map_some, reduceCtorEq, Option.some.injEq, Prod.mk.injEq] at h
    obtain ⟨rfl, rfl⟩ := h
    exact r.core rfl
  · split at h
    · simp only [Option.some.injEq, Prod.mk.injEq] at h; obtain ⟨rfl, rfl⟩ := h
      exact r.core rfl
    · simp only [Option.some.injEq, Prod.mk.injEq] at h; obtain ⟨rfl, rfl⟩ := h
      exact r.core rfl
    · simp at h
  · simp at h

theorem State.operand_keeps {s t : State} {f : Fld} {w : Word} (h : s.operand f = some (w, t)) : s.KeepsSlot t := by
  cases f <;> simp only [State.operand] at h
  case src | both =>
    split at h
    · simp only [Option.some.injEq, Prod.mk.injEq] at h; obtain ⟨rfl, rfl⟩ := h; exact .refl s
    · exact State.pop_keeps h
  all_goals simp only [Option.some.injEq, Prod.mk.injEq] at h; obtain ⟨rfl, rfl⟩ := h; exact .refl s

/-- What getting the operands leaves of the issuing slot: its identity; of its thread the pc and the queues change. -/
theorem State.Begins.keeps {s t : State} {u : Uses} {a b c : Word} (h : s.Begins u a b c t) :
    t.cur = s.cur ∧ ∃ queues, t.me = { s.me with pc := s.nextPc, queues } := by
  obtain ⟨-, -, r, ho, rfl⟩ := h
  unfold State.operands at ho
  split at ho
  · simp at ho
  next ha =>
  split at ho
  · simp at ho
  next hb =>
  split at ho
  · simp at ho
  next hd =>
  simp only [Option.some.injEq, Prod.mk.injEq] at ho
  obtain ⟨-, -, -, rfl⟩ := ho
  obtain ⟨c1, g1, m1⟩ := State.operand_keeps ha
  obtain ⟨c2, g2, m2⟩ := State.operand_keeps hb
  obtain ⟨c3, g3, m3⟩ := State.operand_keeps hd
  refine ⟨by simp [State.setPc, c1, c2, c3], g3, ?_⟩
  simp [State.setPc, m1, m2, m3]

theorem State.Begins.cur {s t : State} {u : Uses} {a b c : Word} (h : s.Begins u a b c t) : t.cur = s.cur := h.keeps.1
theorem State.Begins.pending {s t : State} {u : Uses} {a b c : Word} (h : s.Begins u a b c t) : t.me.pending = [] := by
  obtain ⟨g, hg⟩ := h.keeps.2
  simp [hg, ((State.settled_iff s).1 h.1).2.2.1]
theorem State.Begins.nextPc {s t : State} {u : Uses} {a b c : Word} (h : s.Begins u a b c t) : t.nextPc = s.nextPc := by
  simp [State.nextPc, h.cur]

/-- A body that succeeds on the operands gives the next state. -/
theorem issue_ok {u : Uses} {body : Word → Word → Word → State → Exec State} {s t r : State} {a b c : Word}
    (h : s.Begins u a b c t) (hb : body a b c t = .ok r) : issue u body s = .next r := by
  rw [issue_begins h, hb]; rfl
/-- A body that leaves its course acts on the state before the instruction. -/
theorem issue_halt {u : Uses} {body : Word → Word → Word → State → Exec State} {s t : State} {a b c : Word} {e : Halt}
    (h : s.Begins u a b c t) (hb : body a b c t = .error e) : issue u body s = .next (s.halt e) := by
  rw [issue_begins h, hb]; rfl

end Sys2Proof.Machine
end

