-- ==== Sys2Proof/Laws/Access.lean ====
section
/-! SUPPORT. What the checks of an access leave: all but the translation caches; what a drained thread's release leaves. -/

namespace Sys2Proof.Machine

/-- The two states differ in translation caches and the sharers of walked lines only. -/
structure State.TlbOnly (s t : State) : Prop where
  rest : t = { s with cores := t.cores, hems := t.hems, walkSharers := t.walkSharers }
  core : ∀ c, t.core c = { s.core c with tlb := (t.core c).tlb }
  hem : ∀ h, t.hem h = { s.hem h with tlb := (t.hem h).tlb }

namespace State.TlbOnly

theorem refl (s : State) : s.TlbOnly s := ⟨rfl, fun _ => rfl, fun _ => rfl⟩

theorem chain {s t u : State} (h : s.TlbOnly t) (g : t.TlbOnly u) : s.TlbOnly u := by
  refine ⟨?_, fun c => ?_, fun c => ?_⟩
  · have := g.rest; rw [h.rest] at this; exact this
  · have := g.core c; rw [h.core c] at this; exact this
  · have := g.hem c; rw [h.hem c] at this; exact this

variable {s t : State} (h : s.TlbOnly t)
include h

theorem cur : t.cur = s.cur := by rw [h.rest]
theorem pps : t.pps = s.pps := by rw [h.rest]
theorem net : t.net = s.net := by rw [h.rest]
theorem seq : t.seq = s.seq := by rw [h.rest]
theorem mem : t.mem = s.mem := by rw [h.rest]
theorem pp (n : Nat) : t.pp n = s.pp n := by unfold State.pp; rw [h.pps]
theorem threads (c : Nat) : (t.core c).threads = (s.core c).threads := by rw [h.core c]
theorem thread (pp : Bool) (u n : Nat) : t.thread pp u n = s.thread pp u n := by
  unfold State.thread; cases pp
  · simp [Core.thread, h.threads]
  · simp [h.pp]
theorem me : t.me = s.me := by unfold State.me; rw [h.cur, h.thread]
theorem xOf (pp : Bool) (u n r : Nat) : t.xOf pp u n r = s.xOf pp u n r := by
  unfold State.xOf
  have : (t.core u).xrf = (s.core u).xrf := by rw [h.core u]
  rw [this, h.pp]
theorem x (r : Nat) : t.x r = s.x r := by unfold State.x; rw [h.cur, h.xOf]
theorem v (r : Nat) : t.v r = s.v r := by
  unfold State.v State.myCore
  have : (t.core t.cur.unit).vrf = (s.core t.cur.unit).vrf := by rw [h.core]
  rw [this, h.cur]
theorem block (c b : Nat) : (t.core c).block b = (s.core c).block b := by
  have : (t.core c).cache = (s.core c).cache := by rw [h.core c]
  unfold Core.block; rw [this]
theorem sram (c : Nat) : (t.core c).sram = (s.core c).sram := by rw [h.core c]
theorem byteAt (l : Loc) : t.byteAt l = s.byteAt l := by
  cases l <;> simp [State.byteAt, h.mem, h.sram, h.pp, h.block]

end State.TlbOnly

theorem State.tlbOnly_modCore (s : State) (c : Nat) (l : Core → List TlbEntry) : s.TlbOnly (s.modCore c fun k => { k with tlb := l k }) := by
  refine ⟨rfl, fun d => ?_, fun _ => rfl⟩
  by_cases hd : d = c
  · subst hd; simp
  · simp [State.core_modCore_ne _ _ hd]
theorem State.tlbOnly_modHem (s : State) (c : Nat) (l : Hem → List TlbEntry) : s.TlbOnly (s.modHem c fun k => { k with tlb := l k }) := by
  refine ⟨rfl, fun _ => rfl, fun d => ?_⟩
  by_cases hd : d = c
  · subst hd; simp
  · simp [State.hem_modHem_ne _ _ hd]
theorem State.tlbOnly_walk (l : List Nat) (f : State → Nat → Map Word) (s : State) :
    s.TlbOnly (l.foldl (fun s a => { s with walkSharers := f s a }) s) := by
  induction l generalizing s with
  | nil => exact .refl s
  | cons a l ih =>
    have h : s.TlbOnly { s with walkSharers := f s a } := ⟨rfl, fun _ => rfl, fun _ => rfl⟩
    exact h.chain (ih _)

theorem State.tlbOnly_fill (s : State) (c : Nat) (e : TlbEntry) : s.TlbOnly (s.tlbFill c e) :=
  ((s.tlbOnly_modCore c _).chain (State.tlbOnly_modHem _ _ _)).chain (State.tlbOnly_walk _ _ _)

/-- Translation changes the translation caches only. -/
theorem State.translate_keeps (s : State) (c : Nat) (p : Priv) (a : Acc) (va : Nat) : s.TlbOnly (s.translate c p a va).2 := by
  unfold State.translate
  split
  · exact .refl s
  split
  · exact .refl s
  split
  · exact .refl s
  · exact .refl s
  split
  · exact .refl s
  · exact State.tlbOnly_fill _ _ _

theorem translateAll_keeps {priv : Priv} {a : Acc} {s t : State} {els : List El} {ps : List (Option Place)}
    {l : List (El × Place)} (h : translateAll priv a s els ps = .ok (t, l)) : s.TlbOnly t := by
  induction els generalizing s ps l with
  | nil => 
    cases ps <;> simp [translateAll] at h <;> obtain ⟨rfl, -⟩ := h <;> exact .refl s
  | cons e es ih =>
    cases ps with
    | nil => simp [translateAll] at h; obtain ⟨rfl, -⟩ := h; exact .refl s
    | cons p ps =>
      cases p with
      | some p =>
        simp only [translateAll] at h
        cases hr : translateAll priv a s es ps with
        | error x => simp [hr] at h
        | ok x => 
          simp only [hr, except_ok_bind] at h
          injection h with h; injection h with h h'; subst h
          exact ih hr
      | none =>
        simp only [translateAll] at h
        have hk := State.translate_keeps s s.cur.unit priv a e.va
        split at h
        · simp at h
        · next s' he =>
          rw [he] at hk
          cases hr : translateAll priv a s' es ps with
          | error x => simp [hr] at h
          | ok x => 
            simp only [hr, except_ok_bind] at h
            split at h
            all_goals injection h with h; injection h with h h'; subst h; exact hk.chain (ih hr)
        · split at h <;> simp at h
        · simp at h

/-- The checks of an access change the translation caches only. -/
theorem checkAccess_keeps {s t : State} {a : Acc} {f : Form} {w : Bool} {els : List El} {l : List (El × Place)}
    (h : checkAccess s a f w els = .ok (t, l)) : s.TlbOnly t := by
  unfold checkAccess at h
  cases h1 : alignCheck els with
  | error x => simp [h1] at h
  | ok u =>
    simp only [h1, except_ok_bind] at h
    split at h
    · cases h2 : (els.mapM fun e => do let p ← handlerCheck s e; Except.ok (e, p) : Exec (List (El × Place))) with
      | error x => simp [h2] at h
      | ok x => simp only [h2, except_ok_bind] at h; injection h with h; injection h with h _; subst h; exact .refl s
    · cases h2 : windowCheck s.me.priv els with
      | error x => simp [h2] at h
      | ok u =>
        simp only [h2, except_ok_bind] at h
        cases h3 : els.mapM (placeOf s s.me.priv f w) with
        | error x => simp [h3] at h
        | ok ps => simp only [h3, except_ok_bind] at h; exact translateAll_keeps h

/-- A drained thread passes the gate of a release. -/
theorem gate_drained {s : State} {wide : Bool} (h : s.drained wide = true) : gate wide s = .ok (s.releasedAt wide) := by
  simp only [State.drained, Bool.and_eq_true, Bool.or_eq_true, List.isEmpty_iff, Bool.not_eq_true'] at h
  obtain ⟨hp, h⟩ := h
  have hm : lateMark s.me = .ok () := by simp [lateMark, lateTrapOf, hp]
  unfold gate State.releasedAt
  simp only [hm, except_ok_bind]
  by_cases hpp : s.cur.pp = true
  · simp [hpp]
  · have hpp' : s.cur.pp = false := by simpa using hpp
    obtain ⟨ho, h⟩ := h.resolve_left hpp
    cases wide
    · simp [hpp', ho, hp]
    · simp only [Bool.true_eq_false, false_or, State.flushedOut, Bool.and_eq_true, List.isEmpty_iff, beq_iff_eq,
        Bool.not_eq_true'] at h
      obtain ⟨⟨⟨hf, hc⟩, hs⟩, hn⟩ := h
      simp [hpp', ho, hp, State.release, hs, hf, hc, hn]

theorem releaseGate_ok {s : State} {o : OrdFld} (h : s.orderedOk o = true) : releaseGate o s = .ok (s.orderedAt o) := by
  unfold State.orderedOk at h
  unfold releaseGate State.orderedAt
  show (if ordReleases o = true then _ else _) = _
  by_cases hr : ordReleases o = true
  · simp only [hr, Bool.not_true, Bool.false_or] at h
    simp [hr, gate_drained h]
  · simp [hr]

end Sys2Proof.Machine
end

