-- ==== Sys2Proof/Laws/Places.lean ====
section
/-! SUPPORT. The bytes at a place: what a read returns, what a write changes. -/

namespace Sys2Proof.Machine

theorem Memory.read_sum (m : Memory) (a n : Nat) :
    m.read a n = ((List.range n).map fun k => (m.byte (a + k)).toNat * 256 ^ k).sum := by
  induction n generalizing a with
  | zero => rfl
  | succ n ih =>
    rw [Memory.read, ih, List.range_succ_eq_map, List.map_cons, List.sum_cons, List.map_map]
    simp only [Nat.add_zero, Nat.pow_zero, Nat.mul_one, Nat.add_right_inj]
    rw [← List.sum_map_mul_left]
    congr 1
    apply List.map_congr_left
    intro k _
    simp only [Function.comp_apply, Nat.succ_eq_add_one, Nat.pow_succ]
    rw [show a + 1 + k = a + (k + 1) by omega]
    ring

theorem Memory.byte_write_self (m : Memory) (a n v k : Nat) (h : k < n) :
    (m.write a n v).byte (a + k) = BitVec.ofNat 8 (v / 256 ^ k) := by
  induction n generalizing m a v k with
  | zero => omega
  | succ n ih =>
    rw [Memory.write]
    cases k with
    | zero => rw [Memory.byte_write_ne _ _ _ _ _ (by omega), Memory.byte_setByte]; simp
    | succ k =>
      have := ih (m.setByte a (BitVec.ofNat 8 v)) (a + 1) (v / 256) k (by omega)
      rw [show a + 1 + k = a + (k + 1) by omega] at this
      rw [this, Nat.div_div_eq_div_mul]
      congr 2
      rw [Nat.pow_succ, Nat.mul_comm]

theorem lineRead_sum (l : Line) (off n : Nat) :
    lineRead l off n = ((List.range n).map fun k => (BitVec.ofNat 8 (l.toNat / 2 ^ (8 * (off + k)))).toNat * 256 ^ k).sum := by
  unfold lineRead
  induction n with
  | zero => simp [Nat.mod_one]
  | succ n ih =>
    rw [List.range_succ, List.map_append, List.sum_append, ← ih]
    simp only [List.map_cons, List.map_nil, List.sum_cons, List.sum_nil, Nat.add_zero, BitVec.toNat_ofNat]
    have h1 : 2 ^ (8 * (n + 1)) = 2 ^ (8 * n) * 2 ^ 8 := by rw [← Nat.pow_add]; congr 1
    have h2 : (256 : Nat) ^ n = 2 ^ (8 * n) := by rw [Nat.pow_mul]
    have h3 : l.toNat / 2 ^ (8 * (off + n)) = l.toNat / 2 ^ (8 * off) / 2 ^ (8 * n) := by
      rw [Nat.div_div_eq_div_mul, ← Nat.pow_add]; congr 2; omega
    rw [h1, h2, h3, Nat.mod_mul]
    ring

/-- Reading n bytes at a place that the core performs itself gives the value of those bytes. -/
theorem State.readPlace_value {s : State} {a : Acc} {n : Nat} {p : Place} (h : s.performs a n p = true) :
    s.readPlace n p = s.value p n := by
  cases p with
  | device off => simp [State.performs] at h
  | phys pa pte =>
    simp only [State.performs, Bool.and_eq_true, Bool.not_eq_true', decide_eq_true_eq] at h
    obtain ⟨⟨⟨⟨h1, h2⟩, -⟩, -⟩, -⟩ := h
    simp only [State.readPlace, lineRead_sum, State.value, Place.loc, h1, Bool.false_eq_true, if_false, State.byteAt, State.myCore]
    congr 1
    apply List.map_congr_left
    intro k hk
    have hk : k < n := by simpa using hk
    have hb : blockOf (pa + k) = blockOf pa := by unfold blockOf; omega
    have hm : (pa + k) % 64 = pa % 64 + k := by omega
    rw [hb, hm]
  | _ => simp only [State.readPlace, Memory.read_sum, State.value, Place.loc, State.byteAt]

set_option exponentiation.threshold 600 in
/-- A line after a write, as its upper part, the bytes written and its lower part. -/
theorem lineWrite_toNat (l : Line) {off n v : Nat} (hn : off + n ≤ 64) :
    (lineWrite l off n v).toNat =
      2 ^ (8 * off) * (2 ^ (8 * n) * (l.toNat / 2 ^ (8 * off) / 2 ^ (8 * n)) + v % 2 ^ (8 * n)) + l.toNat % 2 ^ (8 * off) := by
  have hl := l.isLt
  simp only [lineWrite, lineRead, BitVec.toNat_ofNat]
  have hd := Nat.div_add_mod l.toNat (2 ^ (8 * off))
  have hd2 := Nat.div_add_mod (l.toNat / 2 ^ (8 * off)) (2 ^ (8 * n))
  have h512 : (2 : Nat) ^ 512 = 2 ^ (8 * off) * 2 ^ (8 * n) * 2 ^ (512 - 8 * (off + n)) := by
    rw [← Nat.pow_add, ← Nat.pow_add]; congr 1; omega
  have hlo : l.toNat % 2 ^ (8 * off) < 2 ^ (8 * off) := Nat.mod_lt _ (Nat.two_pow_pos _)
  have hv : v % 2 ^ (8 * n) < 2 ^ (8 * n) := Nat.mod_lt _ (Nat.two_pow_pos _)
  have hhi : l.toNat / 2 ^ (8 * off) / 2 ^ (8 * n) < 2 ^ (512 - 8 * (off + n)) := by
    rw [Nat.div_div_eq_div_mul]
    apply Nat.div_lt_of_lt_mul
    rw [← h512]; exact hl
  generalize 2 ^ (512 - 8 * (off + n)) = M at *
  generalize hA : 2 ^ (8 * off) = A at *
  generalize hB : 2 ^ (8 * n) = B at *
  generalize l.toNat % A = lo at *
  generalize hQ : l.toNat / A = Q at *
  generalize v % B = V at *
  generalize Q % B = R at *
  generalize Q / B = hi at *
  have hX : l.toNat = A * (B * hi) + A * R + lo := by rw [← hd, ← hd2]; ring
  have hsub : l.toNat - R * A + V * A = A * (B * hi + V) + lo := by
    have : l.toNat = A * (B * hi) + lo + R * A := by rw [hX]; ring
    rw [this, Nat.add_sub_cancel]; ring
  rw [hsub]
  apply Nat.mod_eq_of_lt
  rw [h512]
  have h1 : B * hi + V + 1 ≤ B * M := by
    calc B * hi + V + 1 ≤ B * hi + B := by omega
      _ = B * (hi + 1) := by ring
      _ ≤ B * M := Nat.mul_le_mul_left _ (by omega)
  calc A * (B * hi + V) + lo < A * (B * hi + V) + A := by omega
    _ = A * (B * hi + V + 1) := by ring
    _ ≤ A * (B * M) := Nat.mul_le_mul_left _ h1
    _ = A * B * M := by ring

theorem byte_ext {x y m : Nat} (h : ∀ i, i < 8 → x.testBit (m + i) = y.testBit (m + i)) :
    BitVec.ofNat 8 (x / 2 ^ m) = BitVec.ofNat 8 (y / 2 ^ m) := by
  apply BitVec.eq_of_getLsbD_eq
  intro i hi
  simp only [BitVec.getLsbD_ofNat, Nat.testBit_div_two_pow]
  rw [show i + m = m + i by omega, h i hi]

theorem lineWrite_bit (l : Line) {off n v : Nat} (hn : off + n ≤ 64) (j : Nat) :
    (lineWrite l off n v).toNat.testBit j =
      if j < 8 * off then l.toNat.testBit j
      else if j < 8 * off + 8 * n then v.testBit (j - 8 * off) else l.toNat.testBit j := by
  rw [lineWrite_toNat l hn, Nat.testBit_two_pow_mul_add _ (Nat.mod_lt _ (Nat.two_pow_pos _)), Nat.testBit_mod_two_pow]
  split
  · next h => simp [h]
  · next h =>
    rw [Nat.testBit_two_pow_mul_add _ (Nat.mod_lt _ (Nat.two_pow_pos _)), Nat.testBit_mod_two_pow]
    split
    · next h2 => have : j < 8 * off + 8 * n := by omega
                 simp [h2, this]
    · next h2 =>
      have : ¬ j < 8 * off + 8 * n := by omega
      simp only [this, if_false, Nat.testBit_div_two_pow]
      congr 1; omega

/-- A byte that a write to a line replaces. -/
theorem lineWrite_in (l : Line) {off n v k : Nat} (hk : k < n) (hn : off + n ≤ 64) :
    BitVec.ofNat 8 ((lineWrite l off n v).toNat / 2 ^ (8 * (off + k))) = BitVec.ofNat 8 (v / 256 ^ k) := by
  have h2 : (256 : Nat) ^ k = 2 ^ (8 * k) := by rw [Nat.pow_mul]
  rw [h2]
  apply BitVec.eq_of_getLsbD_eq
  intro i hi
  simp only [BitVec.getLsbD_ofNat, Nat.testBit_div_two_pow, lineWrite_bit l hn]
  have h3 : ¬ i + 8 * (off + k) < 8 * off := by omega
  have h4 : i + 8 * (off + k) < 8 * off + 8 * n := by omega
  simp only [h3, if_false, h4, if_true]
  congr 2; omega

/-- A byte that it does not. -/
theorem lineWrite_out (l : Line) {off n v k : Nat} (hk : k < off ∨ off + n ≤ k) (hn : off + n ≤ 64) :
    BitVec.ofNat 8 ((lineWrite l off n v).toNat / 2 ^ (8 * k)) = BitVec.ofNat 8 (l.toNat / 2 ^ (8 * k)) := by
  apply byte_ext
  intro i hi
  rw [lineWrite_bit l hn]
  split
  · rfl
  · have : ¬ 8 * k + i < 8 * off + 8 * n := by omega
    simp [this]

/-! ## Writing a place -/

theorem Core.block_put_self (k : Core) (b : Nat) (x : Block) : ({ k with cache := k.cache.put b x } : Core).block b = x := by
  simp [Core.block]
theorem Core.block_put_ne (k : Core) {b c : Nat} (x : Block) (h : c ≠ b) :
    ({ k with cache := k.cache.put b x } : Core).block c = k.block c := by
  simp [Core.block, Map.at_put_ne _ _ _ h]

/-- The bytes at a place after a write there. -/
theorem State.byteAt_writePlace {s : State} {a : Acc} {n v : Nat} {p : Place} (h : s.performs a n p = true) {k : Nat}
    (hk : k < n) : (s.writePlace n v p).byteAt (p.loc s k) = BitVec.ofNat 8 (v / 256 ^ k) := by
  cases p with
  | device off => simp [State.performs] at h
  | phys pa pte =>
    simp only [State.performs, Bool.and_eq_true, Bool.not_eq_true', decide_eq_true_eq] at h
    obtain ⟨⟨⟨⟨h1, h2⟩, -⟩, -⟩, -⟩ := h
    have hb : blockOf (pa + k) = blockOf pa := by unfold blockOf; omega
    have hm : (pa + k) % 64 = pa % 64 + k := by omega
    simp only [Place.loc, h1, Bool.false_eq_true, if_false, State.byteAt, State.writePlace, State.setBlock,
      State.core_modCore_self, hb, hm, Core.block_put_self]
    exact lineWrite_in _ hk h2
  | sram c off =>
    simp only [Place.loc, State.byteAt, State.writePlace, State.writeSram, State.core_modCore_self]
    exact Memory.byte_write_self _ _ _ _ _ hk
  | handler off =>
    simp only [Place.loc, State.byteAt, State.writePlace, State.pp_modPP_self]
    exact Memory.byte_write_self _ _ _ _ _ hk
  | slice pa =>
    simp only [Place.loc, State.byteAt, State.writePlace]
    exact Memory.byte_write_self _ _ _ _ _ hk

/-- Every other byte. -/
theorem State.byteAt_writePlace_ne {s : State} {a : Acc} {n v : Nat} {p : Place} (h : s.performs a n p = true) {l : Loc}
    (hl : ∀ k, k < n → l ≠ p.loc s k) : (s.writePlace n v p).byteAt l = s.byteAt l := by
  have far (x lo : Nat) (hx : ∀ k, k < n → x ≠ lo + k) : x < lo ∨ lo + n ≤ x := by
    by_contra hc
    exact hx (x - lo) (by omega) (by omega)
  cases p with
  | device off => simp [State.performs] at h
  | phys pa pte =>
    simp only [State.performs, Bool.and_eq_true, Bool.not_eq_true', decide_eq_true_eq] at h
    obtain ⟨⟨⟨⟨h1, h2⟩, -⟩, -⟩, -⟩ := h
    simp only [Place.loc, h1, Bool.false_eq_true, if_false] at hl
    cases l with
    | cached c x =>
      simp only [State.byteAt, State.writePlace, State.setBlock]
      by_cases hc : c = s.cur.unit
      · subst hc
        simp only [State.core_modCore_self]
        by_cases hb : blockOf x = blockOf pa
        · rw [hb, Core.block_put_self]
          have hx : x < pa ∨ pa + n ≤ x := far x pa fun k hk e => hl k hk (by rw [e])
          apply lineWrite_out _ _ h2
          unfold blockOf at hb
          omega
        · rw [Core.block_put_ne _ _ hb]
      · rw [State.core_modCore_ne _ _ hc]
    | sram c x =>
      simp only [State.byteAt, State.writePlace, State.setBlock]
      by_cases hc : c = s.cur.unit
      · subst hc; simp
      · rw [State.core_modCore_ne _ _ hc]
    | _ => rfl
  | sram c off =>
    cases l with
    | sram d x =>
      simp only [State.byteAt, State.writePlace, State.writeSram]
      by_cases hc : d = c
      · subst hc
        simp only [State.core_modCore_self]
        exact Memory.byte_write_ne _ _ _ _ _ (far x off fun k hk e => hl k hk (by rw [e]; rfl))
      · rw [State.core_modCore_ne _ _ hc]
    | cached d x =>
      simp only [State.byteAt, State.writePlace, State.writeSram]
      by_cases hc : d = c
      · subst hc
        simp only [State.core_modCore_self]
        simp only [Core.block, Core.touch]; split <;> rfl
      · rw [State.core_modCore_ne _ _ hc]
    | _ => rfl
  | handler off =>
    cases l with
    | handler d x =>
      simp only [State.byteAt, State.writePlace]
      by_cases hc : d = s.cur.unit
      · subst hc
        simp only [State.pp_modPP_self]
        exact Memory.byte_write_ne _ _ _ _ _ (far x off fun k hk e => hl k hk (by rw [e]; rfl))
      · rw [State.pp_modPP_ne _ _ hc]
    | _ => rfl
  | slice pa =>
    cases l with
    | phys x =>
      simp only [State.byteAt, State.writePlace]
      exact Memory.byte_write_ne _ _ _ _ _ (far x pa fun k hk e => hl k hk (by rw [e]; rfl))
    | _ => rfl

/-- A write at a place leaves every slot, every register and the packets on the mesh. -/
theorem State.writePlace_keeps (s : State) (n v : Nat) (p : Place) :
    (s.writePlace n v p).cur = s.cur ∧ (∀ pp u t, (s.writePlace n v p).thread pp u t = s.thread pp u t) ∧
    (∀ pp u t r, (s.writePlace n v p).xOf pp u t r = s.xOf pp u t r) ∧
    (∀ c, ((s.writePlace n v p).core c).vrf = (s.core c).vrf) ∧ (s.writePlace n v p).net = s.net := by
  have hcore (c : Nat) (f : Core → Core) (hf : ∀ k, (f k).threads = k.threads ∧ (f k).xrf = k.xrf ∧ (f k).vrf = k.vrf) :
      (∀ pp u t, (s.modCore c f).thread pp u t = s.thread pp u t) ∧
      (∀ pp u t r, (s.modCore c f).xOf pp u t r = s.xOf pp u t r) ∧ (∀ d, ((s.modCore c f).core d).vrf = (s.core d).vrf) := by
    have hd (d : Nat) : ((s.modCore c f).core d).threads = (s.core d).threads ∧ ((s.modCore c f).core d).xrf = (s.core d).xrf ∧
        ((s.modCore c f).core d).vrf = (s.core d).vrf := by
      by_cases e : d = c
      · subst e; simp [hf]
      · simp [State.core_modCore_ne _ _ e]
    refine ⟨fun pp u t => ?_, fun pp u t r => ?_, fun d => (hd d).2.2⟩
    · unfold State.thread; cases pp
      · simp [Core.thread, (hd u).1]
      · simp
    · unfold State.xOf; simp [(hd u).2.1]
  have ht (k : Core) (off : Nat) : (k.touch off).threads = k.threads ∧ (k.touch off).xrf = k.xrf ∧ (k.touch off).vrf = k.vrf := by
    unfold Core.touch; split <;> exact ⟨rfl, rfl, rfl⟩
  cases p with
  | sram c off =>
    have := hcore c (fun k => { (k.touch off) with sram := k.sram.write off n v }) fun k => ht k off
    exact ⟨rfl, this.1, this.2.1, this.2.2, rfl⟩
  | phys pa pte =>
    refine ⟨rfl, ?_⟩
    have := hcore s.cur.unit (fun c => { c with cache := c.cache.put (blockOf pa) { s.myCore.block (blockOf pa) with
      data := lineWrite (s.myCore.block (blockOf pa)).data (pa % 64) n v,
      dirty := (s.myCore.block (blockOf pa)).dirty ||| ((2 ^ n - 1) <<< (pa % 64)) } }) fun k => ⟨rfl, rfl, rfl⟩
    exact ⟨this.1, this.2.1, this.2.2, rfl⟩
  | handler off =>
    refine ⟨rfl, fun pp u t => ?_, fun pp u t r => ?_, fun _ => rfl, rfl⟩
    · unfold State.thread State.writePlace
      cases pp
      · rfl
      · by_cases e : u = s.cur.unit
        · subst e; simp [PP.handler]
        · simp [State.pp_modPP_ne _ _ e]
    · unfold State.xOf State.writePlace
      by_cases e : u = s.cur.unit
      · subst e; simp
      · simp [State.pp_modPP_ne _ _ e]
  | slice pa => exact ⟨rfl, fun _ _ _ => rfl, fun _ _ _ _ => rfl, fun _ => rfl, rfl⟩
  | device off => exact ⟨rfl, fun _ _ _ => rfl, fun _ _ _ _ => rfl, fun _ => rfl, rfl⟩

end Sys2Proof.Machine
end

