-- ==== Sys2Proof/Laws/Forms.lean ====
section
/-! SUPPORT. The scalar loads and stores as one form each, and their values. -/

namespace Sys2Proof.Machine

theorem loadImm_form (d a : Nat) (imm : Int) (size : Nat) (sgn : Bool) (o : OrdFld) (s : State) :
    loadImm d a imm size sgn o s = issue (immForm false d a imm size sgn o).uses
      (fun x y _ t => loadX d ((immForm false d a imm size sgn o).addr x y) size sgn o t) s := rfl
theorem loadIdx_form (d a b sh : Nat) (size : Nat) (sgn : Bool) (o : OrdFld) (s : State) :
    loadIdx d a b sh size sgn o s = issue (idxForm false d a b sh size sgn o).uses
      (fun x y _ t => loadX d ((idxForm false d a b sh size sgn o).addr x y) size sgn o t) s := by
  simp only [loadIdx, idxForm, addrIdx, shl64_eq]; rfl
theorem storeImm_form (d a : Nat) (imm : Int) (size : Nat) (sgn : Bool) (o : OrdFld) (s : State) :
    storeImm d a imm size o s = issue (immForm true d a imm size sgn o).uses
      (fun x y v t => storeX ((immForm true d a imm size sgn o).addr x y) v size o t) s := rfl
theorem storeIdx_form (d a b sh : Nat) (size : Nat) (sgn : Bool) (o : OrdFld) (s : State) :
    storeIdx d a b sh size o s = issue (idxForm true d a b sh size sgn o).uses
      (fun x y v t => storeX ((idxForm true d a b sh size sgn o).addr x y) v size o t) s := by
  simp only [storeIdx, idxForm, addrIdx, shl64_eq]; rfl

set_option maxHeartbeats 4000000 in
/-- Every scalar load is `loadX` at its address. -/
theorem exec_loadOp {i : Instr} {x : Access} {s : State} (h : loadOp i = some x) :
    exec i s = issue x.uses (fun a b _ t => loadX x.d (x.addr a b) x.size x.signed x.ord t) s ∧
    (x.size = 1 ∨ x.size = 2 ∨ x.size = 4 ∨ x.size = 8) ∧ x.uses.d = .dst x.d := by
  unfold loadOp at h
  split at h
  all_goals try simp only [reduceCtorEq, Option.some.injEq] at h
  all_goals subst h
  all_goals refine ⟨?_, by simp [immForm, idxForm], rfl⟩
  iterate 8 exact loadImm_form ..
  all_goals exact loadIdx_form ..

set_option maxHeartbeats 4000000 in
/-- Every scalar store is `storeX` at its address. -/
theorem exec_storeOp {i : Instr} {x : Access} {s : State} (h : storeOp i = some x) :
    exec i s = issue x.uses (fun a b v t => storeX (x.addr a b) v x.size x.ord t) s ∧
    (x.size = 1 ∨ x.size = 2 ∨ x.size = 4 ∨ x.size = 8) ∧ x.uses.d = .src x.d := by
  unfold storeOp at h
  split at h
  all_goals try simp only [reduceCtorEq, Option.some.injEq] at h
  all_goals subst h
  all_goals refine ⟨?_, by simp [immForm, idxForm], rfl⟩
  iterate 5 exact storeImm_form ..
  all_goals exact storeIdx_form ..

/-- The value of n bytes. -/
theorem State.value_lt (s : State) (p : Place) (n : Nat) : s.value p n < 256 ^ n := by
  unfold State.value
  induction n with
  | zero => simp
  | succ n ih =>
    rw [List.range_succ, List.map_append, List.sum_append]
    simp only [List.map_cons, List.map_nil, List.sum_cons, List.sum_nil, Nat.add_zero, Nat.pow_succ]
    have h := (s.byteAt (p.loc s n)).isLt
    have h2 : (s.byteAt (p.loc s n)).toNat ≤ 255 := by omega
    have := Nat.mul_le_mul_right (256 ^ n) h2
    omega

/-- A loaded value extended to a dword. -/
theorem extend_loaded {n : Nat} {sgn : Bool} {v : Nat} (hn : n = 1 ∨ n = 2 ∨ n = 4 ∨ n = 8) (hv : v < 256 ^ n) :
    extend n sgn v = loaded n sgn v := by
  unfold extend loaded
  cases sgn
  · simp only [Bool.false_eq_true, if_false, zextN]
    have : (w64 v).toNat % 2 ^ (8 * n) = v := by
      simp only [w64, BitVec.toNat_ofNat]
      rcases hn with h | h | h | h <;> subst h <;> simp only [Nat.reducePow, Nat.reduceMul] at * <;> omega
    rw [this]
  · simp only [if_true, sextN_eq]

/-- Byte k of the low n bytes of a dword. -/
theorem byte_of_word {c : Word} {n k : Nat} (hk : k < n) :
    BitVec.ofNat 8 (c.toNat % 2 ^ (8 * n) / 256 ^ k) = c.extractLsb' (8 * k) 8 := by
  have h2 : (256 : Nat) ^ k = 2 ^ (8 * k) := by rw [Nat.pow_mul]
  rw [h2]
  apply BitVec.eq_of_getLsbD_eq
  intro i hi
  simp only [BitVec.getLsbD_ofNat, Nat.testBit_div_two_pow, Nat.testBit_mod_two_pow, BitVec.getLsbD_extractLsb', hi,
    decide_true, Bool.true_and]
  have : i + 8 * k < 8 * n := by omega
  simp only [this, decide_true, Bool.true_and]
  rw [BitVec.getLsbD, show i + 8 * k = 8 * k + i by omega]

/-- Writing a register of the window, for a value known at issue or late. -/
theorem putX_register {t : State} {d : Nat} {v : Word} (h : d < 120) : putX d v t = .ok (t.setX d v) := by
  have : d ≠ 121 := by omega
  simp [putX, this]
theorem lateX_register {t : State} {d : Nat} {v : Word} (h : d < 120) : lateX d v t = .ok (t.setX d v) := by
  have : d ≠ 121 := by omega
  simp [lateX, this]
theorem reserveX_register {t : State} {d : Nat} (h : d < 120) : reserveX d t = .ok () := by
  have : d ≠ 121 := by omega
  simp [reserveX, this]

end Sys2Proof.Machine
end

