-- ==== Sys2Proof/Laws/PerInstr.lean ====
section
/-! SUPPORT. For each instruction, by itself: a well-formed one has a chain, and its page and its major opcode are those
of a base word, page 13 exactly where only a protocol processor runs it (R94, R115 to R124). -/

namespace Sys2Proof.Laws.Encodes

/-- A well-formed instruction has a chain, on page 13 exactly where it is a protocol processor's. -/
def Statement (i : Instr) : Prop :=
  i.wf = true → ∃ r, toRaw i = some r ∧ (r.page == 13) = i.onPP ∧ r.page < 15 ∧ r.major < 15

theorem add (d : Nat) (a : Nat) (b : Nat) : Statement (.add d a b) :=
  fun _ => ⟨_, rfl, rfl, of_decide_eq_true rfl, of_decide_eq_true rfl⟩
theorem sub (d : Nat) (a : Nat) (b : Nat) : Statement (.sub d a b) :=
  fun _ => ⟨_, rfl, rfl, of_decide_eq_true rfl, of_decide_eq_true rfl⟩
theorem and (d : Nat) (a : Nat) (b : Nat) : Statement (.and d a b) :=
  fun _ => ⟨_, rfl, rfl, of_decide_eq_true rfl, of_decide_eq_true rfl⟩
theorem or (d : Nat) (a : Nat) (b : Nat) : Statement (.or d a b) :=
  fun _ => ⟨_, rfl, rfl, of_decide_eq_true rfl, of_decide_eq_true rfl⟩
theorem xor (d : Nat) (a : Nat) (b : Nat) : Statement (.xor d a b) :=
  fun _ => ⟨_, rfl, rfl, of_decide_eq_true rfl, of_decide_eq_true rfl⟩
theorem addi (d : Nat) (a : Nat) (imm : Int) : Statement (.addi d a imm) :=
  fun _ => ⟨_, rfl, rfl, of_decide_eq_true rfl, of_decide_eq_true rfl⟩
theorem li (d : Nat) (imm : Int) : Statement (.li d imm) := fun _ => ⟨_, rfl, rfl, of_decide_eq_true rfl, of_decide_eq_true rfl⟩
theorem ld (d : Nat) (a : Nat) (imm : Int) (ord : OrdFld) : Statement (.ld d a imm ord) :=
  fun _ => ⟨_, rfl, rfl, of_decide_eq_true rfl, of_decide_eq_true rfl⟩
theorem st (d : Nat) (a : Nat) (imm : Int) (ord : OrdFld) : Statement (.st d a imm ord) :=
  fun _ => ⟨_, rfl, rfl, of_decide_eq_true rfl, of_decide_eq_true rfl⟩
theorem skeq (k : Nat) (a : Nat) (b : SkSrc) : Statement (.skeq k a b) :=
  fun _ => by cases b <;> exact ⟨_, rfl, rfl, of_decide_eq_true rfl, of_decide_eq_true rfl⟩
theorem skne (k : Nat) (a : Nat) (b : SkSrc) : Statement (.skne k a b) :=
  fun _ => by cases b <;> exact ⟨_, rfl, rfl, of_decide_eq_true rfl, of_decide_eq_true rfl⟩
theorem sklt (k : Nat) (a : Nat) (b : SkSrc) : Statement (.sklt k a b) :=
  fun _ => by cases b <;> exact ⟨_, rfl, rfl, of_decide_eq_true rfl, of_decide_eq_true rfl⟩
theorem skge (k : Nat) (a : Nat) (b : SkSrc) : Statement (.skge k a b) :=
  fun _ => by cases b <;> exact ⟨_, rfl, rfl, of_decide_eq_true rfl, of_decide_eq_true rfl⟩
theorem skltu (k : Nat) (a : Nat) (b : SkSrc) : Statement (.skltu k a b) :=
  fun _ => by cases b <;> exact ⟨_, rfl, rfl, of_decide_eq_true rfl, of_decide_eq_true rfl⟩
theorem skgeu (k : Nat) (a : Nat) (b : SkSrc) : Statement (.skgeu k a b) :=
  fun _ => by cases b <;> exact ⟨_, rfl, rfl, of_decide_eq_true rfl, of_decide_eq_true rfl⟩
theorem skbs (k : Nat) (a : Nat) (b : SkSrc) : Statement (.skbs k a b) :=
  fun _ => by cases b <;> exact ⟨_, rfl, rfl, of_decide_eq_true rfl, of_decide_eq_true rfl⟩
theorem skbc (k : Nat) (a : Nat) (b : SkSrc) : Statement (.skbc k a b) :=
  fun _ => by cases b <;> exact ⟨_, rfl, rfl, of_decide_eq_true rfl, of_decide_eq_true rfl⟩
theorem br (off : Int) : Statement (.br off) := fun _ => ⟨_, rfl, rfl, of_decide_eq_true rfl, of_decide_eq_true rfl⟩
theorem call (off : Int) : Statement (.call off) := fun _ => ⟨_, rfl, rfl, of_decide_eq_true rfl, of_decide_eq_true rfl⟩
theorem jr (a : Nat) : Statement (.jr a) := fun _ => ⟨_, rfl, rfl, of_decide_eq_true rfl, of_decide_eq_true rfl⟩
theorem callr (d : Nat) (a : Nat) : Statement (.callr d a) :=
  fun _ => ⟨_, rfl, rfl, of_decide_eq_true rfl, of_decide_eq_true rfl⟩
theorem ret : Statement .ret := fun _ => ⟨_, rfl, rfl, of_decide_eq_true rfl, of_decide_eq_true rfl⟩
theorem not (d : Nat) (a : Nat) : Statement (.not d a) := fun _ => ⟨_, rfl, rfl, of_decide_eq_true rfl, of_decide_eq_true rfl⟩
theorem neg (d : Nat) (a : Nat) : Statement (.neg d a) := fun _ => ⟨_, rfl, rfl, of_decide_eq_true rfl, of_decide_eq_true rfl⟩
theorem abs (d : Nat) (a : Nat) : Statement (.abs d a) := fun _ => ⟨_, rfl, rfl, of_decide_eq_true rfl, of_decide_eq_true rfl⟩
theorem sextB (d : Nat) (a : Nat) : Statement (.sextB d a) :=
  fun _ => ⟨_, rfl, rfl, of_decide_eq_true rfl, of_decide_eq_true rfl⟩
theorem sextH (d : Nat) (a : Nat) : Statement (.sextH d a) :=
  fun _ => ⟨_, rfl, rfl, of_decide_eq_true rfl, of_decide_eq_true rfl⟩
theorem sextW (d : Nat) (a : Nat) : Statement (.sextW d a) :=
  fun _ => ⟨_, rfl, rfl, of_decide_eq_true rfl, of_decide_eq_true rfl⟩
theorem zextB (d : Nat) (a : Nat) : Statement (.zextB d a) :=
  fun _ => ⟨_, rfl, rfl, of_decide_eq_true rfl, of_decide_eq_true rfl⟩
theorem zextH (d : Nat) (a : Nat) : Statement (.zextH d a) :=
  fun _ => ⟨_, rfl, rfl, of_decide_eq_true rfl, of_decide_eq_true rfl⟩
theorem zextW (d : Nat) (a : Nat) : Statement (.zextW d a) :=
  fun _ => ⟨_, rfl, rfl, of_decide_eq_true rfl, of_decide_eq_true rfl⟩
theorem nop : Statement .nop := fun _ => ⟨_, rfl, rfl, of_decide_eq_true rfl, of_decide_eq_true rfl⟩
theorem endTask : Statement .endTask := fun _ => ⟨_, rfl, rfl, of_decide_eq_true rfl, of_decide_eq_true rfl⟩
theorem yield : Statement .yield := fun _ => ⟨_, rfl, rfl, of_decide_eq_true rfl, of_decide_eq_true rfl⟩
theorem shli (d : Nat) (n : Nat) : Statement (.shli d n) := fun _ => ⟨_, rfl, rfl, of_decide_eq_true rfl, of_decide_eq_true rfl⟩
theorem shri (d : Nat) (n : Nat) : Statement (.shri d n) := fun _ => ⟨_, rfl, rfl, of_decide_eq_true rfl, of_decide_eq_true rfl⟩
theorem srai (d : Nat) (n : Nat) : Statement (.srai d n) := fun _ => ⟨_, rfl, rfl, of_decide_eq_true rfl, of_decide_eq_true rfl⟩
theorem rori (d : Nat) (n : Nat) : Statement (.rori d n) := fun _ => ⟨_, rfl, rfl, of_decide_eq_true rfl, of_decide_eq_true rfl⟩
theorem mul (d : Nat) (a : Nat) (b : Nat) : Statement (.mul d a b) :=
  fun _ => ⟨_, rfl, rfl, of_decide_eq_true rfl, of_decide_eq_true rfl⟩
theorem mulh (d : Nat) (a : Nat) (b : Nat) : Statement (.mulh d a b) :=
  fun _ => ⟨_, rfl, rfl, of_decide_eq_true rfl, of_decide_eq_true rfl⟩
theorem mulhu (d : Nat) (a : Nat) (b : Nat) : Statement (.mulhu d a b) :=
  fun _ => ⟨_, rfl, rfl, of_decide_eq_true rfl, of_decide_eq_true rfl⟩
theorem div (d : Nat) (a : Nat) (b : Nat) : Statement (.div d a b) :=
  fun _ => ⟨_, rfl, rfl, of_decide_eq_true rfl, of_decide_eq_true rfl⟩
theorem divu (d : Nat) (a : Nat) (b : Nat) : Statement (.divu d a b) :=
  fun _ => ⟨_, rfl, rfl, of_decide_eq_true rfl, of_decide_eq_true rfl⟩
theorem rem (d : Nat) (a : Nat) (b : Nat) : Statement (.rem d a b) :=
  fun _ => ⟨_, rfl, rfl, of_decide_eq_true rfl, of_decide_eq_true rfl⟩
theorem remu (d : Nat) (a : Nat) (b : Nat) : Statement (.remu d a b) :=
  fun _ => ⟨_, rfl, rfl, of_decide_eq_true rfl, of_decide_eq_true rfl⟩
theorem min (d : Nat) (a : Nat) (b : Nat) : Statement (.min d a b) :=
  fun _ => ⟨_, rfl, rfl, of_decide_eq_true rfl, of_decide_eq_true rfl⟩
theorem minu (d : Nat) (a : Nat) (b : Nat) : Statement (.minu d a b) :=
  fun _ => ⟨_, rfl, rfl, of_decide_eq_true rfl, of_decide_eq_true rfl⟩
theorem max (d : Nat) (a : Nat) (b : Nat) : Statement (.max d a b) :=
  fun _ => ⟨_, rfl, rfl, of_decide_eq_true rfl, of_decide_eq_true rfl⟩
theorem maxu (d : Nat) (a : Nat) (b : Nat) : Statement (.maxu d a b) :=
  fun _ => ⟨_, rfl, rfl, of_decide_eq_true rfl, of_decide_eq_true rfl⟩
theorem shl (d : Nat) (a : Nat) (b : Nat) : Statement (.shl d a b) :=
  fun _ => ⟨_, rfl, rfl, of_decide_eq_true rfl, of_decide_eq_true rfl⟩
theorem shr (d : Nat) (a : Nat) (b : Nat) : Statement (.shr d a b) :=
  fun _ => ⟨_, rfl, rfl, of_decide_eq_true rfl, of_decide_eq_true rfl⟩
theorem sra (d : Nat) (a : Nat) (b : Nat) : Statement (.sra d a b) :=
  fun _ => ⟨_, rfl, rfl, of_decide_eq_true rfl, of_decide_eq_true rfl⟩
theorem ror (d : Nat) (a : Nat) (b : Nat) : Statement (.ror d a b) :=
  fun _ => ⟨_, rfl, rfl, of_decide_eq_true rfl, of_decide_eq_true rfl⟩
theorem lea (d : Nat) (a : Nat) (b : Nat) (s : Nat) : Statement (.lea d a b s) :=
  fun _ => ⟨_, rfl, rfl, of_decide_eq_true rfl, of_decide_eq_true rfl⟩
theorem clz (d : Nat) (a : Nat) : Statement (.clz d a) := fun _ => ⟨_, rfl, rfl, of_decide_eq_true rfl, of_decide_eq_true rfl⟩
theorem ctz (d : Nat) (a : Nat) : Statement (.ctz d a) := fun _ => ⟨_, rfl, rfl, of_decide_eq_true rfl, of_decide_eq_true rfl⟩
theorem popc (d : Nat) (a : Nat) : Statement (.popc d a) := fun _ => ⟨_, rfl, rfl, of_decide_eq_true rfl, of_decide_eq_true rfl⟩
theorem brev (d : Nat) (a : Nat) : Statement (.brev d a) := fun _ => ⟨_, rfl, rfl, of_decide_eq_true rfl, of_decide_eq_true rfl⟩
theorem bswap (d : Nat) (a : Nat) : Statement (.bswap d a) :=
  fun _ => ⟨_, rfl, rfl, of_decide_eq_true rfl, of_decide_eq_true rfl⟩
theorem extu (d : Nat) (a : Nat) (pos : Nat) (len : Nat) : Statement (.extu d a pos len) :=
  fun _ => ⟨_, rfl, rfl, of_decide_eq_true rfl, of_decide_eq_true rfl⟩
theorem exts (d : Nat) (a : Nat) (pos : Nat) (len : Nat) : Statement (.exts d a pos len) :=
  fun _ => ⟨_, rfl, rfl, of_decide_eq_true rfl, of_decide_eq_true rfl⟩
theorem ins (d : Nat) (a : Nat) (pos : Nat) (len : Nat) : Statement (.ins d a pos len) :=
  fun _ => ⟨_, rfl, rfl, of_decide_eq_true rfl, of_decide_eq_true rfl⟩
theorem addw (d : Nat) (a : Nat) (b : Nat) : Statement (.addw d a b) :=
  fun _ => ⟨_, rfl, rfl, of_decide_eq_true rfl, of_decide_eq_true rfl⟩
theorem subw (d : Nat) (a : Nat) (b : Nat) : Statement (.subw d a b) :=
  fun _ => ⟨_, rfl, rfl, of_decide_eq_true rfl, of_decide_eq_true rfl⟩
theorem mulw (d : Nat) (a : Nat) (b : Nat) : Statement (.mulw d a b) :=
  fun _ => ⟨_, rfl, rfl, of_decide_eq_true rfl, of_decide_eq_true rfl⟩
theorem ldb (d : Nat) (a : Nat) (imm : Int) (ord : OrdFld) : Statement (.ldb d a imm ord) :=
  fun _ => ⟨_, rfl, rfl, of_decide_eq_true rfl, of_decide_eq_true rfl⟩
theorem ldbu (d : Nat) (a : Nat) (imm : Int) (ord : OrdFld) : Statement (.ldbu d a imm ord) :=
  fun _ => ⟨_, rfl, rfl, of_decide_eq_true rfl, of_decide_eq_true rfl⟩
theorem ldh (d : Nat) (a : Nat) (imm : Int) (ord : OrdFld) : Statement (.ldh d a imm ord) :=
  fun _ => ⟨_, rfl, rfl, of_decide_eq_true rfl, of_decide_eq_true rfl⟩
theorem ldhu (d : Nat) (a : Nat) (imm : Int) (ord : OrdFld) : Statement (.ldhu d a imm ord) :=
  fun _ => ⟨_, rfl, rfl, of_decide_eq_true rfl, of_decide_eq_true rfl⟩
theorem ldw (d : Nat) (a : Nat) (imm : Int) (ord : OrdFld) : Statement (.ldw d a imm ord) :=
  fun _ => ⟨_, rfl, rfl, of_decide_eq_true rfl, of_decide_eq_true rfl⟩
theorem ldwu (d : Nat) (a : Nat) (imm : Int) (ord : OrdFld) : Statement (.ldwu d a imm ord) :=
  fun _ => ⟨_, rfl, rfl, of_decide_eq_true rfl, of_decide_eq_true rfl⟩
theorem ldLong (d : Nat) (a : Nat) (imm : Int) (ord : OrdFld) : Statement (.ldLong d a imm ord) :=
  fun _ => ⟨_, rfl, rfl, of_decide_eq_true rfl, of_decide_eq_true rfl⟩
theorem stb (d : Nat) (a : Nat) (imm : Int) (ord : OrdFld) : Statement (.stb d a imm ord) :=
  fun _ => ⟨_, rfl, rfl, of_decide_eq_true rfl, of_decide_eq_true rfl⟩
theorem sth (d : Nat) (a : Nat) (imm : Int) (ord : OrdFld) : Statement (.sth d a imm ord) :=
  fun _ => ⟨_, rfl, rfl, of_decide_eq_true rfl, of_decide_eq_true rfl⟩
theorem stw (d : Nat) (a : Nat) (imm : Int) (ord : OrdFld) : Statement (.stw d a imm ord) :=
  fun _ => ⟨_, rfl, rfl, of_decide_eq_true rfl, of_decide_eq_true rfl⟩
theorem stLong (d : Nat) (a : Nat) (imm : Int) (ord : OrdFld) : Statement (.stLong d a imm ord) :=
  fun _ => ⟨_, rfl, rfl, of_decide_eq_true rfl, of_decide_eq_true rfl⟩
theorem ldxb (d : Nat) (a : Nat) (b : Nat) (s : Nat) (ord : OrdFld) : Statement (.ldxb d a b s ord) :=
  fun _ => ⟨_, rfl, rfl, of_decide_eq_true rfl, of_decide_eq_true rfl⟩
theorem ldxbu (d : Nat) (a : Nat) (b : Nat) (s : Nat) (ord : OrdFld) : Statement (.ldxbu d a b s ord) :=
  fun _ => ⟨_, rfl, rfl, of_decide_eq_true rfl, of_decide_eq_true rfl⟩
theorem ldxh (d : Nat) (a : Nat) (b : Nat) (s : Nat) (ord : OrdFld) : Statement (.ldxh d a b s ord) :=
  fun _ => ⟨_, rfl, rfl, of_decide_eq_true rfl, of_decide_eq_true rfl⟩
theorem ldxhu (d : Nat) (a : Nat) (b : Nat) (s : Nat) (ord : OrdFld) : Statement (.ldxhu d a b s ord) :=
  fun _ => ⟨_, rfl, rfl, of_decide_eq_true rfl, of_decide_eq_true rfl⟩
theorem ldxw (d : Nat) (a : Nat) (b : Nat) (s : Nat) (ord : OrdFld) : Statement (.ldxw d a b s ord) :=
  fun _ => ⟨_, rfl, rfl, of_decide_eq_true rfl, of_decide_eq_true rfl⟩
theorem ldxwu (d : Nat) (a : Nat) (b : Nat) (s : Nat) (ord : OrdFld) : Statement (.ldxwu d a b s ord) :=
  fun _ => ⟨_, rfl, rfl, of_decide_eq_true rfl, of_decide_eq_true rfl⟩
theorem ldx (d : Nat) (a : Nat) (b : Nat) (s : Nat) (ord : OrdFld) : Statement (.ldx d a b s ord) :=
  fun _ => ⟨_, rfl, rfl, of_decide_eq_true rfl, of_decide_eq_true rfl⟩
theorem stxb (d : Nat) (a : Nat) (b : Nat) (s : Nat) (ord : OrdFld) : Statement (.stxb d a b s ord) :=
  fun _ => ⟨_, rfl, rfl, of_decide_eq_true rfl, of_decide_eq_true rfl⟩
theorem stxh (d : Nat) (a : Nat) (b : Nat) (s : Nat) (ord : OrdFld) : Statement (.stxh d a b s ord) :=
  fun _ => ⟨_, rfl, rfl, of_decide_eq_true rfl, of_decide_eq_true rfl⟩
theorem stxw (d : Nat) (a : Nat) (b : Nat) (s : Nat) (ord : OrdFld) : Statement (.stxw d a b s ord) :=
  fun _ => ⟨_, rfl, rfl, of_decide_eq_true rfl, of_decide_eq_true rfl⟩
theorem stx (d : Nat) (a : Nat) (b : Nat) (s : Nat) (ord : OrdFld) : Statement (.stx d a b s ord) :=
  fun _ => ⟨_, rfl, rfl, of_decide_eq_true rfl, of_decide_eq_true rfl⟩
theorem vld (d : Nat) (a : Nat) (imm : Int) (w : Nat) (m : Nat) (ord : OrdFld) : Statement (.vld d a imm w m ord) :=
  fun _ => ⟨_, rfl, rfl, of_decide_eq_true rfl, of_decide_eq_true rfl⟩
theorem vst (d : Nat) (a : Nat) (imm : Int) (w : Nat) (m : Nat) (ord : OrdFld) : Statement (.vst d a imm w m ord) :=
  fun _ => ⟨_, rfl, rfl, of_decide_eq_true rfl, of_decide_eq_true rfl⟩
theorem vlds (d : Nat) (a : Nat) (b : Nat) (w : Nat) (m : Nat) (ord : OrdFld) : Statement (.vlds d a b w m ord) :=
  fun _ => ⟨_, rfl, rfl, of_decide_eq_true rfl, of_decide_eq_true rfl⟩
theorem vsts (d : Nat) (a : Nat) (b : Nat) (w : Nat) (m : Nat) (ord : OrdFld) : Statement (.vsts d a b w m ord) :=
  fun _ => ⟨_, rfl, rfl, of_decide_eq_true rfl, of_decide_eq_true rfl⟩
theorem vgth (d : Nat) (a : Nat) (b : Nat) (w : Nat) (m : Nat) (ord : OrdFld) : Statement (.vgth d a b w m ord) :=
  fun _ => ⟨_, rfl, rfl, of_decide_eq_true rfl, of_decide_eq_true rfl⟩
theorem vsct (d : Nat) (a : Nat) (b : Nat) (w : Nat) (m : Nat) (ord : OrdFld) : Statement (.vsct d a b w m ord) :=
  fun _ => ⟨_, rfl, rfl, of_decide_eq_true rfl, of_decide_eq_true rfl⟩
theorem prefr (a : Nat) (imm : Int) : Statement (.prefr a imm) :=
  fun _ => ⟨_, rfl, rfl, of_decide_eq_true rfl, of_decide_eq_true rfl⟩
theorem prefw (a : Nat) (imm : Int) : Statement (.prefw a imm) :=
  fun _ => ⟨_, rfl, rfl, of_decide_eq_true rfl, of_decide_eq_true rfl⟩
theorem prefk (a : Nat) (imm : Int) : Statement (.prefk a imm) :=
  fun _ => ⟨_, rfl, rfl, of_decide_eq_true rfl, of_decide_eq_true rfl⟩
theorem prefrel (a : Nat) (imm : Int) : Statement (.prefrel a imm) :=
  fun _ => ⟨_, rfl, rfl, of_decide_eq_true rfl, of_decide_eq_true rfl⟩
theorem fence (ord : OrdFld) : Statement (.fence ord) := fun _ => ⟨_, rfl, rfl, of_decide_eq_true rfl, of_decide_eq_true rfl⟩
theorem fencem (ord : OrdFld) : Statement (.fencem ord) := fun _ => ⟨_, rfl, rfl, of_decide_eq_true rfl, of_decide_eq_true rfl⟩
theorem fencee (ord : OrdFld) : Statement (.fencee ord) := fun _ => ⟨_, rfl, rfl, of_decide_eq_true rfl, of_decide_eq_true rfl⟩
theorem fencer (ord : OrdFld) : Statement (.fencer ord) := fun _ => ⟨_, rfl, rfl, of_decide_eq_true rfl, of_decide_eq_true rfl⟩
theorem tagq (d : Nat) (a : Nat) : Statement (.tagq d a) := fun _ => ⟨_, rfl, rfl, of_decide_eq_true rfl, of_decide_eq_true rfl⟩
theorem amoadd (d : Nat) (a : Nat) (b : Nat) (dbl : Bool) (far : Bool) (ord : OrdFld) : Statement (.amoadd d a b dbl far ord) :=
  fun _ => ⟨_, rfl, rfl, of_decide_eq_true rfl, of_decide_eq_true rfl⟩
theorem amoand (d : Nat) (a : Nat) (b : Nat) (dbl : Bool) (far : Bool) (ord : OrdFld) : Statement (.amoand d a b dbl far ord) :=
  fun _ => ⟨_, rfl, rfl, of_decide_eq_true rfl, of_decide_eq_true rfl⟩
theorem amoor (d : Nat) (a : Nat) (b : Nat) (dbl : Bool) (far : Bool) (ord : OrdFld) : Statement (.amoor d a b dbl far ord) :=
  fun _ => ⟨_, rfl, rfl, of_decide_eq_true rfl, of_decide_eq_true rfl⟩
theorem amoxor (d : Nat) (a : Nat) (b : Nat) (dbl : Bool) (far : Bool) (ord : OrdFld) : Statement (.amoxor d a b dbl far ord) :=
  fun _ => ⟨_, rfl, rfl, of_decide_eq_true rfl, of_decide_eq_true rfl⟩
theorem amomin (d : Nat) (a : Nat) (b : Nat) (dbl : Bool) (far : Bool) (ord : OrdFld) : Statement (.amomin d a b dbl far ord) :=
  fun _ => ⟨_, rfl, rfl, of_decide_eq_true rfl, of_decide_eq_true rfl⟩
theorem amomax (d : Nat) (a : Nat) (b : Nat) (dbl : Bool) (far : Bool) (ord : OrdFld) : Statement (.amomax d a b dbl far ord) :=
  fun _ => ⟨_, rfl, rfl, of_decide_eq_true rfl, of_decide_eq_true rfl⟩
theorem amominu (d : Nat) (a : Nat) (b : Nat) (dbl : Bool) (far : Bool) (ord : OrdFld) : Statement (.amominu d a b dbl far ord) :=
  fun _ => ⟨_, rfl, rfl, of_decide_eq_true rfl, of_decide_eq_true rfl⟩
theorem amomaxu (d : Nat) (a : Nat) (b : Nat) (dbl : Bool) (far : Bool) (ord : OrdFld) : Statement (.amomaxu d a b dbl far ord) :=
  fun _ => ⟨_, rfl, rfl, of_decide_eq_true rfl, of_decide_eq_true rfl⟩
theorem amoswap (d : Nat) (a : Nat) (b : Nat) (dbl : Bool) (far : Bool) (ord : OrdFld) : Statement (.amoswap d a b dbl far ord) :=
  fun _ => ⟨_, rfl, rfl, of_decide_eq_true rfl, of_decide_eq_true rfl⟩
theorem cas (d : Nat) (a : Nat) (b : Nat) (dbl : Bool) (ord : OrdFld) : Statement (.cas d a b dbl ord) :=
  fun _ => ⟨_, rfl, rfl, of_decide_eq_true rfl, of_decide_eq_true rfl⟩
theorem amof (d : Nat) (a : Nat) (b : Nat) (dbl : Bool) (far : Bool) (ord : OrdFld) : Statement (.amof d a b dbl far ord) :=
  fun _ => ⟨_, rfl, rfl, of_decide_eq_true rfl, of_decide_eq_true rfl⟩
theorem waitm (d : Nat) (a : Nat) (b : Nat) (ord : OrdFld) : Statement (.waitm d a b ord) :=
  fun _ => ⟨_, rfl, rfl, of_decide_eq_true rfl, of_decide_eq_true rfl⟩
theorem bar (i : Nat) (a : Nat) : Statement (.bar i a) := fun _ => ⟨_, rfl, rfl, of_decide_eq_true rfl, of_decide_eq_true rfl⟩
theorem bcarm (i : Nat) (a : Nat) : Statement (.bcarm i a) :=
  fun _ => ⟨_, rfl, rfl, of_decide_eq_true rfl, of_decide_eq_true rfl⟩
theorem bcwait (d : Nat) (i : Nat) : Statement (.bcwait d i) :=
  fun _ => ⟨_, rfl, rfl, of_decide_eq_true rfl, of_decide_eq_true rfl⟩
theorem vadd (d : Nat) (a : Nat) (b : Nat) (w : Nat) (m : Nat) : Statement (.vadd d a b w m) :=
  fun _ => ⟨_, rfl, rfl, of_decide_eq_true rfl, of_decide_eq_true rfl⟩
theorem vaddSat (d : Nat) (a : Nat) (b : Nat) (w : Nat) (m : Nat) : Statement (.vaddSat d a b w m) :=
  fun _ => ⟨_, rfl, rfl, of_decide_eq_true rfl, of_decide_eq_true rfl⟩
theorem vsub (d : Nat) (a : Nat) (b : Nat) (w : Nat) (m : Nat) : Statement (.vsub d a b w m) :=
  fun _ => ⟨_, rfl, rfl, of_decide_eq_true rfl, of_decide_eq_true rfl⟩
theorem vsubSat (d : Nat) (a : Nat) (b : Nat) (w : Nat) (m : Nat) : Statement (.vsubSat d a b w m) :=
  fun _ => ⟨_, rfl, rfl, of_decide_eq_true rfl, of_decide_eq_true rfl⟩
theorem vmul (d : Nat) (a : Nat) (b : Nat) (w : Nat) (m : Nat) : Statement (.vmul d a b w m) :=
  fun _ => ⟨_, rfl, rfl, of_decide_eq_true rfl, of_decide_eq_true rfl⟩
theorem vand (d : Nat) (a : Nat) (b : Nat) (w : Nat) (m : Nat) : Statement (.vand d a b w m) :=
  fun _ => ⟨_, rfl, rfl, of_decide_eq_true rfl, of_decide_eq_true rfl⟩
theorem vor (d : Nat) (a : Nat) (b : Nat) (w : Nat) (m : Nat) : Statement (.vor d a b w m) :=
  fun _ => ⟨_, rfl, rfl, of_decide_eq_true rfl, of_decide_eq_true rfl⟩
theorem vxor (d : Nat) (a : Nat) (b : Nat) (w : Nat) (m : Nat) : Statement (.vxor d a b w m) :=
  fun _ => ⟨_, rfl, rfl, of_decide_eq_true rfl, of_decide_eq_true rfl⟩
theorem vshl (d : Nat) (a : Nat) (b : Nat) (w : Nat) (m : Nat) : Statement (.vshl d a b w m) :=
  fun _ => ⟨_, rfl, rfl, of_decide_eq_true rfl, of_decide_eq_true rfl⟩
theorem vshr (d : Nat) (a : Nat) (b : Nat) (w : Nat) (m : Nat) : Statement (.vshr d a b w m) :=
  fun _ => ⟨_, rfl, rfl, of_decide_eq_true rfl, of_decide_eq_true rfl⟩
theorem vsra (d : Nat) (a : Nat) (b : Nat) (w : Nat) (m : Nat) : Statement (.vsra d a b w m) :=
  fun _ => ⟨_, rfl, rfl, of_decide_eq_true rfl, of_decide_eq_true rfl⟩
theorem vmin (d : Nat) (a : Nat) (b : Nat) (w : Nat) (m : Nat) : Statement (.vmin d a b w m) :=
  fun _ => ⟨_, rfl, rfl, of_decide_eq_true rfl, of_decide_eq_true rfl⟩
theorem vminu (d : Nat) (a : Nat) (b : Nat) (w : Nat) (m : Nat) : Statement (.vminu d a b w m) :=
  fun _ => ⟨_, rfl, rfl, of_decide_eq_true rfl, of_decide_eq_true rfl⟩
theorem vmax (d : Nat) (a : Nat) (b : Nat) (w : Nat) (m : Nat) : Statement (.vmax d a b w m) :=
  fun _ => ⟨_, rfl, rfl, of_decide_eq_true rfl, of_decide_eq_true rfl⟩
theorem vmaxu (d : Nat) (a : Nat) (b : Nat) (w : Nat) (m : Nat) : Statement (.vmaxu d a b w m) :=
  fun _ => ⟨_, rfl, rfl, of_decide_eq_true rfl, of_decide_eq_true rfl⟩
theorem vcmp (d : Nat) (a : Nat) (b : Nat) (c : Nat) (w : Nat) : Statement (.vcmp d a b c w) :=
  fun _ => ⟨_, rfl, rfl, of_decide_eq_true rfl, of_decide_eq_true rfl⟩
theorem vsel (d : Nat) (a : Nat) (b : Nat) (w : Nat) (m : Nat) : Statement (.vsel d a b w m) :=
  fun _ => ⟨_, rfl, rfl, of_decide_eq_true rfl, of_decide_eq_true rfl⟩
theorem vperm (d : Nat) (a : Nat) (b : Nat) (w : Nat) (m : Nat) : Statement (.vperm d a b w m) :=
  fun _ => ⟨_, rfl, rfl, of_decide_eq_true rfl, of_decide_eq_true rfl⟩
theorem vbcast (d : Nat) (a : Nat) (w : Nat) (m : Nat) : Statement (.vbcast d a w m) :=
  fun _ => ⟨_, rfl, rfl, of_decide_eq_true rfl, of_decide_eq_true rfl⟩
theorem vidx (d : Nat) (w : Nat) (m : Nat) : Statement (.vidx d w m) :=
  fun _ => ⟨_, rfl, rfl, of_decide_eq_true rfl, of_decide_eq_true rfl⟩
theorem vmov (d : Nat) (a : Nat) (w : Nat) (m : Nat) : Statement (.vmov d a w m) :=
  fun _ => ⟨_, rfl, rfl, of_decide_eq_true rfl, of_decide_eq_true rfl⟩
theorem vfadd (d : Nat) (a : Nat) (b : Nat) (t : Nat) (m : Nat) : Statement (.vfadd d a b t m) :=
  fun _ => ⟨_, rfl, rfl, of_decide_eq_true rfl, of_decide_eq_true rfl⟩
theorem vfsub (d : Nat) (a : Nat) (b : Nat) (t : Nat) (m : Nat) : Statement (.vfsub d a b t m) :=
  fun _ => ⟨_, rfl, rfl, of_decide_eq_true rfl, of_decide_eq_true rfl⟩
theorem vfmul (d : Nat) (a : Nat) (b : Nat) (t : Nat) (m : Nat) : Statement (.vfmul d a b t m) :=
  fun _ => ⟨_, rfl, rfl, of_decide_eq_true rfl, of_decide_eq_true rfl⟩
theorem vfma (d : Nat) (a : Nat) (b : Nat) (t : Nat) (m : Nat) : Statement (.vfma d a b t m) :=
  fun _ => ⟨_, rfl, rfl, of_decide_eq_true rfl, of_decide_eq_true rfl⟩
theorem vfdiv (d : Nat) (a : Nat) (b : Nat) (t : Nat) (m : Nat) : Statement (.vfdiv d a b t m) :=
  fun _ => ⟨_, rfl, rfl, of_decide_eq_true rfl, of_decide_eq_true rfl⟩
theorem vfsqrt (d : Nat) (a : Nat) (t : Nat) (m : Nat) : Statement (.vfsqrt d a t m) :=
  fun _ => ⟨_, rfl, rfl, of_decide_eq_true rfl, of_decide_eq_true rfl⟩
theorem vfmin (d : Nat) (a : Nat) (b : Nat) (t : Nat) (m : Nat) : Statement (.vfmin d a b t m) :=
  fun _ => ⟨_, rfl, rfl, of_decide_eq_true rfl, of_decide_eq_true rfl⟩
theorem vfmax (d : Nat) (a : Nat) (b : Nat) (t : Nat) (m : Nat) : Statement (.vfmax d a b t m) :=
  fun _ => ⟨_, rfl, rfl, of_decide_eq_true rfl, of_decide_eq_true rfl⟩
theorem vfcmp (d : Nat) (a : Nat) (b : Nat) (c : Nat) (t : Nat) : Statement (.vfcmp d a b c t) :=
  fun _ => ⟨_, rfl, rfl, of_decide_eq_true rfl, of_decide_eq_true rfl⟩
theorem vcvt (d : Nat) (a : Nat) (f : Nat) (t : Nat) (m : Nat) : Statement (.vcvt d a f t m) :=
  fun _ => ⟨_, rfl, rfl, of_decide_eq_true rfl, of_decide_eq_true rfl⟩
theorem vdec (d : Nat) (a : Nat) (tab : Nat) (four : Bool) (q : Nat) : Statement (.vdec d a tab four q) :=
  fun _ => ⟨_, rfl, rfl, of_decide_eq_true rfl, of_decide_eq_true rfl⟩
theorem venc (d : Nat) (a : Nat) (tab : Nat) (four : Bool) (q : Nat) : Statement (.venc d a tab four q) :=
  fun _ => ⟨_, rfl, rfl, of_decide_eq_true rfl, of_decide_eq_true rfl⟩
theorem vredadd (d : Nat) (a : Nat) (t : Nat) (m : Nat) : Statement (.vredadd d a t m) :=
  fun _ => ⟨_, rfl, rfl, of_decide_eq_true rfl, of_decide_eq_true rfl⟩
theorem vredmin (d : Nat) (a : Nat) (t : Nat) (m : Nat) : Statement (.vredmin d a t m) :=
  fun _ => ⟨_, rfl, rfl, of_decide_eq_true rfl, of_decide_eq_true rfl⟩
theorem vredmax (d : Nat) (a : Nat) (t : Nat) (m : Nat) : Statement (.vredmax d a t m) :=
  fun _ => ⟨_, rfl, rfl, of_decide_eq_true rfl, of_decide_eq_true rfl⟩
theorem vbsc (d : Nat) (a : Nat) (tab : Nat) (t : Nat) (m : Nat) : Statement (.vbsc d a tab t m) :=
  fun _ => ⟨_, rfl, rfl, of_decide_eq_true rfl, of_decide_eq_true rfl⟩
theorem vfscl (d : Nat) (a : Nat) (b : Nat) (t : Nat) (m : Nat) : Statement (.vfscl d a b t m) :=
  fun _ => ⟨_, rfl, rfl, of_decide_eq_true rfl, of_decide_eq_true rfl⟩
theorem mma (d : Nat) (a : Nat) (b : Nat) (clear : Bool) (trans : Bool) : Statement (.mma d a b clear trans) :=
  fun _ => ⟨_, rfl, rfl, of_decide_eq_true rfl, of_decide_eq_true rfl⟩
theorem mzero (d : Nat) : Statement (.mzero d) := fun _ => ⟨_, rfl, rfl, of_decide_eq_true rfl, of_decide_eq_true rfl⟩
theorem mst (d : Nat) (a : Nat) (b : Nat) (fmt : Nat) : Statement (.mst d a b fmt) :=
  fun _ => ⟨_, rfl, rfl, of_decide_eq_true rfl, of_decide_eq_true rfl⟩
theorem mld (d : Nat) (a : Nat) : Statement (.mld d a) := fun _ => ⟨_, rfl, rfl, of_decide_eq_true rfl, of_decide_eq_true rfl⟩
theorem mfmt (d : Nat) (a : Nat) : Statement (.mfmt d a) := fun _ => ⟨_, rfl, rfl, of_decide_eq_true rfl, of_decide_eq_true rfl⟩
theorem ttrn (d : Nat) (a : Nat) : Statement (.ttrn d a) := fun _ => ⟨_, rfl, rfl, of_decide_eq_true rfl, of_decide_eq_true rfl⟩
theorem dtld (i : Nat) (a : Nat) : Statement (.dtld i a) := fun _ => ⟨_, rfl, rfl, of_decide_eq_true rfl, of_decide_eq_true rfl⟩
theorem rinja (d : Nat) (a : Nat) (b : Nat) : Statement (.rinja d a b) :=
  fun _ => ⟨_, rfl, rfl, of_decide_eq_true rfl, of_decide_eq_true rfl⟩
theorem rinjb (d : Nat) (a : Nat) (b : Nat) : Statement (.rinjb d a b) :=
  fun _ => ⟨_, rfl, rfl, of_decide_eq_true rfl, of_decide_eq_true rfl⟩
theorem pset (a : Nat) (b : Nat) : Statement (.pset a b) := fun _ => ⟨_, rfl, rfl, of_decide_eq_true rfl, of_decide_eq_true rfl⟩
theorem pclr (b : Nat) : Statement (.pclr b) := fun _ => ⟨_, rfl, rfl, of_decide_eq_true rfl, of_decide_eq_true rfl⟩
theorem pmark (d : Nat) (a : Nat) (b : Nat) : Statement (.pmark d a b) :=
  fun _ => ⟨_, rfl, rfl, of_decide_eq_true rfl, of_decide_eq_true rfl⟩
theorem rstat (d : Nat) (a : Nat) : Statement (.rstat d a) :=
  fun _ => ⟨_, rfl, rfl, of_decide_eq_true rfl, of_decide_eq_true rfl⟩
theorem rfetch (d : Nat) (a : Nat) (b : Nat) : Statement (.rfetch d a b) :=
  fun _ => ⟨_, rfl, rfl, of_decide_eq_true rfl, of_decide_eq_true rfl⟩
theorem btag (q : Nat) (off : Int) : Statement (.btag q off) :=
  fun _ => ⟨_, rfl, rfl, of_decide_eq_true rfl, of_decide_eq_true rfl⟩
theorem qstat (d : Nat) (n : Nat) : Statement (.qstat d n) :=
  fun _ => ⟨_, rfl, rfl, of_decide_eq_true rfl, of_decide_eq_true rfl⟩
theorem vpop (d : Nat) (a : Nat) : Statement (.vpop d a) := fun _ => ⟨_, rfl, rfl, of_decide_eq_true rfl, of_decide_eq_true rfl⟩
theorem vpush (d : Nat) (a : Nat) : Statement (.vpush d a) :=
  fun _ => ⟨_, rfl, rfl, of_decide_eq_true rfl, of_decide_eq_true rfl⟩
theorem cpy (d : Nat) (a : Nat) (b : Nat) (k : Nat) : Statement (.cpy d a b k) :=
  fun _ => ⟨_, rfl, rfl, of_decide_eq_true rfl, of_decide_eq_true rfl⟩
theorem cwait (d : Nat) (a : Nat) : Statement (.cwait d a) :=
  fun _ => ⟨_, rfl, rfl, of_decide_eq_true rfl, of_decide_eq_true rfl⟩
theorem fork (off : Int) : Statement (.fork off) := fun _ => ⟨_, rfl, rfl, of_decide_eq_true rfl, of_decide_eq_true rfl⟩
theorem forkh (a : Nat) (b : Nat) : Statement (.forkh a b) :=
  fun _ => ⟨_, rfl, rfl, of_decide_eq_true rfl, of_decide_eq_true rfl⟩
theorem join (a : Nat) (imm : Int) : Statement (.join a imm) :=
  fun _ => ⟨_, rfl, rfl, of_decide_eq_true rfl, of_decide_eq_true rfl⟩
theorem tdec (a : Nat) (n : Nat) : Statement (.tdec a n) := fun _ => ⟨_, rfl, rfl, of_decide_eq_true rfl, of_decide_eq_true rfl⟩
theorem tarm (d : Nat) (a : Nat) (b : Nat) : Statement (.tarm d a b) :=
  fun _ => ⟨_, rfl, rfl, of_decide_eq_true rfl, of_decide_eq_true rfl⟩
theorem ship (d : Nat) (a : Nat) : Statement (.ship d a) := fun _ => ⟨_, rfl, rfl, of_decide_eq_true rfl, of_decide_eq_true rfl⟩
theorem ppt (mask : Nat) : Statement (.ppt mask) := fun _ => ⟨_, rfl, rfl, of_decide_eq_true rfl, of_decide_eq_true rfl⟩
theorem tid (d : Nat) (f : Nat) : Statement (.tid d f) := fun _ => ⟨_, rfl, rfl, of_decide_eq_true rfl, of_decide_eq_true rfl⟩
theorem fadd (d : Nat) (a : Nat) (b : Nat) (dbl : Bool) : Statement (.fadd d a b dbl) :=
  fun _ => ⟨_, rfl, rfl, of_decide_eq_true rfl, of_decide_eq_true rfl⟩
theorem fsub (d : Nat) (a : Nat) (b : Nat) (dbl : Bool) : Statement (.fsub d a b dbl) :=
  fun _ => ⟨_, rfl, rfl, of_decide_eq_true rfl, of_decide_eq_true rfl⟩
theorem fmul (d : Nat) (a : Nat) (b : Nat) (dbl : Bool) : Statement (.fmul d a b dbl) :=
  fun _ => ⟨_, rfl, rfl, of_decide_eq_true rfl, of_decide_eq_true rfl⟩
theorem fma (d : Nat) (a : Nat) (b : Nat) (dbl : Bool) : Statement (.fma d a b dbl) :=
  fun _ => ⟨_, rfl, rfl, of_decide_eq_true rfl, of_decide_eq_true rfl⟩
theorem fdiv (d : Nat) (a : Nat) (b : Nat) (dbl : Bool) : Statement (.fdiv d a b dbl) :=
  fun _ => ⟨_, rfl, rfl, of_decide_eq_true rfl, of_decide_eq_true rfl⟩
theorem fsqrt (d : Nat) (a : Nat) (dbl : Bool) : Statement (.fsqrt d a dbl) :=
  fun _ => ⟨_, rfl, rfl, of_decide_eq_true rfl, of_decide_eq_true rfl⟩
theorem fmin (d : Nat) (a : Nat) (b : Nat) (dbl : Bool) : Statement (.fmin d a b dbl) :=
  fun _ => ⟨_, rfl, rfl, of_decide_eq_true rfl, of_decide_eq_true rfl⟩
theorem fmax (d : Nat) (a : Nat) (b : Nat) (dbl : Bool) : Statement (.fmax d a b dbl) :=
  fun _ => ⟨_, rfl, rfl, of_decide_eq_true rfl, of_decide_eq_true rfl⟩
theorem fskeq (k : Nat) (a : Nat) (b : Nat) (dbl : Bool) : Statement (.fskeq k a b dbl) :=
  fun _ => ⟨_, rfl, rfl, of_decide_eq_true rfl, of_decide_eq_true rfl⟩
theorem fsklt (k : Nat) (a : Nat) (b : Nat) (dbl : Bool) : Statement (.fsklt k a b dbl) :=
  fun _ => ⟨_, rfl, rfl, of_decide_eq_true rfl, of_decide_eq_true rfl⟩
theorem fskle (k : Nat) (a : Nat) (b : Nat) (dbl : Bool) : Statement (.fskle k a b dbl) :=
  fun _ => ⟨_, rfl, rfl, of_decide_eq_true rfl, of_decide_eq_true rfl⟩
theorem fskun (k : Nat) (a : Nat) (b : Nat) (dbl : Bool) : Statement (.fskun k a b dbl) :=
  fun _ => ⟨_, rfl, rfl, of_decide_eq_true rfl, of_decide_eq_true rfl⟩
theorem fskltq (k : Nat) (a : Nat) (b : Nat) (dbl : Bool) : Statement (.fskltq k a b dbl) :=
  fun _ => ⟨_, rfl, rfl, of_decide_eq_true rfl, of_decide_eq_true rfl⟩
theorem fskleq (k : Nat) (a : Nat) (b : Nat) (dbl : Bool) : Statement (.fskleq k a b dbl) :=
  fun _ => ⟨_, rfl, rfl, of_decide_eq_true rfl, of_decide_eq_true rfl⟩
theorem fcvt (d : Nat) (a : Nat) (f : Nat) (dbl : Bool) (rtz : Bool) : Statement (.fcvt d a f dbl rtz) :=
  fun _ => ⟨_, rfl, rfl, of_decide_eq_true rfl, of_decide_eq_true rfl⟩
theorem fclass (d : Nat) (a : Nat) (dbl : Bool) : Statement (.fclass d a dbl) :=
  fun _ => ⟨_, rfl, rfl, of_decide_eq_true rfl, of_decide_eq_true rfl⟩
theorem lih (d : Nat) (imm : Int) : Statement (.lih d imm) :=
  fun _ => ⟨_, rfl, rfl, of_decide_eq_true rfl, of_decide_eq_true rfl⟩
theorem andi (d : Nat) (a : Nat) (imm : Int) : Statement (.andi d a imm) :=
  fun _ => ⟨_, rfl, rfl, of_decide_eq_true rfl, of_decide_eq_true rfl⟩
theorem ori (d : Nat) (a : Nat) (imm : Int) : Statement (.ori d a imm) :=
  fun _ => ⟨_, rfl, rfl, of_decide_eq_true rfl, of_decide_eq_true rfl⟩
theorem xori (d : Nat) (a : Nat) (imm : Int) : Statement (.xori d a imm) :=
  fun _ => ⟨_, rfl, rfl, of_decide_eq_true rfl, of_decide_eq_true rfl⟩
theorem lpc (d : Nat) (off : Int) : Statement (.lpc d off) :=
  fun _ => ⟨_, rfl, rfl, of_decide_eq_true rfl, of_decide_eq_true rfl⟩
theorem mand (d : Nat) (a : Nat) (b : Nat) : Statement (.mand d a b) :=
  fun _ => ⟨_, rfl, rfl, of_decide_eq_true rfl, of_decide_eq_true rfl⟩
theorem mor (d : Nat) (a : Nat) (b : Nat) : Statement (.mor d a b) :=
  fun _ => ⟨_, rfl, rfl, of_decide_eq_true rfl, of_decide_eq_true rfl⟩
theorem mxor (d : Nat) (a : Nat) (b : Nat) : Statement (.mxor d a b) :=
  fun _ => ⟨_, rfl, rfl, of_decide_eq_true rfl, of_decide_eq_true rfl⟩
theorem mnot (d : Nat) (a : Nat) : Statement (.mnot d a) := fun _ => ⟨_, rfl, rfl, of_decide_eq_true rfl, of_decide_eq_true rfl⟩
theorem mpop (d : Nat) (a : Nat) : Statement (.mpop d a) := fun _ => ⟨_, rfl, rfl, of_decide_eq_true rfl, of_decide_eq_true rfl⟩
theorem mfromx (d : Nat) (a : Nat) (hi : Bool) : Statement (.mfromx d a hi) :=
  fun _ => ⟨_, rfl, rfl, of_decide_eq_true rfl, of_decide_eq_true rfl⟩
theorem mtox (d : Nat) (a : Nat) (hi : Bool) : Statement (.mtox d a hi) :=
  fun _ => ⟨_, rfl, rfl, of_decide_eq_true rfl, of_decide_eq_true rfl⟩
theorem vext (d : Nat) (a : Nat) (b : Nat) (w : Nat) : Statement (.vext d a b w) :=
  fun _ => ⟨_, rfl, rfl, of_decide_eq_true rfl, of_decide_eq_true rfl⟩
theorem vins (d : Nat) (a : Nat) (b : Nat) (w : Nat) : Statement (.vins d a b w) :=
  fun _ => ⟨_, rfl, rfl, of_decide_eq_true rfl, of_decide_eq_true rfl⟩
theorem hsend (d : Nat) (a : Nat) (b : Nat) : Statement (.hsend d a b) :=
  fun _ => ⟨_, rfl, rfl, of_decide_eq_true rfl, of_decide_eq_true rfl⟩
theorem hend : Statement .hend := fun _ => ⟨_, rfl, rfl, of_decide_eq_true rfl, of_decide_eq_true rfl⟩
theorem hdefer : Statement .hdefer := fun _ => ⟨_, rfl, rfl, of_decide_eq_true rfl, of_decide_eq_true rfl⟩
theorem dld (d : Nat) (a : Nat) (imm : Int) : Statement (.dld d a imm) :=
  fun _ => ⟨_, rfl, rfl, of_decide_eq_true rfl, of_decide_eq_true rfl⟩
theorem dst (d : Nat) (a : Nat) (imm : Int) : Statement (.dst d a imm) :=
  fun _ => ⟨_, rfl, rfl, of_decide_eq_true rfl, of_decide_eq_true rfl⟩
theorem bxf (d : Nat) (a : Nat) (b : Nat) : Statement (.bxf d a b) :=
  fun _ => ⟨_, rfl, rfl, of_decide_eq_true rfl, of_decide_eq_true rfl⟩
theorem grant (d : Nat) (a : Nat) (b : Nat) : Statement (.grant d a b) :=
  fun _ => ⟨_, rfl, rfl, of_decide_eq_true rfl, of_decide_eq_true rfl⟩
theorem rgn (d : Nat) (a : Nat) : Statement (.rgn d a) := fun _ => ⟨_, rfl, rfl, of_decide_eq_true rfl, of_decide_eq_true rfl⟩
theorem trap (imm : Nat) : Statement (.trap imm) := fun _ => ⟨_, rfl, rfl, of_decide_eq_true rfl, of_decide_eq_true rfl⟩
theorem brk (imm : Nat) : Statement (.brk imm) := fun _ => ⟨_, rfl, rfl, of_decide_eq_true rfl, of_decide_eq_true rfl⟩
theorem srd (d : Nat) (n : Nat) : Statement (.srd d n) := fun _ => ⟨_, rfl, rfl, of_decide_eq_true rfl, of_decide_eq_true rfl⟩
theorem swr (n : Nat) (a : Nat) : Statement (.swr n a) := fun _ => ⟨_, rfl, rfl, of_decide_eq_true rfl, of_decide_eq_true rfl⟩
theorem eret : Statement .eret := fun _ => ⟨_, rfl, rfl, of_decide_eq_true rfl, of_decide_eq_true rfl⟩
theorem rdc (d : Nat) (f : Nat) : Statement (.rdc d f) := fun _ => ⟨_, rfl, rfl, of_decide_eq_true rfl, of_decide_eq_true rfl⟩
theorem wake (a : Nat) : Statement (.wake a) := fun _ => ⟨_, rfl, rfl, of_decide_eq_true rfl, of_decide_eq_true rfl⟩
theorem waket (d : Nat) (a : Nat) (b : Nat) : Statement (.waket d a b) :=
  fun _ => ⟨_, rfl, rfl, of_decide_eq_true rfl, of_decide_eq_true rfl⟩
theorem tstart (d : Nat) (a : Nat) : Statement (.tstart d a) :=
  fun _ => ⟨_, rfl, rfl, of_decide_eq_true rfl, of_decide_eq_true rfl⟩
theorem xinv (a : Nat) (b : Nat) : Statement (.xinv a b) := fun _ => ⟨_, rfl, rfl, of_decide_eq_true rfl, of_decide_eq_true rfl⟩
theorem sstop (d : Nat) (a : Nat) : Statement (.sstop d a) :=
  fun _ => ⟨_, rfl, rfl, of_decide_eq_true rfl, of_decide_eq_true rfl⟩
theorem conerd (d : Nat) (a : Nat) : Statement (.conerd d a) :=
  fun _ => ⟨_, rfl, rfl, of_decide_eq_true rfl, of_decide_eq_true rfl⟩
theorem cqsc (d : Nat) (a : Nat) : Statement (.cqsc d a) := fun _ => ⟨_, rfl, rfl, of_decide_eq_true rfl, of_decide_eq_true rfl⟩
theorem idle : Statement .idle := fun _ => ⟨_, rfl, rfl, of_decide_eq_true rfl, of_decide_eq_true rfl⟩
theorem resultArrival (core : Nat) (slot : Nat) : Statement (.resultArrival core slot) := fun h => absurd h Bool.false_ne_true
theorem poisonedResult (core : Nat) (slot : Nat) : Statement (.poisonedResult core slot) := fun h => absurd h Bool.false_ne_true
theorem threadWake (core : Nat) (slot : Nat) : Statement (.threadWake core slot) := fun h => absurd h Bool.false_ne_true
theorem taskDispatch (core : Nat) : Statement (.taskDispatch core) := fun h => absurd h Bool.false_ne_true
theorem stealSweep (core : Nat) : Statement (.stealSweep core) := fun h => absurd h Bool.false_ne_true
theorem stealRequest (n : Nat) : Statement (.stealRequest n) := fun h => absurd h Bool.false_ne_true
theorem stealReply (n : Nat) : Statement (.stealReply n) := fun h => absurd h Bool.false_ne_true
theorem placedPacketHop (n : Nat) : Statement (.placedPacketHop n) := fun h => absurd h Bool.false_ne_true
theorem shipPacketArrival (n : Nat) : Statement (.shipPacketArrival n) := fun h => absurd h Bool.false_ne_true
theorem messageArrival (core : Nat) (slot : Nat) : Statement (.messageArrival core slot) := fun h => absurd h Bool.false_ne_true
theorem decrementMessage (n : Nat) : Statement (.decrementMessage n) := fun h => absurd h Bool.false_ne_true
theorem q7RecordArrival (core : Nat) : Statement (.q7RecordArrival core) := fun h => absurd h Bool.false_ne_true
theorem sweep (part : Nat) : Statement (.sweep part) := fun h => absurd h Bool.false_ne_true
theorem launchErrorEnd (part : Nat) : Statement (.launchErrorEnd part) := fun h => absurd h Bool.false_ne_true
theorem arrayGrant (core : Nat) : Statement (.arrayGrant core) := fun h => absurd h Bool.false_ne_true
theorem matrixRetire (core : Nat) : Statement (.matrixRetire core) := fun h => absurd h Bool.false_ne_true
theorem q5RecordPush (hem : Nat) (station : Nat) : Statement (.q5RecordPush hem station) := fun h => absurd h Bool.false_ne_true
theorem tileEntry (hem : Nat) (station : Nat) (fam : Nat) : Statement (.tileEntry hem station fam) :=
  fun h => absurd h Bool.false_ne_true
theorem tileArrival (hem : Nat) (station : Nat) (fam : Nat) : Statement (.tileArrival hem station fam) :=
  fun h => absurd h Bool.false_ne_true
theorem q6RecordPush (hem : Nat) (station : Nat) : Statement (.q6RecordPush hem station) := fun h => absurd h Bool.false_ne_true
theorem meshFlitHop (n : Nat) : Statement (.meshFlitHop n) := fun h => absurd h Bool.false_ne_true
theorem routerCombine (n : Nat) (k : Nat) : Statement (.routerCombine n k) := fun h => absurd h Bool.false_ne_true
theorem combinedReplySplit (n : Nat) : Statement (.combinedReplySplit n) := fun h => absurd h Bool.false_ne_true
theorem translationWalk (core : Nat) (slot : Nat) : Statement (.translationWalk core slot) :=
  fun h => absurd h Bool.false_ne_true
theorem walkInvalidation (n : Nat) : Statement (.walkInvalidation n) := fun h => absurd h Bool.false_ne_true
theorem walkStorePerformed (core : Nat) (slot : Nat) : Statement (.walkStorePerformed core slot) :=
  fun h => absurd h Bool.false_ne_true
theorem joinReread (core : Nat) (slot : Nat) : Statement (.joinReread core slot) := fun h => absurd h Bool.false_ne_true
theorem uncorrectableError (space : Nat) (core : Nat) (addr : Nat) : Statement (.uncorrectableError space core addr) :=
  fun h => absurd h Bool.false_ne_true
theorem jobStart (hem : Nat) : Statement (.jobStart hem) := fun h => absurd h Bool.false_ne_true
theorem elementDelivery (hem : Nat) (entry : Nat) : Statement (.elementDelivery hem entry) :=
  fun h => absurd h Bool.false_ne_true
theorem jobres (hem : Nat) (val : Word) : Statement (.jobres hem val) := fun h => absurd h Bool.false_ne_true
theorem q2cfg (core : Nat) (val : Word) : Statement (.q2cfg core val) := fun h => absurd h Bool.false_ne_true
theorem readMiss (n : Nat) : Statement (.readMiss n) := fun h => absurd h Bool.false_ne_true
theorem writeMiss (n : Nat) : Statement (.writeMiss n) := fun h => absurd h Bool.false_ne_true
theorem upgrade (n : Nat) : Statement (.upgrade n) := fun h => absurd h Bool.false_ne_true
theorem farAmo (n : Nat) : Statement (.farAmo n) := fun h => absurd h Bool.false_ne_true
theorem flush (n : Nat) : Statement (.flush n) := fun h => absurd h Bool.false_ne_true
theorem close (n : Nat) : Statement (.close n) := fun h => absurd h Bool.false_ne_true
theorem evict (n : Nat) : Statement (.evict n) := fun h => absurd h Bool.false_ne_true
theorem engineRead (n : Nat) : Statement (.engineRead n) := fun h => absurd h Bool.false_ne_true
theorem engineWrite (n : Nat) : Statement (.engineWrite n) := fun h => absurd h Bool.false_ne_true
theorem rcmd (n : Nat) : Statement (.rcmd n) := fun h => absurd h Bool.false_ne_true
theorem homecast (n : Nat) : Statement (.homecast n) := fun h => absurd h Bool.false_ne_true
theorem reduceDone (part : Nat) (region : Nat) : Statement (.reduceDone part region) := fun h => absurd h Bool.false_ne_true
theorem handlerKill (pp : Nat) (slot : Nat) : Statement (.handlerKill pp slot) := fun h => absurd h Bool.false_ne_true
theorem grantRo (n : Nat) : Statement (.grantRo n) := fun h => absurd h Bool.false_ne_true
theorem grantRw (n : Nat) : Statement (.grantRw n) := fun h => absurd h Bool.false_ne_true
theorem data (n : Nat) : Statement (.data n) := fun h => absurd h Bool.false_ne_true
theorem invalidate (n : Nat) : Statement (.invalidate n) := fun h => absurd h Bool.false_ne_true
theorem push (n : Nat) : Statement (.push n) := fun h => absurd h Bool.false_ne_true
theorem fail (n : Nat) : Statement (.fail n) := fun h => absurd h Bool.false_ne_true
theorem ack (n : Nat) : Statement (.ack n) := fun h => absurd h Bool.false_ne_true
theorem regionNone (part : Nat) (region : Nat) : Statement (.regionNone part region) := fun h => absurd h Bool.false_ne_true
theorem regionBind (part : Nat) (region : Nat) : Statement (.regionBind part region) := fun h => absurd h Bool.false_ne_true
theorem regionClose (part : Nat) (region : Nat) : Statement (.regionClose part region) := fun h => absurd h Bool.false_ne_true
theorem regionClosed (part : Nat) (region : Nat) : Statement (.regionClosed part region) := fun h => absurd h Bool.false_ne_true
theorem regionReopen (part : Nat) (region : Nat) : Statement (.regionReopen part region) := fun h => absurd h Bool.false_ne_true
theorem stopTimeReached (core : Nat) : Statement (.stopTimeReached core) := fun h => absurd h Bool.false_ne_true
theorem forcedStop (core : Nat) (slot : Nat) : Statement (.forcedStop core slot) := fun h => absurd h Bool.false_ne_true
theorem cqscComplete (part : Nat) : Statement (.cqscComplete part) := fun h => absurd h Bool.false_ne_true
theorem saveComplete (part : Nat) : Statement (.saveComplete part) := fun h => absurd h Bool.false_ne_true
theorem restoreComplete (part : Nat) : Statement (.restoreComplete part) := fun h => absurd h Bool.false_ne_true
theorem lock (part : Nat) : Statement (.lock part) := fun h => absurd h Bool.false_ne_true
theorem unlock (part : Nat) : Statement (.unlock part) := fun h => absurd h Bool.false_ne_true
theorem clear (part : Nat) : Statement (.clear part) := fun h => absurd h Bool.false_ne_true
theorem kiln (part : Nat) : Statement (.kiln part) := fun h => absurd h Bool.false_ne_true
theorem split (part : Nat) (ids : Word) : Statement (.split part ids) := fun h => absurd h Bool.false_ne_true
theorem merge (part : Nat) (id : Word) : Statement (.merge part id) := fun h => absurd h Bool.false_ne_true
theorem frozenSettingWrite (part : Nat) (off : Nat) (val : Word) : Statement (.frozenSettingWrite part off val) :=
  fun h => absurd h Bool.false_ne_true
theorem kilnPhase (part hems rows : Nat) : Statement (.kilnPhase part hems rows) := fun h => absurd h Bool.false_ne_true
theorem kilnComplete (part : Nat) : Statement (.kilnComplete part) := fun h => absurd h Bool.false_ne_true
theorem registerWrite (off : Nat) (val : Word) : Statement (.registerWrite off val) := fun h => absurd h Bool.false_ne_true
theorem ovflog (val : Word) : Statement (.ovflog val) := fun h => absurd h Bool.false_ne_true
theorem extentRevoke (e : Nat) : Statement (.extentRevoke e) := fun h => absurd h Bool.false_ne_true
theorem revoked (e : Nat) : Statement (.revoked e) := fun h => absurd h Bool.false_ne_true
theorem pageRequestAnswer (core : Nat) (d0 : Word) (d1 : Word) (d2 : Word) : Statement (.pageRequestAnswer core d0 d1 d2) :=
  fun h => absurd h Bool.false_ne_true
theorem queueMap (part : Nat) (q : Nat) : Statement (.queueMap part q) := fun h => absurd h Bool.false_ne_true
theorem packetRead (part : Nat) (q : Nat) : Statement (.packetRead part q) := fun h => absurd h Bool.false_ne_true
theorem launchPacket (part : Nat) (q : Nat) : Statement (.launchPacket part q) := fun h => absurd h Bool.false_ne_true
theorem fencePacket (part : Nat) (q : Nat) : Statement (.fencePacket part q) := fun h => absurd h Bool.false_ne_true
theorem signalPacket (part : Nat) (q : Nat) : Statement (.signalPacket part q) := fun h => absurd h Bool.false_ne_true
theorem queueRestart (part : Nat) (q : Nat) : Statement (.queueRestart part q) := fun h => absurd h Bool.false_ne_true
theorem reset : Statement .reset := fun h => absurd h Bool.false_ne_true
theorem go : Statement .go := fun h => absurd h Bool.false_ne_true
theorem bringUp : Statement .bringUp := fun h => absurd h Bool.false_ne_true
theorem hemRetire (hem : Nat) : Statement (.hemRetire hem) := fun h => absurd h Bool.false_ne_true
theorem throttleEvent (die : Nat) : Statement (.throttleEvent die) := fun h => absurd h Bool.false_ne_true
theorem unassignedEncoding (eval : Word) : Statement (.unassignedEncoding eval) := fun h => absurd h Bool.false_ne_true
theorem unknownOp (part : Nat) (cmd : Word) : Statement (.unknownOp part cmd) := fun h => absurd h Bool.false_ne_true

end Sys2Proof.Laws.Encodes

theorem Sys2Proof.Laws.Encodes.recall (n : Nat) : Sys2Proof.Laws.Encodes.Statement (.recall n) := fun h => absurd h Bool.false_ne_true
end

