-- ==== Sys2Proof/Tests/Slice0.lean ====
section
/-! SUPPORT. Tests: ill-formed terms, words and results that the spec writes out, and for each statement for the provers
a state that meets its hypotheses. Expected values are the spec's examples, or are worked out by hand from its rules. -/

namespace Sys2Proof.Tests

open Sys2Proof Sys2Proof.Machine

set_option Elab.async false

/-! ## Small states -/

/-- A task slot that runs, with the whole window. -/
def running : Thread := { Thread.reset with tstate := .ready, pc := 0x100, slim := 120, vlim := 32 }

/-- Slot 0 of core 0 with an instruction of one halfword at 0x100 under way. -/
def base : State :=
  { State.reset with
    cores := [(0, { Core.reset with threads := [(0, running)] })]
    cur := ⟨false, 0, 0, 0x100, 1⟩ }

/-- The same at privilege S. -/
def sup : State := base.modMe fun t => { t with priv := .s }

/-- Handler slot 0 of protocol processor 0. -/
def hand : State :=
  { State.reset with
    pps := [(0, { PP.reset with handlers := [(0, { Handler.reset with
      thread := { running with priv := .h, slim := 32, vlim := 0 } })] })]
    cur := ⟨true, 0, 0, 0x100, 1⟩ }

/-- Scalar registers of a state, from a list of numbers and values. -/
def withX (s : State) (l : List (Nat × Word)) : State := l.foldl (fun s e => s.setX e.1 e.2) s

/-- Vector registers, each from its first lanes of 32 bits. -/
def withV (s : State) (l : List (Nat × List Nat)) : State :=
  l.foldl (fun s e => s.setV e.1 (BitVec.ofNat 1024 (e.2.zipIdx.foldl (fun n p => n + p.1 * 2 ^ (32 * p.2)) 0))) s

/-- The outcome is a next state with the property. -/
def ends (o : Host.Outcome State Fault Refusal) (p : State → Bool) : Bool :=
  match o with
  | .next t => p t
  | _ => false

/-- The outcome is that next state. -/
def goes (o : Host.Outcome State Fault Refusal) (t : State) : Bool := ends o fun r => decide (r = t)

/-- The instruction gets past its operand checks, and its operands and the state after them have the property. -/
def meets (s : State) (u : Uses) (p : Word → Word → Word → State → Bool) : Bool :=
  s.settled && u.legal s && match s.operands u with
    | some (a, b, c, r) => p a b c (r.setPc s.nextPc)
    | none => false

/-- What `meets` shows is the hypothesis of the statements. -/
theorem meets_begins {s : State} {u : Uses} {p : Word → Word → Word → State → Bool} (h : meets s u p = true) :
    ∃ a b c t, s.Begins u a b c t ∧ p a b c t = true := by
  simp only [meets, Bool.and_eq_true] at h
  obtain ⟨⟨h1, h2⟩, h3⟩ := h
  split at h3
  · rename_i a b c r hr
    exact ⟨a, b, c, _, ⟨h1, h2, r, hr, rfl⟩, h3⟩
  · exact absurd h3 (by decide)

/-- Plain ordering. -/
def plain : OrdFld := ⟨.plain, .core, .normal⟩


/-! ## Decoding: words that the spec writes out (spec/04, spec/06, spec/16 to spec/20) -/

/-- Words of the examples, or put together from the encoding tables, bit by bit. -/
theorem test_decode_words_1 : [
    decode false [0x0567] == .ok (.add 5 6 7) 1,
    decode false [0xF480, 0x0567] == .ok (.add 21 6 7) 2,
    decode false [0x5771] == .ok (.addi 7 7 1) 1,
    decode false [0xF001, 0x682C] == .ok (.li 8 300) 2,
    decode false [0x9A56] == .ok (.sklt 2 5 (.reg 6)) 1,
    decode false [0x8720] == .ok (.st 7 2 0 ⟨.plain, .core, .normal⟩) 1,
    decode false [0xFD40, 0x7121] == .ok (.ld 1 2 1 ⟨.acquire, .partition, .normal⟩) 2,
    decode false [0xBFFC] == .ok (.br (-4)) 1,
    decode false [0xD161] == .ok (.callr 1 6) 1,
    decode false [0xE361] == .ok (.shri 3 33) 1,
    decode false [0xF811, 0x2123] == .ok (.divu 1 2 3) 2,
    decode false [0xF801, 0xF040, 0xC568] == .ok (.extu 5 6 8 16) 3,
    decode false [0xF832, 0x0453] == .ok (.ldhu 4 5 3 ⟨.plain, .core, .normal⟩) 2,
    decode false [0xF932, 0x4120] == .ok (.vld 1 2 0 2 3 ⟨.plain, .core, .normal⟩) 2,
    decode false [0xF802, 0xFF40, 0x9000] == .ok (.fence ⟨.acqRel, .partition, .normal⟩) 3,
    decode false [0xFB03, 0x0123] == .ok (.amoadd 1 2 3 true true ⟨.plain, .core, .normal⟩) 2,
    decode false [0xF803, 0x4052] == .ok (.bar 2 5) 2,
    decode false [0xF924, 0x0123] == .ok (.vadd 1 2 3 2 2) 2,
    decode false [0xFB24, 0x0123] == .ok (.vaddSat 1 2 3 2 2) 2,
    decode false [0xF905, 0x9124] == .ok (.vcvt 1 2 4 2 0) 2,
    decode false [0xF806, 0xF412, 0x0045] == .ok (.mma 0 20 21 false false) 3,
    decode false [0xF807, 0x1503] == .ok (.qstat 5 3) 2,
    decode false [0xF817, 0x4123] == .ok (.cpy 1 2 3 1) 2,
    decode false [0xF808, 0x3065] == .ok (.tdec 6 5) 2].all id = true := by decide +kernel

/-- Words of the examples, or put together from the encoding tables, bit by bit. -/
theorem test_decode_words_2 : [
    decode false [0xF808, 0x7502] == .ok (.tid 5 2) 2,
    decode false [0xF819, 0x0123] == .ok (.fadd 1 2 3 true) 2,
    decode false [0xF809, 0x8612] == .ok (.fskle 1 1 2 false) 2,
    decode false [0xF80A, 0xF012, 0x0534] == .ok (.lih 5 0x1234) 3,
    decode false [0xF80B, 0x3531] == .ok (.mpop 5 3) 2,
    decode true [0xF80D, 0x0123] == .ok (.hsend 1 2 3) 2,
    decode true [0xF80D, 0x2122] == .ok (.dld 1 2 2) 2,
    decode false [0xF80E, 0x102A] == .ok (.brk 0x2A) 2,
    decode false [0xF80E, 0xF002, 0x250C] == .ok (.srd 5 0x2C) 3,
    decode false [0xD565] == .ok (.abs 5 6) 1,
    decode false [0x2567] == .ok (.and 5 6 7) 1,
    decode false [0x1567] == .ok (.sub 5 6 7) 1,
    decode false [0x3567] == .ok (.or 5 6 7) 1,
    decode false [0x4567] == .ok (.xor 5 6 7) 1,
    decode false [0x556D] == .ok (.addi 5 6 (-3)) 1,
    decode false [0xF80A, 0xF3FF, 0x1560] == .ok (.andi 5 6 (-16)) 3,
    decode false [0xF80A, 0xF010, 0x2560] == .ok (.ori 5 6 0x100) 3,
    decode false [0xF80A, 0x356F] == .ok (.xori 5 6 (-1)) 2,
    decode false [0xF123, 0x6945] == .ok (.li 9 0x12345) 2,
    decode false [0xF811, 0xD567] == .ok (.subw 5 6 7) 2,
    decode false [0xF801, 0xB562] == .ok (.popc 5 6) 2,
    decode false [0xF811, 0xF040, 0xC568] == .ok (.exts 5 6 8 16) 3,
    decode false [0xF801, 0x1567] == .ok (.mulh 5 6 7) 2,
    decode false [0xF811, 0x1567] == .ok (.mulhu 5 6 7) 2].all id = true := by decide +kernel

/-- Words of the examples, or put together from the encoding tables, bit by bit. -/
theorem test_decode_words_3 : [
    decode false [0xD567] == .ok (.sextH 5 6) 1,
    decode false [0xD56B] == .ok (.zextW 5 6) 1,
    decode false [0xF803, 0x5062] == .ok (.bcarm 2 6) 2,
    decode false [0xF803, 0x6002] == .ok (.bcwait 0 2) 2,
    decode false [0xF803, 0x2967] == .ok (.amof 9 6 7 false false ⟨.plain, .core, .normal⟩) 2,
    decode false [0xFA13, 0x2967] == .ok (.amof 9 6 7 true true ⟨.plain, .core, .normal⟩) 2,
    decode false [0xF803, 0xFD40, 0x3956] == .ok (.waitm 9 5 6 ⟨.acquire, .partition, .normal⟩) 3,
    decode false [0x7562] == .ok (.ld 5 6 2 ⟨.plain, .core, .normal⟩) 1,
    decode false [0xF842, 0xFD40, 0x0562] == .ok (.ldw 5 6 2 ⟨.acquire, .partition, .normal⟩) 3,
    decode false [0xF842, 0xFD80, 0xF540, 0xF020, 0x0860] == .ok (.ldw 40 70 512 ⟨.acquire, .device, .normal⟩) 5,
    decode false [0xF922, 0x3567] == .ok (.stxw 5 6 7 2 ⟨.plain, .core, .normal⟩) 2,
    decode false [0xF802, 0xA560] == .ok (.tagq 5 6) 2,
    decode false [0xF812, 0x9000] == .ok (.fencem ⟨.acqRel, .partition, .normal⟩) 2,
    decode false [0xF924, 0xB123] == .ok (.vcmp 1 2 3 2 2) 2,
    decode false [0xF905, 0x9121] == .ok (.vcvt 1 2 1 2 0) 2,
    decode false [0xF935, 0x8123] == .ok (.vfcmp 1 2 3 3 2) 2,
    decode false [0xF915, 0xC920] == .ok (.vredadd 9 2 2 1) 2,
    decode false [0xF905, 0xD922] == .ok (.vbsc 9 2 2 2 0) 2,
    decode false [0xF905, 0xE32A] == .ok (.vfscl 3 2 10 2 0) 2,
    decode false [0xF825, 0xB430] == .ok (.venc 4 3 2 false 0) 2,
    decode false [0xF825, 0xA540] == .ok (.vdec 5 4 2 false 0) 2,
    decode false [0xF816, 0xF412, 0x0045] == .ok (.mma 0 20 21 true false) 3,
    decode false [0xF836, 0xF402, 0x2906] == .ok (.mst 9 0 22 3) 3,
    decode false [0xF806, 0x3150] == .ok (.mld 1 5) 2].all id = true := by decide +kernel

/-- Words of the examples, or put together from the encoding tables, bit by bit. -/
theorem test_decode_words_4 : [
    decode false [0xF806, 0x1300] == .ok (.mzero 3) 2,
    decode false [0xF806, 0x4ED0] == .ok (.mfmt 14 13) 2,
    decode false [0xF806, 0x6052] == .ok (.dtld 2 5) 2,
    decode false [0xF806, 0x5950] == .ok (.ttrn 9 5) 2,
    decode false [0xF806, 0xB950] == .ok (.rstat 9 5) 2,
    decode false [0xF807, 0x0001] == .ok (.btag 0 1) 2,
    decode false [0xF807, 0xF470, 0x2180] == .ok (.vpop 1 120) 3,
    decode false [0xF807, 0xF780, 0x3950] == .ok (.vpush 121 5) 3,
    decode false [0xF817, 0x4956] == .ok (.cpy 9 5 6 1) 2,
    decode false [0xF807, 0x5950] == .ok (.cwait 9 5) 2,
    decode false [0xF808, 0x1056] == .ok (.forkh 5 6) 2,
    decode false [0xF808, 0x2030] == .ok (.join 3 0) 2,
    decode false [0xF808, 0x4D56] == .ok (.tarm 13 5 6) 2,
    decode false [0xF808, 0x5D50] == .ok (.ship 13 5) 2,
    decode false [0xD00D] == .ok (.endTask) 1,
    decode false [0xF809, 0x8755] == .ok (.fskun 1 5 5 false) 2,
    decode false [0xF829, 0x9563] == .ok (.fcvt 5 6 3 false true) 2,
    decode true [0xF80D, 0x4056] == .ok (.bxf 0 5 6) 2,
    decode false [0xF80E, 0x0005] == .ok (.trap 5) 2,
    decode false [0xF80E, 0xF001, 0x002C] == .ok (.trap 300) 3,
    decode false [0xF80E, 0x4000] == .ok (.eret) 2,
    decode false [0xF80E, 0x5501] == .ok (.rdc 5 1) 2,
    decode false [0xF80E, 0x7950] == .ok (.tstart 9 5) 2,
    decode false [0xF80E, 0x8056] == .ok (.xinv 5 6) 2].all id = true := by decide +kernel

/-- Words of the examples, or put together from the encoding tables, bit by bit. -/
theorem test_decode_words_5 : [
    decode false [0xF80E, 0x9950] == .ok (.sstop 9 5) 2,
    decode false [0xF80E, 0xA950] == .ok (.conerd 9 5) 2,
    decode false [0xF80E, 0xB950] == .ok (.cqsc 9 5) 2].all id = true := by decide +kernel

/-- R108, R115: the table of decode outcomes and the example of page 1. -/
theorem test_decode_rejects : [
    decode false [0xF480, 0xF480, 0x8520] == .illegal ⟨.duplicated, 1, 0xF480⟩ 3,
    decode false [0xF481, 0x8520] == .illegal ⟨.reservedBits, 0, 0xF481⟩ 2,
    decode false [0xF001, 0x0123] == .illegal ⟨.prefixNotAccepted, 0, 0xF001⟩ 2,
    decode false [0xF000, 0xF000, 0xF000, 0xF000, 0xF000, 0x5220] == .illegal ⟨.fifthPrefix, 4, 0xF000⟩ 5,
    decode false [0xF80C, 0x0000] == .illegal ⟨.unassignedPage, 0, 0xF80C⟩ 2,
    decode false [0xF80D, 0x0000] == .illegal ⟨.pageOnTile, 0, 0xF80D⟩ 2,
    decode false [0x9056] == .illegal ⟨.outOfRange, 0, 0x9056⟩ 1,
    decode false [0xFE40, 0x7121] == .illegal ⟨.ordNotAccepted, 0, 0xFE40⟩ 2,
    decode false [0xF001, 0xF801, 0x0123] == .illegal ⟨.prefixNotAccepted, 0, 0xF001⟩ 3,
    decode false [0xF811, 0x0123] == .illegal ⟨.reservedBits, 0, 0xF811⟩ 2,
    decode false [0xF816, 0x1300] == .illegal ⟨.reservedBits, 0, 0xF816⟩ 2,
    decode false [0xF812, 0xA560] == .illegal ⟨.reservedBits, 0, 0xF812⟩ 2,
    decode false [0xF801, 0xE123] == .illegal ⟨.unassigned, 1, 0xE123⟩ 2].all id = true := by decide +kernel

/-- R105: the EVAL of the first of them: bit 63, the halfword at bit 24, its index at bit 16, the reason. -/
theorem test_decode_eval : Reject.eval ⟨.duplicated, 1, 0xF480⟩ = 0x800000F480010003 := by decide +kernel

/-- R125: what is withheld from a protocol processor has reason 0x08 there. -/
theorem test_decode_withheld : decode true [0xF808, 0x7501] = .illegal ⟨.withheld, 1, 0x7501⟩ 2 := by decide +kernel

/-- R132: the shortest chain of an instruction. -/
theorem test_encode : [
    encode (.add 5 6 7) == [0x0567],
    encode (.ldw 40 70 512 ⟨.acquire, .device, .normal⟩) == [0xF842, 0xFD80, 0xF540, 0xF020, 0x0860],
    encode (.li 9 0x12345) == [0xF123, 0x6945],
    encode (.extu 5 6 8 16) == [0xF801, 0xF040, 0xC568],
    encode (.vpop 1 120) == [0xF807, 0xF470, 0x2180],
    encode (.fence ⟨.acqRel, .partition, .normal⟩) == [0xF802, 0x9000],
    encode (.trap 300) == [0xF80E, 0xF001, 0x002C],
    encode (.br (-4)) == [0xBFFC]].all id = true := by decide +kernel

/-- The host's word of a table row is decoded as the hardware lays it out. -/
theorem test_table_word : decodeTableWord 16 0x0567 = some (.add 5 6 7) ∧ decodeTableWord 32 0xF8010123 = some (.mul 1 2 3) := by
  decide +kernel

/-! ## Well-formedness: each check refuses an ill-formed term -/

/-- A register, a vector, a mask or an accumulator out of range; an immediate too long, with and without REGX or ORD in the
chain; ORD values of each class; skip counts, barriers, selectors, widths; an event has no encoding. -/
theorem test_wf_refuses : [
    Instr.wf (.add 128 0 0), Instr.wf (.add 0 128 0), Instr.wf (.add 0 0 128), Instr.wf (.vadd 32 0 0 0 0),
    Instr.wf (.vadd 0 0 0 4 0), Instr.wf (.vadd 0 0 0 0 8), Instr.wf (.mand 0 1 2), Instr.wf (.mand 1 8 2),
    Instr.wf (.mzero 8), Instr.wf (.addi 1 2 (2 ^ 43)), Instr.wf (.addi 16 2 (2 ^ 33)), Instr.wf (.li 1 (2 ^ 47)),
    Instr.wf (.ld 1 2 (2 ^ 33) ⟨.acquire, .core, .normal⟩), Instr.wf (.ld 1 2 0 ⟨.release, .core, .normal⟩),
    Instr.wf (.st 1 2 0 ⟨.acquire, .core, .normal⟩), Instr.wf (.ld 1 2 0 ⟨.plain, .device, .normal⟩),
    Instr.wf (.amoadd 1 2 3 true true ⟨.plain, .core, .keep⟩), Instr.wf (.fence ⟨.plain, .core, .normal⟩),
    Instr.wf (.skeq 0 1 (.reg 2)), Instr.wf (.skeq 4 1 (.reg 2)), Instr.wf (.skeq 1 1 (.imm (2 ^ 43))), Instr.wf (.br (2 ^ 51)),
    Instr.wf (.shli 1 64), Instr.wf (.lea 1 2 3 4), Instr.wf (.extu 1 2 60 5), Instr.wf (.extu 1 2 0 0),
    Instr.wf (.bar 16 1), Instr.wf (.bcarm 8 1), Instr.wf (.vcmp 1 2 3 6 0), Instr.wf (.vcvt 1 2 12 0 0),
    Instr.wf (.vdec 1 2 8 false 0), Instr.wf (.vbsc 1 2 0 3 0), Instr.wf (.mst 1 0 2 4), Instr.wf (.qstat 1 8),
    Instr.wf (.vpop 1 119), Instr.wf (.vpush 120 1), Instr.wf (.cpy 1 2 3 6), Instr.wf (.tdec 1 0), Instr.wf (.ppt 64),
    Instr.wf (.tid 1 4), Instr.wf (.fcvt 1 2 13 false false), Instr.wf (.trap (2 ^ 38)), Instr.wf (.brk 256),
    Instr.wf (.srd 1 4096), Instr.wf (.rdc 1 2), Instr.wf (.btag 8 0)].all (!·) = true := by decide +kernel

/-- Their neighbours inside the range pass. -/
theorem test_wf_accepts : [
    Instr.wf (.add 127 127 127), Instr.wf (.vadd 31 31 31 3 7), Instr.wf (.mand 7 0 7), Instr.wf (.mzero 7),
    Instr.wf (.addi 1 2 (2 ^ 43 - 1)), Instr.wf (.addi 1 2 (-2 ^ 43)), Instr.wf (.addi 16 2 (2 ^ 33 - 1)),
    Instr.wf (.ld 1 2 (2 ^ 33 - 1) ⟨.acquire, .system, .stream⟩), Instr.wf (.skeq 3 1 (.imm (-2 ^ 43))),
    Instr.wf (.br (2 ^ 51 - 1)), Instr.wf (.extu 1 2 63 1), Instr.wf (.extu 1 2 0 64), Instr.wf (.bar 15 1),
    Instr.wf (.vpop 1 127), Instr.wf (.tdec 1 (2 ^ 34 - 1)), Instr.wf (.trap (2 ^ 38 - 1))].all id = true := by decide +kernel

/-! ## Results that the spec writes out -/

/-- x5 after an instruction, where x6 and x7 hold two values. -/
def x5 (i : Instr) (a b : Word) : Option Word :=
  match exec i (withX base [(6, a), (7, b)]) with
  | .next t => some (t.x 5)
  | _ => none

/-- R139 to R142, R366, R367, R380, R381, R430, R448, R495: integers. -/
theorem test_integer : [
    x5 (.add 5 6 7) (BitVec.allOnes 64) 1 == some 0, x5 (.sub 5 6 7) 0 1 == some (BitVec.allOnes 64),
    x5 (.and 5 6 7) 12 10 == some 8, x5 (.or 5 6 7) 12 10 == some 14, x5 (.xor 5 6 7) 12 10 == some 6,
    x5 (.abs 5 6) 0x8000000000000000 0 == some 0x8000000000000000, x5 (.neg 5 6) 1 0 == some (BitVec.allOnes 64),
    x5 (.not 5 6) 0 0 == some (BitVec.allOnes 64), x5 (.addi 5 6 (-3)) 1 0 == some (BitVec.ofInt 64 (-2)),
    x5 (.andi 5 6 (-16)) 0xFF 0 == some 0xF0, x5 (.ori 5 6 0x100) 1 0 == some 0x101,
    x5 (.xori 5 6 (-1)) 5 0 == some (BitVec.ofInt 64 (-6)), x5 (.li 5 0x20202) 0 0 == some 0x20202,
    x5 (.mul 5 6 7) (BitVec.ofInt 64 (-1)) 2 == some (BitVec.ofInt 64 (-2)),
    x5 (.mulh 5 6 7) (BitVec.ofInt 64 (-1)) 2 == some (BitVec.allOnes 64), x5 (.mulhu 5 6 7) (BitVec.ofInt 64 (-1)) 2 == some 1,
    x5 (.div 5 6 7) (BitVec.ofInt 64 (-7)) 2 == some (BitVec.ofInt 64 (-3)), x5 (.rem 5 6 7) (BitVec.ofInt 64 (-7)) 2 == some (BitVec.ofInt 64 (-1)),
    x5 (.divu 5 6 7) 7 0 == some (BitVec.allOnes 64), x5 (.remu 5 6 7) 7 0 == some 7,
    x5 (.extu 5 6 8 16) 0xABCD12 0 == some 0xABCD, x5 (.exts 5 6 8 16) 0xABCD12 0 == some 0xFFFFFFFFFFFFABCD,
    x5 (.sextB 5 6) 0x80F0 0 == some 0xFFFFFFFFFFFFFFF0, x5 (.sextH 5 6) 0x80F0 0 == some 0xFFFFFFFFFFFF80F0,
    x5 (.sextW 5 6) 0x80F0 0 == some 0x80F0, x5 (.zextB 5 6) 0xFFFFFFFFFFFF80F0 0 == some 0xF0,
    x5 (.zextH 5 6) 0xFFFFFFFFFFFF80F0 0 == some 0x80F0, x5 (.zextW 5 6) 0xFFFFFFFFFFFF80F0 0 == some 0xFFFF80F0,
    x5 (.clz 5 6) 0 0 == some 64, x5 (.clz 5 6) 1 0 == some 63, x5 (.ctz 5 6) 0 0 == some 64, x5 (.ctz 5 6) 8 0 == some 3,
    x5 (.popc 5 6) 0xF0F 0 == some 8, x5 (.brev 5 6) 1 0 == some 0x8000000000000000,
    x5 (.bswap 5 6) 0x0123456789ABCDEF 0 == some 0xEFCDAB8967452301,
    x5 (.addw 5 6 7) 0x7FFFFFFF 1 == some 0xFFFFFFFF80000000, x5 (.mulw 5 6 7) 0x10000 0x10000 == some 0,
    x5 (.shl 5 6 7) 1 65 == some 2, x5 (.sra 5 6 7) 0x8000000000000000 63 == some (BitVec.allOnes 64),
    x5 (.ror 5 6 7) 1 1 == some 0x8000000000000000, x5 (.min 5 6 7) (BitVec.ofInt 64 (-1)) 1 == some (BitVec.ofInt 64 (-1)),
    x5 (.minu 5 6 7) (BitVec.ofInt 64 (-1)) 1 == some 1, x5 (.lea 5 6 7 3) 1 2 == some 17].all id = true := by decide +kernel

/-- R418: LIH keeps the low word. -/
theorem test_lih : ends (exec (.lih 5 0x1234) (withX base [(5, 0x89ABCDEF)])) (fun t => t.x 5 == 0x123489ABCDEF) = true := by
  decide +kernel

/-- x5 and FCSR after an instruction. -/
def x5f (i : Instr) (a b : Word) : Option (Word × Word) :=
  match exec i (withX base [(6, a), (7, b)]) with
  | .next t => some (t.x 5, t.me.regs.fcsr)
  | _ => none

/-- R402: conversions of −3.5 with their flags (NX is bit 4, NV bit 8), and of R151's edge. -/
theorem test_fcvt : [
    x5f (.fcvt 5 6 3 false false) 0xC0600000 0 == some (0xFFFFFFFFFFFFFFFC, 0x10),
    x5f (.fcvt 5 6 3 false true) 0xC0600000 0 == some (0xFFFFFFFFFFFFFFFD, 0x10),
    x5f (.fcvt 5 6 4 false false) 0xC0600000 0 == some (0, 0x100),
    x5f (.fcvt 5 6 0 false false) 0xC0600000 0 == some (0xC00C000000000000, 0)].all id = true := by decide +kernel

/-- R144 to R149: 1 + 2^24 rounds to even in FP32 and sets NX; division by zero sets DZ; an invalid sum sets NV. -/
theorem test_float : [
    x5f (.fadd 5 6 7 false) 0x3F800000 0x4B800000 == some (0x4B800000, 0x10),
    x5f (.fdiv 5 6 7 false) 0x3F800000 0 == some (0x7F800000, 0x80),
    x5f (.fsub 5 6 7 false) 0x7F800000 0x7F800000 == some (0x7FC00000, 0x100),
    x5f (.fmul 5 6 7 true) 0x4000000000000000 0x4008000000000000 == some (0x4018000000000000, 0),
    x5f (.fsqrt 5 6 true) 0x4010000000000000 0 == some (0x4000000000000000, 0)].all id = true := by decide +kernel

/-- R407: of FSKUN, a quiet NaN is unordered without a flag, a signalling one sets NV, a number does not skip. -/
theorem test_fskun : [0x7FC00000, 0x7F800001, 0x3F800000].map (fun v : Word =>
    match exec (.fskun 1 5 5 false) (withX base [(5, v)]) with
    | .next t => (t.me.annul, t.me.regs.fcsr)
    | _ => (9, 9)) = [(1, 0), (1, 0x100), (0, 0)] := by decide +kernel

/-- R165: the reduction tree gives 1.0 and NX for 1, 2^24, 1, −2^24 with the other lanes masked off. -/
theorem test_vredadd :
    ends (exec (.vredadd 9 2 2 1) ((withV base [(2, [0x3F800000, 0x4B800000, 0x3F800000, 0xCB800000])]).setMask 1 15))
      (fun t => t.x 9 == 0x3F800000 && t.me.regs.fcsr == 0x10) = true := by decide +kernel

/-- R472: VADD.H wraps where VADD.SAT.H saturates. -/
theorem test_vadd :
    [.vadd 1 2 3 1 0, .vaddSat 1 2 3 1 0].map (fun i => match exec i (withV base [(2, [0x7FF0]), (3, [0x20])]) with
      | .next t => laneOf (t.v 1) 1 0
      | _ => 0) = [0x8010, 0x7FFF] := by decide +kernel

/-- A core whose decode table 2 holds the signed bytes, in IF19 (R152 to R155). -/
def int8Core : Core := { Core.reset with
  threads := [(0, running)]
  dt := (List.range 256).filterMap fun c =>
    let m := if c < 128 then c else 256 - c
    if c = 0 then none else some (512 + c, BitVec.ofNat 32 ((if c < 128 then 0 else 2 ^ 18) +
      (127 + Nat.log2 m) * 2 ^ 10 + (m * 2 ^ (10 - Nat.log2 m) - 2 ^ 10))) }
def int8 : State := { base with cores := [(0, int8Core)] }

/-- R153, R157, R159: the entry of 5, and the codes that the spec lists for 2.5, −2.5, 200 and −1000 in FP32; the scale of a block
whose greatest magnitude is 1000. -/
theorem test_codes :
    int8Core.entry 2 5 = 0x20500 ∧ int8Core.dec 2 5 = 0x40A00000 ∧
    [0x40200000, 0xC0200000, 0x43480000, 0xC47A0000, 0x7FC00000].map (fun v => int8Core.enc 2 false (fmtS.unpack false v)) =
      [(2, 0), (0xFE, 0), (0x7F, fOF), (0x80, fOF), (0, fNV)] ∧
    int8Core.bscale 2 ([0x447A0000, 0xC0533333].map (fmtS.unpack false)) = (3, 0) := by decide +kernel

/-- R476 to R478: VBSC, VFSCL, VENC and VDEC of 1000 and −3.3. -/
theorem test_quantise :
    ends (exec (.vbsc 9 2 2 2 0) (withV int8 [(2, [0x447A0000, 0xC0533333])])) (fun t => t.x 9 == 3) = true ∧
    ends (exec (.vfscl 3 2 10 2 0) (withX (withV int8 [(2, [0x447A0000, 0xC0533333])]) [(10, BitVec.ofInt 64 (-3))]))
      (fun t => laneOf (t.v 3) 2 0 == 0x42FA0000 && laneOf (t.v 3) 2 1 == 0xBED33333) = true ∧
    ends (exec (.venc 4 3 2 false 0) (withV int8 [(3, [0x42FA0000, 0xBED33333])])) (fun t => (t.v 4).toNat % 65536 == 0x7D) = true ∧
    ends (exec (.vdec 5 4 2 false 0) (withV int8 [(4, [0x7D])])) (fun t => laneOf (t.v 5) 2 0 == 0x42FA0000) = true := by
  decide +kernel

/-- R161: the block of the spec's example: 1 − 1 + 1.5 × 2^−100 + 1.5 × 2^−101 gives 2^−100; 32 products of 2 × 3 give 192. -/
theorem test_block :
    blockSum 0 [.fin false 1 0, .fin true 1 0, .fin false 3 (-101), .fin false 3 (-102)] = 0x0D800000 ∧
    blockSum 0 (List.replicate 32 (.fin false 6 0)) = 0x43400000 := by decide +kernel

/-- R102: BR with offset −8 bytes, CALL's return address, LPC. -/
theorem test_jumps :
    ends (exec (.br (-4)) base) (fun t => t.me.pc == 0xF8) = true ∧
    ends (exec (.call 9) base) (fun t => t.me.pc == 0x112 && t.x 1 == 0x102) = true ∧
    ends (exec (.lpc 5 2) base) (fun t => t.x 5 == 0x104) = true := by decide +kernel

/-- R383, R468, R307: TRAP 5 and BRK: cause, EVAL, EPC, privilege. -/
theorem test_traps :
    ends (exec (.trap 5) base) (fun t => t.me.regs.ecause == 0x0B && t.me.regs.eval == 5 && t.me.regs.epc == 0x100 &&
      t.me.priv == .s && t.me.tstate == .trap) = true ∧
    ends (exec (.brk 0x2A) base) (fun t => t.me.regs.ecause == 0x0C && t.me.regs.eval == 0x2A) = true := by decide +kernel

/-- R209, R458, R413: a store to the scratchpad and the bytes it leaves; an access across the top of it; a misaligned one. -/
theorem test_local :
    ends (exec (.st 5 6 0 plain) (withX base [(5, 0x0123456789ABCDEF), (6, 0xFE00000000000100)]))
      (fun t => t.myCore.sram.byte 0x100 == 0xEF && t.myCore.sram.byte 0x107 == 0x01) = true ∧
    ends (exec (.ld 5 6 0 plain) (withX base [(6, 0xFE00000000080000)])) (fun t => t.me.regs.ecause == 0x05) = true ∧
    ends (exec (.ldw 5 6 0 plain) (withX base [(6, 0xFE00000000000102)]))
      (fun t => t.me.regs.ecause == 0x04 && t.me.regs.eval == 0xFE00000000000102) = true := by decide +kernel

/-- R140, R374: a CAS that fails gives the old value and writes nothing; an AMOADD adds. -/
theorem test_atomics :
    ends (exec (.cas 9 6 7 true plain) (withX base [(9, 0), (6, 0xFE00000000000100), (7, 1)]))
      (fun t => t.x 9 == 0 && t.myCore.sram.byte 0x100 == 1) = true ∧
    ends (exec (.cas 9 6 7 true plain) (withX base [(9, 5), (6, 0xFE00000000000100), (7, 1)]))
      (fun t => t.x 9 == 0 && t.myCore.sram == []) = true ∧
    ends (exec (.amoadd 9 6 7 false false plain) (withX base [(6, 0xFE00000000000100), (7, 0x1FF)]))
      (fun t => t.x 9 == 0 && t.myCore.sram.byte 0x100 == 0xFF && t.myCore.sram.byte 0x101 == 1) = true := by decide +kernel


/-! ## The hypotheses of the statements are met: operands, scalar results, skips, jumps -/

/-- The device as one partition that runs, all of space 0 its own. -/
def whole : Partition :=
  let p := Partition.formed 1 6 0 0
  { p with
    stop := .run
    regs := { p.regs with pmem := [(0, 0), (1, 0xFFFFFFFFFFFF)] } }
def parted : State := { base with parts := [(1, whole)] }

/-- Fields of every instruction that names registers, at the ends of a window of 32; each inbound queue pops its first dword. -/
theorem witness_Operands :
    let s := base.modMe fun t => { t with slim := 32 }
    let q (f : Queues → Queues) := base.modQueues f
    let k (f : Core → Core) := base.modMyCore f
    s.settled = true ∧ (usesDAB 31 0 1).plain s = true ∧
    (q fun k => { k with q0 := [7, 8] }).operand (.src 120) = some (7, q fun k => { k with q0 := [8] }) ∧
    (q fun k => { k with q2claim := [7, 8] }).operand (.src 122) = some (7, q fun k => { k with q2claim := [8] }) ∧
    (q fun k => { k with q4 := [7] }).operand (.src 124) = some (7, q fun k => { k with q4 := [] }) ∧
    (k fun k => { k with q5 := [[7, 8], [9]] }).operand (.src 125) = some (7, k fun k => { k with q5 := [[8], [9]] }) ∧
    (k fun k => { k with q5 := [[7], [9]] }).operand (.src 125) = some (7, k fun k => { k with q5 := [[9]] }) ∧
    (k fun k => { k with q6 := [[7, 8]] }).operand (.src 126) = some (7, k fun k => { k with q6 := [[8]] }) ∧
    (k fun k => { k with q6 := [[7]] }).operand (.src 126) = some (7, k fun k => { k with q6 := [] }) ∧
    (k fun k => { k with q7 := [⟨true, [7, 8]⟩] }).operand (.src 127) = some (7, k fun k => { k with q7 := [⟨true, [8]⟩] }) ∧
    (k fun k => { k with q7 := [⟨true, [7]⟩] }).operand (.src 127) = some (7, k fun k => { k with q7 := [] }) := by
  decide +kernel

/-- A window of 32: x32 is the first outside, x119 the last; of a, b and d the first counts; a vector register above the limit. -/
theorem witness_RegBound :
    let s := base.modMe fun t => { t with slim := 32, vlim := 8 }
    (usesOf s (.add 40 32 119)).isSome = true ∧ s.cur.valid = true ∧ s.me.lateTrap = none ∧
    goes (exec (.add 40 32 119) s) (s.takeTrap 0x03 32 none) = true ∧ goes (exec (.add 40 31 119) s) (s.takeTrap 0x03 119 none) = true ∧
    goes (exec (.vmov 8 7 2 0) s) (s.takeTrap 0x03 0x108 none) = true := by decide +kernel

/-- q1 read and q0, q7 written, q7 at U, an instruction of S at U. -/
theorem witness_OperandTraps :
    (usesOf base (.add 1 121 120)).isSome = true ∧ goes (exec (.add 1 121 120) base) (base.takeTrap 0x0D 121 none) = true ∧
    goes (exec (.add 120 1 2) base) (base.takeTrap 0x0D 120 none) = true ∧ goes (exec (.add 127 1 2) sup) (sup.takeTrap 0x0D 127 none) = true ∧
    goes (exec (.shli 122 3) base) (base.takeTrap 0x0D 122 none) = true ∧ goes (exec (.vpop 1 121) base) (base.takeTrap 0x0D 121 none) = true ∧
    goes (exec (.vpop 1 122) base) (base.takeTrap 0x0D 122 none) = true ∧
    goes (exec (.add 1 127 2) base) (base.takeTrap 0x02 0 none) = true ∧ base.me.priv = .u ∧
    goes (exec (.wake 1) base) (base.takeTrap 0x02 0 none) = true := by decide +kernel

/-- A result that is still to come, one that has come, one that came poisoned; an empty q0 and, above U, an empty q7. -/
theorem witness_OperandWaits :
    let s (v : LateVal) := base.modMe fun t => { t with pending := [⟨1, 0, .x 2, 0x40, 8, false, v⟩] }
    (usesOf (s .waiting) (.add 1 2 3)).map (Uses.legal (s .waiting)) = some true ∧
    ends (exec (.add 1 2 3) (s .waiting)) (fun t => t.me.tstate == .waiting && t.me.wait == .regs 1) = true ∧
    ends (exec (.add 2 1 3) (s (.ready 5))) (fun t => t.me.tstate == .waiting) = true ∧
    goes (exec (.add 1 2 3) (s (.poisoned 0x40))) (((s (.poisoned 0x40)).modMe fun t => t.unmark 1).takeTrap 0x0A 0x40 none) = true ∧
    base.pop 0 = none ∧ ends (exec (.add 1 120 3) base) (fun t => t.me.park == .qempty && t.me.parkSeq == 1) = true ∧
    ends (exec (.add 1 127 3) sup) (fun t => t.me.wait == .queue 7 1) = true := by decide +kernel

/-- An instruction of `scalarOp` meets the hypotheses, and its next state is the one that the statement names. -/
def scalarHolds (s : State) (i : Instr) : Bool :=
  match scalarOp i with
  | some (d, u, f) => i.wf && d < 120 && meets s u fun a b c t => goes (exec i s) ((t.raise (f t a b c).2).setX d (f t a b c).1)
  | none => false

/-- A state with numbers and floats in registers, masks set. -/
def mixed : State :=
  ((withV (withX base [(2, 0x4010000000000000), (3, 0xFFFFFFFFC0600001), (4, 5), (7, 0)])
    [(2, [0x3F800000, 0x7F800001, 0xC0490FDB, 1]), (3, [0x40000000, 0xFF800000, 0x00800000]), (4, [3, 7, 0x80000000])]).setMask 1
      0xF00FF).setMask 2 5

theorem witness_ScalarResults_integer : [
    Instr.add 1 2 3, .sub 1 2 3, .and 1 2 3, .or 0 2 3, .xor 119 2 3, .addi 1 2 (-8), .andi 1 2 7, .ori 1 2 7, .xori 1 2 7, .li 1 5,
    .lih 3 6, .not 1 3, .neg 1 3, .abs 1 3, .sextB 1 3, .sextH 1 3, .sextW 1 3, .zextB 1 3, .zextH 1 3, .zextW 1 3, .shli 3 63,
    .shri 3 1, .srai 3 63, .rori 3 4, .shl 1 3 4, .shr 1 3 4, .sra 1 3 4, .ror 1 3 4, .mul 1 2 3, .mulh 1 2 3, .mulhu 1 2 3, .min 1 2 3,
    .minu 1 2 3, .max 1 2 3, .maxu 1 2 3, .lea 1 2 3 3, .clz 1 2, .ctz 1 2, .popc 1 3, .brev 1 3, .bswap 1 3, .extu 1 3 4 60,
    .exts 1 3 0 64, .ins 3 2 4 8, .addw 1 2 3, .subw 1 2 3, .mulw 1 2 3, .div 1 2 3, .divu 1 2 7, .rem 1 2 3, .remu 1 2 7].all
    (scalarHolds mixed) = true := by decide +kernel

theorem witness_ScalarResults_others : [
    Instr.lpc 1 3, .mpop 1 2, .mtox 1 1 true, .vext 1 2 4 2, .tid 1 0, .tid 1 3, .rdc 1 0, .rdc 1 1, .fadd 1 2 3 true, .fsub 1 2 3 false,
    .fmul 1 2 3 true, .fdiv 1 2 7 true, .fma 4 2 3 true, .fsqrt 1 2 true, .fmin 1 2 3 false, .fmax 1 2 3 true, .fclass 1 3 false,
    .fcvt 1 3 3 false false, .fcvt 1 2 12 true true, .vredadd 1 2 2 1, .vredmin 1 2 2 1, .vredmax 1 3 2 1].all (scalarHolds mixed) = true := by
  decide +kernel

/-- q1 full; a dword of a message under way; its last dword; a header that breaks R237, of a division and of another. -/
theorem witness_ScalarPushes :
    let full := base.modQueues fun q => { q with q1 := List.replicate 32 0, q1partial := 3 }
    let half := parted.modQueues fun q => { q with q1 := [w64 (2 * 2 ^ 20)], q1partial := 1 }
    let last := parted.modQueues fun q => { q with q1 := [w64 (1 * 2 ^ 20)], q1partial := 1 }
    let bad := withX parted [(2, 0x8000)]
    meets full (usesDAB 121 2 3) (fun _ _ _ t => !t.q1Room 1 && goes (exec (.add 121 2 3) full)
      (full.modMe fun h => h.parked .qfull (.q1room 1))) = true ∧
    meets half (usesDAB 121 2 3) (fun _ _ _ t => t.q1Room 1 && t.me.queues.q1partial != 0 && !t.me.queues.completes 0 &&
      goes (exec (.add 121 2 3) half) (t.modQueues fun q => { q with q1 := q.q1 ++ [0], q1partial := 2 })) = true ∧
    meets last (usesDAB 121 2 3) (fun _ _ _ t => t.me.queues.completes 0 && t.drained true &&
      goes (exec (.add 121 2 3) last) ((t.releasedAt true).modQueues fun q => { q with q1 := q.q1 ++ [0], q1partial := 0 })) = true ∧
    meets bad (usesDAB 121 2 3) (fun _ _ _ t => t.headerFault 0x108000 == some 0x201 && t.headerFault 0x8000 == some 0x201 &&
      t.me.queues.completes 0x108000 == false) = true ∧
    goes (exec (.add 121 2 3) (withX parted [(2, 0x108000)])) ((withX parted [(2, 0x108000)]).takeTrap 0x0D 0x201 none) = true ∧
    ends (exec (.div 121 2 3) (withX parted [(2, 0x108000), (3, 1)])) (fun t => t.me.lateTrap == some (0x0D, 0x1201)) = true := by
  decide +kernel

/-- A divisor of 0, the overflow, and an ordinary division. -/
theorem witness_Division : [(5, 0), (BitVec.ofInt 64 (-2 ^ 63), BitVec.ofInt 64 (-1)), (BitVec.ofInt 64 (-7), 2)].map (fun e : Word × Word =>
    (x5 (.div 5 6 7) e.1 e.2, x5 (.rem 5 6 7) e.1 e.2)) =
      [(some (BitVec.allOnes 64), some 5), (some (BitVec.ofInt 64 (-2 ^ 63)), some 0), (some (BitVec.ofInt 64 (-3)), some (BitVec.ofInt 64 (-1)))] ∧
    meets base (usesDAB 119 6 7) (fun _ _ _ _ => true) = true := by decide +kernel

/-- Each skip, where its condition holds and where it does not; k at 1 and 3. -/
theorem witness_SkipResults :
    let s := withX mixed [(5, 1), (6, 0x7FC00000)]
    [Instr.skeq 1 5 (.imm 1), .skne 3 5 (.reg 0), .sklt 1 0 (.reg 5), .skge 1 5 (.reg 0), .skltu 1 0 (.reg 5), .skgeu 1 5 (.reg 0), .skbs 1 5 (.reg 0),
      .skbc 1 0 (.reg 0), .fskeq 1 2 2 true, .fsklt 1 0 2 true, .fskle 1 2 2 true, .fskun 1 6 6 false, .fskltq 1 0 2 true,
      .fskleq 1 2 2 true, .skeq 2 5 (.imm 0), .skbc 2 5 (.reg 0), .fskeq 1 6 6 false].map (fun i => match skipOp i with
        | some (k, u, f) => meets s u fun a b _ t => ends (exec i s) fun t' => t'.me == { t.me with
            annul := if (f t a b).1 then k else t.me.annul
            regs := { t.me.regs with fcsr := t.me.regs.fcsr ||| w64 (f t a b).2 } }
        | none => false) = List.replicate 17 true := by decide +kernel

/-- Branches, register jumps to even and to odd addresses, YIELD. -/
theorem witness_Jumps :
    let s := withX base [(1, 0x200), (6, 0x201)]
    goes (exec (.br 3) s) (s.setPc 0x106) = true ∧ s.has 1 = true ∧ goes (exec (.call 3) s) ((s.setX 1 0x102).setPc 0x106) = true ∧
    meets s (usesA 1) (fun x _ _ t => !x.getLsbD 0 && goes (exec (.jr 1) s) (t.setPc 0x200) && goes (exec .ret s) (t.setPc 0x200)) = true ∧
    meets s (usesDA 5 1) (fun _ _ _ t => goes (exec (.callr 5 1) s) ((t.setPc 0x200).setX 5 0x102)) = true ∧
    goes (exec .nop s) s.advanced = true ∧ goes (exec .yield s) (s.advanced.modMe fun h => { h with noBorrow := true }) = true ∧
    meets s (usesA 6) (fun x _ _ _ => x.getLsbD 0 && goes (exec (.jr 6) s) (s.takeTrap 0x04 0x201 none)) = true ∧
    meets s (usesDA 5 6) (fun _ _ _ _ => goes (exec (.callr 5 6) s) (s.takeTrap 0x04 0x201 none)) = true ∧
    (let r := withX base [(1, 0x201)]
     meets r (usesA 1) (fun _ _ _ _ => goes (exec .ret r) (r.takeTrap 0x04 0x201 none))) = true := by decide +kernel

/-- An instruction of each group of the frame has a next state; x0 as the destination and as the link. -/
theorem witness_RegisterFrame :
    let s := withX base [(1, 0x200), (6, 0x300)]
    s.settled = true ∧ (usesDAB 0 1 6).plain s = true ∧ s.has 0 = true ∧ (s.x 6).getLsbD 0 = false ∧
    [Instr.add 0 1 6, .fdiv 5 1 0 true, .br 1, .nop, .yield, .call 1, .jr 6, .callr 0 6, .ret].all
      (fun i => ends (exec i s) fun t => t.x 0 == 0 && t.x 6 == s.x 6) = true := by decide +kernel


/-! ## Accesses -/

/-- The access is at its places, and the state is the one it began with. -/
def isAt (r : Exec (State × List (El × Machine.Place))) (s : State) (l : List (El × Machine.Place)) : Bool :=
  match r with
  | .ok (t, q) => decide (t = s ∧ q = l)
  | _ => false

/-- The access traps. -/
def traps (r : Exec (State × List (El × Machine.Place))) (c : Nat) (v : Word) : Bool :=
  match r with
  | .error (.trap d w _) => d == c && w == v
  | _ => false

/-- At U and at S, at the ends of the scratchpad, the tile data and the side entries; with rings on, slots 479 and 480; a
pinned slot; the holes of the window. -/
theorem witness_LocalPlaces :
    let e (off : Nat) : El := ⟨0xFE * 2 ^ 56 + off, 8, 0⟩
    let ring := base.modMyHem fun h => { h with hemctl := 0x101001 }
    let pin := base.modMyCore fun k => { k with pins := [(3, 1)] }
    let lim := base.reservedFrom 0
    let go (s : State) (w : Bool) (off : Nat) := checkAccess s .load .scalar w [e off]
    (isAt (go base true 0) base [(e 0, .sram 0 0)] && isAt (go base true (lim - 8)) base [(e (lim - 8), .sram 0 (lim - 8))] &&
    isAt (go sup true 0x07FFF8) sup [(e 0x07FFF8, .sram 0 0x07FFF8)] && traps (go base false lim) 0x06 (w64 (e lim).va) &&
    isAt (go base true 0x200000) base [(e 0x200000, .sram 0 0x200000)] && isAt (go base true 0x40FFF8) base [(e 0x40FFF8, .sram 0 0x40FFF8)] &&
    isAt (go ring true 0x3DFFF8) ring [(e 0x3DFFF8, .sram 0 0x3DFFF8)] && traps (go ring false 0x3E0000) 0x0F 480 &&
    traps (go ring false 0x40F000) 0x0F 480 && traps (go pin true 0x203000) 0x0F 3 && isAt (go pin false 0x203000) pin [(e 0x203000, .sram 0 0x203000)] &&
    traps (go base false 0x080000) 0x05 (w64 (e 0x080000).va) && traps (go base false 0x1FFFF8) 0x05 (w64 (e 0x1FFFF8).va) &&
    traps (go base false 0x410000) 0x05 (w64 (e 0x410000).va) && !base.slotBusy 0 0 0) = true := by decide +kernel

/-- The last core of a partition of one hem and one past it; the forms; the device window at U and above it. -/
theorem witness_WindowPlaces :
    let hem0 := { parted with parts := [(1, { Partition.formed 1 0 0 0 with stop := .run })] }
    let e (core off : Nat) : El := ⟨0xFD * 2 ^ 56 + core * 2 ^ 24 + off, 8, 0⟩
    let d (off size : Nat) : El := ⟨0xFC * 2 ^ 56 + off, size, 0⟩
    let go (s : State) (f : Form) (l : El) := checkAccess s .load f false [l]
    (hem0.myPart.isSome && isAt (go hem0 .scalar (e 15 0)) hem0 [(e 15 0, .sram 15 0)] && isAt (go hem0 .amo (e 0 8)) hem0 [(e 0 8, .sram 0 8)] &&
    traps (go hem0 .scalar (e 16 0)) 0x05 (w64 (e 16 0).va) && traps (go hem0 .amof (e 0 0)) 0x05 (w64 (e 0 0).va) &&
    traps (go hem0 .watch (e 0 0)) 0x05 (w64 (e 0 0).va) && traps (go hem0 .indexed (e 0 0)) 0x05 (w64 (e 0 0).va) &&
    traps (go hem0 .vector (e 1 0x07FFF8)) 0x06 (w64 (e 1 0x07FFF8).va) &&
    traps (go base .scalar (d 0 8)) 0x02 (w64 (d 0 8).va) && traps (go sup .amo (d 0 8)) 0x05 (w64 (d 0 8).va) &&
    traps (go sup .scalar (d 0 4)) 0x04 (w64 (d 0 4).va) && traps (go sup .vector (d 0 8)) 0x04 (w64 (d 0 8).va) &&
    isAt (go sup .scalar (d 0xFFFFF8 8)) sup [(d 0xFFFFF8 8, .device 0xFFFFF8)]) = true := by decide +kernel

/-- A core that has cached the page at 0x10000, with a page-table entry. -/
def paged (pte : Word) : State := parted.modMyCore fun k => { k with tlb := [⟨0x10000, 0x1000, pte, [], 1⟩] }

/-- The first and the last dword of a page; no permission, S, PSN; an address of no range, an extent that is revoked. -/
theorem witness_CachedTranslation :
    let e (va : Nat) : El := ⟨va, 8, 0⟩
    let go (s : State) (a : Acc) (va : Nat) := checkAccess s a .scalar (a == .store) [e va]
    let ext := { paged (0x2000000000004000 * 2 + 0xF) with extents := [] }
    let s := paged 0x400010F
    ((s.partOfCore 0).isSome && (s.tlbLook 0 1 0x10000).isSome && isAt (go s .load 0x10000) s [(e 0x10000, .phys 0x40000 0x400010F)] &&
    isAt (go s .store 0x10FF8) s [(e 0x10FF8, .phys 0x40FF8 0x400010F)] && s.physOk whole 0x400010F 0x40000 == .good &&
    traps (go (paged 0x4000103) .store 0x10000) 0x06 0x10000 && traps (go (paged 0x400011F) .load 0x10000) 0x06 0x10000 &&
    traps (go (paged 0x400000400010F) .load 0x10000) 0x0A 0x10000 == false &&
    traps (go (paged 0x400000000400010F) .load 0x10000) 0x0A 0x10000 && traps (go (paged 0x4000F0F) .load 0x10000) 0x07 0x10000 &&
    ext.physOk whole 0x400010F 0x40000 == .good &&
    (let x : Partition := { whole with regs := { whole.regs with plink := 1 } }
     let r := { paged (0x20000004000010F) with parts := [(1, x)], extents := [(0, ⟨0, 0x1000000FFF002⟩)] }
     r.physOk x 0x20000004000010F 0x2000000000040 == .revoked && traps (go r .load 0x10000) 0x11 0x10000)) = true := by decide +kernel

/-- The second element of three is misaligned; an address between the windows; a page that no table maps. -/
theorem witness_AccessTraps :
    (traps (checkAccess base .vload .vector false ([⟨0x10000, 8, 0⟩] ++ ⟨0x10004, 8, 1⟩ :: [⟨0x10010, 8, 2⟩])) 0x04 0x10004 &&
    windowOf (2 ^ 56) == .none && traps (checkAccess base .load .scalar false [⟨2 ^ 56, 8, 0⟩]) 0x05 (w64 (2 ^ 56)) &&
    (match parted.walk whole 0 (2 ^ 56 - 8), checkAccess parted .load .scalar false [⟨2 ^ 56 - 8, 8, 0⟩] with
      | .absent l x, .error (.park r w fx) => r == .pagefault && w == .page (2 ^ 56 - 8) &&
        decide (fx parted = parted.record 0 (pageFaultRecord 1 0 0 l 0 x (2 ^ 56 - 8)))
      | _, _ => false)) = true := by decide +kernel

/-- A scalar load meets the hypotheses of `LoadPerformed`, and its next state is the one named there. -/
def loadHolds (s : State) (i : Instr) : Bool :=
  match loadOp i with
  | some x => meets s x.uses fun a b _ t =>
      match checkAccess t .load .scalar false [x.el a b] with
      | .ok (r, [(e, p)]) => e == x.el a b && x.d < 120 && r.performs .load x.size p && r.clean e p &&
          goes (exec i s) (r.setX x.d (loaded x.size x.signed (r.value p x.size)))
      | _ => false
  | none => false

/-- A block of the cache that a core holds. -/
def blockWith (tag : Tag) (bytes : Nat) : Block :=
  { tag, data := BitVec.ofNat 512 bytes, dirty := 0, prot := 1, region := 0, partialCopy := false, invalPending := false,
    prefetch := false, desc := 0, rseq := 0 }

/-- x6 names the scratchpad, x7 the page at 0x10000, whose block 0x40000 the core holds. -/
def loads (tag : Tag) : State :=
  withX ((paged 0x400010F).modMyCore fun k => { k with
    cache := [(0x40000, blockWith tag 0x8877665544332211F0)]
    sram := [(0x100, 0xF0), (0x101, 0x81), (0x107, 0x92)] }) [(6, 0xFE00000000000100), (7, 0x10000), (8, 1)]

theorem witness_LoadPerformed : [
    Instr.ld 1 6 0 plain, .ldLong 0 7 0 plain, .ldb 1 6 0 plain, .ldbu 1 6 0 plain, .ldh 1 6 0 plain, .ldhu 1 7 0 plain, .ldw 1 6 0 plain,
    .ldwu 1 7 1 plain, .ldxb 119 6 8 0 plain, .ldxbu 1 6 8 3 plain, .ldxh 1 6 8 1 plain, .ldxhu 1 7 8 1 plain, .ldxw 1 6 8 2 plain,
    .ldxwu 1 7 8 2 plain, .ldx 1 7 8 3 plain, .ld 1 7 7 ⟨.acquire, .device, .keep⟩].all (loadHolds (loads .ro)) = true := by decide +kernel

/-- Of a core register, of one that no chapter assigns, of one that only the host writes. -/
theorem witness_DeviceRegisters :
    let s (off : Nat) := withX (parted.modMe fun t => { t with priv := .s }) [(6, w64 (0xFC * 2 ^ 56 + off)), (5, 0x30)]
    meets (s 0) (usesDA 1 6) (fun x _ _ t => isAt (checkAccess t .load .scalar false [⟨x.toNat, 8, 0⟩]) t [(⟨x.toNat, 8, 0⟩, .device 0)] &&
      t.readReg 0 0 == some 32 && goes (exec (.ld 1 6 0 plain) (s 0)) (t.setX 1 32)) = true ∧
    meets (s 0) ⟨false, .src 6, .none, .src 5⟩ (fun _ _ c t => match t.writeReg 0 0 c with
      | .done r => goes (exec (.st 5 6 0 plain) (s 0)) r
      | _ => false) = true ∧
    goes (exec (.st 5 6 0 plain) (s 0x040000)) ((s 0x040000).takeTrap 0x02 (w64 (0xFC * 2 ^ 56 + 0x040000)) none) = true ∧
    goes (exec (.st 5 6 0 plain) (s 0x090000)) ((s 0x090000).takeTrap 0x05 (w64 (0xFC * 2 ^ 56 + 0x090000)) none) = true := by decide +kernel

/-- What the instruction at the pc has asked of a home under sequence 9, for the access at 0x10000. -/
def asked (s : State) (kind key : Nat) (va : Word) (v : LateVal) : State := s.modMe fun t => { t with asks := [⟨9, kind, key, va, v⟩] }

/-- Loads and stores of an UNCACHED and of a WALK page, with and without acquire; a store whose home has answered, and failed. -/
theorem witness_AccessAtHome :
    let s (pte : Word) := withX (paged pte) [(6, 0x10000), (5, 0x1234)]
    [(0x400000F, plain), (0x400070F, plain), (0x400000F, ⟨.acquire, .device, .normal⟩)].all (fun c : Word × OrdFld =>
      ends (exec (.ldw 1 6 1 c.2) (s c.1)) fun t => t.me.pending.length == 1 && decide (t.net.map (fun f => (f.type, f.word 0, f.word 3)) = [(0, 0x40004, 4)]) &&
        (t.me.tstate == .waiting) == ordAcquires c.2) = true ∧
    [0x400000F, 0x400070F].all (fun pte => ends (exec (.sth 5 6 3 plain) (s pte)) fun t =>
      decide (t.net.map (fun f => (f.dst, f.type, f.word 0, f.word 3, f.word 4)) = [(.pp (homeOf 0x40006), 1, 0x40006, 2, 0x1234)]) &&
        t.me.tstate == .waiting && t.me.wait == .asks && t.me.pc == base.me.pc) = true ∧
    meets (s 0x400000F) (usesDA 1 6) (fun x _ _ t => match checkAccess t .load .scalar false [⟨x.toNat, 8, 0⟩] with
      | .ok (r, [(_, .phys _ pte)]) => r.orderedOk plain && pteProt pte == 0 && !r.fenced r.myPartId
      | _ => false) = true ∧
    (let a := asked (s 0x400000F) 2 0 0x10006 (.ready 0)
     a.unasked.settled && ends (exec (.sth 5 6 3 plain) a) fun t => t.me.asks.isEmpty && t.net.isEmpty && t.me.pc == a.nextPc) = true ∧
    (let a := asked (s 0x400070F) 2 0 0x10006 (.failed 7 0x10006)
     goes (exec (.sth 5 6 3 plain) a) (a.takeTrap 7 0x10006 none)) = true := by decide +kernel

/-- A block that the core does not hold, one under way, one held read-only. -/
theorem witness_AccessMiss :
    [(Tag.i, 1), (.busy, 0)].all (fun c => ends (exec (.ld 1 7 0 plain) (loads c.1)) fun t =>
      t.me == (loads c.1).me.parked .tagwait (.block 0x40000 0x10000) && t.net.length == c.2 && (t.myCore.block 0x40000).tag == .busy) = true ∧
    [(Tag.i, 1), (.ro, 2)].all (fun c => ends (exec (.st 1 7 0 plain) (loads c.1)) fun t =>
      t.me == (loads c.1).me.parked .tagwait (.block 0x40000 0x10000) && decide (t.net.map Flit.type = [c.2])) = true := by decide +kernel

/-- Poison in the scratchpad, at the first and the last byte of its granule. -/
theorem witness_LoadPoisoned :
    let s (off : Nat) := withX ((loads .ro).modMyCore fun k => { k with sramPoison := [(4, true)] }) [(6, w64 (0xFE * 2 ^ 56 + off))]
    ends (exec (.ld 1 6 0 plain) (s 0x100)) (fun t => decide (t.me.pending.map Late.val = [.poisoned 0xFE00000000000100])) = true ∧
    ends (exec (.ldb 1 6 0 plain) (s 0x13F)) (fun t => decide (t.me.pending.map Late.val = [.poisoned 0xFE0000000000013F])) = true ∧
    ends (exec (.ld 1 6 0 ⟨.acquire, .core, .normal⟩) (s 0x100)) (fun t => t.me.tstate == .waiting) = true ∧
    meets (s 0x100) (usesDA 1 6) (fun x _ _ t => match checkAccess t .load .scalar false [⟨x.toNat, 8, 0⟩] with
      | .ok (r, [(e, p)]) => r.performs .load 8 p && !r.clean e p
      | _ => false) = true := by decide +kernel

/-- A scalar store meets the hypotheses of `StorePerformed`; its bytes are those of the register. -/
def storeHolds (s : State) (i : Instr) : Bool :=
  match storeOp i with
  | some x => meets s x.uses fun a b c t =>
      match checkAccess t .store .scalar true [x.el a b] with
      | .ok (r, [(e, p)]) => e == x.el a b && r.performs .store x.size p && r.clean e p && r.orderedOk x.ord &&
          ends (exec i s) fun t' => ((List.range x.size).all fun k => t'.byteAt (p.loc r k) == c.extractLsb' (8 * k) 8) &&
            t'.byteAt (p.loc r x.size) == t.byteAt (p.loc r x.size) && decide (t'.cur = s.cur)
      | _ => false
  | none => false

theorem witness_StorePerformed : [
    Instr.st 5 6 0 plain, .stLong 5 7 0 plain, .stb 5 7 63 plain, .sth 5 6 0 plain, .stw 5 7 1 plain, .stxb 5 6 8 0 plain, .stxh 5 6 8 1 plain,
    .stxw 5 7 8 2 plain, .stx 5 7 8 3 plain, .st 5 7 0 ⟨.release, .system, .stream⟩, .stb 5 6 0 ⟨.release, .core, .normal⟩].all
    (storeHolds (withX (loads .rw) [(5, 0x0123456789ABCDEF)])) = true := by decide +kernel

/-- Lanes 0 and 3 of each width, one by one and by index, to the scratchpad and to a cached block. -/
def vecs : State := withX ((withV (loads .rw) [(3, [0x10101010, 8, 16, 24, 0]), (4, [0x03020100, 8, 16, 24]), (5, [0, 8, 16, 24])]).setMask 1 9) [(9, 8)]

theorem witness_VectorLoads : [
    Instr.vld 1 6 0 3 1 plain, .vld 1 7 0 0 1 plain, .vlds 1 6 9 2 1 plain, .vgth 1 6 5 2 1 plain, .vgth 1 7 4 0 1 plain,
    .vld 1 6 1 1 1 ⟨.acquire, .partition, .normal⟩, .vld 1 6 0 2 0 plain].all (fun i => match vloadOp i with
      | some x => i.wf && meets vecs x.uses fun a b _ t => match checkAccess t .vload x.form false (x.els t a b) with
          | .ok (r, ps) => ps.all (fun q => r.performs .vload (2 ^ x.w) q.2 && r.clean q.1 q.2) &&
              ends (exec i vecs) fun t' => ps.all (fun q => laneOf (t'.v x.d) x.w q.1.lane == r.value q.2 (2 ^ x.w)) && t'.me == t.me
          | _ => false
      | none => false) = true := by decide +kernel

theorem witness_VectorStores : [
    Instr.vst 3 6 0 3 1 plain, .vst 3 7 0 0 1 plain, .vsts 3 6 9 2 1 plain, .vsct 3 6 5 2 1 plain, .vsct 3 7 4 0 1 plain,
    .vst 3 6 1 1 1 ⟨.release, .partition, .normal⟩, .vst 3 6 0 2 0 plain].all (fun i => match vstoreOp i with
      | some x => i.wf && meets vecs x.uses fun a b _ t => match checkAccess t .vstore x.form true (x.els t a b) with
          | .ok (r, ps) => ps.all (fun q => r.performs .vstore (2 ^ x.w) q.2 && r.clean q.1 q.2) && r.orderedOk x.ord &&
              ends (exec i vecs) fun t' => (ps.getLast?.map fun q =>
                t'.byteAt (q.2.loc r 0) == BitVec.ofNat 8 (laneOf (t.v x.d) x.w q.1.lane)) == some true
          | _ => false
      | none => false) = true := by decide +kernel


/-! ## Atomics, watched reads, barriers, fences -/

/-- An atomic meets the hypotheses of `AtomicHere`; the register and the bytes after it. -/
def atomHolds (s : State) (i : Instr) : Bool :=
  match atomOp i with
  | some x => meets s x.uses fun a b c t =>
      match checkAccess t .atomic x.form true [⟨a.toNat, x.size, 0⟩] with
      | .ok (r, [(e, p)]) =>
          decide (e = ⟨a.toNat, x.size, 0⟩) && x.d < 120 && (match p with | .phys .. => !x.far | _ => true) && r.performs .atomic x.size p &&
          r.clean e p && r.orderedOk x.ord &&
          ends (exec i s) fun t' => t'.x x.d == (if x.d = 0 then 0 else loaded x.size x.signed (r.value p x.size)) && t'.cur == s.cur &&
            (List.range x.size).all fun k => t'.byteAt (p.loc r k) == BitVec.ofNat 8 (x.new (r.value p x.size) b c / 256 ^ k)
      | _ => false
  | none => false

/-- x6 and x7 name a dword of the scratchpad and of a block that is here, x5 and x4 operands. -/
def atoms : State := withX (loads .rw) [(5, 0x4010000000000000), (4, 0x8877665544332211), (7, 0x10000)]

theorem witness_AtomicHere : [
    Instr.amoadd 1 6 5 true false plain, .amoadd 0 7 5 false false plain, .amoand 1 7 5 true false plain, .amoor 1 7 5 true true plain,
    .amoxor 1 6 5 false true plain, .amomin 1 7 5 true false plain, .amomax 1 7 5 false false plain, .amominu 1 7 5 true false plain,
    .amomaxu 1 7 5 false false plain, .amoswap 1 7 5 true false ⟨.acqRel, .device, .normal⟩, .amof 1 7 5 true false plain,
    .amof 1 7 5 false false plain, .cas 4 7 5 true plain, .cas 4 6 5 false plain].map (fun i => atomHolds atoms i) =
      [true, true, true, false, true, true, true, true, true, true, true, true, true, true] := by decide +kernel

/-- Far, UNCACHED and WALK; with the answer of the home, and with its FAIL. -/
theorem witness_AtomicAtHome :
    let s (pte : Word) := withX (paged pte) [(6, 0x10008), (5, 0x1234)]
    [(0x400010F, Instr.amoadd 1 6 5 true true plain, 3), (0x400000F, .cas 4 6 5 true plain, 2), (0x400070F, .amof 1 6 5 false false plain, 2)].all
      (fun c : Word × Instr × Nat => match atomOp c.2.1 with
        | some x => meets (s c.1) x.uses fun a b _ t => match checkAccess t .atomic x.form true [⟨a.toNat, x.size, 0⟩] with
            | .ok (r, [(_, .phys pa pte)]) => (x.far || pteProt pte == 0 || pteProt pte == 7) && r.orderedOk x.ord &&
                !(s c.1).myCore.asking (blockOf pa) && ((s c.1).myCore.block (blockOf pa)).dirty == 0 &&
                ends (exec c.2.1 (s c.1)) (fun t' => decide (t'.net.map (fun f => (f.type, f.word 0, f.word 2)) = [(3, 0x40008, b)]) &&
                  decide (t'.me.asks.map (fun q => (q.kind, q.key, q.va, q.val)) = [(c.2.2, 0, a, .waiting)])) &&
                (let w := asked (s c.1) c.2.2 0 a (.ready 0x81)
                 w.unasked.settled && ends (exec c.2.1 w) fun t' => t'.x x.d == loaded x.size x.signed 0x81 && t'.me.pc == w.nextPc) &&
                let w := asked (s c.1) c.2.2 0 a (.failed 7 a)
                goes (exec c.2.1 w) (w.takeTrap 7 a none)
            | _ => false
        | none => false) = true := by decide +kernel

/-- A word that differs and one that is equal; zero and not zero. -/
theorem witness_WatchedReads :
    let w (imm : Int) (v : Word) := withX (loads .ro) [(5, v), (6, BitVec.ofInt 64 (0xFE00000000000100 + imm))]
    meets (w 0 1) (usesDAB 1 6 5) (fun x y _ t => match checkAccess t .load .watch false [⟨x.toNat, 8, 0⟩] with
      | .ok (r, [(e, p)]) => r.performs .load 8 p && r.clean e p && w64 (r.value p 8) != y &&
          goes (exec (.waitm 1 6 5 plain) (w 0 1)) (r.setX 1 (w64 (r.value p 8)))
      | _ => false) = true ∧
    ends (exec (.waitm 1 6 5 plain) (w 0 0x92000000000081F0)) (fun t => t.me.park == .memwait) = true ∧
    ends (exec (.join 6 0) (w 0 1)) (fun t => t.me.park == .join) = true ∧
    goes (exec (.join 6 2) (w 0 1)) (w 0 1).advanced = true ∧
    (let u := withX (paged 0x400000F) [(5, 1), (6, 0x10000)]
     let a (v : Word) := asked u 1 (0x10000 * 64 + 8) 0x10000 (.ready v)
     [Instr.waitm 1 6 5 plain, .join 6 0].all (fun i => ends (exec i u) fun t => t.me.wait == .asks &&
       decide (t.net.map (fun f => (f.type, f.word 0, f.word 3)) = [(0, 0x40000, 8)])) &&
     ends (exec (.waitm 1 6 5 plain) (a 2)) (fun t => t.x 1 == 2 && t.me.pc == u.nextPc) &&
     ends (exec (.waitm 1 6 5 plain) (a 1)) (fun t => t.me.park == .memwait) && ends (exec (.join 6 0) (a 0)) (fun t => t.me.pc == u.nextPc) &&
     ends (exec (.join 6 0) (a 1)) fun t => t.me.park == .join) = true := by decide +kernel

/-- A job that slot 0 of core 0 holds in entry 3. -/
def jobIn (s : State) (f : JobState) (kind : Nat) (ctl : Word) : State :=
  s.modMyHem fun h => { h with jobs := [(3, { base.newJob 0x10000 5 kind ctl.toNat [] with state := f, ctl })] }

/-- Each clause of BAR: DONE, a bad count, another target, the last and an earlier arrival; BCARM at its limit; BCWAIT. -/
theorem witness_Barriers :
    let b (w n : Word) := (withX base [(1, n)]).setBar 2 w
    let c (w : Word) := (withX base [(1, 5)]).modMe fun h => { h with regs := h.regs.setBarrier 7 w }
    let f := (jobIn (c 0) .failed 0 0xF00).modMe fun h => { h with queues := { h.queues with q3 := [⟨0x300, [1]⟩] } }
    meets (b 0 16) (usesA 1) (fun _ _ _ t => t.drained false) = true ∧
    goes (exec (.bar 2 1) (b 0x1000100000003 0)) ((b 0x1000100000003 0).advanced.setBar 2 0x100000003) = true ∧
    goes (exec (.bar 2 1) (b 0 17)) ((b 0 17).takeTrap 0x01 17 none) = true ∧ goes (exec (.bar 2 1) (b 0 0)) ((b 0 0).takeTrap 0x01 0 none) = true ∧
    goes (exec (.bar 2 1) (b 0x200030000 2)) ((b 0x200030000 2).takeTrap 0x01 2 none) = true ∧
    goes (exec (.bar 2 1) (b 0x20002FFFF 2)) ((b 0x20002FFFF 2).advanced.setBar 2 0x2000000000000) = true ∧
    ends (exec (.bar 2 1) (b 5 16)) (fun t => t.me.park == .barrier && t.myCore.bar 2 == 0x100100005) = true ∧
    ends (exec (.bcarm 7 1) (c 0x7FFFFFFFFFFFFFFA)) (fun t => t.me.regs.barrier 7 == 0x7FFFFFFFFFFFFFFF) = true ∧
    goes (exec (.bcarm 7 1) (c 0xFFFFFFFFFFFFFFFB)) ((c 0xFFFFFFFFFFFFFFFB).takeTrap 0x0E 7 none) = true ∧
    ends (exec (.bcwait 3 7) (c 0x8000000000000000)) (fun t => t.x 3 == 0x8000000000000000 && t.me.regs.barrier 7 == 0) = true ∧
    ends (exec (.bcwait 3 7) (c 1)) (fun t => t.me.park == .bcount) = true ∧ (c 1).failedAt 0 0 7 = none ∧
    goes (exec (.bcwait 3 7) f) (f.takeTrap 0x0E 0x300 none) = true := by decide +kernel

/-- Each fence; on a protocol processor; while a job runs; each thing that a release waits for. -/
theorem witness_Fences :
    let a : OrdFld := ⟨.acqRel, .partition, .normal⟩
    let op := base.modMyCore fun k => { k with array := { k.array with queues := [(0, [⟨.mzero 0, 0, 0, 0, none⟩])] } }
    let dirty := (loads .rw).modMyCore fun k => { k with cache := [(0x40000, { blockWith .rw 5 with dirty := 1, prot := 2 })] }
    [Instr.fence a, .fencem a, .fencee a, .fencer ⟨.acquire, .system, .normal⟩].all (fun i =>
      ends (exec i base) (fun t => t.me.pc == base.nextPc) && goes (exec i hand) hand.advanced) = true ∧
    base.settled = true ∧ hand.settled = true ∧ base.advanced.drained true = true ∧
    ends (exec (.fencee a) (jobIn base .running 0 0)) (fun t => t.me.park == .jobwait) = true ∧
    ends (exec (.fencem a) (jobIn base .running 0 0)) (fun t => t.me.tstate == .ready) = true ∧
    (match gate false op with | .error (.wait .matrix _) => true | _ => false) = true ∧
    (match gate true (base.modMyCore fun k => { k with flushes := [⟨1, 0x40000, 1⟩] }) with | .error (.wait .release _) => true | _ => false) = true ∧
    (match gate true base with | .ok r => decide (r = base.releasedAt true) | _ => false) = true ∧
    dirty.needsFlush 0 { blockWith .rw 5 with dirty := 1, prot := 2 } = true ∧ dirty.me.release.stage = 0 ∧
    ends (exec (.fence a) dirty) (fun t => t.me.wait == .release && t.net.length == 1) = true := by decide +kernel

/-- Outside the window, an address that nothing maps, a supervisor page at U, a block that is here. -/
theorem witness_TagQuery :
    let s (a : Word) := withX (loads .rw) [(6, a)]
    let u := withX (paged 0x400011F) [(6, 0x10000)]
    goes (exec (.tagq 1 6) (s 0xFE00000000000000)) ((s 0xFE00000000000000).takeTrap 0x05 0xFE00000000000000 none) = true ∧
    (s 0x900000).leafFor 0x900000 = none ∧ ends (exec (.tagq 1 6) (s 0x900000)) (fun t => t.x 1 == 0x8000) = true ∧
    goes (exec (.tagq 1 6) u) (u.takeTrap 0x06 0x10000 none) = true ∧
    ends (exec (.tagq 1 6) (s 0x10008)) (fun t => t.x 1 == 0x102) = true := by decide +kernel

/-- Of each prefetch, on a block that the core does not hold, holds to read, holds to write; on no block. -/
theorem witness_Prefetches :
    let s (g : Tag) := withX (loads g) [(6, 0x10000)]
    let out (g : Tag) := [Instr.prefr 6 0, .prefk 6 0, .prefw 6 0, .prefrel 6 0].map fun i => match exec i (s g) with
      | .next t => some (t.net.map Flit.type, (t.myCore.block 0x40000).tag)
      | _ => none
    meets (s .ro) (usesA 6) (fun x _ _ t => (prefBlock t x).isSome && (prefBlock t 0x900000).isNone) = true ∧
    out .i = [some ([0], .busy), some ([0], .busy), some ([1], .busy), some ([], .i)] ∧
    out .ro = [some ([], .ro), some ([], .ro), some ([2], .busy), some ([6], .i)] ∧
    (out .rw).take 3 = [some ([], .rw), some ([], .rw), some ([], .rw)] := by decide +kernel

/-! ## Vectors and masks -/

/-- A lane operation meets the hypotheses, and its first and last lanes and FCSR are as the statement says. -/
def lanesHold (s : State) (i : Instr) : Bool :=
  match laneResult i with
  | some (d, w, m, u, f) => i.wf && meets s u fun a b _ t => ends (exec i s) fun t' =>
      ([0, 1, 2, 3, laneCount w - 1].all fun k => laneOf (t'.v d) w k ==
        if (t.mask m).getLsbD k then ((f t a b k).1 % (2 ^ laneBits w : Nat)).toNat else laneOf (t.v d) w k) &&
      t'.me.regs.fcsr == t.me.regs.fcsr ||| w64 (((List.range (laneCount w)).filter fun k => (t.mask m).getLsbD k).foldl
        (fun n k => n ||| (f t a b k).2) 0)
  | none => false

theorem witness_VectorResults : [
    Instr.vadd 1 2 3 2 0, .vaddSat 1 2 3 3 2, .vsub 1 2 3 0 1, .vsubSat 1 2 3 1 1, .vmul 1 2 3 2 1, .vand 1 2 3 3 0, .vor 1 2 3 3 0,
    .vxor 1 2 3 3 2, .vshl 1 2 4 2 1, .vshr 1 2 4 2 0, .vsra 1 2 4 2 0, .vmin 1 2 3 2 0, .vminu 1 2 3 2 1, .vmax 1 2 3 1 0, .vmaxu 1 2 3 2 0,
    .vsel 2 2 3 2 2, .vperm 1 2 4 2 0, .vbcast 1 4 1 1, .vidx 31 0 0, .vmov 1 2 2 2, .vfadd 1 2 3 2 0, .vfsub 1 2 3 2 1, .vfmul 1 2 3 0 2,
    .vfma 4 2 3 2 0, .vfdiv 1 2 3 2 1, .vfsqrt 1 2 2 1, .vfmin 1 2 3 2 0, .vfmax 1 2 3 2 0, .vfscl 1 2 4 2 1].all (lanesHold mixed) = true := by
  decide +kernel

/-- An instruction that sets a mask meets the hypotheses, and bits of the mask are as the statement says. -/
def maskHolds (s : State) (i : Instr) : Bool :=
  match maskResult i with
  | some (d, u, f) => i.wf && meets s u fun a _ _ t => ends (exec i s) fun t' => [0, 1, 2, 31, 63, 64, 127].all fun k =>
      (t'.mask d).getLsbD k == if d = 0 then true else if s.cur.pp then false else (f t a k).1
  | none => false

theorem witness_MaskResults :
    [Instr.mand 3 1 2, .mor 3 1 2, .mxor 6 1 2, .mnot 7 1, .mfromx 3 2 false, .mfromx 1 2 true, .vcmp 3 2 3 2 2, .vcmp 3 2 3 5 0,
      .vfcmp 3 2 3 1 2, .vfcmp 3 2 2 0 2].all (maskHolds mixed) = true ∧
    [Instr.mand 3 1 2, .mnot 7 1, .mfromx 3 2 false].all (maskHolds hand) = true ∧ hand.mask 0 = BitVec.allOnes 128 := by decide +kernel

/-! ## Matrix operations -/

/-- Slot 0's operations of the array. -/
def queued (s : State) (n : Nat) : State :=
  s.modMyCore fun k => { k with array := { k.array with queues := [(0, List.replicate n ⟨.mzero 0, 0, 0, 0, none⟩)] } }
/-- The format context. -/
def ctxOf (s : State) (c : Word) : State := s.modRegs fun g => { g with fmtctx := c }
/-- The rings are on. -/
def ringed (s : State) : State := s.modMyHem fun h => { h with hemctl := 0x101001 }

/-- Each operation joins the queue; the traps of R175 in their order, each met with the later ones too; the queue full. -/
theorem witness_MatrixAccepted :
    let s := withX base [(1, 4), (2, 8), (3, 2), (4, 480), (5, 6)]
    let bad := ctxOf s 0x8
    [Instr.mma 7 1 2 true false, .mzero 0, .mld 7 1, .mst 6 7 2 0, .mst 0 1 3 1, .mst 6 1 3 2, .mst 6 1 5 3, .ttrn 1 2].all (fun i =>
      (usesOf s i).isSome && ends (exec i s) fun t => (t.myCore.array.ops 0).length == 1 && t.me.pending.length == (match i with | .mst .. => 1 | _ => 0)) = true ∧
    goes (exec (.mst 6 1 3 0) s) (s.takeTrap 0x10 0x202 none) = true ∧ goes (exec (.mld 0 3) s) (s.takeTrap 0x10 0x202 none) = true ∧
    goes (exec (.mld 0 4) (ringed s)) ((ringed s).takeTrap 0x0F 480 none) = true ∧
    (let p := s.modMyCore fun k => { k with pins := [(11, 1)] }
     goes (exec (.mst 6 1 2 0) p) (p.takeTrap 0x0F 11 none)) = true ∧
    goes (exec (.mma 0 1 2 false false) (ctxOf s 0x30)) ((ctxOf s 0x30).takeTrap 0x10 17 none) = true ∧
    (let f := bad.modMyCore fun k => { k with dt := (List.range 16).map fun c => (c, 0x3FC00) }
     f.unfit4 true 0 && goes (exec (.mma 0 1 2 false false) f) (f.takeTrap 0x10 16 none)) = true ∧
    ends (exec (.mzero 0) (queued s 3)) (fun t => (t.myCore.array.ops 0).length == 4) = true ∧
    ends (exec (.mzero 0) (queued s 4)) (fun t => t.me.wait == .matrix && (t.myCore.array.ops 0).length == 4) = true := by decide +kernel

/-- A decode table in the scratchpad: zero but for the word of code 200. -/
def tabled (w : Nat) : State :=
  (withX base [(6, 0xFE00000000000400), (7, 0xFE00000000000408), (8, 0xFD00000000000400)]).modMyCore fun k => { k with
    sram := k.sram.setWords 0x720 [w64 w] }

theorem witness_FormatContext :
    let s (c : Word) := withX base [(6, c)]
    [0xC0, 0xC000, 0x100000].all (fun c => goes (exec (.mfmt 5 6) (s c)) ((s c).takeTrap 0x10 18 none)) = true ∧
    [0x30, 0x3000].all (fun c => goes (exec (.mfmt 5 6) (s c)) ((s c).takeTrap 0x10 17 none)) = true ∧
    ends (exec (.mfmt 5 6) (ctxOf (s 0xF1F1F) 0x2)) (fun t => t.x 5 == 2 && t.me.regs.fmtctx == 0xF1F1F) = true ∧
    (let t := tabled 5
     goes (exec (.dtld 7 7) t) (t.takeTrap 0x04 0xFE00000000000408 none) &&
     goes (exec (.dtld 7 8) t) (t.takeTrap 0x05 0xFD00000000000400 none) &&
     ends (exec (.dtld 7 6) t) fun r => r.myCore.dt.at 1992 0 == 5 && r.myCore.dt.at 1993 0 == 0) = true ∧
    (let t := tabled 0x80000
     goes (exec (.dtld 0 6) t) (t.takeTrap 0x10 200 none)) = true := by decide +kernel

/-! ## Rings -/

/-- Entry 3: matrix ids 1 and 2, one output of one step, laps below 1. -/
def pattern : Pattern := ⟨true, 0x0001000101010201, 0, 0, 0, 0, 0, 0, [0], 0⟩
def rings : State := (ringed (withX parted [(1, 8), (2, 0x0100000004000000), (3, 0x3000000000000000)])).modMyHem fun h =>
  { h with patterns := [(3, pattern)] }
/-- A tile of family A is live: record 0 of station 0, slot 9. -/
def alive (s : State) : State := s.modMyHem fun h => { h with ring := { h.ring with
  injectors := [(injKey 0 0 0, ⟨true, true, 0, 0x0100000004000000, 9, 1, 0, 0, 0, 0⟩)] } }

/-- Each condition of R191 alone; the live cap; acceptance. -/
theorem witness_RingInjection :
    let h (v : Word) := withX rings [(2, v)]
    let bad (s : State) (e : Word) := goes (exec (.rinja 5 1 2) s) (s.takeTrap 0x0F e none)
    (bad (withX base [(1, 8), (2, 0x0100000004000000)]) 0x1001 && bad (withX rings [(1, 480)]) 480 && bad (h 0x8100000004000000) 0x1002 &&
    bad (h 0x0100000000000000) 0x1003 && bad (h 0x0200000004000000) 0x1004 && bad (h 0x0100400004000000) 0x1005 &&
    bad (h 0x0100010004000000) 0x1005 && bad (alive rings) 0x100C) = true ∧
    (let c := (alive rings).modMyHem fun h => { h with hemctl := 0x100101 }
     goes (exec (.rinja 5 1 2) c) (c.takeTrap 0x0F 0x100C none)) = true ∧
    ends (exec (.rinja 5 1 2) (rings.modMyHem fun h => { h with stopped := true })) (fun t => t.me.park == .livecap) = true ∧
    rings.myHem.freeInj 0 0 = some 0 ∧ rings.advanced.drained true = true ∧
    ends (exec (.rinja 5 1 2) rings) (fun t => (t.myHem.ring.inj (injKey 0 0 0)).active && t.myCore.pins.at 8 0 == 1 &&
      decide (t.me.pending.map Late.dest = [.x 5])) = true ∧
    ends (exec (.rinjb 5 1 2) (h 0x8200000004000000)) (fun t => (t.myHem.ring.inj (injKey 1 0 0)).active) = true := by decide +kernel

theorem witness_RingQueries :
    let off := withX base [(3, 3)]
    let p (e : Word) := withX rings [(3, e), (4, 0)]
    let q (x : Word) := withX rings [(3, x), (4, 0)]
    goes (exec (.pclr 3) off) (off.takeTrap 0x0F 0x1001 none) = true ∧ goes (exec (.pclr 3) (p 15)) ((p 15).takeTrap 0x0F 0x1004 none) = true ∧
    goes (exec (.pclr 3) (alive (p 3))) ((alive (p 3)).takeTrap 0x0F 0x1008 none) = true ∧
    ends (exec (.pclr 3) (p 3)) (fun t => (t.myHem.entry 3).isNone) = true ∧
    goes (exec (.pmark 5 3 4) (q 0xF000000000000000)) ((q 0xF000000000000000).takeTrap 0x0F 0x1004 none) = true ∧
    goes (exec (.pmark 5 3 4) (q 0x3000000000000001)) ((q 0x3000000000000001).takeTrap 0x0F 0x1005 none) = true ∧
    goes (exec (.pmark 5 3 4) (q 0x3000000000000400)) ((q 0x3000000000000400).takeTrap 0x0F 0x1005 none) = true ∧
    ends (exec (.pmark 5 3 4) (q 0x3000000000000000)) (fun t => t.x 5 == 0 && (t.myHem.output 3 0).applied.getLsbD 0) = true ∧
    (let m := (q 0x3000000000000000).modMyHem fun h => h.setOutput 3 0 { Output.reset with applied := 1 }
     ends (exec (.pmark 5 3 4) m) (fun t => t.x 5 == 1) && ends (exec (.rstat 5 3) (withX m [(3, 0x0300000000000000)])) fun t => t.x 5 == 1) = true ∧
    ends (exec (.rstat 5 3) (q 0x2000000000000000)) (fun t => t.x 5 == 0) = true ∧
    ends (exec (.rstat 5 3) (alive (q 0x2000000000000000))) (fun t => t.x 5 == 1) = true ∧
    ends (exec (.rstat 5 3) (q 0x3000000000000000)) (fun t => t.x 5 == 0) = true ∧
    goes (exec (.rstat 5 3) (q 0x4000000000000000)) ((q 0x4000000000000000).takeTrap 0x0F 0x100B none) = true := by decide +kernel

/-- A descriptor at 0x400 of the scratchpad, whose owner map is at 0x500. -/
def described (s : State) (ctl : Word) (own : Nat) : State :=
  (withX s [(6, 0xFE00000000000400), (7, 3), (8, 0xFE00000000000408)]).modMyCore fun k =>
    { k with sram := (k.sram.setWords 0x400 [ctl, 0xFE00000000000500]).setWords 0x500 [w64 own] }

theorem witness_PatternSet :
    let on := ringed base
    let go (s : State) (e : Word) := goes (exec (.pset 6 7) s) (s.takeTrap 0x0F e none)
    let ok := described on 0x0001000101010201 0
    (go (described base 0x0001000101010201 0) 0x1001 && go (described rings 0x0001000101010201 0) 0x1006 && go (described on 0x0001000101000201 0) 0x1007 &&
    go (described on 0x0001000101010201 8) 0x1007 && goes (exec (.pset 8 7) ok) (ok.takeTrap 0x04 0xFE00000000000408 none)) = true ∧
    ends (exec (.pset 6 7) ok) (fun t => (t.myHem.entry 3).isSome) = true := by decide +kernel

/-! ## Queues and copy jobs -/

theorem witness_QueueInstructions :
    let q (f : Queues → Queues) := base.modQueues f
    let full := q fun k => { k with q0 := List.replicate 16 0x50000 }
    let sends := (withV parted [(2, [])]).modQueues fun k => { k with q1 := [w64 (4 * 2 ^ 20)], q1partial := 1 }
    let wrong := withV base [(2, [0x208000])]
    goes (exec (.btag 1 4) base) (base.takeTrap 0x0D 121 none) = true ∧ goes (exec (.btag 7 4) base) (base.takeTrap 0x02 0 none) = true ∧
    ends (exec (.btag 0 4) base) (fun t => t.me.park == .qempty) = true ∧
    ends (exec (.btag 0 4) full) (fun t => t.me.pc == 0x130 && t.me.queues.q0.length == 16) = true ∧
    ((List.range 7).map fun n => match exec (.qstat 5 n) full with | .next t => (t.x 5).toNat | _ => 99) = [16, 32, 0, 0, 0, 0, 0] ∧
    ends (exec (.qstat 5 7) sup) (fun t => t.x 5 == 0) = true ∧
    ends (exec (.vpop 3 120) base) (fun t => t.me.park == .qempty) = true ∧
    ends (exec (.vpop 3 120) full) (fun t => laneOf (t.v 3) 3 15 == 0x50000 && t.me.queues.q0.isEmpty) = true ∧
    ends (exec (.vpush 121 2) (base.modQueues fun k => { k with q1 := List.replicate 17 0 })) (fun t => t.me.park == .qfull) = true ∧
    sends.advanced.me.queues.sends (List.replicate 16 0) = true ∧ sends.advanced.drained true = true ∧
    ends (exec (.vpush 121 2) sends) (fun t => t.me.queues.q1.length == 17 && t.me.queues.q1partial == 0) = true ∧
    goes (exec (.vpush 121 2) wrong) (wrong.takeTrap 0x0D 0x201 none) = true := by decide +kernel

/-- A descriptor at 0x400 of the scratchpad: CTL, and the COUNT of its one dimension. -/
def copying (ctl count : Word) : State :=
  (withX base [(6, 0xFE00000000000400), (7, 0xAB)]).modMyCore fun k =>
    { k with sram := k.sram.setWords 0x400 [0xFE00000000001000, 0xFE00000000002000, ctl, 0, count] }

theorem witness_CopyJobs :
    let go (s : State) (e : Word) := goes (exec (.cpy 5 6 7 0) s) (s.takeTrap 0x0E e none)
    let many := (copying 0x31 4).modMyHem fun h => { h with jobs := (List.range 16).map fun e => (e, base.newJob 0 0 0 1 []) }
    let w (s : State) (id : Word) := withX s [(6, id)]
    (go (copying 0 4) 0x101 && go (copying 13 4) 0x101 && go (copying 0xD1 4) 0x102 && go (copying 0x31 0) 0x103 &&
    go (copying 0x31 0x2000000001) 0x104 && go (copying 0x32 4) 0x103) = true ∧ (copying 0x31 4).advanced.drained true = true ∧
    ends (exec (.cpy 5 6 7 0) (copying 0x31 4)) (fun t => t.x 5 == 0 && t.myHem.jobs.length == 1) = true ∧
    ends (exec (.cpy 5 6 7 0) many) (fun t => t.me.wait == .jobRoom) = true ∧
    ends (exec (.cwait 5 6) (w base 0x300)) (fun t => t.x 5 == 0x40) = true ∧
    ends (exec (.cwait 5 6) (w (jobIn base .running 0 1) 0x300)) (fun t => t.me.park == .jobwait) = true ∧
    ends (exec (.cwait 5 6) (w (jobIn base .cancelled 0 1) 0x300)) (fun t => t.x 5 == 0x0300000000000042 && t.myHem.jobs.isEmpty) = true := by
  decide +kernel

/-! ## Tasks -/

/-- A partition of hem 0, that runs. -/
def oneHem (s : State) (st : Stop) : State := { s with parts := [(1, { Partition.formed 1 0 0 0 with stop := st })] }

theorem witness_TaskPackets :
    let s := oneHem (withX base [(1, 0x200), (2, 0x301), (3, 0xFE00000000000400), (4, 1), (5, 4)]) .run
    let armed := s.modMyCore fun k => { k with sram := k.sram.setWords 0x408 [1] }
    s.advanced.drained true = true ∧
    ends (exec (.fork 8) s) (fun t => decide (t.myCore.work.deque.map Packet.pc = [0x110])) = true ∧
    ends (exec (.forkh 1 0) s) (fun t => decide (t.net.map (fun f => f.dst) = [.core 0 15])) = true ∧
    goes (exec (.forkh 2 0) s) (s.takeTrap 0x04 0x301 none) = true ∧ goes (exec (.forkh 1 3) s) (s.takeTrap 0x12 2 none) = true ∧
    (match s.recordCheck 0xFE00000000000400 with | .ok r => r == (0, 0x400) | _ => false) = true ∧
    goes (exec (.tarm 2 3 4) s) (s.takeTrap 0x04 0x301 none) = true ∧ goes (exec (.tarm 1 3 4) armed) (armed.takeTrap 0x12 4 none) = true ∧
    ends (exec (.tarm 1 3 4) s) (fun t => t.myCore.sram.word 0x400 == 1 && t.myCore.sram.word 0x408 == 1) = true ∧
    ends (exec (.tdec 3 5) s) (fun t => decide (t.net.map (fun f => f.body) = [.dec 0x400 5])) = true := by decide +kernel

theorem witness_TaskEnds :
    let s := oneHem (withX base [(1, 0x200), (2, 0x301), (3, 1), (4, 16), (5, 0x400), (13, 7)]) .run
    let q (n : Nat) := s.modQueues fun k => { k with q1 := [0], q1partial := n }
    let at15 := { s with cur := ⟨false, 0, 15, 0x100, 1⟩ }
    goes (exec .endTask hand) (hand.takeTrap 0x01 0 none) = true ∧ goes (exec .endTask at15) (at15.takeTrap 0x01 0 none) = true ∧
    goes (exec .endTask (q 1)) ((q 1).takeTrap 0x0D 0x203 none) = true ∧ ends (exec .endTask (q 0)) (fun t => t.me.wait == .ending 1) = true ∧
    s.advanced.drained true = true ∧ s.advanced.jobsOver = true ∧ ends (exec .endTask s) (fun t => t.me.tstate == .free) = true ∧
    goes (exec (.ship 1 3) sup) (sup.takeTrap 0x02 0 none) = true ∧ goes (exec (.ship 2 3) s) (s.takeTrap 0x04 0x301 none) = true ∧
    goes (exec (.ship 1 4) s) (s.takeTrap 0x12 3 none) = true ∧ goes (exec (.ship 1 5) s) (s.takeTrap 0x12 3 none) = true ∧
    ends (exec (.ship 1 3) s) (fun t => t.me.tstate == .free && decide (t.net.map (fun f => f.dst) = [.core 1 15])) = true ∧
    goes (exec (.ppt 0) sup) sup.advanced = true ∧
    ends (exec (.ppt 0x3D) (ctxOf s 5)) (fun t => t.x 13 == 0 && t.x 5 == 0x400 && t.me.regs.fmtctx == 5) = true := by decide +kernel

/-! ## System registers, traps, return -/

theorem witness_SystemRegisters :
    let w (s : State) (v : Word) := withX s [(6, v)]
    goes (exec (.srd 5 0x100) base) (base.takeTrap 0x02 0x100 none) = true ∧ goes (exec (.swr 0x130 5) base) (base.takeTrap 0x02 0x130 none) = true ∧
    goes (exec (.srd 5 0x006) base) (base.takeTrap 0x01 0x006 none) = true ∧ goes (exec (.srd 5 0x100) hand) (hand.takeTrap 0x01 0x100 none) = true ∧
    ends (exec (.srd 5 0x008) hand) (fun t => t.x 5 == 0) = true ∧ ends (exec (.srd 5 0x009) base) (fun t => t.x 5 == 0x20000000780000) = true ∧
    ends (exec (.srd 5 0x120) sup) (fun t => t.x 5 == 0x101000) = true ∧ goes (exec (.swr 0x008 6) base) (base.takeTrap 0x01 0x008 none) = true ∧
    goes (exec (.swr 0x010 6) base) (base.takeTrap 0x01 0x010 none) = true ∧ goes (exec (.swr 0x008 6) hand) (hand.takeTrap 0x01 0x008 none) = true ∧
    ends (exec (.swr 0x000 6) (w hand 0xFFFF)) (fun t => t.me.regs.fcsr == 0xFFFF &&& fcsrMask) = true ∧
    ends (exec (.swr 0x017 6) (w sup 9)) (fun t => t.me.regs.barrier 7 == 9) = true ∧
    ends (exec (.swr 0x100 6) (w sup 0xFF)) (fun t => t.me.regs.status == 15) = true ∧ ends (exec (.swr 0x110 6) (w sup 9)) (fun t => t.myPartId == sup.myPartId) = true ∧
    ends (exec (.swr 0x104 6) (w sup 9)) (fun t => t.myCore.regs.svec == 9) = true ∧
    goes (exec (.swr 0x120 6) (w sup 0x1)) ((w sup 0x1).takeTrap 0x0F 0x100A none) = true ∧
    goes (exec (.swr 0x120 6) (w sup 0x410100)) ((w sup 0x410100).takeTrap 0x0F 0x100A none) = true ∧
    ends (exec (.swr 0x120 6) (w sup 0xFF0081C080)) (fun t => t.myHem.hemctl == 0x14000) = true := by decide +kernel

/-- A thread of U, one in trap code. -/
theorem witness_TrapEntry :
    base.cur.valid = true ∧ base.me.trapped = false ∧ base.me.regs.status.getLsbD 4 = false ∧
    (let t := (base.modMe fun h => { h with annul := 2, tstate := .trap }).takeTrap 0x0B 7 none
     t.me.regs.status == 24 && t.me.regs.ecause == 0x0B && t.me.regs.eval == 7 && t.me.regs.epc == 0x100 && t.me.priv == .s) = true := by
  decide +kernel

theorem witness_SoftwareTraps :
    let s := base.modMe fun h => { h with tstate := .trap, regs := { h.regs with status := 16 } }
    base.settled = true ∧ base.cur.slot ≠ 15 ∧ s.me.trapped = true ∧ ((s.takeTrap 0x0B 0 none).me.tstate == .free) = true ∧ hand.cur.pp = true := by
  decide +kernel

theorem witness_TrapReturn :
    let s (st e : Word) := sup.modRegs fun g => { g with status := st, epc := e }
    goes (exec .eret base) (base.takeTrap 0x02 0 none) = true ∧ goes (exec .eret hand) (hand.takeTrap 0x01 0 none) = true ∧
    goes (exec .eret (s 2 0x200)) ((s 2 0x200).takeTrap 0x01 0 none) = true ∧ goes (exec .eret (s 1 0x201)) ((s 1 0x201).takeTrap 0x04 0x201 none) = true ∧
    ends (exec .eret (s 0x1C 0x200)) (fun t => t.me.priv == .u && t.me.annul == 3 && t.me.pc == 0x200 && t.me.tstate == .ready && t.me.regs.status == 0xC) = true ∧
    ends (exec .eret (s 1 0x200)) (fun t => t.me.tstate == .trap) = true := by decide +kernel

/-! ## Supervisor and handler instructions -/

/-- Slot 3 of core 0 in a state, parked for the seventh time; its supervisor slot issues. -/
def waking (h : Thread) : State :=
  withX { State.reset with
    cores := [(0, { Core.reset with threads := [(3, { h with parkSeq := 7 }), (15, { running with priv := .s, slim := 32 })] })]
    parts := [(1, { Partition.formed 1 0 0 0 with stop := .run })]
    cur := ⟨false, 0, 15, 0x100, 1⟩ } [(1, 0x0007000000000003), (2, 0x12), (3, 0x55), (4, 0x0008000000000003), (5, 0x10000), (6, 0x1000)]

theorem witness_SupervisorInstructions :
    let p (r : Park) : Thread := { running with tstate := .parked, park := r }
    let sl (t : State) := t.coreThread 0 3
    (waking (p .qempty)).advanced.drained true = true ∧
    ends (exec (.wake 1) (waking (p .qempty))) (fun t => (sl t).tstate == .ready) = true ∧
    ends (exec (.waket 3 1 2) (waking (p .pagefault))) (fun t => (sl t).regs.ecause == 0x12 && (sl t).regs.eval == 0x55) = true ∧
    ends (exec (.waket 3 1 2) (waking (p .qempty))) (fun t => t.myCore.regs.stale == 1 && (sl t).tstate == .parked) = true ∧
    ends (exec (.wake 4) (waking running)) (fun t => (sl t).wakePending) = true ∧
    ends (exec (.wake 4) (waking (p .qempty))) (fun t => t.myCore.regs.stale == 1) = true ∧ goes (exec (.xinv 5 6) hand) hand.advanced = true ∧
    goes (exec (.xinv 1 6) (withX sup [(1, 2 ^ 56)])) ((withX sup [(1, 2 ^ 56)]).takeTrap 0x05 (2 ^ 56) none) = true ∧
    (let x := (waking running).modMyCore fun k => { k with tlb := [⟨0x10000, 0x1000, 0xF, [], 1⟩, ⟨0x11000, 0x1000, 0xF, [], 1⟩] }
     ends (exec (.xinv 5 6) x) fun t => t.myCore.tlb.length == 1 && t.me.tstate == .waiting) = true ∧
    goes (exec .idle sup) (sup.takeTrap 0x01 0 none) = true ∧ ends (exec .idle (waking running)) (fun t => t.me.park == .idle) = true ∧
    ends (exec .idle ((waking running).modMyCore fun k => { k with q7 := [⟨false, [1]⟩] })) (fun t => t.me.tstate == .ready) = true ∧
    (let c := withX parted [(6, 0xFE00000000000400), (7, 0xFE00000000000408)]
     goes (exec (.conerd 1 7) c) (c.takeTrap 0x04 0xFE00000000000408 none) && ends (exec (.conerd 1 6) c) fun t => t.x 1 == 0) = true := by
  decide +kernel

/-- A restore descriptor of one hem and sixteen cores in the scratchpad, its lists in memory that holds 0. -/
def restoring (st : Stop) (level more : Nat) : State :=
  withX ((oneHem sup st).modMyCore fun k => { k with sram := k.sram.setWords 0x400 [0, 0, w64 level, 0, w64 more] }) [(6, 0xFE00000000000400)]

theorem witness_StopInstructions :
    let other := { oneHem sup .run with cur := ⟨false, 1, 0, 0x100, 1⟩ }.modMe fun _ => { running with priv := .s }
    let st (s : State) (n : Word) := ends (exec (.tstart 5 6) s) (fun t => t.x 5 == n)
    goes (exec (.sstop 5 0) sup) (sup.takeTrap 0x12 5 none) = true ∧ st sup 4 = true ∧ goes (exec (.sstop 5 0) other) (other.takeTrap 0x12 5 none) = true ∧
    st other 4 = true ∧ goes (exec (.sstop 5 0) (oneHem sup .saving)) ((oneHem sup .saving).takeTrap 0x12 6 none) = true ∧
    ends (exec (.sstop 5 0) (oneHem sup .run)) (fun t => t.x 5 == 1 && decide ((t.core 15).stop.stopAt = some 0)) = true ∧
    goes (exec (.cqsc 5 6) (restoring .quiesced 0 0)) ((restoring .quiesced 0 0).takeTrap 0x01 0x7E00000000000400 none) = true ∧
    goes (exec (.cqsc 5 0) (oneHem sup .run)) ((oneHem sup .run).takeTrap 0x12 6 none) = true ∧
    ends (exec (.cqsc 5 0) (oneHem sup .quiesced)) (fun t => decide ((t.partById 1).map (·.stop) = some .quiesced) && ((t.partById 1).bind (·.cqsc)).isSome && t.me.pending.length == 1) = true ∧
    st (restoring .run 0 0) 3 = true ∧ st (restoring .empty 1 0) 1 = true ∧ st (restoring .saved 0 1) 2 = true ∧ st (restoring .saved 0 0) 0 = true := by
  decide +kernel

/-- A handler slot of partition 1 with values in x1, x2 and x3. -/
def handler (x1 x2 x3 : Word) : State :=
  withX ({ hand with parts := [(1, whole)] }.modHandler 0 0 fun h => { h with part := 1 }) [(1, x1), (2, x2), (3, x3)]

theorem witness_HandlerInstructions_messages :
    let bad (s : State) (i : Instr) (e : Word) := goes (exec i s) (s.takeTrap 0x08 e none)
    let eight := (handler 0x401040000000 5 0).modHandler 0 0 fun h => { h with awaiting := List.range 8 }
    bad (handler 0 0 0) (.hsend 5 1 2) 1 = true ∧ bad (handler 0xC00000000000 0 0) (.hsend 5 1 2) 1 = true ∧
    bad (handler 0x490000000000 0 0) (.hsend 5 1 2) 2 = true ∧ bad (handler 0x420000000000 0 0) (.hsend 5 1 31) 2 = true ∧
    bad (handler 0xB400000000000 0 0) (.hsend 5 1 2) 2 = true ∧
    bad (handler 0x404032000000 0 0) (.hsend 5 1 2) 3 = true ∧
    ends (exec (.hsend 5 1 2) eight) (fun t => t.me.park == .qfull) = true ∧
    ends (exec (.hsend 5 1 2) (handler 0x414040000000 5 0)) (fun t => decide (t.net.map (fun f => (f.lane, f.word 0)) = [(1, 5)])) = true ∧
    ends (exec .hend (handler 0 0 0)) (fun t => ((t.pp 0).handler 0).thread.tstate == .free) = true := by decide +kernel

theorem witness_HandlerInstructions_blocks :
    let bad (s : State) (i : Instr) (e : Word) := goes (exec i s) (s.takeTrap 0x08 e none)
    let h := handler 0x40 0x80 9
    let locked (l : List Nat) := h.modHandler 0 0 fun h => { h with locks := l }
    let req := newFlit (.core 0 0) (.pp 0) 0 1 0 (.msg ⟨0, 0, [0x40], none⟩) []
    let asked := h.modHandler 0 0 fun h => { h with req := some req, block := 0x40 }
    bad (handler 0x41 0 0) (.dld 5 1 0) 4 = true ∧ bad (handler 0x1000 0 0) (.dst 5 1 0) 4 = true ∧ bad h (.dld 5 1 4) 5 = true ∧
    bad h (.dst 5 1 (-1)) 5 = true ∧ bad (locked [0x80]) (.dld 5 1 0) 6 = true ∧
    ends (exec (.dld 5 1 3) (h.setEntry 0x40 { DirEntry.reset with locked := true })) (fun t => t.me.park == .tagwait) = true ∧
    ends (exec (.dld 5 1 3) h) (fun t => (t.entry 0x40).locked && decide (t.handler.locks = [0x40])) = true ∧
    ends (exec (.dst 3 1 1) (locked [0x40])) (fun t => (t.entry 0x40).sharers == 9) = true ∧ ends (exec (.dld 5 1 1) (locked [0x40])) (fun t => t.x 5 == 0) = true ∧
    ends (exec (.bxf 5 1 2) ({ h with mem := h.mem.setWords 0x40 [7] })) (fun t => t.mem.word 0x80 == 7 && t.x 5 == 0) = true ∧
    bad (handler 0x400000000000 0 0) (.grant 3 1 2) 8 = true ∧
    ends (exec (.grant 3 1 2) (handler 0x800000000000 0 9)) (fun t => decide (t.net.map (fun f => (f.lane, f.word 0)) = [(2, 9)])) = true ∧
    bad (handler 40 0 0) (.rgn 5 1) 9 = true ∧ ends (exec (.rgn 5 1) (handler 7 0 0)) (fun t => t.x 5 == 0) = true ∧
    ends (exec .hend asked) (fun t => decide (t.net.map (fun f => f.dst) = [.core 0 0])) = true ∧ ends (exec .hdefer asked) (fun t => decide (t.net = [req] ∨ (t.deferred.at 0x40 []).length = 1)) = true := by decide +kernel

/-! ## The step, decoding -/

/-- An instruction of each kind of chain that the next step runs, an annulled one, one that does not decode. -/
theorem witness_StepRunsDecoded :
    let s := State.reset.withFetchWord 16 0x0567
    let r := (s.aim false 0 0).took false 0 0 false
    (s.issuer.map fun i => (i.1, i.2.1, i.2.2.1)) = some (false, 0, 0) ∧
    (match fetchChain 5 r r.cur.pc with | .ok (l, _) => decide (l = [0x0567]) | _ => false) = true ∧
    (r.stopsBefore r (.add 5 6 7)) = false ∧
    ends (step s) (fun t => (t.core 0).threads.any fun e => e.2.pc == 2 && e.2.tstate == .ready) = true ∧
    ends (step (s.modCoreThread 0 0 fun h => { h with annul := 1 })) (fun t => (t.coreThread 0 0).annul == 0 && (t.coreThread 0 0).pc == 2) = true ∧
    ends (step (s.modCore 0 fun k => { k with cache := [(0, probeBlock [(0, 0x0C), (1, 0xF8)])] })) (fun t => (t.coreThread 0 0).regs.ecause == 0x01) = true ∧
    ends (step (s.modCoreThread 0 0 fun h => { h with pc := 2 ^ 56 })) (fun t => (t.coreThread 0 0).regs.ecause == 0x05) = true := by decide +kernel

theorem witness_FetchedBytes :
    let s := ((State.reset.withFetchWord 32 0x0567F480).aim false 0 0).took false 0 0 false
    let u := s.modMyCore fun k => { k with tlb := [⟨0, 4096, 0xF, [], 1⟩] }
    (match fetchHalf s 0 0 with | .ok (h, _) => h == 0xF480 | _ => false) = true ∧
    (match fetchHalf s 2 2, fetchChain 5 s 0 with | .ok (h, _), .ok (l, _) => h == 0x567 && decide (l = [0xF480, 0x567]) | _, _ => false) = true ∧
    (match s.translate 0 .u .fetch 0 with | (.ok pa pte, f) => pa == 0 && f.performs .fetch 2 (.phys pa pte) | _ => false) = true ∧
    (match u.translate 0 .u .fetch 0 with | (.ok _ pte, _) => pteProt pte == 0 | _ => false) = true ∧
    (match fetchHalf u 0 0 with | .error (.wait .asks _) => true | _ => false) = true ∧
    (match fetchHalf (asked u 0 0 0 (.ready 0x10567)) 0 0 with | .ok (h, _) => h == 0x567 | _ => false) = true ∧
    (match fetchHalf hand 0x40 0x40 with | .ok (h, _) => h == 0 | _ => false) = true ∧ windowOf (2 ^ 56) = .none ∧
    State.reset.agenda = [] ∧ State.reset.autoEvent = none ∧ State.reset.nextIssue = none := by decide +kernel

theorem witness_DecodeEncode :
    Instr.wf (.ld 119 64 (-2048) ⟨.acquire, .system, .stream⟩) = true ∧ Instr.wf (.hsend 5 1 2) = true ∧
    decode false (encode (.ld 119 64 (-2048) ⟨.acquire, .system, .stream⟩) ++ [7]) = .ok (.ld 119 64 (-2048) ⟨.acquire, .system, .stream⟩) 4 := by
  decide +kernel

theorem witness_MemoryCanonical :
    let s := { State.reset.withFetchWord 16 0x0567 with mem := [(0, 0x67), (1, 5), (9, 255)] }
    s.mem.wf = true ∧ ends (step s) (fun t => t.mem.wf) = true := by decide +kernel

/-! ## Events of the device: a state for each clause, and what the event leaves of it -/

/-- A packet that has come to where it goes, and is in a router's buffer there. -/
def arrivedAt (f : Flit) : Flit := { f with x := f.dst.xy.1, y := f.dst.xy.2, entered := true }

/-- A thread of slot 0 of core 0, at the time t. -/
def thread0 (t : Nat) (h : Thread) : State := { oneHem base .run with time := t, cores := [(0, { Core.reset with threads := [(0, h)] })] }

theorem witness_ThreadEvents_results :
    let late (d : LateDest) (v : LateVal) : Thread := { running with tstate := .waiting, wait := .regs 4, pending := [⟨4, 0, d, 0x40, 2, true, v⟩] }
    let at0 (e : State) := e.coreThread 0 0
    let push : Thread := { running with pending := [⟨4, 0, .q1, 0, 8, false, .ready 0x8000⟩] }
    ends (exec (.resultArrival 0 0) (thread0 0 (late (.x 5) (.ready 0x18001)))) (fun t => t.xOf false 0 0 5 == 0xFFFFFFFFFFFF8001 && (at0 t).tstate == .ready) = true ∧
    (thread0 0 push).headerFault 0x8000 = some 0x201 ∧
    ends (exec (.resultArrival 0 0) (thread0 0 push)) (fun t => (at0 t).lateTrap == some (0x0D, 0x1201) && (at0 t).queues.q1.isEmpty) = true ∧
    ends (exec (.poisonedResult 0 0) (thread0 0 (late (.x 5) (.poisoned 0x40)))) (fun t => (at0 t).regs.ecause == 0x0A && (at0 t).regs.eval == 0x40) = true ∧
    ends (exec (.poisonedResult 0 0) (thread0 0 (late .q1 (.failed 9 0x48)))) (fun t => (at0 t).regs.ecause == 9 && (at0 t).regs.eval == 0x48) = true := by
  decide +kernel

theorem witness_ThreadEvents_wakes :
    let at0 (e : State) := e.coreThread 0 0
    let parked (w : WaitFor) : Thread := { running with tstate := .parked, wait := w }
    let wakes (s : State) := ends (exec (.threadWake 0 0) s) fun t => (at0 t).tstate == .ready && (at0 t).wait == .nothing
    let core (f : Core → Core) (h : Thread) : State := { thread0 0 h with cores := [(0, f { Core.reset with threads := [(0, h)] })] }
    let ask (v : LateVal) : Thread := { parked .asks with asks := [⟨9, 1, 0, 0, v⟩] }
    let cached (g : Tag) := core (fun k => { k with cache := [(0x40000, blockWith g 0)] }) (parked (.block 0x40000 0x10000))
    ends (exec (.threadWake 0 0) (thread0 0 { parked (.barrier 1) with wakePending := true })) (fun t => (at0 t).tstate == .ready && !(at0 t).wakePending) = true ∧
    ends (exec (.threadWake 0 0) (thread0 0 { parked (.page 0) with park := .pagefault, wakePending := true, wakeTrap := some (9, 5) })) (fun t =>
      (at0 t).regs.ecause == 9 && (at0 t).regs.eval == 5) = true ∧
    [WaitFor.regs 3, .results, .block 0x40000 0, .bytes 2, .matrix, .asks, .line 0x40000, .release].all (fun w => wakes (thread0 0 (parked w))) = true ∧
    wakes (core (fun k => { k with q7 := [⟨false, [1]⟩] }) (parked .q7)) = true ∧
    wakes (core (fun k => { k with barriers := [(1, 0x1000000000000)] }) (parked (.barrier 1))) = true ∧
    wakes (thread0 0 (ask (.ready 1))) = true ∧ wakes (thread0 0 (ask .waiting)) = false ∧ wakes (cached .ro) = true ∧
    goes (exec (.threadWake 0 0) (cached .busy)) (cached .busy) = true ∧
    [WaitFor.zeroAt 0 0x40 true 0, .differsAt 0 0x40 0 true 0].all (fun w => ends (exec (.joinReread 0 0) (thread0 1024 (parked w))) fun t =>
      decide (t.net.map (fun f => (f.type, f.word 0)) = [(0, 0x40)]) && decide ((at0 t).asks.map (·.kind) = [1]) && (at0 t).tstate == .parked) = true ∧
    ends (exec (.joinReread 0 0) (thread0 1023 (parked (.zeroAt 0 0x40 true 0)))) (fun t => t.net.isEmpty) = true := by decide +kernel

/-- A page table at 0: levels 4 and 3 lead to the tables at 0x1000 and 0x2000, whose first entry is a leaf of 2^30 bytes. -/
theorem witness_ThreadEvents_walk :
    let s : State := { parted with cores := [(0, { Core.reset with threads := [(0, running)] })] }
    let m : State := { s with mem := ((Memory.setWords [] 0 [0x100001]).setWords 0x1000 [0x200001]).setWords 0x2000 [0x10F] }
    s.walk whole 0 0x100 = .absent 4 0 ∧ m.walk whole 0 0x100 = .leaf 0x10F 0x40000000 [0x2000, 0x1000, 0] ∧ m.lineStored [0x2000, 0x1000, 0] = none ∧
    ends (exec (.translationWalk 0 0) s) (fun t => (t.coreThread 0 0).park == .pagefault) = true ∧
    ends (exec (.translationWalk 0 0) m) (fun t => (t.core 0).tlb == [⟨0, 0x40000000, 0x10F, [0x2000, 0x1000, 0], 1⟩] && (t.hem 0).tlb.length == 1) = true := by
  decide +kernel

/-- Core 0 of a partition of hem 0 that runs. -/
def core0 (f : Core → Core) : State := { oneHem State.reset .run with time := 100, cores := [(0, f Core.reset)] }

theorem witness_CoreEvents_errors :
    let held (d : Nat) := core0 fun k => { k with cache := [(0x40000, { blockWith .rw 5 with dirty := d })] }
    ends (exec (.uncorrectableError 0 0 0x1234) State.reset) (fun t => t.poisoned 0x1234 && t.dev.replace) = true ∧
    ends (exec (.uncorrectableError 1 0 0x40008) (held 1)) (fun t => t.poisoned 0x40000 && ((t.core 0).block 0x40000).tag == .i) = true ∧
    ends (exec (.uncorrectableError 1 0 0x40008) (held 0)) (fun t => !t.poisoned 0x40000 && ((t.core 0).block 0x40000).tag == .i) = true ∧
    ends (exec (.uncorrectableError 3 0 0x40) State.reset) (fun t => (t.core 0).sramPoison.at 1 false) = true ∧
    ends (exec (.uncorrectableError 4 1023 0x40FFFF) State.reset) (fun t => (t.core 1023).sramPoison.at 0x103FF false) = true ∧
    ends (exec (.uncorrectableError 5 0 7) State.reset) (fun t => (t.core 0).accPoison.at 7 false) = true ∧
    ends (exec (.q7RecordArrival 0) (core0 fun m => { m with q7waiting := [⟨true, [1, 2]⟩], q7 := List.replicate 15 ⟨true, [0]⟩ })) (fun t =>
      (t.core 0).q7.length == 16) = true ∧
    ends (exec (.q7RecordArrival 0) (core0 fun m => { m with q7waiting := [⟨false, [1, 2]⟩], q7 := List.replicate 47 ⟨false, [0]⟩ })) (fun t =>
      (t.core 0).q7.length == 48) = true := by decide +kernel

/-- Core 0 with an operation under way, a result to come and a few words in its accumulators and tiles. -/
def underway (k : MatKind) : State := core0 fun m => { m with
  array := { m.array with running := some (0, ⟨k, 0, 0, 0, none⟩, 100) }
  acc := [(5, 7)]
  threads := [(0, { running with pending := [⟨0, 0, .x 5, 0, 8, false, .waiting⟩] })]
  sram := (m.sram.setWords 0x200008 [9]).setWords 0x203040 [0x11] }
theorem witness_CoreEvents_grant :
    let op (k : MatKind) : MatOp := ⟨k, 0, 0, 0, none⟩
    let ttrn8 := core0 fun m => { m with array := { m.array with queues := [(0, [op (.ttrn 0 1)])] } }
    [(op (.mzero 0), 116), (op (.mst 3 0 0), 196), (op (.mst 0 0 0), 164), (op (.ttrn 0 1), 132), (op (.mma 0 1 2 false false), 164), (op (.mld 0 0), 164)].all
      (fun e : MatOp × Nat => ends (exec (.arrayGrant 0) (core0 fun m => { m with array := { m.array with queues := [(0, [e.1])] } })) fun t =>
        decide ((t.core 0).array.running = some (0, e.1, e.2))) = true ∧
    goes (exec (.arrayGrant 0) ttrn8) (ttrn8.modCore 0 fun k => { k with array := ⟨k.array.queues.put 0 [], some (0, op (.ttrn 0 1), 132), 0⟩ }) = true := by
  decide +kernel

theorem witness_CoreEvents_zeros : ends (exec (.matrixRetire 0) (underway (.mzero 0))) (fun t =>
    (t.core 0).accWord 0 0 5 == 0 && (t.core 0).array.running.isNone) = true := by decide +kernel

theorem witness_CoreEvents_loads : ends (exec (.matrixRetire 0) (underway (.mld 0 0))) (fun t =>
    (t.core 0).accWord 0 0 2 == 9 && (t.core 0).array.running.isNone) = true := by decide +kernel

theorem witness_CoreEvents_multiplies :
    let s := underway (.mma 0 1 2 true false)
    ((s.core 0).array.running.map (·.1) == some 0 && (s.core 0).sramPoison.isEmpty && (s.core 0).accPoison.isEmpty) = true ∧
    ends (exec (.matrixRetire 0) s) (fun t => (t.core 0).array.running.isNone) = true := by decide +kernel

theorem witness_CoreEvents_stores :
    ((underway (.mst 0 0 4)).core 0).sram.wf = true ∧ ((underway (.mst 0 0 4)).core 0).accPoison.at 0 false = false ∧
    ends (exec (.matrixRetire 0) (underway (.mst 0 0 4))) (fun t => (t.core 0).array.running.isNone &&
      decide ((t.coreThread 0 0).pending.map Late.val = [.ready 0])) = true := by decide +kernel

theorem witness_CoreEvents_transposes : ((underway (.ttrn 5 3)).core 0).sram.wf = true ∧
    ends (exec (.matrixRetire 0) (underway (.ttrn 5 3))) (fun t => (t.core 0).array.running.isNone) = true := by decide +kernel

/-- A partition of hem 0 with a launch; core 0 in a state, core 1 reset. -/
def launched (n : List Flit) (f : Core → Core) : State :=
  let p := Partition.formed 1 0 0 0
  { State.reset with
    time := 1000
    parts := [(1, { p with
      stop := .run
      launch := some ⟨32, 8, 0, 0, 5, 0, 0, 0, 0, none, false, false⟩ })]
    cores := [(0, f Core.reset), (1, Core.reset)]
    net := n }
/-- A packet for partition 1; a message for core 0 that has come. -/
def packet : Packet := ⟨0x100000001, 0x500, [1, 2, 3, 4, 5, 6, 7, 8, 9, 10]⟩
def came (b : Body) : Flit := arrivedAt (newFlit (.core 1 15) (.core 0 15) 0 1 0 b [])

theorem witness_TaskEvents :
    let work (f : Work → Work) := launched [] fun k => { k with work := f k.work }
    let steal := launched [came .stealReq]
    let busy (k : Core) : Core := { k with threads := (List.range 15).map fun t => (t, running) }
    ends (exec (.taskDispatch 0) (work fun w => { w with deque := [packet] })) (fun t => (t.core 0).work.deque.isEmpty && t.xOf false 0 0 3 == 1 &&
      t.xOf false 0 0 12 == 10 && (t.coreThread 0 0).pc == 0x500 && (t.coreThread 0 0).slim == 32 && (t.coreThread 0 0).tstate == .ready &&
      (t.core 0).work.dispatchedAt == some 1000) = true ∧
    ends (exec (.taskDispatch 0) (work fun w => { w with deque := [packet], dispatchedAt := some 1000 })) (fun t => (t.core 0).work.deque.length == 1) = true ∧
    ends (exec (.taskDispatch 0) (launched [] fun k => { k with
        threads := [(3, { running with tstate := .free, saved := some ⟨.ready, 0, false, .u⟩ })], work := { k.work with restored := [3] } })) (fun t =>
      (t.coreThread 0 3).tstate == .ready && (t.coreThread 0 3).saved.isNone) = true ∧
    ends (exec (.stealSweep 0) (work id)) (fun t => (t.core 0).work.steal.active && decide (t.net.map (fun f => f.body) = [.stealReq])) = true ∧
    (steal fun k => { busy k with work := { k.work with deque := [packet] } }).ownerTakes 0 = false ∧
    ends (exec (.stealRequest 0) (steal fun k => { busy k with work := { k.work with deque := [packet] } })) (fun t =>
      decide (t.net.map (fun f => f.body) = [.stealRep (some packet)])) = true ∧
    (steal fun k => { k with work := { k.work with deque := [packet] } }).ownerTakes 0 = true ∧
    [steal id, steal fun k => { k with work := { k.work with deque := [packet] } }].all (fun s => ends (exec (.stealRequest 0) s) fun t =>
      decide (t.net.map (fun f => f.body) = [.stealRep none])) = true ∧
    ends (exec (.stealReply 0) (launched [came (.stealRep (some packet))] id)) (fun t => (t.core 0).work.received == 1 && t.net.isEmpty) = true ∧
    ends (exec (.stealReply 0) (launched [came (.stealRep none)] id)) (fun t => !(t.core 0).work.steal.active && t.net.isEmpty) = true ∧
    ends (exec (.shipPacketArrival 0) (launched [came (.ship packet)] id)) (fun t => (t.core 0).work.class4.held == 1) = true ∧
    ends (exec (.decrementMessage 0) (launched [came (.dec 0x400 2)] fun k => { k with sram := k.sram.setWords 0x400 [5, 1] })) (fun t =>
      (t.core 0).sram.word 0x400 == 3 && (t.core 0).work.received == 1) = true ∧
    ends (exec (.decrementMessage 0) (launched [came (.dec 0x400 2)] fun k => { k with sram := k.sram.setWords 0x400 ([2, 1] ++ packet.words) })) (fun t =>
      (t.core 0).sram.word 0x408 == 2 && (t.core 0).work.class3.held == 1) = true := by decide +kernel

theorem witness_MessageEvents :
    let hem (f : Hem → Hem) : State := { launched [] id with hems := [(0, f Hem.reset)] }
    let msg (v : Nat) (h : Word) := launched [arrivedAt (newFlit (.core 1 2) (.core v 15) 0 1 0 (.message [h, 6, 7] false) [])] id
    let from0 (h : Word) := launched [] fun k => { k with threads := [(2, { running with queues := { Queues.reset with q1 := [h, 6, 7, 0x55] } })] }
    ends (exec (.messageArrival 0 2) (from0 0x200013)) (fun t => (t.coreThread 0 2).queues.q1 == [0x55] && (t.core 0).work.sent == 1 &&
      decide (t.net.map (fun f => (f.dst, f.body)) = [(.core 1 15, .message [0x200013, 6, 7] false)])) = true ∧
    ends (exec (.messageArrival 0 2) (from0 0x200003)) (fun t => (t.core 0).work.sent == 0 && t.net.length == 1) = true ∧
    ends (exec (.messageArrival 0 16) (msg 0 0x200003)) (fun t => decide ((t.coreThread 0 3).queues.q0 = [0x200003, 6, 7]) && (t.core 0).work.received == 1) = true ∧
    ends (exec (.messageArrival 1 16) (msg 1 0x204010)) (fun t => decide ((t.core 1).q2 = [⟨0, 3, none, false⟩]) && (t.core 1).work.received == 0) = true ∧
    ends (exec (.q5RecordPush 0 4) (hem fun h => { h with q5waiting := [(4, [1, 2], 3, 0)] })) (fun t => (t.core 4).q5 == [[1, 2]] && ((t.hem 0).output 3 0).completed) = true ∧
    ends (exec (.q5RecordPush 0 4) (hem fun h => { h with q5waiting := [(4, [1, 2, 0xFD00000000000400], 16, 0)] })) (fun t => (t.core 4).q5 == [[1, 2]] &&
      decide (t.net.map (fun f => f.body) = [.dec 0x400 1])) = true ∧
    ends (exec (.q6RecordPush 0 4) (hem fun h => { h with q6waiting := [(4, [1, 2])] })) (fun t => (t.core 4).q6 == [[1, 2]]) = true ∧
    ends (exec (.q2cfg 0 0x47F000) (launched [] fun k => { k with regs := { k.regs with q2cfg := 5 }, q2next := 9 })) (fun t =>
      (t.core 0).regs.q2cfg == 0x47F000 && (t.core 0).q2next == 0) = true ∧
    ends (exec (.q2cfg 0 0x47F000) (launched [] fun k => { k with regs := { k.regs with q2cfg := 5 }, q2 := [⟨0, 1, none, false⟩] })) (fun t =>
      (t.core 0).regs.q2cfg == 5) = true := by decide +kernel

theorem witness_StationEvents :
    let hem (f : Hem → Hem) : State := { launched [] id with time := 960, hems := [(0, f Hem.reset)] }
    let inj : Injector := ⟨true, false, 0, 0x0100000004000000, 9, 1, 0, 2, 77, 0⟩
    let tile (fam : Nat) : Tile := ⟨0x0100000004000000, 960, fam, 3, 1, 0, [], []⟩
    let job (st : JobState) (kind ctl : Nat) : Job := { base.newJob 0 0 kind (ctl * 2 ^ 128) [8, 8, 0] with state := st }
    let onLink (fam k due : Nat) := hem fun h => { h with ring := { h.ring with links := [(k, { tile fam with due })] } }
    let enter (time : Nat) (stopped : Bool) (links departing : Map (List Tile)) : State := { hem fun h => { h with stopped, ring := { h.ring with
      injectors := [(injKey 0 5 0, inj)], links := links.filterMap fun e => e.2.head?.map fun t => (e.1, t), departing } } with time }
    let entered (t : State) : Bool := ((t.hem 0).ring.inj (injKey 0 5 0)).entered
    ends (exec (.tileEntry 0 0 0) (hem fun h => { h with ring := { h.ring with injectors := [(injKey 0 0 0, inj)] } })) (fun t =>
      (((t.hem 0).ring.links.look 0).map fun x => (x.fam, x.inj, x.due)) == some (0, 0, 972)) = true ∧
    ends (exec (.tileEntry 0 5 0) (enter 960 false [] [])) entered = true ∧
    [enter 961 false [] [], enter 960 false [(4, [tile 0])] [], enter 960 false [(5, [tile 0])] [], enter 960 false [] [(5, [tile 0])]].all (fun s =>
      goes (exec (.tileEntry 0 5 0) s) s) = true ∧
    ends (exec (.tileEntry 0 5 0) { enter 961 true [] [] with cores := [(0, { Core.reset with threads := [(0, { running with
      pending := [⟨9, 0, .x 7, 0, 8, false, .waiting⟩] })] })] }) (fun t => !entered t) = true ∧
    ends (exec (.tileArrival 0 5 0) (onLink 0 4 960)) (fun t => (((t.hem 0).ring.links.look 5).map (·.due)) == some 972 &&
      ((t.hem 0).ring.links.look 4).isNone) = true ∧
    ends (exec (.tileArrival 0 5 0) (onLink 0 4 961)) (fun t => ((t.hem 0).ring.links.look 4).isSome) = true ∧
    ends (exec (.tileArrival 0 5 0) { onLink 0 4 960 with time := 961 }) (fun t => (((t.hem 0).ring.links.look 5).map (·.due)) == some 984) = true ∧
    ends (exec (.tileArrival 0 15 1) (onLink 1 16 960)) (fun t => ((t.hem 0).ring.links.look 31).isSome && ((t.hem 0).ring.links.look 16).isNone) = true ∧
    ends (exec (.jobStart 0) (hem fun h => { h with jobs := [(3, job .queued 0 0x31)] })) (fun t => (t.hem 0).job 3 == some (job .running 0 0x31)) = true ∧
    ends (exec (.elementDelivery 0 3) (hem fun h => { h with jobs := [(3, { job .running 5 0x31 with buf := [9] })] })) (fun t =>
      (t.coreThread 0 0).queues.q4 == [9] && ((t.hem 0).job 3).map Job.pos == some 1) = true ∧
    ends (exec (.jobres 0 0x10300) (hem fun h => { h with jobs := [(3, job .paused 0 0x31)] })) (fun t => ((t.hem 0).job 3).map Job.state == some .failed) = true ∧
    ends (exec (.jobres 0 0x300) (hem fun h => { h with jobs := [(3, job .paused 0 0x31)] })) (fun t => ((t.hem 0).job 3).map Job.state == some .running) = true := by
  decide +kernel

/-- The dispatch rows of protocols 1 to 6, every message at pc 1. -/
def vendor : PP := { PP.reset with table := (List.range 6).flatMap fun p => (List.range 11).map fun t => (32 * (p + 1) + 8 + t, 1) }
/-- A request of core 0 that has reached the home of block 0x40000, with its words; region 0 holds the block, of a CTL. -/
def request (type : Nat) (w : List Word) (l : Option Line) : Flit :=
  arrivedAt (newFlit (.core 0 0) (.pp (homeOf 0x40000)) 0 1 5 (.msg ⟨0, type, w, l⟩) [])
def homes (ctl : Word) (n : List Flit) : State :=
  { launched n id with
    mem := (Memory.setWords [] 0 [0x40000, 0x4FFFF, ctl]).setWords 0x40008 [0x77], pps := [(0, vendor)] }.modPart 1 fun p =>
      { p with regs := { p.regs with pmem := [(0, 0), (1, 0xFFFFFFFFFFFF)] } }
/-- Types and first words of the messages on the mesh after an event. -/
def sends (o : Host.Outcome State Fault Refusal) (l : List (Nat × Word)) : Bool := ends o fun t => decide (t.net.map (fun g => (g.type, g.word 0)) = l)

theorem witness_MeshEvents_packets :
    let f (x : Nat) : Flit := { request 3 [0x40008, 0x100, 5, 0, 0] none with x := x, y := 3 }
    let g : Flit := { f 9 with src := .core 1 2, rseq := 6, got := 8, gotLast := 8 }
    let r : Flit := { came (.msg ⟨2, 7, [10, 0x40008], none⟩) with merged := [⟨.core 0 1, 8, 5⟩, ⟨.core 1 2, 9, 6⟩] }
    let host := arrivedAt (newFlit (.pp 48) (.port 0) 0 1 5 (msg 2 7 [5]) [])
    let placed (entered : Bool) (c t radius : Nat) : Flit := { newFlit (.core c 3) (.core t 15) 0 1 0 (.placed packet radius) [] with entered }
    let full (k : Core) : Core := { k with threads := (List.range 15).map fun t => (t, running) }
    (f 9).arrived = false ∧ blockedBy [] (f 9) = false ∧ mayCombine (f 9) g = true ∧ firstOfWay [f 9] (f 9) g = true ∧
    ends (exec (.routerCombine 0 1) (launched [f 9, g] id)) (fun t => decide (t.net.map (fun g => (g.word 2, g.merged.length)) = [(10, 2)])) = true ∧
    ends (exec (.combinedReplySplit 0) (launched [r] id)) (fun t => decide (t.net.map (fun g => (g.dst, g.word 0)) = [(.core 0 1, 10), (.core 1 2, 15)])) = true ∧
    ((launched [host] id).arrival 0).isSome = true ∧
    ends (exec (.placedPacketHop 0) (launched [placed false 0 0 0] id)) (fun t => (t.coreThread 0 0).pc == 0x500 && t.net.isEmpty) = true ∧
    ends (exec (.placedPacketHop 0) (launched [placed true 0 1 1] id)) (fun t => (t.coreThread 0 0).pc == 0x500 && (t.core 0).work.received == 1) = true ∧
    (launched [placed true 0 1 0] id).takesPlaced 1 0 1 0 = none ∧
    ends (exec (.placedPacketHop 0) (launched [placed true 0 0 0] full)) (fun t => (t.core 0).work.class4.held == 1 && (t.core 0).work.received == 1) = true ∧
    ends (exec (.placedPacketHop 0) (launched [{ placed false 0 0 0 with body := .placed { packet with hdr := 7 } 0 }] id)) (fun t =>
      (t.coreThread 0 0).tstate == .free && t.net.isEmpty) = true := by decide +kernel

/-- A packet that has not left its sender, one on its way, one at its port's router, and the device with nothing else on the mesh; the
next buffer and the link's channel have room, however deep they are. -/
theorem witness_MeshEvents_room :
    let f (e : Bool) : Flit := { request 0 [0x40008] none with x := 9, y := 3, entered := e }
    let s (e : Bool) : State := { State.reset with net := [f e] }
    (f true).arrived = false ∧ (f false).arrived = false ∧ blockedBy ((s true).net.take 0) (f true) = false ∧
    (s false).hasSlot (f false) = true ∧ (s true).hasSlot (f true) = true ∧ State.reset.links.used.at 0 0 < linkDepth := by
  refine ⟨by decide +kernel, by decide +kernel, by decide +kernel, ?_, ?_, ?_⟩
  · unfold State.hasSlot
    rw [show List.countP _ _ = 0 from by decide +kernel]
    exact decide_eq_true (Nat.succ_pos _)
  · unfold State.hasSlot
    rw [show List.countP _ _ = 0 from by decide +kernel]
    exact decide_eq_true (Nat.succ_pos _)
  · exact Nat.succ_pos _

theorem witness_MeshEvents_walk :
    let walk : Flit := arrivedAt (newFlit (.pp 0) (.hem 0) 0 1 (2 ^ 62 + 2) (.msg ⟨2, 2, [0x40000], none⟩) [])
    let store := request 1 [0x40008, 0, 7, 2, 0x1234] none
    let cached (k : Core) : Core := { k with tlb := [⟨0, 4096, 0xF, [0x40008], 1⟩] }
    ends (exec (.walkInvalidation 0) (launched [walk] cached)) (fun t => (t.core 0).tlb.isEmpty && decide (t.net.map Flit.type = [6])) = true ∧
    (let s := launched [{ walk with body := .drain 0x40000 [5] }] id
     s.unperformed 5 = false ∧ ends (exec (.walkInvalidation 0) s) (fun t => decide (t.net.map Flit.type = [6])) = true) ∧
    (let s := launched [{ walk with body := .drain 0x40000 [5] }, request 1 [0x50008, 0, 0, 2, 1] none] id
     s.unperformed 5 = true ∧ goes (exec (.walkInvalidation 0) s) s = true) ∧
    ends (exec (.walkStorePerformed 0 0) { homes 0 [] with walkStores := [(0x40000, ⟨store, 0⟩)] }) (fun t => t.mem.word 0x40008 == 0x1234 && t.walkStores.isEmpty &&
      decide (t.net.map (fun g => (g.type, g.word 0, g.word 1)) = [(6, 0x40008, 7)])) = true := by decide +kernel

theorem witness_PlainRequests :
    let line : Line := 0x99
    let s (t : Nat) (w : List Word) (l : Option Line) := homes 0 [request t w l]
    let sick (r : State) : State := { r with poison := [(0x40000 / 64, 2)] }
    let walk := homes 0 [request 1 [0x40008, 0, 7, 2, 0x1234] none]
    let p : Partition := ((walk.partById 1).getD (Partition.formed 0 0 0 0))
    ((s 0 [0x40008, 0, 0, 8] none).served 0 0 p (request 0 [0x40008, 0, 0, 8] none) 0) = true ∧
    sends (exec (.readMiss 0) (s 0 [0x40008, 0, 0, 8] none)) [(7, 0x77)] = true ∧
    ends (exec (.writeMiss 0) (s 1 [0x40008, 0, 0, 2, 0x1234] none)) (fun t => t.mem.word 0x40008 == 0x1234) = true ∧
    ends (exec (.farAmo 0) (s 3 [0x40008, 0x100, 5, 0, 0] none)) (fun t => t.mem.word 0x40008 == 0x7C) = true ∧
    (s 3 [0x38, 0x980, 1, 0, 0, 4] none).commandOf p (request 3 [0x38, 0x980, 1, 0, 0, 4] none) = true ∧
    (s 3 [0x38, 0x980, 1, 0, 0, 0] none).commandOf p (request 3 [0x38, 0x980, 1, 0, 0, 0] none) = false ∧
    sends (exec (.farAmo 0) (s 3 [0x38, 0x980, 1, 0, 0, 4] none)) [(7, 0), (9, 0)] = true ∧
    sends (exec (.engineRead 0) (s 7 [0x40000] none)) [(7, 0x40000)] = true ∧
    ends (exec (.engineWrite 0) (s 8 [0x40000, 1] (some line))) (fun t => t.mem.word 0x40000 == 0x99) = true ∧
    ends (exec (.engineWrite 0) (sick (s 8 [0x40000, BitVec.allOnes 64] (some line)))) (fun t => t.mem.word 0x40000 == 0x99 && !t.poisoned 0x40000) = true ∧
    [exec (.readMiss 0) (sick (s 0 [0x40008, 0, 0, 8] none)), exec (.writeMiss 0) (sick (s 1 [0x40008, 0, 0, 2, 1] none)),
      exec (.farAmo 0) (sick (s 3 [0x40008, 0x100, 5, 0, 0] none)), exec (.engineRead 0) (sick (s 7 [0x40008] none)),
      exec (.engineWrite 0) (sick (s 8 [0x40008, 1] (some line)))].all (sends · [(5, 0x40008)]) = true ∧
    ends (exec (.writeMiss 0) { walk with walkSharers := [(0x40000, 1)] }) (fun t => t.mem == walk.mem && decide (t.net.map (·.dst) = [.hem 0]) &&
      (t.walkStores.look 0x40000).isSome) = true ∧
    ends (exec (.writeMiss 0) { walk with walkSharers := [(0x40000, 1)], walkStores := [(0x40000, ⟨request 1 [0x40000, 0, 7, 2, 1] none, 1⟩)] })
      (fun t => t.net.isEmpty && (t.deferred.at 0x40000 []).length == 1) = true := by decide +kernel

theorem witness_VendorRequests :
    let line : Line := 0x99
    let inv (t : Nat) (w : List Word) (l : Option Line) := homes 0x1001 [request t w l]
    let entry (w : Word) (s : State) := s.setEntry 0x40000 { DirEntry.reset with dword0 := w }
    let shared (s : State) := s.setEntry 0x40000 { DirEntry.reset with dword0 := 0x1000000000000, sharers := 1 }
    let read := inv 0 [0x40000, 0, 1] none
    let p : Partition := (read.partById 1).getD (Partition.formed 0 0 0 0)
    let custom (h : PP → PP) : State := { homes 0x1008 [request 0 [0x40000, 0, 8] none] with pps := [(0, h { vendor with table := vendor.table ++ [(257, 0x9000), (264, 0x700)] })] }
    read.serves 0 p (request 0 [0x40000, 0, 1] none) = true ∧ sends (exec (.readMiss 0) read) [(0, 0x40000)] = true ∧
    sends (exec (.readMiss 0) (entry 0x2000000000000 read)) [(3, 0x40000)] = true ∧
    sends (exec (.upgrade 0) (inv 2 [0x40000, 0, 1] none)) [(1, 0x40000)] = true ∧
    sends (exec (.upgrade 0) (shared (inv 2 [0x40000, 0, 1] none))) [(2, 0x40000)] = true ∧
    ends (exec (.farAmo 0) (inv 3 [0x40008, 0x100, 5, 0, 1] none)) (fun t => t.mem.word 0x40008 == 0x7C) = true ∧
    sends (exec (.engineRead 0) (inv 7 [0x40000, 0, 1] none)) [(7, 0x40000)] = true ∧
    ends (exec (.flush 0) (inv 4 [0x40000, 1, 1] (some line))) (fun t => t.mem.word 0x40000 == 0x99) = true ∧
    ends (exec (.evict 0) (inv 6 [0x40000, 1] (some line))) (fun t => t.mem.word 0x40000 == 0x99) = true ∧
    ends (exec (.engineWrite 0) (inv 8 [0x40000, 1, 1] (some line))) (fun t => t.mem.word 0x40000 == 0x99) = true ∧
    ends (exec (.readMiss 0) (read.setEntry 0x40000 { DirEntry.reset with locked := true })) (fun t => (t.deferred.at 0x40000 []).length == 1) = true ∧
    [0x2001, 0x3001].all (fun c => ends (exec (.readMiss 0) (homes c [request 0 [0x40000, 0, 1] none])) fun t => t.deferred.length == 1 && t.net.isEmpty) = true ∧
    sends (exec (.readMiss 0) (homes 1 [request 0 [0x40000, 0, 1] none])) [(5, 0x40000)] = true ∧
    sends (exec (.readMiss 0) (read.setEntry 0x40000 { DirEntry.reset with failed := true })) [(5, 0x40000)] = true ∧
    sends (exec (.readMiss 0) (custom fun k => { k with table := [] })) [(5, 0x40000)] = true ∧
    goes (exec (.readMiss 0) (custom fun k => { k with handlers := (List.range 48).map fun t => (t, Handler.reset) }))
      (custom fun k => { k with handlers := (List.range 48).map fun t => (t, Handler.reset) }) = true ∧
    ends (exec (.readMiss 0) (custom id)) (fun t => ((t.pp 0).handler 0).thread.pc == 0x700 && t.xOf true 0 0 3 == 0x9000 && t.xOf true 0 0 5 == 0x40000 &&
      (t.entry 0x40000).locked && t.net.isEmpty) = true := by decide +kernel

theorem witness_RegionEvents_commands :
    let cmd (op : Word) : Flit := arrivedAt { request 9 [0, op] none with dst := .pp 0 }
    let status (o : Host.Outcome State Fault Refusal) (n : Word) := ends o fun t => fld (t.mem.word 0x38) 15 8 == n.toNat && t.net.isEmpty
    let state (o : Host.Outcome State Fault Refusal) (n : Nat) := ends o fun t => fld (t.mem.word 0x10) 15 12 == n
    let reduce (b : Nat) (ctl : Word) (n : List Flit) : State := { homes 0 n with mem := Memory.setWords [] 0 [0x40000, 0x4FFFF, ctl, 0x80000, w64 b, 1] }
    status (exec (.rcmd 0) (homes 0x1001 [cmd 0])) 1 = true ∧ status (exec (.rcmd 0) (homes 0x1001 [cmd 4])) 4 = true ∧
    status (exec (.regionNone 1 0) (homes 0x1001 [cmd 0])) 1 = true ∧ status (exec (.regionBind 1 0) (homes 0x1001 [cmd 1])) 3 = true ∧
    status (exec (.regionBind 1 0) (homes 0x1 [cmd 1])) 1 = true ∧ status (exec (.regionBind 1 0) (homes 0 [cmd 1])) 2 = true ∧
    status (exec (.regionClose 1 0) (homes 0x0001 [cmd 2])) 3 = true ∧ state (exec (.regionClose 1 0) (homes 0x1001 [cmd 2])) 2 = true ∧
    status (exec (.regionClosed 1 0) (homes 0x2001 [])) 1 = true ∧ status (exec (.regionReopen 1 0) (homes 0x1001 [cmd 3])) 3 = true ∧
    status (exec (.regionReopen 1 0) (reduce 0x90000 0x201006 [cmd 3])) 1 = true ∧
    ends (exec (.reduceDone 1 0) (homes 0x101006 [])) (fun t => fld (t.mem.word 0x10) 23 20 == 2) = true := by decide +kernel

theorem witness_RegionEvents_homes :
    let close (k : Nat) : State := { homes 0 [request 5 [0x40000, 0, 6] none] with mem := Memory.setWords [] 0 [0x40000, 0x4FFFF, w64 (0x1006 + k * 2 ^ 42), 0, 0x80000] }
    let cast : Flit := { request 10 [0, 0, 1] none with rseq := 2 ^ 62 + 1, body := .msg ⟨1, 10, [0, 0, 1], none⟩ }
    let rcmd : Flit := { request 9 [0, 2] none with rseq := 2 ^ 62 }
    let busy (s : State) : State := { s with parts := [(1, { (s.partById 1).getD (Partition.formed 1 0 0 0) with regionBusy := [(0, 3), (256, 3)] })] }
    let own (s : State) : State := { s with parts := s.parts.map fun e => (e.1, { e.2 with regs := { e.2.regs with pmem := [(0, 0), (1, 0xFFFFFFFFFFFF)] } }) }
    let sum : State := { own (homes 0 [cast]) with mem := ((Memory.setWords [] 0 [0x40000, 0x4FFFF, 0x1006, 0, 0x80000]).setWords 0x40000 [1]).setWords 0x80000 [2] }
    let kill (h : Handler) (t : Nat) : State := { State.reset with time := t, pps := [(0, { PP.reset with handlers := [(1, h)] })] }
    (close 0).position ((close 0).partById 1 |>.getD (Partition.formed 0 0 0 0)) 0 0 = some 0 ∧
    sends (exec (.close 0) (close 1)) [(6, 0x40000)] = true ∧
    ends (exec (.close 0) (close 0)) (fun t => decide (t.net.map Flit.type = 6 :: List.replicate 16 10) && fld (t.mem.word 0x10) 23 20 == 1) = true ∧
    ends (exec (.rcmd 0) (busy (homes 0x2001 [rcmd]))) (fun t => decide ((t.partById 1).map (fun p => p.regionBusy.at 0 0) = some 2) && t.net.isEmpty) = true ∧
    ends (exec (.homecast 0) (homes 0x1001 [cast])) (fun t => decide (t.net.map Flit.type = [6])) = true ∧
    ends (exec (.homecast 0) (sum.setEntry 0x40000 { DirEntry.reset with dword0 := 0x60000000000000, pw0 := 1 })) (fun t => t.mem.word 0x40000 == 3 &&
      decide (t.net.map Flit.type = [6]) && (t.entry 0x40000).pw0 == 0) = true ∧
    ends (exec (.handlerKill 0 1) (kill { Handler.reset with issued := 2048 } 0)) (fun t => (t.pp 0).handlers.isEmpty) = true ∧
    ends (exec (.handlerKill 0 1) (kill Handler.reset 200001)) (fun t => (t.pp 0).handlers.isEmpty) = true ∧
    ends (exec (.handlerKill 0 1) (kill Handler.reset 200000)) (fun t => (t.pp 0).handlers.length == 1) = true := by decide +kernel

/-- A message of the reply lane that has come to core 0; block 0x40000 of core 0 as given. -/
def reply (type rseq : Nat) (w : List Word) (l : Option Line) : Flit :=
  { came (.msg ⟨2, type, w, l⟩) with src := .pp (homeOf 0x40000), dst := .core 0 0, rseq }
def holds (f : Flit) (k : Block) (h : Thread) : State := launched [f] fun c => { c with cache := [(0x40000, k)], threads := [(0, h)] }

theorem witness_ReplyEvents_requests :
    let k (g : Tag) (q : Nat) : Block := { blockWith g 7 with rseq := q }
    let tag (t : State) := ((t.core 0).block 0x40000).tag
    let wait : Thread := { running with
      tstate := .parked
      park := .tagwait
      wait := .block 0x40000 0x10000 }
    let late : Thread := { running with pending := [⟨1, 9, .x 2, 0x48, 8, false, .waiting⟩] }
    let ask : Thread := { running with tstate := .waiting, wait := .asks, asks := [⟨9, 2, 0, 0x48, .waiting⟩] }
    let h (f : Flit) (g : Tag) (q : Nat) (t : Thread) := holds f (k g q) t
    let flush (f : Flit) : State := launched [f] fun c => { c with flushes := [⟨10, 0x40000, 1⟩] }
    ends (exec (.grantRo 0) (h (reply 0 8 [0x40000] (some 5)) .busy 8 wait)) (fun t => tag t == .ro) = true ∧
    ends (exec (.grantRo 0) (holds (reply 0 8 [0x40000] (some 5)) { k .busy 8 with invalPending := true } wait)) (fun t => tag t == .i) = true ∧
    ends (exec (.grantRw 0) (h (reply 1 8 [0x40000] (some 5)) .busy 8 wait)) (fun t => tag t == .rw) = true ∧
    ends (exec (.data 0) (h (reply 7 9 [0x55] none) .i 0 late)) (fun t => decide ((t.coreThread 0 0).pending.map Late.val = [.ready 0x55])) = true ∧
    ends (exec (.data 0) (h (reply 7 9 [0x55] none) .i 0 ask)) (fun t => decide ((t.coreThread 0 0).asks.map Ask.val = [.ready 0x55]) && (t.coreThread 0 0).tstate == .ready) = true ∧
    ends (exec (.ack 0) (h (reply 6 9 [0x40000] none) .i 0 ask)) (fun t => decide ((t.coreThread 0 0).asks.map Ask.val = [.ready 0])) = true ∧
    ends (exec (.ack 0) (flush (reply 6 10 [0x40000] none))) (fun t => (t.core 0).flushes.isEmpty) = true ∧
    ends (exec (.fail 0) (h (reply 5 8 [0x40000, 8] none) .busy 8 wait)) (fun t => (t.coreThread 0 0).regs.ecause == 8 && (t.coreThread 0 0).regs.eval == 0x10000 && tag t == .i) = true ∧
    ends (exec (.fail 0) (holds (reply 5 8 [0x40000, 8] none) { k .busy 8 with prefetch := true } wait)) (fun t => (t.coreThread 0 0).tstate == .parked && tag t == .i) = true ∧
    ends (exec (.fail 0) (h (reply 5 9 [0x40000, 9] none) .i 0 late)) (fun t => decide ((t.coreThread 0 0).pending.map Late.val = [.failed 9 0x48])) = true ∧
    ends (exec (.fail 0) (h (reply 5 9 [0x40000, 9] none) .i 0 ask)) (fun t => (t.coreThread 0 0).regs.ecause == 9 && (t.coreThread 0 0).regs.eval == 0x48) = true ∧
    ends (exec (.fail 0) (flush (reply 5 10 [0x40000, 9] none))) (fun t => (t.core 0).flushes.isEmpty) = true := by decide +kernel

theorem witness_ReplyEvents_copies :
    let k (g : Tag) (q : Nat) : Block := { blockWith g 7 with rseq := q }
    let block (t : State) := (t.core 0).block 0x40000
    let at0 (f : Flit) (b : Block) : State := { launched [arrivedAt { f with dst := .hem 0 }] fun c => { c with cache := [(0x40000, b)] } with
      dir := [(0x40000, DirEntry.reset)] }
    let others := (List.range 15).map fun i => w64 (i + 2)
    let f (type : Nat) (w : List Word) (l : Option Line) := reply type (2 ^ 62) (0x40000 :: w) l
    (f 2 others none).type = 2 ∧ Flit.reaches { f 3 [1] none with dst := .hem 0 } = List.range 16 ∧ Flit.reaches { f 2 others none with dst := .hem 0 } = [0] ∧
    ends (exec (.invalidate 0) (at0 (f 2 others none) (k .ro 0))) (fun t => (block t).tag == .i && decide (t.net.map Flit.type = [6])) = true ∧
    ends (exec (.invalidate 0) (at0 (f 2 others none) (k .busy 8))) (fun t => (block t).invalPending) = true ∧
    ends (exec (.recall 0) (at0 (f 3 [1] none) (k .rw 0))) (fun t => (block t).tag == .ro && decide (t.net.map Flit.type = [7])) = true ∧
    ends (exec (.recall 0) (at0 (f 3 [0] none) (k .rw 0))) (fun t => (block t).tag == .i) = true ∧
    ends (exec (.recall 0) (at0 (f 3 [0] none) (k .ro 0))) (fun t => (block t).tag == .ro && decide (t.net.map Flit.type = [6])) = true ∧
    ends (exec (.push 0) (at0 (f 4 others (some 5)) (k .i 0))) (fun t => (block t).tag == .ro && (block t).data == 5) = true ∧
    [Tag.ro, .busy].all (fun g => ends (exec (.push 0) (at0 (f 4 others (some 5)) (k g 0))) fun t => (block t).tag == .ro && (block t).data == 5) = true ∧
    ends (exec (.push 0) (at0 (f 4 others (some 5)) (k .rw 0))) (fun t => (block t).tag == .rw && (block t).data == 5) = true ∧
    ends (exec (.push 0) (at0 (f 4 others (some 0x0505)) { k .rw 0 with prot := 2, dirty := 1 })) (fun t => (block t).data == 0x0507 && (block t).dirty == 1) = true := by
  decide +kernel

/-- A partition of hem 0 with fields set, its core 0 as given. -/
def tenant (f : Partition → Partition) (c : Core → Core) : State :=
  { State.reset with time := 100000, parts := [(1, f (Partition.formed 1 0 0 0))], cores := [(0, c Core.reset)] }
/-- A launch of 32 scalar and 8 vector registers. -/
def launch0 : Launch := ⟨32, 8, 0, 0, 5, 0, 0, 0, 0, none, false, false⟩

/-- An area of a hem at 0x200000, of a partition of one hem, and one of a core at 0x400000, which held nothing: the caps of the rings, their versions, the
hem count, and that a launch ran. -/
def areas : Memory := [(0x200001, 16), (0x200002, 16), (0x20001D, 1), (0x20001F, 1), (0x200047, 128), (0x400007, 1)]
/-- The restore of the hem and of one core from them. -/
def back : Restore := ⟨.empty, [0x200000], [0x400000]⟩
def restores : State := { tenant (fun p => { p with stop := .restoring, restore := some back }) id with mem := areas }

theorem witness_StopEvents_restoreGood : restores.restoreFault ((restores.partById 1).getD (Partition.formed 1 0 0 0)) back = none := by decide +kernel

theorem witness_StopEvents_restored : ends (exec (.restoreComplete 1) restores) (fun t =>
      decide ((t.partById 1).map (fun p => (p.stop, p.restore.isSome, p.launch.isSome)) = some (.run, false, true))) = true := by decide +kernel

theorem witness_StopEvents_stops :
    let stopAt (a : Nat) (r : Bool) (h : Thread) := { tenant (fun p => { p with stop := .stopping }) fun c => { c with
      stop := ⟨some a, r, 0, 0, 0⟩, threads := [(0, h)] } with hems := [(0, { Hem.reset with stopped := true })] }
    let parked : Thread := { running with tstate := .parked }
    let waits : Thread := { running with pending := [⟨4, 0, .x 5, 0, 8, false, .waiting⟩] }
    let failed := restores.modPart 1 fun p => { p with restore := some { back with cores := [0x800000] } }
    ends (exec (.stopTimeReached 0) (stopAt 5 false parked)) (fun t => (t.core 0).stop.reached && (t.coreThread 0 0).saved.isSome) = true ∧
    ends (exec (.stopTimeReached 0) (stopAt 100001 false parked)) (fun t => !(t.core 0).stop.reached) = true ∧
    ends (exec (.forcedStop 0 0) (stopAt 99984 true running)) (fun t => (t.coreThread 0 0).saved.isSome) = true ∧
    ends (exec (.forcedStop 0 0) (stopAt 99985 true running)) (fun t => (t.coreThread 0 0).saved.isNone) = true ∧
    ends (exec (.cqscComplete 1) (tenant (fun p => { p with stop := .quiesced, cqsc := some (0, 15, 4, 3) }) fun c => { c with threads := [(15, waits)] }))
      (fun t => decide ((t.coreThread 0 15).pending.map Late.val = [.ready 3]) && decide ((t.partById 1).map (·.stop) = some .saving)) = true ∧
    ends (exec (.saveComplete 1) (tenant (fun p => { p with stop := .saving, launch := some launch0 }) id)) (fun t =>
      decide ((t.partById 1).map (fun p => (p.stop, p.launch.isSome)) = some (.saved, false))) = true ∧
    failed.restoreFault ((failed.partById 1).getD (Partition.formed 1 0 0 0)) { back with cores := [0x800000] } = some (1, 0x800000) ∧
    ends (exec (.restoreComplete 1) failed) (fun t => decide ((t.partById 1).map (fun p => (p.stop, p.restore.isSome)) = some (.empty, false)) &&
      decide ((t.core 0).q7.map (·.words) = [[0x10124, 0x800000]])) = true := by decide +kernel

theorem witness_StopEvents_sweeps :
    let w : SweepSum := ⟨0, 0, true, true, true, 0⟩
    let run (f : Partition → Partition) := tenant fun p => f { p with stop := .run, launch := some launch0 }
    let park (k : Core) : Core := { k with threads := [(0, { running with tstate := .parked, park := .qempty, wait := .queue 0 1 })] }
    let found (s : State) : Option SweepSum := (s.partById 1).map s.sweepOf
    let again (f : Partition → Partition) (c : Core → Core) := run (fun p => f { p with lastSweep := found (run id c) }) c
    let out (s : State) (q : Partition → State → Bool) := ends (exec (.sweep 1) s) fun t => ((t.partById 1).map (q · t)).getD false
    (run id id).sweepDue (((run id id).partById 1).getD (Partition.formed 1 0 0 0)) = true ∧ found (run id id) = some w ∧
    out (run id id) (fun p _ => p.lastSweep == some w) = true ∧ goes (exec (.sweep 1) (run (fun p => { p with sweepAt := 99999 }) id))
      (run (fun p => { p with sweepAt := 99999 }) id) = true ∧
    out (again id id) (fun p t => p.stop == .empty && p.launch.isNone && (t.core 0).q7.length == 1) = true ∧
    (found (run id park)).map (fun x => (x.idle, x.quiet)) = some (false, true) ∧
    out (again id park) (fun p t => (p.launch.map (·.stalled)) == some true && p.stop == .run && (t.core 0).q7.length == 1) = true ∧
    (let s (f : Option SweepSum) := tenant (fun p => { p with stop := .stopping, stopAt := 50000, sweepAt := 50000, launch := some launch0, lastSweep := f })
       fun c => { c with stop := ⟨some 50000, true, 0, 0, 0⟩ }
     (found (s none)).map (·.stopped) = some true ∧ out (s (found (s none))) (fun p t => p.stop == .quiesced && (t.core 0).q7.length == 1) = true) ∧
    ends (exec (.launchErrorEnd 1) (run (fun p => { p with launch := some { launch0 with error := some 5 } }) fun c => { c with threads := [(0, running)] }))
      (fun t => (t.coreThread 0 0).tstate == .free && decide ((t.partById 1).bind (·.launch) = some { launch0 with error := some 5, ending := true })) = true := by
  decide +kernel

theorem witness_TenantEvents_commands :
    let one (f : Partition → Partition) := tenant (fun p => f { p with stop := .empty }) id
    let trust (o : Host.Outcome State Fault Refusal) (w : Word) (u : Trust) := ends o fun t =>
      decide ((t.partById 1).map (fun p => (p.regs.presult, p.trust)) = some (w, u))
    let two (f : Partition → Partition) := { tenant (fun p => { f p with stop := .empty }) id with
      parts := [(1, { Partition.formed 1 0 0 0 with stop := .empty }), (2, { Partition.formed 2 0 1 0 with stop := .empty })] }
    trust (exec (.lock 1) (one id)) 0x101 .locked = true ∧ trust (exec (.lock 1) (one fun p => { p with stop := .saved })) 0x101 .locked = true ∧
    trust (exec (.lock 1) (one fun p => { p with trust := .run })) 0x201 .run = true ∧
    ends (exec (.kiln 1) (one id)) (fun t => ((t.partById 1).bind (·.kiln)) == some ⟨.plain, 0, 0, 0, 0, false⟩) = true ∧
    trust (exec (.kiln 1) (one fun p => { p with trust := .locked })) 0x204 .locked = true ∧
    ends (exec (.unlock 1) (one fun p => { p with trust := .locked })) (fun t => ((t.partById 1).bind (·.kiln)).map (·.why) == some .unlock) = true ∧
    trust (exec (.clear 1) (one fun p => { p with trust := .error })) 0x103 .unlocked = true ∧
    ends (exec (.split 1 0x00040003) (one fun p => { p with level := 1 })) (fun t => (t.partById 3).isSome && (t.partById 4).isSome) = true ∧
    ends (exec (.merge 1 7) (two id)) (fun t => decide ((t.partById 7).map (fun p => (p.level, p.stop)) = some (1, .forming))) = true ∧
    [(0, 0x500), (7, 0x507), (0x1FF, 0x5FF)].all (fun e : Word × Word => trust (exec (.unknownOp 1 e.1) (one id)) e.2 .unlocked) = true ∧
    [0x018, 0x040, 0x0F8].all (fun off => trust (exec (.frozenSettingWrite 1 off 5) (one fun p => { p with trust := .locked })) 0 .error) = true := by
  decide +kernel

theorem witness_TenantEvents_kiln :
    let at_ (p : Nat) (f : KilnRun → KilnRun) (c : Core → Core) := { tenant (fun q => { q with stop := .forming, kiln := some (f ⟨.plain, p, 0, 0x1FFFF, 0, false⟩) }) c with
      hems := [(0, { Hem.reset with patterns := [(3, pattern)] })] }
    let kiln (t : State) := (t.partById 1).bind (·.kiln)
    let dirty (k : Core) : Core := { k with sram := [(0, 5)], acc := [(0, 7)] }
    let phase (p f g : Nat) (q : State → Bool) := ends (exec (.kilnPhase 1 f g) (at_ p id dirty)) fun t => (kiln t).map (·.phase) == some (p + 1) && q t
    (phase 0 0 0 (fun t => (t.core 0).sram == [(0, 5)]) && phase 1 0 0 (fun t => (t.core 0).sram == []) &&
     phase 2 0 0 (fun t => (t.hem 0).patterns == []) && phase 3 0 0 (fun _ => true) && phase 4 0 0 (fun t => t.dev.retired == 0 && (kiln t).map (·.classes) == some 0x1FFFF) &&
     phase 4 1 8 fun t => t.dev.retired == 1 && (kiln t).map (·.classes) == some 0x1FFF7 && (t.core 0).sram == []) = true ∧
    (at_ 5 id id).lowerKiln (((at_ 5 id id).partById 1).getD (Partition.formed 1 0 0 0)) = false ∧
    [(KilnFor.plain, 0x104), (.unlock, 0x102)].all (fun e : KilnFor × Word => ends (exec (.kilnComplete 1) (at_ 5 (fun k => { k with why := e.1 }) id)) fun t =>
      decide ((t.partById 1).map (fun p => (p.kiln.isSome, p.stop, p.trust, p.regs.presult)) = some (false, .empty, .unlocked, e.2)) && t.dev.scrubSeq == 1) = true ∧
    ends (exec (.kilnComplete 1) (at_ 5 (fun k => { k with why := .boot }) id)) (fun t => t.dev.bootst == 1) = true ∧
    ends (exec (.kilnComplete 1) (at_ 5 (fun k => { k with failed := true }) id)) (fun t => (kiln t) == some ⟨.error, 0, 0, 0, 0, false⟩) = true := by
  decide +kernel

theorem witness_DeviceEvents_writes :
    let p (t : Trust) := tenant (fun p => { p with stop := .empty, trust := t }) id
    let w (off : Nat) (v : Word) (s : State) (q : State → Bool) := ends (exec (.registerWrite off v) s) q
    w 0x070008 0x123456 (p .unlocked) (fun t => t.dev.imgaddr == 0x123456) = true ∧ w 0x070010 1 State.reset (fun t => t.dev.bootst == 4) = true ∧
    w 0x040000 0x1FFFFFFFF State.reset (fun t => t.dev.weights == 0xFFFFFFFF) = true ∧
    w 0x060010 3 { State.reset with dev := { DevRegs.reset with replace := true, ovflog := true } } (fun t => !t.dev.replace && !t.dev.ovflog) = true ∧
    w 0x030008 1 (p .unlocked) (fun t => (t.partById 1).map (·.trust) == some .locked) = true ∧
    w 0x030008 0x4000300000005 (tenant (fun p => { p with stop := .empty, level := 1 }) id) (fun t => (t.partById 3).isSome) = true ∧
    w 0x030018 9 (p .unlocked) (fun t => (t.partById 1).map (·.regs.bindv) == some 9) = true ∧
    w 0x030018 9 (p .locked) (fun t => (t.partById 1).map (·.trust) == some .error) = true ∧ w 0x030019 9 (p .unlocked) (fun t => decide (t = p .unlocked)) = true ∧
    ends (exec (.extentRevoke 3) { State.reset with extents := [(3, ⟨0, 0x1001⟩)] }) (fun t => decide (t.extents = [(3, ⟨0, 0x1002⟩)])) = true ∧
    ends (exec (.revoked 3) { State.reset with extents := [(3, ⟨0, 0x1002⟩)] }) (fun t => decide (t.extents = [(3, ⟨0, 0x1003⟩)])) = true ∧
    ends (exec (.revoked 3) { State.reset with extents := [(3, ⟨0, 0x1001⟩)] }) (fun t => decide (t.extents = [(3, ⟨0, 0x1001⟩)])) = true ∧
    ends (exec (.pageRequestAnswer 0 0xF000000010000 5 0) (p .run)) (fun t => decide (((t.core 0).q7waiting ++ (t.core 0).q7).map (·.words) = [[0xF000000010015, 5, 0]])) = true ∧
    ends (exec (.pageRequestAnswer 0 0x10000 5 1) (p .run)) (fun t => t.dev.drops == 1) = true ∧
    ends (exec .reset (p .run)) (fun t => t.parts.isEmpty) = true ∧ ends (exec .go State.reset) (fun t => t.dev.bootst == 4) = true ∧
    goes (exec .go { State.reset with dev := { DevRegs.reset with bootst := 4 } }) { State.reset with dev := { DevRegs.reset with bootst := 4 } } = true ∧
    ends (exec .go { State.reset with dev := { DevRegs.reset with bootst := 1 } }) (fun t => t.dev.bootst == 4) = true ∧
    goes (exec .bringUp State.reset) State.reset = true ∧
    ends (exec .bringUp { State.reset with dev := { DevRegs.reset with bootst := 4 } }) (fun t => t.dev.bootst == 2) = true ∧
    ends (exec (.hemRetire 0) (tenant (fun p => { p with stop := .run }) id)) (fun t => t.dev.retired == 1 && (t.partById 1).map (·.trust) == some .error) = true ∧
    ends (exec (.throttleEvent 2) State.reset) (fun t => t.dev.throt.at 2 0 == 1) = true := by decide +kernel

/-- What comes from outside: a host read, a credit, a request over the host's port, whose channel has room however deep it is. -/
theorem witness_DeviceEvents_inputs :
    let s (a : Action) : State := { tenant (fun p => { p with stop := .run, regs := { p.regs with plink := 0x10000 } }) id with agenda := [a] }
    let m : Msg := ⟨1, 0, [0x40000, 0, 0, 8], none⟩
    ends (step (s (.hostRead 0))) (fun t => t.dev.apertureRead == 32 && t.agenda.isEmpty) = true ∧
    ends (step { s (.credit 0 0) with links := { Links.reset with used := [(0, 2)] } }) (fun t => t.links.used.at 0 0 == 1) = true ∧
    (Partition.portOk (((s (.hostRead 0)).partById 1).getD (Partition.formed 1 0 0 0)) 0) = true ∧
    (s (.arrive 0 (.pp 0) 0 1 5 m)).net.countP (fun f => !f.entered && f.src == .port 0 && f.lane == 1 && f.cls == 0) < linkDepth := by
  refine ⟨by decide +kernel, by decide +kernel, by decide +kernel, ?_⟩
  rw [show List.countP _ _ = 0 from by decide +kernel]
  exact Nat.succ_pos _

/-- A partition whose one queue at 0x1000 has a packet at 0x2000, mapped and in hand as asked. -/
def queues (l : List Word) (run : Bool) (m : List Mapped) : State :=
  { tenant (fun p => { p with
      stop := .empty
      queues := m
      regs := { p.regs with qlist := 0x3000, qn := 1, quant := 1000000, pmem := [(0, 0), (1, 0xFFFFF000)] } }) id with
    mem := (((Memory.setWords [] 0x1000 [0x8000000000000001, 0, 0x2000, 4, 0, 0, 0, 0, if run then 1 else 0]).setWords 0x2000 l).setWords 0x3000 [0x1000]) }

theorem witness_LaunchEvents :
    let launch : List Word := [1, 0x500, 0, 0, 0x4000, 9, 0x820, 0]
    let m (p : Option (List Word)) : Mapped := ⟨0, 0x1000, 0x2000, 4, 0, 100000, p⟩
    let inHand (l : List Word) := queues l true [m (some l)]
    let read (l : List Word) (q : State → Bool) := ends (exec (.packetRead 1 0) (queues l true [m none])) q
    let fence := inHand [2, 0x4000, 7]
    let held := fence.modPart 1 fun p => { p with launch := some { launch0 with qcb := 0x1000 } }
    let restart (widx ridx : Word) : State := { queues [] true [] with
      mem := (((queues [] true []).mem.setWords 0x1080 [1]).setWords 0x1040 [widx, ridx, 1]) }
    ends (exec (.queueMap 1 0) (queues launch true [])) (fun t => decide ((t.partById 1).map (fun p => p.queues.length) = some 1)) = true ∧
    read launch (fun t => decide ((t.partById 1).map (fun p => p.queues.map (·.packet)) = some [some launch])) = true ∧
    read [0x10001] (fun t => decide ((t.partById 1).map (fun p => p.queues.map (·.packet)) = some [none]) && t.mem.word 0x1080 == 0) = true ∧
    [0, 4].all (fun w => read [w] fun t => t.mem.word 0x1080 == 1 && t.mem.word 0x1090 == 1) = true ∧
    [0x101, 0x100000001].all (fun w => read [w] fun t => t.mem.word 0x1090 == 2) = true ∧
    ends (exec (.launchPacket 1 0) (inHand launch)) (fun t => decide ((t.partById 1).map (fun p => (p.stop, p.launch.isSome)) = some (.run, true)) &&
      (t.core 0).work.class4.held == 1) = true ∧
    ends (exec (.launchPacket 1 0) (inHand [1, 0x500, 0, 0, 0x4000, 9, 0x821, 0])) (fun t => decide ((t.partById 1).map (fun p => p.stop) = some .empty)) = true ∧
    ends (exec (.fencePacket 1 0) fence) (fun t => t.mem.word 0x4000 == 7) = true ∧ goes (exec (.fencePacket 1 0) held) held = true ∧
    ends (exec (.signalPacket 1 0) (inHand [3, 0x4000, 7])) (fun t => t.mem.word 0x4000 == 7) = true ∧
    ends (exec (.queueRestart 1 0) (restart 5 5)) (fun t => t.mem.word 0x1080 == 0 && t.mem.word 0x1088 == 5) = true ∧
    ends (exec (.queueRestart 1 0) (restart 5 6)) (fun t => t.mem.word 0x1080 == 1 && t.mem.word 0x1090 == 5 && t.mem.word 0x1050 == 0) = true := by decide +kernel

/-- A step carries out what the host asks for: GO (R359, R360). -/
theorem test_step_event : ends (step { State.reset with agenda := [.event .go] }) (fun t => t.dev.bootst == 4 && t.agenda.isEmpty) = true := by
  decide +kernel

/-! ## More forms of the vector, handler, supervisor and ending instructions -/

theorem witness_VectorCodes :
    let s := withX (withV base [(3, [0x3F800000, 0x40000000]), (1, [1, 2, 3])]) [(6, 7), (7, 33)]
    ends (exec (.vins 3 6 7 2) s) (fun t => laneOf (t.v 3) 2 1 == 7 && laneOf (t.v 3) 2 0 == 0x3F800000) = true ∧
    (let n := base.modMyCore fun k => { k with dt := (List.range 16).map fun c => (512 + c, 0x3FC00) }
     decide (n.myCore.fourOk 2 = false) && goes (exec (.vdec 5 4 2 true 0) n) (n.takeTrap 0x10 16 none) &&
     goes (exec (.venc 5 4 2 true 0) n) (n.takeTrap 0x10 16 none)) = true ∧
    ends (exec (.vcvt 4 1 0 2 0) s) (fun t => t.me.tstate == .ready) = true := by decide +kernel

theorem witness_TileFetch :
    let f := withX rings [(6, 0), (7, 479), (8, 480)]
    goes (exec (.rfetch 5 6 8) f) (f.takeTrap 0x0F 480 none) = true ∧ (f.advanced.tileSource 0 0).isNone = true ∧
    ends (exec (.rfetch 5 6 7) f) (fun t => t.x 5 == 1) = true ∧
    ((alive f).advanced.tileSource 0 0).isSome = true ∧ ((alive f).core 0).sram.wf = true ∧
    ends (exec (.rfetch 5 6 7) (alive f)) (fun t => t.x 5 == 0) = true := by decide +kernel

theorem witness_HandlerInstructions_answers :
    let req := newFlit (.core 0 0) (.pp 0) 0 1 0x105 (.msg ⟨0, 0, [0x40], none⟩) []
    let head := w64 (2 * 2 ^ 46 + 6 * 2 ^ 48 + 2 ^ 40 + 5)
    let s := handler head 7 0
    let own (done : Bool) := s.modHandler 0 0 fun h => { h with req := some req, answered := done }
    s.agentCode (.core 0 0) = 0 ∧
    ends (exec (.hsend 5 1 2) s) (fun t => decide (t.net.map (fun f => (f.dst, f.rseq)) = [(.core 0 0, 5)])) = true ∧
    ends (exec (.hsend 5 1 2) (own false)) (fun t => decide (t.net.map (fun f => (f.dst, f.rseq)) = [(.core 0 0, 0x105)]) && t.handler.answered) = true ∧
    ends (exec (.hsend 5 1 2) (own true)) (fun t => decide (t.net = []) && (t.pp 0).dropped == 1) = true ∧
    (let i := (handler 0x414040000000 5 0).modHandler 0 0 fun h => { h with req := some (newFlit (.core 0 0) (.pp 0) 0 1 0 (.msg ⟨1, 8, [0x40], none⟩) []) }
     goes (exec (.hsend 5 1 2) i) (i.takeTrap 0x08 1 none)) = true ∧
    ends (exec .hend ((handler 0 0 0).modHandler 0 0 fun h => { h with answered := true, req := some (newFlit (.pp 0) (.pp 0) 0 1 0 (.msg ⟨0, 9, [0x40], none⟩) []) })) (fun t => ((t.pp 0).handler 0).thread.tstate == .free) = true ∧
    ends (exec (.rgn 5 1) (handler 0x9 0 0)) (fun t => t.x 5 == 0) = true := by decide +kernel

theorem witness_SupervisorInstructions_handlers :
    let s := (handler 0x0001000000000003 2 0x55).modHandler 0 3 fun h => { h with
      thread := { running with priv := .h, slim := 32, vlim := 0, tstate := .parked, park := .tagwait, parkSeq := 1 } }
    ends (exec (.wake 1) s) (fun t => ((t.pp 0).handler 3).thread.tstate == .ready) = true ∧
    ends (exec (.waket 3 1 2) s) (fun t => ((t.pp 0).handler 3).thread.tstate == .free) = true ∧
    ends (exec (.conerd 1 6) (withX parted [(6, 0xFE00000000000400)])) (fun t => t.me.tstate == .ready) = true := by decide +kernel

theorem witness_TaskEnds_stops :
    let s := (oneHem (withX base [(5, 0x400), (13, 7)]) .stopping).modMyCore fun k => { k with stop := ⟨some 0, true, 0, 0, 0⟩ }
    s.advanced.stopping = true ∧
    ends (exec (.ppt 0x3D) s) (fun t => t.me.tstate == .free && t.me.park == .stop && decide (t.me.saved.map (·.live) = some 0x3D) && t.x 13 == 0) = true := by
  decide +kernel

/-! ## The q1 forms: a message under way, its last dword, a header that breaks R237, q1 full -/

/-- States of q1 in which an instruction may push. -/
def q1States (s : State) : List State :=
  [s.modQueues fun q => { q with q1 := [w64 (2 * 2 ^ 20)], q1partial := 1 }, s.modQueues fun q => { q with q1 := [w64 (1 * 2 ^ 20)], q1partial := 1 }, s,
   s.modQueues fun q => { q with q1 := List.replicate 32 0 }]

/-- The instruction with destination q1 meets the hypotheses in each of them, and its next state is the one that the statement
names: f gives the state of its last effect and the value. -/
def pushes (late : Bool) (s : State) (i : Instr) (f : Word → Word → Word → State → Option (State × Word)) : Bool :=
  (q1States s).all fun s => match usesOf s i with
    | some u => meets s u fun a b c t => match f a b c t with
        | some (r, v) => goes (exec i s) (s.gives late r 121 v)
        | none => false
    | none => false

theorem witness_q1_scalars :
    let s := withX parted [(2, 0x108000), (3, 7), (4, 0x200)]
    pushes false s (.callr 121 4) (fun x _ _ t => some (t.setPc x, 0x102)) = true ∧
    [Instr.add 121 2 3, .div 121 2 3, .fdiv 121 2 3 true, .fsqrt 121 2 true].all (fun i => match scalarOp i with
      | some (_, _, f) => pushes (lateOp i) s i fun a b c t => some (t.raise (f t a b c).2, (f t a b c).1)
      | none => false) = true ∧
    pushes false s (.mfmt 121 3) (fun _ _ _ t => some (t.modRegs fun g => { g with fmtctx := 7 }, 0)) = true ∧
    pushes false (withX (loads .ro) [(6, 0x900000)]) (.tagq 121 6) (fun _ _ _ t => some (t, 0x8000)) = true ∧
    pushes false (withX (loads .ro) [(6, 0x10008)]) (.tagq 121 6) (fun _ _ _ t => some (t, 0x101)) = true ∧
    pushes false s (.bcwait 121 2) (fun _ _ _ t => some (t.modMe fun h => { h with regs := h.regs.setBarrier 2 0 }, 0)) = true ∧
    pushes false s (.qstat 121 3) (fun _ _ _ t => some (t, 0)) = true ∧
    pushes false (s.modMe fun h => { h with regs := h.regs.setBarrier 3 0x55 }) (.srd 121 0x013) (fun _ _ _ t => some (t, 0x55)) = true := by
  decide +kernel

theorem witness_q1_accesses :
    [Instr.ld 121 6 0 plain, .ldw 121 7 1 plain, .ldxbu 121 6 8 3 plain].all (fun i => match loadOp i with
      | some x => pushes true (loads .ro) i fun a b _ t => match checkAccess t .load .scalar false [x.el a b] with
          | .ok (r, [(_, p)]) => some (r, loaded x.size x.signed (r.value p x.size))
          | _ => none
      | none => false) = true ∧
    pushes true (withX (loads .ro) [(5, 1), (6, 0xFE00000000000100)]) (.waitm 121 6 5 plain) (fun x _ _ t =>
      match checkAccess t .load .watch false [⟨x.toNat, 8, 0⟩] with
      | .ok (r, [(_, p)]) => some (r, w64 (r.value p 8))
      | _ => none) = true ∧
    ((q1States atoms).map fun s => match exec (.amoadd 121 6 5 true false plain) s with
      | .next t => (t.me.queues.q1.length, t.me.lateTrap, t.me.park == .qfull, t.myCore.sram.byte 0x107 == s.myCore.sram.byte 0x107)
      | _ => (0, none, false, false)) = [(2, none, false, false), (2, none, false, false), (0, some (0x0D, 0x1201), false, false), (32, none, true, true)] ∧
    ends (exec (.ld 121 6 0 plain) (withX ((loads .ro).modMyCore fun k => { k with sramPoison := [(4, true)] }) [(6, 0xFE00000000000100)])) (fun t =>
      decide (t.me.pending.map (fun l => (l.dest, l.val)) = [(.q1, .poisoned 0xFE00000000000100)])) = true ∧
    ends (exec (.ld 121 6 0 plain) (withX (paged 0x400000F) [(6, 0x10000)])) (fun t => decide (t.me.pending.map (fun l => (l.dest, l.val)) = [(.q1, .waiting)]) &&
      t.me.q1reserved == 1 && !(t.modQueues fun q => { q with q1 := List.replicate 31 0 }).q1Room 1) = true ∧
    ends (exec (.ld 121 7 0 plain) (loads .i)) (fun t => t.me.park == .tagwait) = true := by decide +kernel

theorem witness_q1_units :
    let jobs := (withX (copying 0x31 4) [(4, 0x300)])
    let ended := jobIn (withX base [(4, 0x300)]) .cancelled 0 1
    let room (o : Host.Outcome State Fault Refusal) := ends o fun t => decide (t.me.pending.map (fun l => (l.dest, l.val)) = [(.q1, .waiting)])
    let full (s : State) : State := s.modQueues fun q => { q with q1 := List.replicate 32 0 }
    let none_ (i : Instr) (s : State) : Bool := goes (exec i (full s)) (full s).noRoom
    (match usesOf jobs (.cpy 121 6 7 0) with
      | some u => meets jobs u fun _ _ _ t => t.jobRoom 0 0 && t.myHem.freeEntry == some 0
      | none => false) = true ∧
    ends (exec (.cpy 121 6 7 0) (jobs.modQueues fun q => { q with q1 := [w64 (2 * 2 ^ 20)], q1partial := 1 })) (fun t => decide (t.me.queues.q1 = [w64 (2 * 2 ^ 20), 0])) = true ∧
    pushes true (withX base [(4, 0x300)]) (.cwait 121 4) (fun _ _ _ t => some (t, 0x40)) = true ∧
    ends (exec (.cwait 121 4) (ended.modQueues fun q => { q with q1 := [w64 (2 * 2 ^ 20)], q1partial := 1 })) (fun t =>
      decide (t.me.queues.q1 = [w64 (2 * 2 ^ 20), 0x0300000000000042])) = true ∧
    room (exec (.mst 121 1 2 0) base) = true ∧ none_ (.mst 121 1 2 0) base = true ∧
    room (exec (.rinja 121 1 2) rings) = true ∧ none_ (.rinja 121 1 2) rings = true ∧
    pushes true (withX ((rings).modMyHem fun h => h.setOutput 3 0 { Output.reset with applied := 1 }) [(4, 0)]) (.pmark 121 3 4) (fun _ _ _ t => some (t, 1)) = true ∧
    none_ (.pmark 121 3 4) (withX rings [(4, 0)]) = true ∧
    pushes true (withX rings [(3, 0x2000000000000000)]) (.rstat 121 3) (fun _ _ _ t => some (t, 0)) = true ∧
    pushes true (withX rings [(3, 0x800), (4, 9)]) (.rfetch 121 3 4) (fun _ _ _ t => some (t, 1)) = true ∧
    none_ (.rfetch 121 3 4) (withX rings [(3, 0x800), (4, 9)]) = true := by decide +kernel

theorem witness_q1_supervisor :
    let other := { oneHem sup .run with cur := ⟨false, 1, 0, 0x100, 1⟩ }.modMe fun _ => { running with priv := .s }
    let full (s : State) : State := s.modQueues fun q => { q with q1 := List.replicate 32 0 }
    pushes true other (.tstart 121 6) (fun _ _ _ t => some (t, 4)) = true ∧ pushes true sup (.tstart 121 6) (fun _ _ _ t => some (t, 4)) = true ∧
    ends (exec (.tstart 121 6) ((restoring .run 0 0).modQueues fun q => { q with q1 := [w64 (2 * 2 ^ 20)], q1partial := 1 })) (fun t =>
      decide (t.me.queues.q1 = [w64 (2 * 2 ^ 20), 3])) = true ∧
    ends (exec (.sstop 121 0) ((oneHem sup .run).modQueues fun q => { q with q1 := [w64 (2 * 2 ^ 20)], q1partial := 1 })) (fun t =>
      decide (t.me.queues.q1 = [w64 (2 * 2 ^ 20), 1])) = true ∧
    ends (exec (.cqsc 121 0) (oneHem sup .quiesced)) (fun t => decide (t.me.pending.map (fun l => (l.dest, l.val)) = [(.q1, .waiting)])) = true ∧
    goes (exec (.cqsc 121 0) (full (oneHem sup .quiesced))) (full (oneHem sup .quiesced)).noRoom = true ∧
    goes (exec (.tstart 121 6) (full (restoring .run 0 0))) (full (restoring .run 0 0)).noRoom = true ∧
    ends (exec (.conerd 121 6) ((withX parted [(6, 0xFE00000000000400)]).modQueues fun q => { q with q1 := [w64 (2 * 2 ^ 20)], q1partial := 1 })) (fun t =>
      decide (t.me.queues.q1 = [w64 (2 * 2 ^ 20), 0])) = true := by decide +kernel

theorem witness_q1_handlers :
    let h := handler 0x40 0x80 9
    goes (exec (.dld 121 1 1) (h.modHandler 0 0 fun h => { h with locks := [0x40] })) (h.modHandler 0 0 fun h => { h with locks := [0x40] }).noRoom = true ∧
    goes (exec (.rgn 121 1) (handler 7 0 0)) (handler 7 0 0).noRoom = true := by decide +kernel

/-! ## More clauses: a waiting decode table, a question before a release, a wait of its own, a stop, a home of another -/

/-- A late q1 dword before a push; a poisoned mark of x0; a failed one; a vector lane to come. -/
theorem witness_OperandWaits_marks :
    let s (d : LateDest) (v : LateVal) := base.modMe fun t => { t with pending := [⟨1, 0, d, 0x40, 8, false, v⟩] }
    let bad (d : LateDest) (v : LateVal) (c : Nat) (i : Instr) := goes (exec i (s d v)) (((s d v).modMe fun t => t.unmark 1).takeTrap c 0x40 none)
    ends (exec (.add 121 2 3) (s .q1 .waiting)) (fun t => t.me.wait == .regs 1 && t.me.queues.q1.isEmpty) = true ∧
    bad (.x 0) (.poisoned 0x40) 0x0A (.add 1 0 3) = true ∧ ends (exec (.add 1 0 3) (s (.x 0) .waiting)) (fun t => t.me.tstate == .ready) = true ∧
    bad (.x 2) (.failed 9 0x40) 9 (.add 1 2 3) = true ∧ bad .q1 (.failed 9 0x40) 9 (.add 121 2 3) = true ∧
    ends (exec (.vadd 1 2 3 2 0) (s (.lane 3 2 5) .waiting)) (fun t => t.me.wait == .regs 1) = true := by decide +kernel

/-- The device window past its extent, at U and above. Of several elements the lowest address counts; a misaligned one goes before
both; an absent page is no obstacle to a later trap, and parks where none comes. -/
theorem witness_AccessTraps_several :
    let d (off : Nat) : El := ⟨0xFC * 2 ^ 56 + off, 8, 0⟩
    let go (s : State) (l : List El) := checkAccess s .vload .vector false l
    let top : El := ⟨0xFE * 2 ^ 56 + 0x07FFF8, 8, 1⟩
    let s := paged 0x4000103
    let g := paged 0x400010F
    (traps (checkAccess base .load .scalar false [d (2 ^ 24)]) 0x02 (w64 (d (2 ^ 24)).va) && traps (checkAccess sup .load .scalar false [d (2 ^ 24)]) 0x05 (w64 (d (2 ^ 24)).va) &&
    traps (go base [d 8, d 0]) 0x02 (w64 (d 0).va) && traps (go base [top, ⟨0xFE * 2 ^ 56 + 0x080000, 8, 2⟩]) 0x05 (w64 top.va) &&
    traps (go base [d 4, d 0]) 0x04 (w64 (d 4).va) && traps (checkAccess s .vstore .vector true [⟨0x800000, 8, 0⟩, ⟨0x10000, 8, 1⟩]) 0x06 0x10000 &&
    (match go g [⟨0x10000, 8, 0⟩, ⟨0x800000, 8, 1⟩, ⟨0x10008, 8, 2⟩] with
      | .error (.park r w _) => r == .pagefault && w == .page 0x800000
      | _ => false)) = true := by decide +kernel

/-- A release store asks its home first; with the answer it goes out, then it is past; a refusal traps. -/
theorem witness_AccessAtHome_release :
    let s := withX (paged 0x400000F) [(6, 0x10000), (5, 0x1234)]
    let st : Instr := .st 5 6 0 ⟨.release, .system, .normal⟩
    let sent (t : State) : List (Nat × Word × Word × Word) := t.net.map (fun f => (f.type, f.word 0, f.word 4, f.word 5))
    ends (exec st s) (fun t => decide (sent t = [(1, 0x40000, 0x1234, 1)]) && decide (t.me.asks.map (·.kind) = [4]) && t.me.wait == .asks) = true ∧
    ends (exec st (asked s 4 0 0x10000 (.ready 0))) (fun t => decide (sent t = [(1, 0x40000, 0x1234, 2)]) && decide (t.me.asks.map (·.kind) = [4, 2])) = true ∧
    goes (exec st (asked s 4 0 0x10000 (.failed 8 0x10000))) ((asked s 4 0 0x10000 (.failed 8 0x10000)).takeTrap 8 0x10000 none) = true ∧
    (let a (v : LateVal) := s.modMe fun t => { t with asks := [⟨8, 4, 0, 0x10000, .ready 0⟩, ⟨9, 2, 0, 0x10000, v⟩] }
     ends (exec st (a (.ready 0))) (fun t => t.me.asks.isEmpty && t.me.pc == s.nextPc && t.net.isEmpty) = true ∧
     goes (exec st (a (.failed 7 0x10000))) ((a (.failed 7 0x10000)).takeTrap 7 0x10000 none) = true) := by decide +kernel

/-- A far AMO with a release order on a cached line asks, parks, and goes out; a plain one on a WALK line goes out at once. -/
theorem witness_AtomicAtHome_release :
    let s (pte : Word) := withX (paged pte) [(6, 0x10008), (5, 0x1234)]
    let far : Instr := .amoadd 1 6 5 true true ⟨.release, .system, .normal⟩
    let sent (t : State) : List (Nat × Word × Word × Word) := t.net.map (fun f => (f.type, f.word 0, f.word 2, f.word 5))
    ends (exec far (s 0x400010F)) (fun t => decide (sent t = [(3, 0x40008, 0x1234, 5)]) && t.me.park == .tagwait && t.myCore.tagAt 0x40000 == .busy) = true ∧
    ends (exec far (asked (s 0x400010F) 4 0 0x10008 (.ready 0))) (fun t => decide ((t.net.map fun f => (f.word 5).getLsbD 0) = [false]) &&
      decide (t.me.asks.map (·.kind) = [3]) && t.me.park == .tagwait) = true ∧
    goes (exec far (asked (s 0x400010F) 4 0 0x10008 (.failed 8 0x10008))) ((asked (s 0x400010F) 4 0 0x10008 (.failed 8 0x10008)).takeTrap 8 0x10008 none) = true ∧
    ends (exec (.amoadd 1 6 5 true false ⟨.release, .system, .normal⟩) (s 0x400070F)) (fun t => decide (sent t = [(3, 0x40008, 0x1234, 1)]) && t.me.wait == .asks) = true ∧
    ends (exec far ((s 0x400010F).modMe fun t => { t with asks := [⟨8, 4, 0, 0x10008, .ready 0⟩, ⟨9, 3, 0, 0x10008, .ready 0x81⟩] })) (fun t =>
      t.x 1 == 0x81 && t.me.pc == base.nextPc) = true := by decide +kernel

/-- The waits of WAITM and JOIN, in the scratchpad and, once the home has answered, of an UNCACHED line. -/
theorem witness_WatchedReads_waits :
    let w (v : Word) := withX (loads .ro) [(5, v), (6, 0xFE00000000000100)]
    let u := withX (paged 0x400000F) [(5, 1), (6, 0x10000)]
    let a (v : Word) := asked u 1 (0x10000 * 64 + 8) 0x10000 (.ready v)
    ends (exec (.waitm 1 6 5 plain) (w 0x92000000000081F0)) (fun t => t.me.wait == .differsAt 0xFE00000000000100 0x100 0x92000000000081F0 false 0) = true ∧
    ends (exec (.join 6 0) (w 1)) (fun t => t.me.wait == .zeroAt 0xFE00000000000100 0x100 false 0) = true ∧
    ends (exec (.waitm 1 6 5 plain) (a 1)) (fun t => t.me.wait == .differsAt 0x10000 0x40000 1 true 0) = true ∧
    ends (exec (.join 6 0) (a 1)) (fun t => t.me.wait == .zeroAt 0x10000 0x40000 true 0) = true := by decide +kernel

/-- A decode table that a DTLD of slot 1 holds back; a fence while a tile of the thread is on its way; a DTLD behind an operation on its table. -/
theorem witness_waits :
    let held (s : State) (i : Nat) := s.modMyCore fun k => { k with threads := k.threads ++ [(1, { running with tableHold := some (i, 5) })] }
    let s := held (withX base [(1, 4), (2, 8)]) 2
    let own : Injector := ⟨true, true, 0, 0x0100000004000000, 9, 1, 0, 0, 0, 0⟩
    let tile (i : Injector) := (ringed parted).modMyHem fun h => { h with ring := { h.ring with injectors := [(0, i)] } }
    let fence : Instr := .fencer ⟨.acquire, .system, .normal⟩
    let t := tabled 5
    let op : MatOp := ⟨.mma 0 1 2 false false, 0x107, 0, 0, none⟩
    [Instr.vdec 5 4 2 false 0, .venc 5 4 2 false 0, .vbsc 5 4 2 0 0].all (fun i => goes (exec i s) (s.modMe fun h => h.waits (.table 2))) = true ∧
    ends (exec (.vdec 5 4 3 false 0) s) (fun t => t.me.tstate == .ready) = true ∧
    (let m := held (withX (ctxOf base 0x02) [(1, 4), (2, 8)]) 2
     goes (exec (.mma 0 1 2 false false) m) (m.modMe fun h => h.waits (.table 2))) = true ∧
    goes (exec fence (tile own)) ((tile own).modMe fun h => h.waits .rings) = true ∧
    ends (exec fence (tile { own with hdr := 0x0100001004000000 })) (fun t => t.me.pc == base.nextPc) = true ∧
    (let u := t.modMyCore fun k => { k with array := { k.array with queues := [(1, [op])] } }
     op.usesTable 7 = true ∧ ends (exec (.dtld 7 6) u) (fun t => t.me.wait == .tableUsers 7 0 && t.me.tableHold == some (7, 0) && t.myCore.dt.at 1992 0 == 0) = true) := by
  decide +kernel

/-- RSTAT of a live tile, pinned nowhere and at a station; of one that is not live; of an entry and an output that PSET does not know. -/
theorem witness_RingQueries_live :
    let q (s : State) (v : Word) := withX s [(3, v)]
    let live (v : Word) (p : List (Nat × PassEntry)) := (alive (q rings v)).modMyHem fun h => { h with ring := { h.ring with passing := p } }
    let pass : PassEntry := ⟨0, 0, 0, 0, 0, 1⟩
    ends (exec (.rstat 5 3) (live 0x3000000000000000 [])) (fun t => t.x 5 == 0x4001) = true ∧
    ends (exec (.rstat 5 3) (live 0x3000000000000000 [(3, pass)])) (fun t => t.x 5 == 0xC001) = true ∧
    ends (exec (.rstat 5 3) (q (alive rings) 0x3000000000000020)) (fun t => t.x 5 == 0) = true ∧
    goes (exec (.rstat 5 3) (q rings 0x0500000000000000)) ((q rings 0x0500000000000000).takeTrap 0x0F 0x1004 none) = true ∧
    goes (exec (.rstat 5 3) (q rings 0x1300000000000400)) ((q rings 0x1300000000000400).takeTrap 0x0F 0x1005 none) = true := by decide +kernel

/-- SHIP in the middle of a message, behind a message in q1, to its own core, and where its core's router has no room. -/
theorem witness_TaskEnds_ships :
    let s := oneHem (withX base [(1, 0x200), (3, 1), (4, 0)]) .run
    let q (n : Nat) := s.modQueues fun k => { k with q1 := [0], q1partial := n }
    goes (exec (.ship 1 3) (q 1)) ((q 1).takeTrap 0x0D 0x203 none) = true ∧ goes (exec (.ship 1 3) (q 0)) ((q 0).modMe fun h => h.waits (.ending 0)) = true ∧
    ends (exec (.ship 1 4) s) (fun t => t.me.tstate == .free && t.net.isEmpty && t.myCore.work.class4.held == 1) = true ∧
    ends (exec (.ship 1 3) s) (fun t => decide (t.net.map (fun f => (f.dst, f.entered)) = [(.core 1 15, true)])) = true ∧
    (let b : State := { s with net := [newFlit (.core 0 0) (.core 1 15) 0 1 0 .stealReq []] }
     goes (exec (.ship 1 3) b) (b.modMe fun h => h.waits (.departure 1)) = true) := by decide +kernel

/-- However deep a buffer, a packet that blocks it, as many answers as the output buffer holds, as many credits as a channel has. -/
theorem witness_full :
    let f := newFlit (.core 0 0) (.core 1 15) 0 1 0 .stealReq []
    let h := newFlit (.pp 0) (.core 1 15) 0 1 0 (.msg ⟨2, 7, [5], none⟩) []
    ({ base with net := [f] } : State).mayLeave f = false ∧
    ({ base with net := List.replicate Config.outputDepth h } : State).outputFull 0 = true ∧
    linkDepth ≤ (Map.put [] 0 linkDepth : Map Nat).at 0 0 := by
  refine ⟨by decide +kernel, ?_, ?_⟩
  · simp [State.outputFull, newFlit, List.countP_replicate]
  · simp [Map.put, Map.at, Map.look]

/-- HEMCTL: the rings go on, and slot 480 of the hem's cores is zeroed while 479 stays; they do not go off while an entry is active; each
barrier is read. -/
theorem witness_SystemRegisters_rings :
    let s := (withX sup [(6, 0x101001)]).modMyCore fun k => { k with sram := (k.sram.setWords 0x3DFFF8 [5]).setWords 0x3E0000 [6] }
    let off := (withX sup [(6, 0x101000)]).modMyHem fun h => { h with hemctl := 0x101001, patterns := [(3, pattern)] }
    let b := base.modMe fun h => { h with regs := (List.range 8).foldl (fun g i => g.setBarrier i (w64 (i + 1))) h.regs }
    ends (exec (.swr 0x120 6) s) (fun t => t.myHem.hemctl == 0x101001 && t.myCore.sram.word 0x3DFFF8 == 5 && t.myCore.sram.word 0x3E0000 == 0) = true ∧
    goes (exec (.swr 0x120 6) off) (off.takeTrap 0x0F 0x100A none) = true ∧
    ends (exec (.swr 0x120 6) (off.modMyHem fun h => { h with patterns := [] })) (fun t => t.myHem.hemctl == 0x101000) = true ∧
    (List.range 8).all (fun i => ends (exec (.srd 5 (0x010 + i)) b) fun t => t.x 5 == w64 (i + 1)) = true := by decide +kernel

/-- A wake takes the WAIT bit of a barrier back; XINV waits for a load that an entry of its range translated and that is on its way. -/
theorem witness_SupervisorInstructions_waits :
    let p : Thread := { running with tstate := .parked, park := .barrier, wait := .barrier 2 }
    let s := (waking p).setBar 2 0x800020000
    let late : Thread := { running with pending := [⟨1, 9, .x 2, 0x10008, 8, false, .waiting⟩] }
    let f : Flit := newFlit (.core 0 3) (.pp 0) 0 1 9 (.msg ⟨0, 0, [0x40008], none⟩) []
    let x : State := { (waking late).modMyCore fun k => { k with tlb := [⟨0x10000, 0x1000, 0x400010F, [], 1⟩] } with net := [f] }
    ends (exec (.wake 1) s) (fun t => (t.coreThread 0 3).tstate == .ready && fld (t.myCore.bar 2) 47 32 == 0) = true ∧
    ends (exec (.xinv 5 6) x) (fun t => t.me.wait == .invalidations [9]) = true ∧
    ends (exec (.xinv 5 6) { x with net := [] }) (fun t => t.me.wait == .invalidations []) = true := by decide +kernel

/-- HSEND on lane 1 of RCMD expects no answer. BXF of a poisoned source and of a poisoned destination, and a copy engine's write of a
whole line. -/
theorem witness_HandlerInstructions_poison :
    let s : State := { handler 0x40 0x80 9 with poison := [(1, 0)] }
    let d : State := { handler 0x40 0x80 9 with poison := [(2, 0)] }
    let line : Line := 0x99
    let full : State := ({ handler 0 0x80 9 with poison := [(2, 0)] }).modHandler 0 0 fun h => { h with
      block := 0x80
      req := some (newFlit (.hem 0) (.pp 0) 0 1 5 (.msg ⟨0, 8, [0x80, BitVec.allOnes 64], some line⟩) []) }
    let trapped (s : State) (a : Word) := goes (exec (.bxf 5 1 2) s) (s.takeTrap 0x0A a none)
    expectsAnswer 1 9 = false ∧ trapped s 0x40 = true ∧ trapped d 0x80 = true ∧
    ends (exec (.bxf 5 1 2) full) (fun t => !t.poisoned 0x80 && t.x 5 == 0) = true := by decide +kernel

/-- The fetch of a handler from a poisoned line; of an odd pc. -/
theorem witness_FetchedBytes_poison :
    let h : State := { hand with poison := [(1, 0)], mem := [(0x80, 0x67), (0x81, 5)] }
    (match fetchHalf h 0x40 0x40 with | .error (.trap c v _) => c == 0x0A && v == 0x40 | _ => false) = true ∧
    (match fetchHalf h 0x81 0x81 with | .ok (n, _) => n == 0x567 | _ => false) = true := by decide +kernel

/-- A late header's trap waits behind an instruction that goes on after its own access; waits whose condition does not hold stay. -/
theorem witness_ThreadEvents_stays :
    let parked (w : WaitFor) : Thread := { running with tstate := .parked, wait := w }
    let late (w : WaitFor) : Thread := { parked w with pending := [⟨3, 0, .x 2, 0, 8, false, .waiting⟩], regs := Regs.reset.setBarrier 2 5 }
    let r : Thread := { running with lateTrap := some (0x0D, 0x1201) }
    let job := jobIn (thread0 0 (parked .jobsEnd)) .running 0 0
    [WaitFor.regs 3, .results, .queue 0 1, .barrier 1, .bytes 2, .jobEnd 0x300, .q7, .page 0].all (fun w =>
      let s := jobIn (thread0 0 (late w)) .running 0 0
      goes (exec (.threadWake 0 0) s) s) = true ∧
    goes (exec (.threadWake 0 0) job) job = true ∧
    ends (exec (.joinReread 1024 0) { State.reset with
      time := 1024, pps := [(0, { PP.reset with handlers := [(0, { Handler.reset with thread := parked (.zeroAt 0 0x40 true 0) })] })] }) (fun t =>
        ((t.pp 0).handler 0).thread.tstate == .ready) = true ∧
    (let s := State.reset.withFetchWord 16 0x0567
     ends (step (s.modCoreThread 0 0 fun h => { h with lateTrap := r.lateTrap })) (fun t => (t.coreThread 0 0).regs.eval == 0x1201) &&
     ends (step (s.modCoreThread 0 0 fun h => { h with lateTrap := r.lateTrap, asks := [⟨9, 2, 0, 0, .ready 0⟩] })) (fun t => (t.coreThread 0 0).pc == 2)) = true := by decide +kernel

/-- MST in BF16, FP16 and in codes, TTRN of 16-bit and of 4-bit elements; the match unit's operation that a DTLD holds back. -/
theorem witness_CoreEvents_forms :
    let go (k : MatKind) (ctx : Word) : State := core0 fun m => { m with
      array := { m.array with running := some (0, ⟨k, ctx, 0, 0, none⟩, 100) }
      acc := [(5, 0x3F800000)]
      sram := m.sram.setWords 0x203000 [0x0807060504030201] }
    let held : State := core0 fun m => { m with
      array := { m.array with queues := [(16, [⟨.mma 0 1 2 false false, 0x107, 0, 9, none⟩])] }
      threads := [(1, { running with tableHold := some (7, 5) })] }
    ((go (.mst 1 0 5) 0).core 0).sram.wf = true ∧
    [(MatKind.mst 1 0 5, 0), (.mst 2 0 5, 0), (.mst 3 0 5, 0x80000), (.ttrn 5 3, 0x10), (.ttrn 5 3, 0x08)].all (fun e : MatKind × Word =>
      ends (exec (.matrixRetire 0) (go e.1 e.2)) fun t => (t.core 0).array.running.isNone) = true ∧
    goes (exec (.arrayGrant 0) held) (held.modCore 0 fun k => k) = true := by decide +kernel

/-- What a dispatched thread begins with beside its scalars. -/
theorem witness_TaskEvents_begins :
    let s := launched [] fun k => { k with
      work := { k.work with deque := [packet] }
      threads := [(0, { Thread.reset with annul := 2, regs := { Regs.reset with epc := 5, fcsr := 7, masks := [] } })]
      vrf := [(3, 9)] }
    ends (exec (.taskDispatch 0) s) (fun t => (t.core 0).vrf.at 3 0 == 0 && (t.coreThread 0 0).annul == 0 &&
      (t.coreThread 0 0).regs == { Regs.reset with launchid := 5, epc := 5 }) = true := by decide +kernel

/-- A question whether an access would be refused; requests of poisoned lines under a custom protocol; a vendor row without a handler. -/
theorem witness_VendorRequests_refused :
    let q (w : Word) : Flit := request 1 [0x40008, 0, 7, 2, 0, w] none
    let p : Partition := ((homes 0 []).partById 1).getD (Partition.formed 0 0 0 0)
    let sick (s : State) : State := { s with poison := [(0x40000 / 64, 2)] }
    (q 1).asksOnly = true ∧ (homes 0 [q 1]).reached 0 1 p (q 1) 0 = true ∧ sends (exec (.writeMiss 0) (homes 0 [q 1])) [(6, 0x40008)] = true ∧
    (q 2).hasAsked = true ∧ sends (exec (.writeMiss 0) (sick (homes 0 [q 1]))) [(5, 0x40008)] = true ∧
    sends (exec (.readMiss 0) (sick (homes 0x1008 [request 0 [0x40000, 0, 8] none]))) [(5, 0x40000)] = true ∧
    sends (exec (.readMiss 0) { homes 0x1001 [request 0 [0x40000, 0, 1] none] with pps := [] }) [(5, 0x40000)] = true := by decide +kernel

/-- RCMD of a handler; REOPEN of a region whose partials are the partition's own. -/
theorem witness_RegionEvents_own :
    let cmd : Flit := { request 9 [0x40000, 2] none with body := .msg ⟨1, 9, [0x40000, 2], none⟩ }
    let reopen : Flit := arrivedAt { request 9 [0, 3] none with dst := .pp 0 }
    let s : State := { homes 0 [reopen] with mem := ((Memory.setWords [] 0 [0x40000, 0x4003F, 0x201006, 0x80000, 0x90000, 1]).setWords 0x90000 [5]).setWords 0x90040 [6] }
    ends (exec (.rcmd 0) (homes 0x1001 [cmd])) (fun t => t.net.isEmpty && fld (t.mem.word 0x10) 15 12 == 1) = true ∧
    ends (exec (.regionReopen 1 0) s) (fun t => t.mem.word 0x90000 == 0 && t.mem.word 0x90040 == 6 && fld (t.mem.word 0x10) 23 20 == 0) = true := by decide +kernel

/-- FAIL to a FLUSH whose block a thread waits for, to a CLOSE, to a far atomic; a PUSH where the core has no place. -/
theorem witness_ReplyEvents_fails :
    let f (q : Nat) := reply 5 q [0x40000, 9] none
    let wait : Thread := { running with tstate := .parked, park := .tagwait, wait := .block 0x40000 0x10000 }
    let s (m : Nat) (h : Thread) : State := launched [f 10] fun c => { c with
      flushes := [⟨10, 0x40000, m⟩], cache := [(0x40000, blockWith .busy 7)], threads := [(0, h)] }
    ends (exec (.fail 0) (s 1 wait)) (fun t => (t.coreThread 0 0).regs.ecause == 9 && (t.coreThread 0 0).regs.eval == 0x10000 && (t.core 0).cache.isEmpty) = true ∧
    ends (exec (.fail 0) (s 1 running)) (fun t => (t.core 0).cache.isEmpty && (t.core 0).flushes.isEmpty) = true ∧
    ends (exec (.fail 0) (s 0 wait)) (fun t => (t.coreThread 0 0).tstate == .parked && (t.core 0).cache.length == 1) = true ∧
    ends (exec (.fail 0) (launched [f 9] fun c => { c with far := [(0x40000, 9)], cache := [(0x40000, blockWith .ro 7)] })) (fun t =>
      (t.core 0).far.isEmpty && (t.core 0).cache.isEmpty) = true ∧
    Core.reset.fullFor 0x40000 = false := by decide +kernel

/-- An ending that the area holds stays with the launch; one met while a stop goes on is not carried out yet; a command of an unknown kind
while a Kiln goes on; a Kiln of lower hems. -/
theorem witness_StopEvents_ending :
    let run (st : Stop) := tenant (fun p => { p with stop := st, launch := some { launch0 with error := some 5 } }) fun c => { c with threads := [(0, running)] }
    let kiln (l : List (Nat × Partition)) : State := { State.reset with parts := l }
    let k (i n : Nat) : Nat × Partition := (i, { Partition.formed i 0 n 0 with stop := .forming, kiln := some ⟨.split, 5, 0, 0, 0, false⟩ })
    (Launch.ofWords ({ launch0 with error := some 5 } : Launch).words).error = some 5 ∧
    goes (exec (.launchErrorEnd 1) (run .stopping)) (run .stopping) = true ∧
    ends (exec (.unknownOp 1 7) (tenant (fun p => { p with kiln := some ⟨.plain, 0, 0, 0, 0, false⟩ }) id)) (fun t => (t.partById 1).map (·.regs.presult) == some 0x307) = true ∧
    goes (exec (.kilnComplete 2) (kiln [k 2 1, k 3 0])) (kiln [k 2 1, k 3 0]) = true ∧
    ends (exec (.kilnComplete 3) (kiln [k 2 1, k 3 0])) (fun t => (t.partById 3).map (·.kiln.isSome) == some false) = true := by decide +kernel

/-- A sensor's reading; a write to a fenced queue; a packet at its port; a queue past its quantum. -/
theorem witness_DeviceEvents_others :
    let fenced := tenant (fun p => { p with stop := .forming, kiln := some ⟨.plain, 2, 0, 0, 0, false⟩ }) id
    let old (since : Nat) := queues [] true [⟨0, 0x1000, 0x2000, 4, 0, since, none⟩]
    let kept (s : State) : Nat := (s.keptQueues ((s.partById 1).getD (Partition.formed 1 0 0 0))).length
    ends (step { State.reset with agenda := [.sensor 2 0x10155] }) (fun t => t.dev.temp.at 2 0 == 0x155) = true ∧
    fenced.fenced 1 = true ∧ goes (exec (.pageRequestAnswer 0 0x10000 5 0) fenced) fenced = true ∧
    ((old 0).partById 1).isSome = true ∧ kept (old 100000) = 1 ∧ kept { old 0 with time := 10000000 } = 0 := by decide +kernel

end Sys2Proof.Tests
end

/-! PROOFS. The device right after reset (spec/00_scope.md): what the accessors of a state answer where nothing is listed. -/

namespace Sys2Proof.Machine

@[simp] theorem Map.at_nil {α : Type} (j : Nat) (d : α) : Map.at ([] : Map α) j d = d := rfl

@[simp] theorem State.core_reset (c : Nat) : State.reset.core c = Core.reset := Map.at_nil c _

@[simp] theorem State.hem_reset (h : Nat) : State.reset.hem h = Hem.reset := Map.at_nil h _

@[simp] theorem State.pp_reset (n : Nat) : State.reset.pp n = PP.reset := Map.at_nil n _

@[simp] theorem Core.thread_reset (t : Nat) : Core.reset.thread t = Thread.reset := Map.at_nil t _

@[simp] theorem PP.handler_reset (t : Nat) : PP.reset.handler t = Handler.reset := Map.at_nil t _

/-- A block that no cache line holds carries tag I (R265). -/
@[simp] theorem Core.block_reset_tag (b : Nat) : (Core.reset.block b).tag = .i := by
  rw [Core.block, show Core.reset.cache = [] from rfl, Map.at_nil]

@[simp] theorem State.poisoned_reset (a : Nat) : State.reset.poisoned a = false := by
  rw [State.poisoned, show State.reset.poison = [] from rfl, Map.look_nil, Option.isSome_none]

/-- Every windowed scalar register of every slot reads 0: x0 by R39, the others because neither register file lists one. -/
@[simp] theorem State.xOf_reset (pp : Bool) (u t r : Nat) : State.reset.xOf pp u t r = 0 := by
  unfold State.xOf
  split
  · rfl
  · cases pp with
    | true => rw [if_pos rfl, State.pp_reset, show PP.reset.xrf = [] from rfl, Map.at_nil]
    | false => rw [if_neg Bool.false_ne_true, State.core_reset, show Core.reset.xrf = [] from rfl, Map.at_nil]

/-- The registers of a core that the spec gives a reset value (R213). -/
theorem Core.reset_regs :
    Core.reset.regs.sprsv = 32 ∧ Core.reset.regs.spillb = 6 ∧ Core.reset.regs.ovfb = 6 ∧ Core.reset.regs.sweep = 12 ∧
      Core.reset.regs.q2cfg = 0x47F000 ∧ Core.reset.regs.stale = 0 :=
  ⟨rfl, rfl, rfl, rfl, rfl, rfl⟩

/-- Both live caps of a hem are 16 (R186), and no pattern and no copy job is in force. -/
theorem Hem.reset_values : Hem.reset.hemctl = 0x101000 ∧ Hem.reset.patterns = [] ∧ Hem.reset.jobs = [] :=
  ⟨rfl, rfl, rfl⟩

/-- The registers of the device that the spec gives a reset value (R332, R360, R361). -/
theorem DevRegs.reset_values : DevRegs.reset.bootst = 0 ∧ DevRegs.reset.weights = 0x01010101 ∧ DevRegs.reset.retired = 0 :=
  ⟨rfl, rfl, rfl⟩

end Sys2Proof.Machine

namespace Sys2Proof.Proofs

open Sys2Proof.Machine

/-- Settles O45: each conjunct is what an accessor answers where nothing is listed, or a field of a part's reset value. -/
theorem reset : Obligations.Reset := by
  rintro s rfl
  obtain ⟨bootst, weights, retired⟩ := DevRegs.reset_values
  refine ⟨bootst, weights, retired, rfl, rfl, rfl, fun c t => ?slot, fun n t => ?handler, fun c => ?core, fun h => ?hem,
    fun c b => ?tag, State.poisoned_reset, rfl, fun _ => rfl, State.xOf_reset⟩
  case slot => rw [State.core_reset, Core.thread_reset, Thread.reset]
  case handler => rw [State.pp_reset, PP.handler_reset, Handler.reset, Thread.reset]
  case core => rw [State.core_reset]; exact Core.reset_regs
  case hem => rw [State.hem_reset]; exact Hem.reset_values
  case tag => rw [State.core_reset, Core.block_reset_tag]

end Sys2Proof.Proofs

/-! PROOFS. Events of messages and of station records (R31, R67, R200, R201, R236 to R242): what an event answers, what a core's and a
hem's update leaves of the rest of the device, how a packet joins the mesh. -/

namespace Sys2Proof.Machine

/-! ## Events -/

theorem coreEvent_next {c : Nat} (h : c < 1024) (f : State → State) (s : State) : coreEvent c f s = .next (f s) := if_pos h

theorem hemEvent_next {h : Nat} (hh : h < 64) (f : State → State) (s : State) : hemEvent h f s = .next (f s) := if_pos hh

/-! ## Partitions and cores after an update of a core -/

@[simp] theorem State.partOfCore_modCoreThread (s : State) (c t d : Nat) (f : Thread → Thread) :
    (s.modCoreThread c t f).partOfCore d = s.partOfCore d := rfl
@[simp] theorem State.partIdOf_modCoreThread (s : State) (c t d : Nat) (f : Thread → Thread) :
    (s.modCoreThread c t f).partIdOf d = s.partIdOf d := rfl

@[simp] theorem State.coreThread_modCoreThread_self (s : State) (c t : Nat) (f : Thread → Thread) :
    (s.modCoreThread c t f).coreThread c t = f (s.coreThread c t) := State.thread_setThread_self ..

/-- A slot's update leaves the run lists and the counts of its core. -/
@[simp] theorem State.work_modCoreThread (s : State) (c t d : Nat) (f : Thread → Thread) :
    ((s.modCoreThread c t f).core d).work = (s.core d).work := by
  rw [State.modCoreThread, State.modThread, State.core_setThread]
  split <;> rfl

/-- An update of a core that leaves its slots leaves every slot of the device. -/
theorem State.coreThread_modCore {f : Core → Core} (hf : ∀ k, (f k).threads = k.threads) (s : State) (c d t : Nat) :
    (s.modCore c f).coreThread d t = s.coreThread d t := by
  by_cases h : d = c
  · subst h
    simp [State.coreThread, State.thread, Core.thread, hf]
  · simp [State.coreThread, State.thread, State.core_modCore_ne _ _ h]

/-! ## The counts of a sweep (R67) -/

@[simp] theorem State.coreThread_countSent (s : State) (c d t : Nat) : (s.countSent c).coreThread d t = s.coreThread d t :=
  State.coreThread_modCore (f := fun k => k.modWork _) (fun _ => rfl) s c d t
@[simp] theorem State.coreThread_countReceived (s : State) (c d t : Nat) :
    (s.countReceived c).coreThread d t = s.coreThread d t :=
  State.coreThread_modCore (f := fun k => k.modWork _) (fun _ => rfl) s c d t

@[simp] theorem State.net_countReceived (s : State) (c : Nat) : (s.countReceived c).net = s.net := rfl

@[simp] theorem State.core_countSent_self (s : State) (c : Nat) :
    (s.countSent c).core c = (s.core c).modWork fun w => { w with sent := w.sent + 1 } := State.core_modCore_self ..
@[simp] theorem State.core_countReceived_self (s : State) (c : Nat) :
    (s.countReceived c).core c = (s.core c).modWork fun w => { w with received := w.received + 1 } := State.core_modCore_self ..

/-! ## Packets that leave or join the mesh -/

@[simp] theorem State.net_drop (s : State) (n : Nat) : (s.drop n).net = s.net.eraseIdx n := rfl
@[simp] theorem State.core_drop (s : State) (n c : Nat) : (s.drop n).core c = s.core c := rfl
@[simp] theorem State.coreThread_drop (s : State) (n c t : Nat) : (s.drop n).coreThread c t = s.coreThread c t := rfl

/-- Only a reply carries a place in its sender's order (R32). -/
theorem Flit.placed_of_not_reply {f : Flit} (h : f.lane ≠ 2) (hn : f.nth = 0) (l : List Flit) : f.placed l = f := by
  have zero : l.foldl (fun n g => if sameSender f g && f.lane = 2 then Nat.max n (g.nth + 1) else n) 0 = 0 := by simp [h]
  rw [Flit.placed, zero, ← hn]

/-- A packet that is no reply, of a partition that no Kiln fences, waits unchanged behind all packets of the mesh (R31, R338). -/
theorem State.send_request {s : State} {src dst : Agent} {cls part rseq : Nat} {b : Body} (hl : b.lane ≠ 2)
    (hf : s.fenced part = false) :
    s.send src dst cls part rseq b = { s with net := s.net ++ [newFlit src dst cls part rseq b []] } := by
  have hp : (newFlit src dst cls part rseq b []).placed s.net = newFlit src dst cls part rseq b [] :=
    Flit.placed_of_not_reply (f := newFlit src dst cls part rseq b []) hl rfl s.net
  rw [State.send, State.post, if_neg (by simp [newFlit, hf]), hp]

/-! ## Messages (R236 to R238) -/

/-- The slot after the first `n` dwords of its q1 have left. -/
def Thread.leftQ1 (n : Nat) (t : Thread) : Thread := { t with queues := { t.queues with q1 := t.queues.q1.drop n } }

theorem Queues.headMessage_whole {q : Queues} {h : Word} {l r : List Word} (hq : q.q1 = h :: l ++ r) (hp : q.q1partial ≤ r.length)
    (hl : l.length = hdrLen h) : q.headMessage = some (h :: l) := by
  have fits : hdrLen h + 1 ≤ q.sentWords := by
    simp only [Queues.sentWords, hq, List.cons_append, List.length_cons, List.length_append]
    omega
  have taken : q.q1.take (hdrLen h + 1) = h :: l := by
    rw [hq, ← hl]
    exact List.take_left' (l₁ := h :: l) rfl
  unfold Queues.headMessage
  split
  · next g _ hg =>
    obtain ⟨rfl, -⟩ := List.cons.inj (hq.symm.trans hg)
    rw [if_pos fits, taken]
  · next hg => exact absurd (hq.symm.trans hg) (by simp)

/-- A whole message at the head of q1 leaves for the core its header names where its queue has room beside what is coming. -/
theorem State.messageLeaves_of_room {s : State} {u t v : Nat} {p : Partition} {h : Word} {l : List Word}
    (hs : (s.core u).stop.reached = false) (hm : (s.coreThread u t).queues.headMessage = some (h :: l))
    (hp : s.partOfCore u = some p) (hv : p.coreFor (fld h 13 4) = some v)
    (room : s.coming v h + l.length + 1 ≤ s.queueFree v h) (hf : s.fenced p.id = false) :
    let r := { s.modCoreThread u t (Thread.leftQ1 (l.length + 1)) with
      net := s.net ++ [newFlit (.core u t) (.core v 15) p.cls p.id 0 (.message (h :: l) false) []] }
    s.messageLeaves u t = if v = u then r else r.countSent u := by
  have hid : s.partIdOf u = p.id := by simp [State.partIdOf, hp]
  have fits : ¬ s.queueFree v h < s.coming v h + (h :: l).length := by
    rw [List.length_cons]
    omega
  have sent := State.send_request (s := s.modCoreThread u t (Thread.leftQ1 (l.length + 1))) (src := .core u t)
    (dst := .core v 15) (cls := p.cls) (rseq := 0) (b := .message (h :: l) false) (by simp [Body.lane]) hf
  unfold State.messageLeaves
  simp only [hs, hm, hp, Option.bind_some, List.headD_cons, hv, if_neg fits, State.partOfCore_modCoreThread,
    State.partIdOf_modCoreThread, hid, Option.map_some, Option.getD_some]
  exact congrArg (fun r => if v = u then r else State.countSent r u) sent

theorem messageArrival_leaves {s : State} {u t v : Nat} {p : Partition} {h : Word} {l q : List Word} (hu : u < 1024) (ht : t < 16)
    (hs : (s.core u).stop.reached = false) (hq : (s.coreThread u t).queues.q1 = h :: l ++ q)
    (hw : (s.coreThread u t).queues.q1partial ≤ q.length) (hl : l.length = fld h 23 20) (hp : s.partOfCore u = some p)
    (hv : p.coreFor (fld h 13 4) = some v) (room : s.coming v h + l.length + 1 ≤ s.queueFree v h) (hf : s.fenced p.id = false) :
    ∃ r : State, exec (.messageArrival u t) s = .next r ∧ (r.coreThread u t).queues.q1 = q ∧
      r.net = s.net ++ [newFlit (.core u t) (.core v 15) p.cls p.id 0 (.message (h :: l) false) []] ∧
      (r.core u).work.sent = (s.core u).work.sent + (if v = u then 0 else 1) ∧ r.mem = s.mem := by
  have left : (Thread.leftQ1 (l.length + 1) (s.coreThread u t)).queues.q1 = q := by
    rw [Thread.leftQ1, hq]
    exact List.drop_left' (l₁ := h :: l) rfl
  refine ⟨s.messageLeaves u t, ?_, ?_⟩
  · show execMessageArrival u t s = _
    rw [execMessageArrival, coreEvent_next hu, if_pos ht]
  rw [State.messageLeaves_of_room hs (Queues.headMessage_whole hq hw hl) hp hv room hf]
  have thread : (s.modCoreThread u t (Thread.leftQ1 (l.length + 1))).coreThread u t = _ := State.coreThread_modCoreThread_self ..
  have work := State.work_modCoreThread s u t u (Thread.leftQ1 (l.length + 1))
  split
  · exact ⟨(congrArg (·.queues.q1) thread).trans left, rfl, (congrArg Work.sent work).trans (by simp), rfl⟩
  · refine ⟨?_, rfl, ?_, rfl⟩
    · rw [State.coreThread_countSent]
      exact (congrArg (·.queues.q1) thread).trans left
    · rw [State.core_countSent_self]
      exact congrArg (·.sent + 1) work

/-- A message that a core takes is appended to its queue; one from another core counts as received. -/
theorem State.messageArrives_of_room {s r : State} {v i : Nat} {f : Flit} {l : List Word} (hn : s.nextMessage v = some (i, f, l))
    (hf : s.fate v = .take) (hr : (s.drop i).putMessage v l = some r) :
    s.messageArrives v = if f.src.node = f.dst.node then r else r.countReceived v := by
  simp only [State.messageArrives, hn, hf, hr]

/-- A message for a slot joins its q0 where that has room (R238). -/
theorem State.putMessage_q0 {s : State} {v : Nat} {h : Word} {l : List Word} (room : l.length + 1 ≤ s.queueFree v h)
    (hq : h.getLsbD 14 = false) :
    s.putMessage v (h :: l) =
      some (s.modCoreThread v (fld h 3 0) fun t => { t with queues := { t.queues with q0 := t.queues.q0 ++ h :: l } }) := by
  simp only [State.putMessage, List.headD_cons, List.length_cons, if_neg (Nat.not_lt.mpr room), hq, Bool.false_eq_true, if_false]

/-- A message for the core joins the q2 ring where that has room (R238, R242). -/
theorem State.putMessage_q2 {s : State} {v : Nat} {h : Word} {l : List Word} (room : l.length + 1 ≤ s.queueFree v h)
    (hq : h.getLsbD 14 = true) : s.putMessage v (h :: l) = some (s.modCore v fun k => k.q2Append (h :: l)) := by
  simp only [State.putMessage, List.headD_cons, List.length_cons, if_neg (Nat.not_lt.mpr room), hq, if_true]

theorem messageArrival_arrives {v : Nat} (hv : v < 1024) (s : State) :
    exec (.messageArrival v 16) s = .next (s.messageArrives v) := by
  show execMessageArrival v 16 s = _
  rw [execMessageArrival, coreEvent_next hv, if_neg (Nat.lt_irrefl 16)]

theorem messageArrival_q0 {s : State} {v i : Nat} {f : Flit} {h : Word} {l : List Word} (hv : v < 1024)
    (hn : s.nextMessage v = some (i, f, h :: l)) (hf : s.fate v = .take) (room : l.length + 1 ≤ s.queueFree v h)
    (hq : h.getLsbD 14 = false) :
    ∃ r : State, exec (.messageArrival v 16) s = .next r ∧ r.net = s.net.eraseIdx i ∧
      (r.coreThread v (fld h 3 0)).queues.q0 = (s.coreThread v (fld h 3 0)).queues.q0 ++ h :: l ∧
      (r.core v).work.received = (s.core v).work.received + (if f.src.node = f.dst.node then 0 else 1) := by
  refine ⟨_, messageArrival_arrives hv s, ?_⟩
  rw [State.messageArrives_of_room hn hf (State.putMessage_q0 (s := s.drop i) room hq)]
  split
  · simp
  · simp [Core.modWork]

theorem messageArrival_q2 {s : State} {v i : Nat} {f : Flit} {h : Word} {l : List Word} (hv : v < 1024)
    (hn : s.nextMessage v = some (i, f, h :: l)) (hf : s.fate v = .take) (room : l.length + 1 ≤ s.queueFree v h)
    (hq : h.getLsbD 14 = true) :
    ∃ r : State, exec (.messageArrival v 16) s = .next r ∧ r.net = s.net.eraseIdx i ∧
      (r.core v).q2 = (s.core v).q2 ++ [⟨(s.core v).q2next % q2Size (s.core v).regs.q2cfg, l.length + 1, none, false⟩] ∧
      (r.core v).work.received = (s.core v).work.received + (if f.src.node = f.dst.node then 0 else 1) := by
  refine ⟨_, messageArrival_arrives hv s, ?_⟩
  rw [State.messageArrives_of_room hn hf (State.putMessage_q2 (s := s.drop i) room hq)]
  split
  · simp [Core.q2Append]
  · simp [Core.q2Append, Core.modWork]

/-! ## Records that wait in a station (R200, R201) -/

/-- The station's first q5 record enters the queue of its core, and its output is complete (R200). -/
def State.q5Entered (s : State) (h st : Nat) (l : List Word) (e o : Nat) : State :=
  (s.modHem h fun m =>
    let m := { m with q5waiting := m.q5waiting.erase (st, l, e, o) }
    if e = noEntry then m else m.setOutput e o { m.output e o with completed := true }).modCore (h * 16 + st)
      fun k => { k with q5 := k.q5 ++ [l.take 2] }

section
variable {s : State} {h st e o : Nat} {l : List Word}

theorem State.q5waiting_q5Entered (hw : (s.hem h).q5waiting = [(st, l, e, o)]) : ((s.q5Entered h st l e o).hem h).q5waiting = [] := by
  rw [State.q5Entered, State.hem_modCore, State.hem_modHem_self]
  split <;> simp [Hem.setOutput, hw]

theorem State.completed_q5Entered (he : e < 16) : (((s.q5Entered h st l e o).hem h).output e o).completed = true := by
  rw [State.q5Entered, State.hem_modCore, State.hem_modHem_self]
  simp [show e ≠ noEntry from Nat.ne_of_lt he, Hem.setOutput, Hem.output]

theorem State.q5_q5Entered : ((s.q5Entered h st l e o).core (h * 16 + st)).q5 = (s.core (h * 16 + st)).q5 ++ [l.take 2] := by
  simp [State.q5Entered]

/-- The record that waits enters where q5 has room; the addresses behind its two dwords get their decrements. -/
theorem q5RecordPush_of_waiting (hh : h < 64) (room : (s.core (h * 16 + st)).q5.length < 16)
    (hw : (s.hem h).q5waiting = [(st, l, e, o)]) :
    exec (.q5RecordPush h st) s =
      .next ((l.drop 2).foldl (fun s a => s.sendDec (h * 16 + st) a 1) (s.q5Entered h st l e o)) := by
  show execQ5RecordPush h st s = _
  have found : (s.hem h).q5waiting.find? (fun w => w.1 == st) = some (st, l, e, o) := by simp [hw]
  simp only [execQ5RecordPush, hemEvent_next hh, found, if_neg (Nat.not_le.mpr room)]
  rfl

end

/-- A decrement leaves its core for the one that holds the counter record, and counts as sent (R67, R466). -/
theorem State.sendDec_unfenced {s : State} {c : Nat} (hf : s.fenced (s.partIdOf c) = false) (va : Word) (n : Nat) :
    s.sendDec c va n = { s.countSent c with net := s.net ++ [newFlit (.core c 15) (.core (s.recordAt c va).1 15)
      (((s.partOfCore c).map (·.cls)).getD 0) (s.partIdOf c) 0 (.dec (s.recordAt c va).2 n) []] } :=
  State.send_request (s := s.countSent c) (by simp [Body.lane]) hf

theorem q6RecordPush_of_waiting {s : State} {h st : Nat} {w : List Word} (hh : h < 64) (hw : (s.hem h).q6waiting = [(st, w)])
    (room : (s.core (h * 16 + st)).q6.length < 16) :
    exec (.q6RecordPush h st) s = .next ((s.modHem h fun m => { m with q6waiting := m.q6waiting.erase (st, w) }).modCore (h * 16 + st)
      fun k => { k with q6 := k.q6 ++ [w] }) := by
  show execQ6RecordPush h st s = _
  have found : (s.hem h).q6waiting.find? (fun w => w.1 == st) = some (st, w) := by simp [hw]
  simp only [execQ6RecordPush, hemEvent_next hh, found, if_neg (Nat.not_le.mpr room)]

/-! ## Q2CFG (R242) -/

theorem q2cfg_taken {s : State} {u : Nat} {w : Word} (hu : u < 1024) (he : (s.core u).q2 = [])
    (ok : q2cfgOk (s.reservedFrom u) (w &&& 0xF7FFFF) = true) :
    exec (.q2cfg u w) s = .next (s.modCore u fun k => { k with q2next := 0, regs := { k.regs with q2cfg := w &&& 0xF7FFFF } }) := by
  have ok' : q2cfgOk (s.reservedFrom u) (w &&& w64 0xF7FFFF) = true := ok
  show execQ2cfg u w s = _
  rw [execQ2cfg, coreEvent_next hu, State.writeQ2cfg, if_neg (by simp [he, ok'])]
  rfl

theorem q2cfg_ignored {s : State} {u : Nat} {w : Word} (hu : u < 1024)
    (no : (s.core u).q2 ≠ [] ∨ q2cfgOk (s.reservedFrom u) (w &&& 0xF7FFFF) = false) : exec (.q2cfg u w) s = .next s := by
  have no' : (s.core u).q2 ≠ [] ∨ q2cfgOk (s.reservedFrom u) (w &&& w64 0xF7FFFF) = false := no
  show execQ2cfg u w s = _
  rw [execQ2cfg, coreEvent_next hu, State.writeQ2cfg, if_pos (by simpa using no')]

/-! ## A store that only asks (R13, R222, R301; log entry 88) -/

@[simp] theorem State.mem_post (s : State) (f : Flit) : (s.post f).mem = s.mem := by
  unfold State.post
  split <;> rfl

/-- A request that only asks whether it would be refused changes nothing of memory. -/
theorem State.mem_performPlain_of_asksOnly {f : Flit} (ha : f.asksOnly = true) (s : State) (u : Nat) (p : Partition) :
    (s.performPlain u p f).mem = s.mem := by
  rw [State.performPlain, if_pos ha, State.notRefused, State.reply, State.mem_post]

/-- Nor does it where it stands among the stores to WALK lines and every acknowledgement is in. -/
theorem walkStorePerformed_mem_of_asksOnly {s r : State} {u t b : Nat} {f : Flit} {p : Partition} (hu : u < 1024)
    (hw : s.walkStores = [(b, ⟨f, 0⟩)]) (hc : f.src = .core u t) (hp : s.partById f.part = some p) (ha : f.asksOnly = true)
    (hr : exec (.walkStorePerformed u t) s = .next r) : r.mem = s.mem := by
  have ready : s.walkReady u t = some (b, ⟨f, 0⟩) := by simp [State.walkReady, hw, hc]
  have part : State.partById { s with walkStores := s.walkStores.del b } f.part = some p := hp
  have next : execWalkStorePerformed u t s = .next r := hr
  simp only [execWalkStorePerformed, coreEvent_next hu, ready, part, Host.Outcome.next.injEq] at next
  rw [← next]
  exact State.mem_performPlain_of_asksOnly ha _ _ p

end Sys2Proof.Machine

namespace Sys2Proof.Proofs

open Sys2Proof.Machine

/-- Settles O50: for each event, what it answers where the message, the record or the value it names is there and has room. -/
theorem messageEvents : Obligations.MessageEvents := by
  refine ⟨?leaves, ?arrives, ?q5, ?q6, ?q2cfg⟩
  case leaves =>
    intro s u t v p h l q hu ht hs hq hw hl hp hv room hf
    exact messageArrival_leaves hu ht hs hq hw hl hp hv room hf
  case arrives =>
    intro s v i f h l hv hn hf room
    exact ⟨messageArrival_q0 hv hn hf room, messageArrival_q2 hv hn hf room⟩
  case q5 =>
    intro s h st e o a b c hh room
    constructor
    · intro hw
      exact ⟨_, q5RecordPush_of_waiting hh room hw, State.q5waiting_q5Entered hw, State.completed_q5Entered, State.q5_q5Entered, rfl⟩
    · intro hw hf
      refine ⟨_, _, (q5RecordPush_of_waiting hh room hw).trans
          (congrArg Host.Outcome.next (State.sendDec_unfenced (s := s.q5Entered h st [a, b, c] e o) hf c 1)),
        State.q5waiting_q5Entered hw, State.completed_q5Entered, ?_, rfl, rfl, rfl⟩
      exact (congrArg Core.q5 (State.core_countSent_self _ _)).trans State.q5_q5Entered
  case q6 =>
    intro s h st w hh hw room
    exact ⟨_, q6RecordPush_of_waiting hh hw room, by simp [hw], by simp⟩
  case q2cfg =>
    rintro s u v w hu rfl
    exact ⟨q2cfg_taken hu, q2cfg_ignored hu⟩

/-- Refutes O52, by its last part: a store that only asks whether it would be refused (log entry 88), where it stands among the stores
that wait for acknowledgements, is answered with nothing written; the statement has no premise that leaves it out. -/
theorem not_meshEvents : ¬ Obligations.MeshEvents := by
  rintro ⟨-, -, -, -, -, performed⟩
  let p : Partition := Partition.formed 1 0 0 0
  let f : Flit := newFlit (.core 0 0) (.pp 0) 0 1 4 (msg 0 1 [0x40008, 0, 7, 2, 0x1234, 1]) []
  let s : State := { State.reset with parts := [(1, p)], walkStores := [(0x40000, ⟨f, 0⟩)] }
  obtain ⟨r, hr, -, written, -⟩ := performed s 0 0 0x40000 f p (by decide) rfl rfl rfl rfl rfl rfl
  have kept : r.mem = s.mem := walkStorePerformed_mem_of_asksOnly (by decide) rfl rfl rfl rfl hr
  have changed : s.mem.write (f.word 0).toNat (f.word 3).toNat (f.word 4).toNat = [(0x40008, 0x34), (0x40009, 0x12)] := by decide
  exact absurd (kept.symm.trans (written.trans changed)) (List.cons_ne_nil _ _).symm

end Sys2Proof.Proofs

/-! PROOFS. The checks of an instruction's fields where one names a register outside its window (R39, R508). -/

namespace Sys2Proof.Machine

/-- The checks of the fields stop at the first register outside its window, once the privilege allows the fields (R104, R508). -/
theorem checkFields_unbound {s : State} {u : Uses} {e : Nat} (hp : s.me.priv = .u → u.sys = false ∧ ∀ f ∈ u.list, f.q7 = false)
    (he : u.list.findSome? (Fld.unbound s.slim s.vlim) = some e) : checkFields s u = .error (.trap cRegBound (w64 e) none) := by
  have allowed : (s.me.priv == .u && (u.sys || u.list.any Fld.q7)) = false := by
    by_cases h : s.me.priv = .u
    · obtain ⟨sys, q7⟩ := hp h
      simpa [sys] using fun _ => q7
    · simp [h]
  simp only [checkFields, allowed, Bool.not_false, must_true, except_ok_bind, he]
  rfl

end Sys2Proof.Machine

namespace Sys2Proof.Proofs

open Sys2Proof.Machine

/-- Settles O2: the first field in the order a, b, d whose register is outside its window is where the checks of the fields stop. -/
theorem regBound : Obligations.RegBound := by
  intro s i u e hu hv hl hp he
  obtain ⟨body, hx⟩ := exec_eq_issue hu
  have first : u.list.findSome? (Fld.unbound s.slim s.vlim) = some e := by
    rw [← he, List.head?_filterMap]
    refine congrArg (fun f => u.list.findSome? f) (funext fun f => ?_)
    cases f
    case src | dst | both => simp [Fld.unbound, Nat.one_le_iff_ne_zero, and_assoc]
    all_goals rfl
  rw [hx, issue_checks hv hl (checkFields_unbound hp first)]
  rfl

end Sys2Proof.Proofs

/-! PROOFS. A result known at issue: a register takes it, or q1 with its checks and its release (R79, R236, R237). -/

namespace Sys2Proof.Machine

/-- Replacing bits 45 to 32 of a dword, which hold SOURCE (R236), leaves the bits below. -/
theorem hdrLen_setFld (h : Word) (n : Nat) : hdrLen (setFld h 45 32 n) = hdrLen h := by
  have lt := h.isLt
  simp only [hdrLen, setFld, fld, bits, BitVec.toNat_ofNat]
  omega

@[simp] theorem hdrLen_pushed (s : State) (v : Word) : hdrLen (s.pushed v) = hdrLen v := by
  unfold State.pushed
  split
  · exact hdrLen_setFld ..
  · rfl

@[simp] theorem Queues.completes_pushed (q : Queues) (s : State) (v : Word) : q.completes (s.pushed v) = q.completes v := by
  simp only [Queues.completes, hdrLen_pushed]

theorem State.releasedAt_queues (s : State) (wide : Bool) : (s.releasedAt wide).me.queues = s.me.queues := by
  unfold State.releasedAt
  split <;> simp
@[simp] theorem State.pushed_releasedAt (s : State) (wide : Bool) (v : Word) : (s.releasedAt wide).pushed v = s.pushed v := by
  unfold State.releasedAt
  split
  · simp [State.pushed, State.threadId, State.launchId, State.partOfCore, State.partOfHem]
  · rfl

/-- A dword joins q1, and ends its message where it is the last of it (R237). -/
theorem State.modQueues_push {t r : State} {v : Word} (hq : r.me.queues = t.me.queues) (hp : r.pushed v = t.pushed v) :
    (r.modQueues fun q => q.push (r.pushed v)) = r.modQueues fun q => { q with
      q1 := q.q1 ++ [t.pushed v], q1partial := if t.me.queues.completes v then 0 else q.q1partial + 1 } := by
  have ends : r.me.queues.completes (t.pushed v) = t.me.queues.completes v := by rw [hq, Queues.completes_pushed]
  simp only [State.modQueues, State.modMe, Queues.push, hp, ends]

/-- A dword known at issue: q1 takes it as R79 and R237 say. -/
theorem State.ends_push1 {s t : State} {v : Word} (h : t.takes 121 v) : s.ends (push1 v t) = s.gives false t 121 v := by
  unfold push1 State.gives
  cases hr : t.q1Room 1
  · rfl
  simp only [Bool.not_true, Bool.false_eq_true, if_false, ne_eq, not_true_eq_false, reduceCtorEq]
  cases hf : (if t.me.queues.q1partial = 0 then t.headerFault v else none)
  case some e =>
    have hq : t.me.queues.q1partial = 0 := by
      by_contra hq
      simp [hq] at hf
    rw [if_pos hq] at hf
    simp only [hq, hf, if_true]
    rfl
  case none =>
    have pushes : s.ends (if t.me.queues.completes v = true then do
          let t ← gate true t
          .ok (t.modQueues fun q => q.push (t.pushed v))
        else .ok (t.modQueues fun q => q.push (t.pushed v))) =
        (if t.me.queues.completes v = true then t.releasedAt true else t).modQueues fun q => { q with
          q1 := q.q1 ++ [t.pushed v], q1partial := if t.me.queues.completes v then 0 else q.q1partial + 1 } := by
      by_cases hc : t.me.queues.completes v = true
      · have joins := State.modQueues_push (t.releasedAt_queues true) (t.pushed_releasedAt true v)
        simpa [hc, gate_drained (h rfl hc), State.ends] using joins
      · have joins := State.modQueues_push (t := t) (v := v) rfl rfl
        simpa [hc, State.ends] using joins
    by_cases hq : t.me.queues.q1partial = 0
    · rw [if_pos hq] at hf
      simp only [hq, hf, if_true, except_ok_bind]
      exact pushes
    · simp only [hq, if_false, except_ok_bind]
      exact pushes

/-- What an instruction whose last effect is a result known at issue leaves (R79, R237). -/
theorem State.ends_putX {s t : State} {d : Nat} {v : Word} (h : t.takes d v) : s.ends (putX d v t) = s.gives false t d v := by
  unfold putX
  split
  · next hd => subst hd; exact State.ends_push1 h
  · next hd => simp [State.gives, hd, State.ends]

end Sys2Proof.Machine

/-! PROOFS. BCARM and BCWAIT (R83, R257, R378, R379). -/

namespace Sys2Proof.Machine

theorem Regs.carries_eq_false {g : Regs} {i n : Nat} (h : fld (g.barrier i) 62 0 + n < 2 ^ 63) : g.carries i n = false :=
  decide_eq_false (Nat.not_le.mpr h)

/-- An addition that does not carry out of bit 62 goes to PEND and leaves OVER (R83). -/
theorem Regs.addBarrier_fits {g : Regs} {i n : Nat} (h : fld (g.barrier i) 62 0 + n < 2 ^ 63) :
    g.addBarrier i n = g.setBarrier i (w64 ((if (g.barrier i).getLsbD 63 then 2 ^ 63 else 0) + (fld (g.barrier i) 62 0 + n))) := by
  rw [Regs.addBarrier, Regs.carries_eq_false h, if_neg Bool.false_ne_true, bcbWord, bcbPend, Nat.mod_eq_of_lt h]
  rfl

/-- A barrier whose PEND is 0 is its OVER bit alone. -/
theorem barrier_of_pend_zero {b : Word} (h : fld b 62 0 = 0) : b = if b.getLsbD 63 then BitVec.ofNat 64 (2 ^ 63) else 0 := by
  have low : b.toNat % 2 ^ 63 = 0 := by simpa [fld, bits] using h
  have top : b.getLsbD 63 = decide (2 ^ 63 ≤ b.toNat) := BitVec.msb_eq_decide b
  have lt := b.isLt
  apply BitVec.eq_of_toNat_eq
  by_cases hb : 2 ^ 63 ≤ b.toNat
  · rw [top, decide_eq_true hb, if_pos rfl, BitVec.toNat_ofNat]
    omega
  · rw [top, decide_eq_false hb, if_neg Bool.false_ne_true]
    change b.toNat = 0
    omega

section
variable {s t : State} {i r : Nat} {x y z : Word}

theorem bcarm_adds (hb : s.Begins (usesA r) x y z t) (h : fld (t.me.regs.barrier i) 62 0 + x.toNat < 2 ^ 63) :
    exec (.bcarm i r) s = .next (t.modRegs fun g => g.addBarrier i x.toNat) := by
  refine (issue_begins hb).trans ?_
  rw [Regs.carries_eq_false h]
  rfl

theorem bcarm_carries (hb : s.Begins (usesA r) x y z t) (h : 2 ^ 63 ≤ fld (t.me.regs.barrier i) 62 0 + x.toNat) :
    exec (.bcarm i r) s = .next (s.takeTrap 0x0E (w64 i) none) := by
  refine (issue_begins hb).trans ?_
  rw [show t.me.regs.carries i x.toNat = true from decide_eq_true h]
  rfl

theorem bcwait_failed (hb : s.Begins (usesD r) x y z t) {id : Nat} (h : t.failedAt t.cur.unit t.cur.slot i = some id) :
    exec (.bcwait r i) s = .next (s.takeTrap 0x0E (w64 id) none) := by
  refine (issue_begins hb).trans ?_
  rw [h]
  rfl

theorem bcwait_pending (hb : s.Begins (usesD r) x y z t) (hf : t.failedAt t.cur.unit t.cur.slot i = none)
    (h : fld (t.me.regs.barrier i) 62 0 ≠ 0) :
    exec (.bcwait r i) s = .next (s.modMe fun h => h.parked .bcount (.bytes i)) := by
  refine (issue_begins hb).trans ?_
  rw [hf]
  exact congrArg (fun e => Host.Outcome.next (s.ends e)) (if_pos h)

theorem bcwait_complete (hb : s.Begins (usesD r) x y z t) (hf : t.failedAt t.cur.unit t.cur.slot i = none)
    (h : fld (t.me.regs.barrier i) 62 0 = 0) :
    exec (.bcwait r i) s =
      .next (s.ends (putX r (t.me.regs.barrier i) (t.modRegs fun g => g.setBarrier i (bcbWord false 0)))) := by
  refine (issue_begins hb).trans ?_
  rw [hf]
  exact congrArg (fun e => Host.Outcome.next (s.ends e)) (if_neg (fun hn => hn h))

end

end Sys2Proof.Machine

namespace Sys2Proof.Proofs

open Sys2Proof.Machine

/-- Settles O18: BCARM by whether its sum carries, BCWAIT by the failed job first, then by PEND. -/
theorem byteCounts : Obligations.ByteCounts := by
  intro s t i a d x y z _ _
  refine ⟨fun hb => ⟨fun h => ?_, bcarm_carries hb⟩, fun hb => ⟨fun id => bcwait_failed hb, bcwait_pending hb, ?_⟩⟩
  · rw [bcarm_adds hb h, State.modRegs, State.modMe, Regs.addBarrier_fits h]
    rfl
  · rintro v r hv rfl hf h takes
    obtain rfl : v = t.me.regs.barrier i := hv.trans (barrier_of_pend_zero h).symm
    rw [bcwait_complete hb hf h]
    exact congrArg Host.Outcome.next (State.ends_putX takes)

end Sys2Proof.Proofs

/-! PROOFS. MFMT and DTLD (R87, R155, R393, R394, R423), with what getting operands and updating a core leave of the device. -/

namespace Sys2Proof.Machine

/-! ## What getting the operands leaves of the device -/

/-- A pop leaves the time. -/
theorem State.pop_time {s t : State} {q : Nat} {w : Word} (h : s.pop q = some (w, t)) : t.time = s.time := by
  unfold State.pop at h
  simp only at h
  split at h
  · cases h
  split at h
  case h_5 | h_6 =>
    obtain ⟨_, -, popped⟩ := Option.map_eq_some_iff.mp h
    cases popped
    rfl
  all_goals
    repeat' split at h
    all_goals cases h <;> simp

theorem State.operand_time {s t : State} {f : Fld} {w : Word} (h : s.operand f = some (w, t)) : t.time = s.time := by
  cases f <;> simp only [State.operand] at h
  case src | both =>
    split at h
    · cases h; rfl
    · exact State.pop_time h
  all_goals cases h; rfl

/-- Getting the operands takes no time. -/
theorem State.Begins.time {s t : State} {u : Uses} {a b c : Word} (h : s.Begins u a b c t) : t.time = s.time := by
  obtain ⟨-, -, r, ho, rfl⟩ := h
  unfold State.operands at ho
  split at ho
  · cases ho
  next ha =>
  split at ho
  · cases ho
  next hb =>
  split at ho
  · cases ho
  next hd =>
  cases ho
  rw [State.setPc, State.modMe_time, State.operand_time hd, State.operand_time hb, State.operand_time ha]

/-! ## The issuing slot's core, and the bytes that an update leaves -/

@[simp] theorem State.myCore_modMyCore (s : State) (f : Core → Core) : (s.modMyCore f).myCore = f s.myCore :=
  State.core_modCore_self ..

@[simp] theorem State.byteAt_modMe (s : State) (f : Thread → Thread) (l : Loc) : (s.modMe f).byteAt l = s.byteAt l :=
  (s.sameElsewhere_modMe f).byteAt l

/-- An update of a core that leaves its local memory and its data cache leaves every byte. -/
theorem State.byteAt_modCore {s : State} {c : Nat} {f : Core → Core} (hs : (f (s.core c)).sram = (s.core c).sram)
    (hc : (f (s.core c)).cache = (s.core c).cache) (l : Loc) : (s.modCore c f).byteAt l = s.byteAt l := by
  have kept (d : Nat) : ((s.modCore c f).core d).sram = (s.core d).sram ∧ ((s.modCore c f).core d).cache = (s.core d).cache := by
    by_cases h : d = c
    · subst h
      rw [State.core_modCore_self]
      exact ⟨hs, hc⟩
    · rw [State.core_modCore_ne _ _ h]
      exact ⟨rfl, rfl⟩
  cases l with
  | phys a => rfl
  | handler n off => rfl
  | sram d off => rw [State.byteAt, (kept d).1, State.byteAt]
  | cached d a => simp only [State.byteAt, Core.block, (kept d).2]

/-! ## MFMT (R87, R423) -/

theorem ctxReserved_iff (c : Word) : ctxReserved c = true ↔ fld c 63 20 ≠ 0 ∨ fld c 15 14 ≠ 0 ∨ fld c 7 6 ≠ 0 := by
  simp [ctxReserved, or_assoc]

theorem ctxScale16_eq (c : Word) :
    ctxScale16 c = (scaleOn16 (c.getLsbD 5) (fld c 4 3) || scaleOn16 (c.getLsbD 13) (fld c 12 11)) := rfl

section
variable {s t : State} {d r : Nat} {x y z : Word}

theorem mfmt_reserved (hb : s.Begins (usesDA d r) x y z t) (h : ctxReserved x = true) :
    exec (.mfmt d r) s = .next (s.takeTrap 0x10 18 none) := by
  refine (issue_begins hb).trans ?_
  rw [h]
  rfl

theorem mfmt_scale16 (hb : s.Begins (usesDA d r) x y z t) (hr : ctxReserved x = false) (h : ctxScale16 x = true) :
    exec (.mfmt d r) s = .next (s.takeTrap 0x10 17 none) := by
  refine (issue_begins hb).trans ?_
  rw [hr, h]
  rfl

theorem mfmt_sets (hb : s.Begins (usesDA d r) x y z t) (hr : ctxReserved x = false) (h : ctxScale16 x = false) :
    exec (.mfmt d r) s = .next (s.ends (putX d t.me.regs.fmtctx (t.modRegs fun g => { g with fmtctx := x }))) := by
  refine (issue_begins hb).trans ?_
  rw [hr, h]
  rfl

end

/-! ## DTLD (R155, R393, R394) -/

/-- What a sequence that succeeds has passed. -/
theorem exec_bind_ok {α β : Type} {x : Exec α} {f : α → Exec β} {b : β} (h : (x >>= f) = .ok b) :
    ∃ a, x = .ok a ∧ f a = .ok b := by
  cases x with
  | error e => cases h
  | ok a => exact ⟨a, rfl, h⟩

/-- Reading elements that the instruction goes on with changes the translation caches only. -/
theorem readNow_keeps {a : Acc} {f : Form} {els : List El} {s r : State} {l : List (Place × Nat)}
    (h : readNow a f els s = .ok (l, r)) : s.TlbOnly r := by
  obtain ⟨⟨t, ps⟩, checked, h⟩ := exec_bind_ok h
  have kept := checkAccess_keeps checked
  obtain ⟨_, -, h⟩ := exec_bind_ok h
  split at h
  · cases h
  obtain ⟨_, -, h⟩ := exec_bind_ok h
  obtain ⟨_, -, h⟩ := exec_bind_ok h
  cases h
  exact kept

/-- The first word with a reserved bit is the fault of a table (R155). -/
theorem tableFault_reserved {l : List Nat} {c : Nat} (hc : c < 256) (h : 2 ^ 19 ≤ l.getD c 0)
    (first : ∀ e, e < c → l.getD e 0 < 2 ^ 19) : tableFault l = some c := by
  have found : (List.range 256).find? (fun c => decide (l.getD c 0 / 2 ^ 19 ≠ 0)) = some c := by
    refine List.find?_range_eq_some.mpr ⟨decide_eq_true ?_, List.mem_range.mpr hc, fun e he => ?_⟩
    · exact Nat.ne_of_gt (Nat.div_pos h (Nat.two_pow_pos _))
    · simpa using first e he
  simp only [tableFault, found]

/-- A table of words without reserved bits fails only where none is finite (R155). -/
theorem tableFault_clean {l : List Nat} (h : ∀ e, e < 256 → l.getD e 0 < 2 ^ 19) :
    tableFault l = if l.all fun w => w / 2 ^ 10 % 256 = 255 then some 256 else none := by
  have none_found : (List.range 256).find? (fun c => decide (l.getD c 0 / 2 ^ 19 ≠ 0)) = none := by
    refine List.find?_eq_none.mpr fun e he => ?_
    simpa using h e (List.mem_range.mp he)
  simp only [tableFault, none_found]

/-- Writing n keys from a base up. -/
theorem Map.at_putRange {α : Type} (m : Map α) (b n j : Nat) (f : Nat → α) (d : α) :
    ((List.range n).foldl (fun m c => m.put (b + c) (f c)) m).at j d =
      if b ≤ j ∧ j < b + n then f (j - b) else m.at j d := by
  induction n with
  | zero => simp
  | succ n ih =>
    rw [List.range_succ, List.foldl_append, List.foldl_cons, List.foldl_nil, Map.at_put, ih]
    by_cases hj : j = b + n
    · subst hj; simp
    · rw [if_neg hj]
      exact if_congr (by omega) rfl rfl

/-- A core's decode tables with table i replaced (R155). -/
def replaceTable (m : Map (BitVec 32)) (i : Nat) (words : List Nat) : Map (BitVec 32) :=
  (List.range 256).foldl (fun m c => m.put (256 * i + c) (BitVec.ofNat 32 (words.getD c 0))) m

theorem at_replaceTable (m : Map (BitVec 32)) (i : Nat) (words : List Nat) (k : Nat) : (replaceTable m i words).at k 0 =
    if 256 * i ≤ k ∧ k < 256 * i + 256 then BitVec.ofNat 32 (words.getD (k - 256 * i) 0) else m.at k 0 :=
  Map.at_putRange m (256 * i) 256 k (fun c => BitVec.ofNat 32 (words.getD c 0)) 0

/-- The state in which table i holds the words, and is held back no more (R394). -/
def State.tableLoaded (r : State) (i : Nat) (words : List Nat) : State :=
  (r.modMe fun t => { t with tableHold := none }).modMyCore fun k => { k with dt := replaceTable k.dt i words }

/-- What DTLD of table i does once the read of its words is complete (R155, R394). -/
def State.loadTable (r : State) (i : Nat) (words : List Nat) : Exec State :=
  match tableFault words with
  | some c => trapWith cFormat c
  | none =>
    if r.myCore.array.uses i (r.heldSince i) then
      .error (.wait (.tableUsers i (r.heldSince i)) fun s => s.modMe fun t => { t with tableHold := some (i, r.heldSince i) })
    else .ok (r.tableLoaded i words)

section
variable {s t r : State} {i a : Nat} {x y z : Word} {words : List Nat} {l : List (Place × Nat)}

theorem State.loadTable_faulty {c : Nat} (h : tableFault words = some c) : r.loadTable i words = trapWith cFormat c := by
  rw [State.loadTable, h]

theorem State.loadTable_used (h : tableFault words = none) (hu : r.myCore.array.uses i (r.heldSince i) = true) :
    s.ends (r.loadTable i words) = s.modMe fun h => { h.waits (.tableUsers i (r.heldSince i)) with
      tableHold := some (i, r.heldSince i) } := by
  simp only [State.loadTable, h, hu, if_true, State.ends, State.halt, State.modMe_modMe]

theorem State.loadTable_free (h : tableFault words = none) (hu : r.myCore.array.uses i (r.heldSince i) = false) :
    r.loadTable i words = .ok (r.tableLoaded i words) := by
  rw [State.loadTable, h]
  exact if_neg (by simp [hu])

theorem State.me_tableLoaded : (r.tableLoaded i words).me = { r.me with tableHold := none } := by
  rw [State.tableLoaded, State.me_modMyCore (by rfl), State.me_modMe]

theorem State.byteAt_tableLoaded (b : Loc) : (r.tableLoaded i words).byteAt b = r.byteAt b := by
  rw [State.tableLoaded, State.modMyCore, State.byteAt_modCore (by rfl) (by rfl), State.byteAt_modMe]

theorem State.dt_modMe (r : State) (f : Thread → Thread) : (r.modMe f).myCore.dt = r.myCore.dt := by
  rw [State.myCore, State.modMe_cur, State.core_modMe]
  split <;> rfl

theorem State.dt_tableLoaded : (r.tableLoaded i words).myCore.dt = replaceTable r.myCore.dt i words := by
  simp only [State.tableLoaded, State.myCore_modMyCore, State.dt_modMe]

theorem dtld_misaligned (hb : s.Begins (usesA a) x y z t) (h : x.toNat % 64 ≠ 0) :
    exec (.dtld i a) s = .next (s.takeTrap 0x04 x none) := by
  refine (issue_begins hb).trans ?_
  rw [show (x.toNat % 64 == 0) = false from beq_false_of_ne h]
  exact congrArg (fun v => Host.Outcome.next (s.takeTrap 0x04 v none)) (BitVec.ofNat_toNat ..)

theorem dtld_window (hb : s.Begins (usesA a) x y z t) (h : x.toNat % 64 = 0)
    (hw : windowOf x.toNat = .device ∨ windowOf x.toNat = .remote) : exec (.dtld i a) s = .next (s.takeTrap 0x05 x none) := by
  refine (issue_begins hb).trans ?_
  have barred : (windowOf x.toNat == .device || windowOf x.toNat == .remote) = true := by simpa using hw
  simp only [h, BEq.rfl, must_true, except_ok_bind, barred]
  exact congrArg (fun v => Host.Outcome.next (s.takeTrap 0x05 v none)) (BitVec.ofNat_toNat ..)

/-- DTLD once its read is complete (R394). -/
theorem dtld_read (hb : s.Begins (usesA a) x y z t) (h : x.toNat % 64 = 0) (hd : windowOf x.toNat ≠ .device)
    (hr : windowOf x.toNat ≠ .remote)
    (read : readNow .vload .vector ((List.range 256).map fun c => ⟨(x + w64 (4 * c)).toNat, 4, c⟩) t = .ok (l, r)) :
    exec (.dtld i a) s = .next (s.ends (r.loadTable i (l.map (·.2)))) := by
  refine (issue_begins hb).trans ?_
  have free : (windowOf x.toNat == .device || windowOf x.toNat == .remote) = false := by simp [hd, hr]
  simp only [h, BEq.rfl, must_true, except_ok_bind, free, Bool.not_false, read]
  rfl

end

theorem Array.uses_iff (g : Array) (i since : Nat) :
    g.uses i since = true ↔ ∃ o ∈ g.all, o.usesTable i = true ∧ o.accepted ≤ since := by
  simp [Array.uses]

end Sys2Proof.Machine

namespace Sys2Proof.Proofs

open Sys2Proof.Machine

/-- Settles O24: MFMT by the checks of its value; DTLD by the checks of its address, then, with its words read, by the fault of the
table and by the operations that still use it. -/
theorem formatContext : Obligations.FormatContext := by
  refine ⟨?mfmt, ?dtld⟩
  case mfmt =>
    intro s t r d a x y z hb
    refine ⟨fun h => mfmt_reserved hb ((ctxReserved_iff x).mpr h), fun h1 h2 h3 => ?_⟩
    have reserved : ctxReserved x = false := by simp [ctxReserved, h1, h2, h3]
    refine ⟨fun h => mfmt_scale16 hb reserved ?_, ?_⟩
    · rw [ctxScale16_eq]
      exact Bool.or_eq_true_iff.mpr h
    · rintro ha hb' rfl takes
      rw [mfmt_sets hb reserved (by rw [ctxScale16_eq, ha, hb']; rfl)]
      exact congrArg Host.Outcome.next (State.ends_putX takes)
  case dtld =>
    intro s t r i a x y z l hb
    refine ⟨dtld_misaligned hb, dtld_window hb, fun h hd hr read => ?_⟩
    rw [dtld_read hb h hd hr read]
    refine ⟨fun c hc bad first => ?_, fun clean => ?_⟩
    · rw [State.loadTable_faulty (tableFault_reserved hc bad first)]
      rfl
    · have code := tableFault_clean clean
      constructor
      · intro all
        rw [State.loadTable_faulty (c := 256) (by rw [code, if_pos]; simpa using all)]
        rfl
      · rintro since ⟨w, hw, finite⟩ hs
        have time : r.time = s.time := (congrArg State.time (readNow_keeps read).rest).trans hb.time
        obtain rfl : since = r.heldSince i := by rw [State.heldSince, time]; exact hs
        have fine : tableFault (l.map (·.2)) = none := by
          rw [code, if_neg]
          simpa using ⟨w.1, w.2, hw, finite⟩
        refine ⟨fun used => ?_, fun done => ?_⟩
        · rw [State.loadTable_used fine ((Array.uses_iff ..).mpr used)]
        · have free : r.myCore.array.uses i (r.heldSince i) = false := by
            rw [Bool.eq_false_iff, ne_eq, Array.uses_iff]
            rintro ⟨o, ho, hu, ha⟩
            exact Nat.not_le.mpr (done o ho hu) ha
          refine ⟨r.tableLoaded i (l.map (·.2)), by rw [State.loadTable_free fine free]; rfl, State.me_tableLoaded,
            State.byteAt_tableLoaded, fun c hc => ?_, fun k hk => ?_⟩
          · rw [State.dt_tableLoaded, at_replaceTable, if_pos (by omega), Nat.add_sub_cancel_left, BitVec.toNat_ofNat]
            exact Nat.mod_eq_of_lt (Nat.lt_trans (clean c hc) (by decide))
          · rw [State.dt_tableLoaded, at_replaceTable, if_neg (by omega)]

end Sys2Proof.Proofs

/-! PROOFS. VPOP and VPUSH (R79, R236, R237, R486, R487). -/

namespace Sys2Proof.Machine

/-! ## Sixteen dwords as lanes of width D (R486) -/

theorem fromLE_bytesLE_append (n v : Nat) (l : List Nat) : fromLE (bytesLE n v ++ l) = v % 256 ^ n + 256 ^ n * fromLE l := by
  induction n generalizing v with
  | zero => simp [bytesLE, Nat.mod_one]
  | succ n ih =>
    simp only [bytesLE, List.cons_append, fromLE, ih, Nat.mod_mod, Nat.pow_succ']
    rw [Nat.mod_mul, Nat.mul_add, Nat.mul_assoc, Nat.add_assoc]

/-- Dwords one after another, as a little-endian number: each is one digit to the base 2^64. -/
theorem fromLE_dwords (l : List Word) (k : Nat) :
    fromLE (l.flatMap fun w => bytesLE 8 w.toNat) / 2 ^ (64 * k) % 2 ^ 64 = (l.getD k 0).toNat := by
  induction l generalizing k with
  | nil => simp [fromLE]
  | cons w l ih =>
    have lt := w.isLt
    have step : fromLE ((w :: l).flatMap fun w => bytesLE 8 w.toNat) =
        w.toNat + 2 ^ 64 * fromLE (l.flatMap fun w => bytesLE 8 w.toNat) := by
      rw [List.flatMap_cons, fromLE_bytesLE_append]
      simp only [show (256 : Nat) ^ 8 = 2 ^ 64 by norm_num, Nat.mod_eq_of_lt lt]
    rw [step]
    cases k with
    | zero => simp [Nat.mod_eq_of_lt lt]
    | succ k =>
      rw [Nat.mul_succ, Nat.add_comm (64 * k), Nat.pow_add, ← Nat.div_div_eq_div_mul,
        Nat.add_mul_div_left _ _ (Nat.two_pow_pos 64), Nat.div_eq_of_lt lt, Nat.zero_add, ih]
      rfl

/-- The lanes of a register fit it. -/
theorem laneBits_mul_le {w k : Nat} (hk : k < laneCount w) : laneBits w * k + laneBits w ≤ 1024 := by
  have fits : 2 ^ w * (k + 1) ≤ 128 := (Nat.mul_le_mul_left _ hk).trans (Nat.mul_div_le ..)
  have bits : laneBits w * k + laneBits w = 8 * (2 ^ w * (k + 1)) := by rw [laneBits]; ring
  omega

/-- A lane of a register that is made of a number is that digit of the number. -/
theorem laneOf_ofNat (n : Nat) {w k : Nat} (hk : k < laneCount w) :
    laneOf (BitVec.ofNat 1024 n) w k = n / 2 ^ (laneBits w * k) % 2 ^ laneBits w := by
  have fits := laneBits_mul_le hk
  have parts : laneBits w * k + (1024 - laneBits w * k) = 1024 := by omega
  rw [laneOf, BitVec.toNat_ofNat]
  conv_lhs => rw [← parts, Nat.pow_add, Nat.mod_mul_right_div_self, Nat.mod_mod_of_dvd _ (Nat.pow_dvd_pow 2 (by omega))]

/-! ## Dwords pushed one after another (R236, R237) -/

/-- `rem` more dwords belong to the message that the end of q1 holds a part of; none where it holds no such part. -/
def Queues.Due (q : Queues) (rem : Nat) : Prop :=
  q.q1partial = 0 ∧ rem = 0 ∨
    (1 ≤ q.q1partial ∧ q.q1partial ≤ q.q1.length ∧ ∀ h, h = q.q1.getD (q.q1.length - q.q1partial) 0 →
      q.q1partial ≤ fld h 23 20 ∧ rem = fld h 23 20 + 1 - q.q1partial)

theorem Queues.Due.partial_iff {q : Queues} {n : Nat} (h : q.Due n) : q.q1partial = 0 ↔ n = 0 := by
  obtain ⟨hp, hn⟩ | ⟨hp, -, hd⟩ := h
  · simp [hp, hn]
  · obtain ⟨fits, rem⟩ := hd _ rfl
    omega

/-- Between messages a dword is a header, and its LEN dwords are due. -/
theorem Queues.Due.push_header {q : Queues} (h : q.Due 0) (v : Word) : (q.push v).Due (fld v 23 20) := by
  have hp := h.partial_iff.mpr rfl
  by_cases hv : fld v 23 20 = 0
  · exact .inl ⟨by simp [Queues.push, Queues.completes, hp, hdrLen, hv], hv⟩
  · have goes : q.completes v = false := by simp [Queues.completes, hp, hdrLen, hv]
    have one : (q.push v).q1partial = 1 := by simp [Queues.push, goes, hp]
    refine .inr ⟨one.ge, by simp [Queues.push, goes, hp], fun h hh => ?_⟩
    obtain rfl : h = v := by simpa [Queues.push, goes, hp] using hh
    omega

/-- Within a message one dword less is due after each. -/
theorem Queues.Due.push_body {q : Queues} {n : Nat} (h : q.Due (n + 1)) (v : Word) : (q.push v).Due n := by
  obtain ⟨-, hn⟩ | ⟨hp, hl, hd⟩ := h
  · cases hn
  obtain ⟨fits, rem⟩ := hd _ rfl
  have inside : q.q1partial ≠ 0 := by omega
  by_cases last : q.q1partial = fld (q.q1.getD (q.q1.length - q.q1partial) 0) 23 20
  · have ends : q.completes v = true := by rw [Queues.completes, if_neg inside]; exact beq_iff_eq.mpr last
    exact .inl ⟨by simp [Queues.push, ends], by omega⟩
  · have goes : q.completes v = false := by rw [Queues.completes, if_neg inside]; exact beq_false_of_ne last
    have more : (q.push v).q1partial = q.q1partial + 1 := by simp [Queues.push, goes]
    have same : (q.push v).q1.getD ((q.push v).q1.length - (q.push v).q1partial) 0 =
        q.q1.getD (q.q1.length - q.q1partial) 0 := by
      rw [more]
      simp only [Queues.push, List.length_append, List.length_singleton, Nat.add_sub_add_right]
      exact List.getD_append _ _ _ _ (by omega)
    refine .inr ⟨by omega, by rw [more]; simp [Queues.push]; exact hl, fun g hg => ?_⟩
    rw [hg, same, more]
    omega

/-- The state after a list of dwords has joined q1 one by one. -/
def State.pushAll (s : State) (l : List Word) : State := l.foldl (fun t v => t.modQueues fun q => q.push (t.pushed v)) s

theorem State.pushAll_cons (s : State) (v : Word) (l : List Word) :
    s.pushAll (v :: l) = (s.modQueues fun q => q.push (s.pushed v)).pushAll l := rfl

/-- A thread's THREADID does not lie in its slot. -/
theorem State.SameElsewhere.threadId {s t : State} (h : s.SameElsewhere t) (c n : Nat) : t.threadId c n = s.threadId c n := by
  have same := congrArg (fun r : State => r.threadId c n) h.rest
  exact same

theorem State.threadId_modQueues (s : State) (f : Queues → Queues) (c t : Nat) :
    (s.modQueues f).threadId c t = s.threadId c t := (s.sameElsewhere_modMe _).threadId c t

/-- The SOURCE that a header gets is the thread's THREADID (R236). -/
theorem State.pushed_header {s : State} (h : s.me.queues.q1partial = 0) (v : Word) :
    s.pushed v = setFld v 45 32 (w64 (s.threadId s.cur.unit s.cur.slot)).toNat := by
  rw [State.pushed, if_pos h, setFld, setFld, BitVec.toNat_ofNat, Nat.mod_mod_of_dvd _ (Nat.pow_dvd_pow 2 (by decide))]

/-- What joins q1: the dwords in order, each header with SOURCE (R236, R237). -/
theorem State.pushAll_q1 {s : State} {rem : Nat} (h : s.me.queues.Due rem) (l : List Word) :
    (s.pushAll l).me.queues.q1 = s.me.queues.q1 ++ sourced (w64 (s.threadId s.cur.unit s.cur.slot)) rem l := by
  induction l generalizing s rem with
  | nil => simp [State.pushAll, sourced]
  | cons v l ih =>
    have queues : (s.modQueues fun q => q.push (s.pushed v)).me.queues = s.me.queues.push (s.pushed v) := by
      simp [State.modQueues]
    have id : (s.modQueues fun q => q.push (s.pushed v)).threadId (s.modQueues fun q => q.push (s.pushed v)).cur.unit
        (s.modQueues fun q => q.push (s.pushed v)).cur.slot = s.threadId s.cur.unit s.cur.slot := by
      rw [State.threadId_modQueues, State.modQueues_cur]
    rw [State.pushAll_cons]
    cases rem with
    | zero =>
      have due : (s.modQueues fun q => q.push (s.pushed v)).me.queues.Due (fld v 23 20) := by
        rw [queues, ← show fld (s.pushed v) 23 20 = fld v 23 20 from hdrLen_pushed s v]
        exact h.push_header _
      rw [ih due, queues, id, sourced, ← State.pushed_header (h.partial_iff.mpr rfl)]
      simp [Queues.push]
    | succ n =>
      have due : (s.modQueues fun q => q.push (s.pushed v)).me.queues.Due n := by
        rw [queues]
        exact h.push_body _
      have inside : s.me.queues.q1partial ≠ 0 := fun h0 => Nat.succ_ne_zero n (h.partial_iff.mp h0)
      rw [ih due, queues, id, sourced, State.pushed, if_neg inside]
      simp [Queues.push]

/-- Pushing changes the queues of the thread alone. -/
theorem State.pushAll_keeps (s : State) (l : List Word) : s.SameElsewhere (s.pushAll l) ∧ (s.pushAll l).me.pc = s.me.pc ∧
    (∀ k, (s.pushAll l).x k = s.x k) ∧ ∀ k, (s.pushAll l).v k = s.v k := by
  induction l generalizing s with
  | nil => exact ⟨.refl s, rfl, fun _ => rfl, fun _ => rfl⟩
  | cons v l ih =>
    obtain ⟨same, pc, x, v'⟩ := ih (s.modQueues fun q => q.push (s.pushed v))
    rw [State.pushAll_cons]
    exact ⟨(s.sameElsewhere_modMe _).trans same, pc.trans (by simp [State.modQueues]),
      fun k => (x k).trans (State.x_modMe ..), fun k => (v' k).trans (State.v_modMe ..)⟩

/-- The state in which dwords join q1: the release of a message that they complete has passed (R237, R268). -/
def State.gatedFor (s : State) (l : List Word) : State := if s.me.queues.sends l then s.releasedAt true else s

theorem State.queues_gatedFor (s : State) (l : List Word) : (s.gatedFor l).me.queues = s.me.queues := by
  unfold State.gatedFor
  split
  · exact s.releasedAt_queues true
  · rfl

/-- A release changes the thread alone, and neither its pc nor its registers. -/
theorem State.releasedAt_keeps (s : State) (wide : Bool) : s.SameElsewhere (s.releasedAt wide) ∧
    (s.releasedAt wide).me.pc = s.me.pc ∧ (∀ k, (s.releasedAt wide).x k = s.x k) ∧ ∀ k, (s.releasedAt wide).v k = s.v k := by
  unfold State.releasedAt
  split
  · exact ⟨s.sameElsewhere_modMe _, by simp, fun k => State.x_modMe .., fun k => State.v_modMe ..⟩
  · exact ⟨.refl s, rfl, fun _ => rfl, fun _ => rfl⟩

theorem State.gatedFor_keeps (s : State) (l : List Word) : s.SameElsewhere (s.gatedFor l) ∧ (s.gatedFor l).me.pc = s.me.pc ∧
    (∀ k, (s.gatedFor l).x k = s.x k) ∧ ∀ k, (s.gatedFor l).v k = s.v k := by
  unfold State.gatedFor
  split
  · exact s.releasedAt_keeps true
  · exact ⟨.refl s, rfl, fun _ => rfl, fun _ => rfl⟩

/-! ## What VPOP and VPUSH do -/

section
variable {s t r : State} {d a : Nat} {x y z : Word} {l : List Word}

theorem vpop_empty (hb : s.Begins ⟨false, .deque a, .none, .vec d⟩ x y z t) (h : t.popN (a - 120) 16 = none) :
    exec (.vpop d a) s = .next (s.modMe fun h => h.parked .qempty (.queue (a - 120) 16)) := by
  refine (issue_begins hb).trans ?_
  rw [h]
  rfl

theorem vpop_takes (hb : s.Begins ⟨false, .deque a, .none, .vec d⟩ x y z t) (h : t.popN (a - 120) 16 = some (l, r)) :
    exec (.vpop d a) s = .next (r.setV d (BitVec.ofNat 1024 (fromLE (l.flatMap fun w => bytesLE 8 w.toNat)))) := by
  refine (issue_begins hb).trans ?_
  rw [h]
  rfl

section
variable (hb : s.Begins ⟨false, .vec a, .none, .dst d⟩ x y z t) (hl : l = (List.range 16).map fun i => w64 (laneOf (t.v a) 3 i))
include hb hl

omit hl in
theorem vpush_full (hr : t.q1Room 16 = false) : exec (.vpush d a) s = .next (s.modMe fun h => h.parked .qfull (.q1room 16)) := by
  refine (issue_begins hb).trans ?_
  rw [hr]
  rfl

theorem vpush_fault (hr : t.q1Room 16 = true) {e : Nat} (he : t.headersFault t.me.queues l = some e) :
    exec (.vpush d a) s = .next (s.takeTrap 0x0D (w64 e) none) := by
  refine (issue_begins hb).trans ?_
  simp only [hr, ← hl, he]
  rfl

/-- The sixteen dwords join q1 once the release of what they complete has passed (R237, R487). -/
theorem vpush_pushes (hr : t.q1Room 16 = true) (he : t.headersFault t.me.queues l = none)
    (hd : t.me.queues.sends l = true → t.drained true = true) :
    exec (.vpush d a) s = .next ((t.gatedFor l).pushAll l) := by
  refine (issue_begins hb).trans ?_
  by_cases sends : t.me.queues.sends l = true
  · simp only [hr, ← hl, he, sends, gate_drained (hd sends), State.gatedFor, if_true]
    rfl
  · simp only [hr, ← hl, he, sends, State.gatedFor]
    rfl

end

end

end Sys2Proof.Machine

namespace Sys2Proof.Proofs

open Sys2Proof.Machine

/-- Settles O30: VPOP by whether its sixteen pops succeed; VPUSH by the room in q1, the checks of its headers, then the pushes one by
one, with what is due of the message under way. -/
theorem vectorQueues : Obligations.VectorQueues := by
  intro s t r d a rem x y z _
  refine ⟨fun hb => ⟨vpop_empty hb, fun l h => ⟨_, vpop_takes hb h, fun k hk => ?_⟩⟩,
    fun l hb hl => ⟨vpush_full hb, fun hr e => vpush_fault hb hl hr, ?_⟩⟩
  · exact (laneOf_ofNat _ hk).trans (fromLE_dwords l k)
  · intro hr he hd due
    obtain ⟨gated, pc, x, v⟩ := t.gatedFor_keeps l
    obtain ⟨pushed, pc', x', v'⟩ := (t.gatedFor l).pushAll_keeps l
    have cur : (t.gatedFor l).cur = s.cur := (State.cur_of_rest gated.rest).trans hb.cur
    refine ⟨_, vpush_pushes hb hl hr he hd, ?_, pc'.trans pc, fun k => (x' k).trans (x k), fun k => (v' k).trans (v k),
      (gated.trans pushed).byteAt⟩
    have joined := State.pushAll_q1 (s := t.gatedFor l) (rem := rem) (by rw [State.queues_gatedFor]; exact due) l
    rwa [State.queues_gatedFor, cur, gated.threadId] at joined

end Sys2Proof.Proofs

/-! PROOFS. SRD and SWR (R84 to R88, R186, R454 to R456). -/

namespace Sys2Proof.Machine

/-! ## Privilege (R85) -/

theorem State.Begins.priv {s t : State} {u : Uses} {a b c : Word} (h : s.Begins u a b c t) : t.me.priv = s.me.priv := by
  obtain ⟨-, g, hg⟩ := h.keeps
  rw [hg]

theorem State.Begins.sysDenied {s t : State} {u : Uses} {a b c : Word} (h : s.Begins u a b c t) (n : Nat) :
    t.sysDenied n = s.sysDenied n := by
  rw [State.sysDenied, State.sysDenied, h.priv]

section
variable {s t : State} {d a n : Nat} {x y z : Word}

/-- An instruction without fields begins wherever nothing is still to come. -/
theorem State.begins_none (h : s.settled = true) : s.Begins usesNone 0 0 0 s.advanced :=
  State.begins_plain h rfl rfl

theorem srd_denied (h : s.settled = true) (hd : s.sysDenied n = true) :
    exec (.srd d n) s = .next (s.takeTrap 0x02 (w64 n) none) := by
  have hb := State.begins_none h
  show execSrd d n s = _
  rw [execSrd, if_pos hd]
  refine (issue_begins hb).trans ?_
  rw [hb.sysDenied, hd]
  rfl

theorem swr_denied (h : s.settled = true) (hd : s.sysDenied n = true) :
    exec (.swr n a) s = .next (s.takeTrap 0x02 (w64 n) none) := by
  have hb := State.begins_none h
  show execSwr n a s = _
  rw [execSwr, if_pos hd]
  refine (issue_begins hb).trans ?_
  rw [hb.sysDenied, hd]
  rfl

/-! ## SRD (R84, R454, R456) -/

theorem srd_value (hb : s.Begins (usesD d) x y z t) (hd : s.sysDenied n = false) {v : Word}
    (hv : (if t.cur.pp then t.readSysH n else t.readSys n) = some v) : exec (.srd d n) s = .next (s.ends (putX d v t)) := by
  show execSrd d n s = _
  rw [execSrd, if_neg (by simp [hd])]
  refine (issue_begins hb).trans ?_
  rw [hb.sysDenied, hd, hv]
  rfl

theorem srd_unassigned (hb : s.Begins (usesD d) x y z t) (hd : s.sysDenied n = false)
    (hv : (if t.cur.pp then t.readSysH n else t.readSys n) = none) :
    exec (.srd d n) s = .next (s.takeTrap 0x01 (w64 n) none) := by
  show execSrd d n s = _
  rw [execSrd, if_neg (by simp [hd])]
  refine (issue_begins hb).trans ?_
  rw [hb.sysDenied, hd, hv]
  rfl

/-- A number that the table does not assign (R84). -/
theorem State.readSys_unassigned (hu : sysUser n = false) (hs : sysSuper n = false) (t : State) : t.readSys n = none := by
  unfold State.readSys
  split
  case h_24 =>
    refine if_neg fun h => ?_
    simp [sysUser, h] at hu
  all_goals simp [sysUser, sysSuper] at hu hs

/-- At H only four registers are assigned (R456). -/
theorem State.readSysH_unassigned (h : n ∉ [0x000, 0x008, 0x020, 0x021]) (t : State) : t.readSysH n = none := by
  unfold State.readSysH
  split
  case h_5 => rfl
  all_goals simp at h

/-! ## SWR (R85, R455, R456) -/

theorem swr_handler (hb : s.Begins (usesA a) x y z t) (hd : s.sysDenied n = false) (hp : s.cur.pp = true) :
    exec (.swr n a) s = .next (s.ends
      (if n = 0 then .ok (t.modRegs fun g => { g with fcsr := x &&& fcsrMask }) else trapWith cIllegal n)) := by
  show execSwr n a s = _
  rw [execSwr, if_neg (by simp [hd])]
  refine (issue_begins hb).trans ?_
  rw [hb.sysDenied, hd, hb.cur, hp]
  rfl

theorem swr_core (hb : s.Begins (usesA a) x y z t) (hd : s.sysDenied n = false) (hp : s.cur.pp = false) :
    exec (.swr n a) s = .next (s.ends (t.writeSys n x)) := by
  show execSwr n a s = _
  rw [execSwr, if_neg (by simp [hd])]
  refine (issue_begins hb).trans ?_
  rw [hb.sysDenied, hd, hb.cur, hp]
  rfl

/-- A number that is not assigned, or whose fields no one may write (R85, R455). -/
theorem State.writeSys_refused (h : n ∉ [0x000, 0x001, 0x002, 0x003, 0x004, 0x005, 0x100, 0x101, 0x102, 0x103, 0x104, 0x105,
    0x110, 0x111, 0x112, 0x113, 0x120, 0x130]) (hn : n < 0x10 ∨ 0x17 < n ∨ t.me.priv ≠ .s) (v : Word) :
    t.writeSys n v = trapWith cIllegal n := by
  unfold State.writeSys
  simp only
  split
  case h_19 =>
    refine if_neg fun hb => ?_
    simp only [Bool.and_eq_true, decide_eq_true_eq, beq_iff_eq] at hb
    obtain ⟨⟨lo, hi⟩, sup⟩ := hb
    obtain h | h | h := hn
    · omega
    · omega
    · exact h sup
  all_goals simp at h

/-- S writes a byte-count barrier (R85). -/
theorem State.writeSys_barrier (lo : 0x10 ≤ n) (hi : n ≤ 0x17) (hp : t.me.priv = .s) (v : Word) :
    t.writeSys n v = .ok (t.modRegs fun g => g.setBarrier (n - 0x10) v) := by
  unfold State.writeSys
  simp only
  split
  case h_19 => exact if_pos (by simp [lo, hi, hp])
  all_goals omega

end

/-! ## HEMCTL (R186) -/

theorem Memory.byte_clearRange (m : Memory) (lo hi k : Nat) :
    (m.clearRange lo hi).byte k = if lo ≤ k ∧ k < hi then 0 else m.byte k := by
  induction m with
  | nil => simp [Memory.clearRange, Memory.byte]
  | cons e m ih =>
    obtain ⟨i, b⟩ := e
    by_cases kept : i < lo ∨ hi ≤ i
    · have cons : Memory.clearRange ((i, b) :: m) lo hi = (i, b) :: Memory.clearRange m lo hi := by simp [Memory.clearRange, kept]
      rw [cons, Memory.byte, ih, Memory.byte]
      by_cases hk : k = i
      · rw [if_pos hk, if_pos hk, if_neg (by omega)]
      · rw [if_neg hk, if_neg hk]
    · have cons : Memory.clearRange ((i, b) :: m) lo hi = Memory.clearRange m lo hi := by simp [Memory.clearRange, kept]
      rw [cons, ih, Memory.byte]
      by_cases hk : k = i
      · rw [if_pos (by omega), if_pos (by omega)]
      · rw [if_neg hk]

theorem State.mem_of_rest {s t : State} (h : t.rest = s.rest) : t.mem = s.mem := by
  have mem := congrArg State.mem h
  exact mem

theorem State.hem_of_rest {s t : State} (h : t.rest = s.rest) (g : Nat) : t.hem g = s.hem g := by
  have hem := congrArg (fun r : State => r.hem g) h
  exact hem

/-- A core whose slots 480 to 511 and their side entries are zero. -/
def Core.ringSlotsZeroed (k : Core) : Core :=
  { k with sram := (k.sram.clearRange (slotData 480) (slotData 512)).clearRange (slotSide 480) (slotSide 512)
           sramPoison := (k.sramPoison.delRange (slotData 480 / 64) (slotData 512 / 64)).delRange
             (slotSide 480 / 64) (slotSide 512 / 64) }

theorem Core.byte_ringSlotsZeroed (k : Core) (o : Nat) : k.ringSlotsZeroed.sram.byte o =
    if 0x3E0000 ≤ o ∧ o < 0x400000 ∨ 0x40F000 ≤ o ∧ o < 0x410000 then 0 else k.sram.byte o := by
  simp only [Core.ringSlotsZeroed, Memory.byte_clearRange, show slotData 480 = 0x3E0000 from rfl,
    show slotData 512 = 0x400000 from rfl, show slotSide 480 = 0x40F000 from rfl, show slotSide 512 = 0x410000 from rfl]
  by_cases side : 0x40F000 ≤ o ∧ o < 0x410000
  · rw [if_pos side, if_pos (.inr side)]
  · simp only [side, or_false, if_false]

/-- The cores of a hem with those slots zeroed. -/
def State.ringSlotsZeroed (s : State) (h : Nat) : State :=
  (List.range 16).foldl (fun s st => s.modCore (h * 16 + st) Core.ringSlotsZeroed) s

/-- Updating one core after another: the cores from b up change, nothing else does. -/
theorem State.foldl_modCore (s : State) (f : Core → Core) (b n : Nat) :
    let r := (List.range n).foldl (fun s st => s.modCore (b + st) f) s
    r.rest = s.rest ∧ r.pps = s.pps ∧ ∀ c, r.core c = if b ≤ c ∧ c < b + n then f (s.core c) else s.core c := by
  induction n with
  | zero => exact ⟨rfl, rfl, fun c => (if_neg (by omega)).symm⟩
  | succ n ih =>
    obtain ⟨rest, pps, core⟩ := ih
    rw [List.range_succ, List.foldl_append, List.foldl_cons, List.foldl_nil]
    generalize (List.range n).foldl (fun s st => s.modCore (b + st) f) s = r at rest pps core
    refine ⟨rest, pps, fun c => ?_⟩
    by_cases hc : c = b + n
    · subst hc
      rw [State.core_modCore_self, core, if_neg (by omega), if_pos (by omega)]
    · rw [State.core_modCore_ne _ _ hc, core]
      exact if_congr (by omega) rfl rfl

theorem State.rest_ringSlotsZeroed (s : State) (h : Nat) : (s.ringSlotsZeroed h).rest = s.rest :=
  (s.foldl_modCore Core.ringSlotsZeroed (h * 16) 16).1

theorem State.pps_ringSlotsZeroed (s : State) (h : Nat) : (s.ringSlotsZeroed h).pps = s.pps :=
  (s.foldl_modCore Core.ringSlotsZeroed (h * 16) 16).2.1

theorem State.core_ringSlotsZeroed (s : State) (h c : Nat) :
    (s.ringSlotsZeroed h).core c = if c / 16 = h then (s.core c).ringSlotsZeroed else s.core c :=
  ((s.foldl_modCore Core.ringSlotsZeroed (h * 16) 16).2.2 c).trans (if_congr (by omega) rfl rfl)

/-- The state after an accepted write of HEMCTL (R186). -/
def State.hemctlWritten (s : State) (v : Word) : State := s.modMyHem fun h => { h with hemctl := v &&& w64 0x7F7F01 }

theorem State.writeHemctl_cap {s : State} {v : Word} (h : fld v 14 8 < 1 ∨ 64 < fld v 14 8 ∨ fld v 22 16 < 1 ∨ 64 < fld v 22 16) :
    s.writeHemctl v = trapWith cRing 0x100A := by
  have bad : ((decide (1 ≤ fld v 14 8) && decide (fld v 14 8 ≤ 64)) && (decide (1 ≤ fld v 22 16) && decide (fld v 22 16 ≤ 64))) =
      false := by
    simp only [Bool.and_eq_false_iff, decide_eq_false_iff_not]
    omega
  rw [State.writeHemctl]
  simp only [bad]
  rfl

section
variable {s : State} {v : Word} (h1 : 1 ≤ fld v 14 8) (h2 : fld v 14 8 ≤ 64) (h3 : 1 ≤ fld v 22 16) (h4 : fld v 22 16 ≤ 64)
include h1 h2 h3 h4

theorem State.writeHemctl_live (ho : s.myHem.hemctl.getLsbD 0 = true) (hn : v.getLsbD 0 = false)
    (live : (∃ e ∈ s.myHem.ring.injectors, e.2.active = true) ∨ ∃ e ∈ s.myHem.patterns, e.2.active = true) :
    s.writeHemctl v = trapWith cRing 0x100A := by
  have used : (s.myHem.ring.injectors.any (fun e => e.2.active) || s.myHem.patterns.any fun e => e.2.active) = true := by
    simpa only [Bool.or_eq_true, List.any_eq_true] using live
  rw [State.myHem] at ho used
  rw [State.writeHemctl]
  simp only [h1, h2, h3, h4, decide_true, Bool.and_self, must_true, except_ok_bind, ho, hn, used]
  rfl

theorem State.writeHemctl_same (h : s.myHem.hemctl.getLsbD 0 = v.getLsbD 0) : s.writeHemctl v = .ok (s.hemctlWritten v) := by
  rw [State.myHem] at h
  rw [State.writeHemctl]
  cases hv : v.getLsbD 0 <;>
    simp only [h1, h2, h3, h4, decide_true, Bool.and_self, must_true, except_ok_bind, h, hv] <;> rfl

theorem State.writeHemctl_change (h : s.myHem.hemctl.getLsbD 0 ≠ v.getLsbD 0)
    (free : v.getLsbD 0 = true ∨ (∀ e ∈ s.myHem.ring.injectors, e.2.active = false) ∧ ∀ e ∈ s.myHem.patterns, e.2.active = false) :
    s.writeHemctl v = .ok ((s.ringSlotsZeroed (hemOf s.cur.unit)).hemctlWritten v) := by
  have allowed : (s.myHem.hemctl.getLsbD 0 && !v.getLsbD 0 &&
      (s.myHem.ring.injectors.any (fun e => e.2.active) || s.myHem.patterns.any fun e => e.2.active)) = false := by
    obtain hv | ⟨tiles, entries⟩ := free
    · simp [hv]
    · have unused : (s.myHem.ring.injectors.any (fun e => e.2.active) || s.myHem.patterns.any fun e => e.2.active) = false := by
        simpa only [Bool.or_eq_false_iff, List.any_eq_false, Bool.not_eq_true] using And.intro tiles entries
      rw [unused, Bool.and_false]
  have changes : (s.myHem.hemctl.getLsbD 0 == v.getLsbD 0) = false := beq_false_of_ne h
  have cur : (s.ringSlotsZeroed (hemOf s.cur.unit)).cur = s.cur := State.cur_of_rest (s.rest_ringSlotsZeroed _)
  rw [State.myHem] at allowed changes
  rw [State.hemctlWritten, State.modMyHem, cur, State.writeHemctl]
  simp only [h1, h2, h3, h4, decide_true, Bool.and_self, must_true, except_ok_bind, allowed, changes, Bool.not_false]
  rfl

end

section
variable (s : State) (h : Nat)

theorem State.cur_ringSlotsZeroed : (s.ringSlotsZeroed h).cur = s.cur := State.cur_of_rest (s.rest_ringSlotsZeroed h)
theorem State.mem_ringSlotsZeroed : (s.ringSlotsZeroed h).mem = s.mem := State.mem_of_rest (s.rest_ringSlotsZeroed h)
theorem State.hem_ringSlotsZeroed (g : Nat) : (s.ringSlotsZeroed h).hem g = s.hem g :=
  State.hem_of_rest (s.rest_ringSlotsZeroed h) g
theorem State.pp_ringSlotsZeroed (n : Nat) : (s.ringSlotsZeroed h).pp n = s.pp n := by
  rw [State.pp, State.pps_ringSlotsZeroed, State.pp]

theorem State.me_ringSlotsZeroed : (s.ringSlotsZeroed h).me = s.me := by
  have threads (c : Nat) : ((s.ringSlotsZeroed h).core c).threads = (s.core c).threads := by
    rw [State.core_ringSlotsZeroed]
    split <;> rfl
  simp only [State.me, State.thread, State.cur_ringSlotsZeroed, State.pp_ringSlotsZeroed, Core.thread, threads]

theorem State.x_ringSlotsZeroed (k : Nat) : (s.ringSlotsZeroed h).x k = s.x k := by
  have xrf (c : Nat) : ((s.ringSlotsZeroed h).core c).xrf = (s.core c).xrf := by
    rw [State.core_ringSlotsZeroed]
    split <;> rfl
  simp only [State.x, State.xOf, State.cur_ringSlotsZeroed, State.pp_ringSlotsZeroed, xrf]

/-- The slots 480 to 511 and their side entries of the hem's cores read zero. -/
theorem State.byteAt_ringSlotsZeroed {c o : Nat} (hc : c / 16 = h)
    (ho : 0x3E0000 ≤ o ∧ o < 0x400000 ∨ 0x40F000 ≤ o ∧ o < 0x410000) : (s.ringSlotsZeroed h).byteAt (.sram c o) = 0 := by
  rw [State.byteAt, State.core_ringSlotsZeroed, if_pos hc, Core.byte_ringSlotsZeroed, if_pos ho]

/-- Every other byte stays. -/
theorem State.byteAt_ringSlotsZeroed_other {l : Loc} (hl : ∀ c o, l = .sram c o →
    ¬ (c / 16 = h ∧ (0x3E0000 ≤ o ∧ o < 0x400000 ∨ 0x40F000 ≤ o ∧ o < 0x410000))) :
    (s.ringSlotsZeroed h).byteAt l = s.byteAt l := by
  cases l with
  | phys a => rw [State.byteAt, State.mem_ringSlotsZeroed, State.byteAt]
  | handler n o => rw [State.byteAt, State.pp_ringSlotsZeroed, State.byteAt]
  | sram c o =>
    have other := hl c o rfl
    rw [State.byteAt, State.core_ringSlotsZeroed, State.byteAt]
    split
    · next hc => rw [Core.byte_ringSlotsZeroed, if_neg fun ho => other ⟨hc, ho⟩]
    · rfl
  | cached c a =>
    rw [State.byteAt, State.core_ringSlotsZeroed, State.byteAt]
    split <;> rfl

end

/-- HEMCTL lies in its hem alone. -/
theorem State.myHem_hemctlWritten (s : State) (v : Word) :
    (s.hemctlWritten v).myHem = { s.myHem with hemctl := v &&& w64 0x7F7F01 } := State.hem_modHem_self ..
theorem State.me_hemctlWritten (s : State) (v : Word) : (s.hemctlWritten v).me = s.me := rfl
theorem State.x_hemctlWritten (s : State) (v : Word) (k : Nat) : (s.hemctlWritten v).x k = s.x k := rfl
theorem State.byteAt_hemctlWritten (s : State) (v : Word) (l : Loc) : (s.hemctlWritten v).byteAt l = s.byteAt l := by
  cases l <;> rfl

end Sys2Proof.Machine

namespace Sys2Proof.Proofs

open Sys2Proof.Machine

/-- Settles O35: SRD and SWR by the slot's kind, then by the number: the table of R84 row by row, the numbers that no row assigns, and
HEMCTL by the checks of R186. -/
theorem systemRegisters : Obligations.SystemRegisters := by
  intro s t d a n x y z
  refine ⟨fun hs hd => ⟨srd_denied hs hd, swr_denied hs hd⟩, fun hb hd => ⟨?unassigned, ?read⟩,
    fun hb hd => ⟨?refused, ?slot, ?ro, ?core, ?caps, ?same, ?change⟩⟩
  case unassigned =>
    intro h
    refine srd_unassigned hb hd ?_
    rw [hb.cur]
    split at h
    · next hp => rw [if_pos hp]; exact State.readSysH_unassigned h t
    · next hp => rw [if_neg hp]; exact State.readSys_unassigned h.1 h.2 t
  case read =>
    intro v hp hm takes
    rw [srd_value hb hd ?assigned]
    · exact congrArg Host.Outcome.next (State.ends_putX takes)
    rw [hb.cur]
    cases hpp : s.cur.pp
    · simp only [hpp, Bool.false_eq_true, if_false] at hm
      rw [← hb.cur] at hm
      refine (?_ : ∀ p ∈ _, t.readSys p.1 = some p.2) (n, v) hm
      simp only [List.forall_mem_cons, List.not_mem_nil, false_imp_iff, implies_true, and_true]
      and_intros <;> rfl
    · have hn : n ∈ [0x000, 0x008, 0x020, 0x021] := by simpa [hpp] using hp
      simp only [hpp, if_true] at hm
      rw [← hb.cur] at hm
      refine (?_ : ∀ p ∈ _, p.1 ∈ [0x000, 0x008, 0x020, 0x021] → t.readSysH p.1 = some p.2) (n, v) hm hn
      simp [State.readSysH, State.cycle]
  case refused =>
    intro h
    split at h
    · next hp => rw [swr_handler hb hd hp, if_neg h]; rfl
    · next hp =>
      obtain ⟨h, hn⟩ := h
      rw [swr_core hb hd (by simpa using hp), State.writeSys_refused h (by rwa [hb.priv])]
      rfl
  case slot =>
    intro f hp hf
    cases hpp : s.cur.pp
    · rw [swr_core hb hd hpp]
      obtain ⟨rfl, rfl⟩ | ⟨rfl, rfl⟩ | ⟨rfl, rfl⟩ | ⟨rfl, rfl⟩ | ⟨rfl, rfl⟩ | ⟨rfl, rfl⟩ | ⟨lo, hi, hs, rfl⟩ | ⟨rfl, rfl⟩ | ⟨rfl, rfl⟩ |
        ⟨rfl, rfl⟩ | ⟨rfl, rfl⟩ | ⟨rfl, rfl⟩ := hf
      case inr.inr.inr.inr.inr.inr.inl => rw [State.writeSys_barrier lo hi (hb.priv.trans hs)]; rfl
      all_goals rfl
    · obtain rfl : n = 0 := by simpa [hpp] using hp
      obtain rfl : f = fun g => { g with fcsr := x &&& fcsrMask } := by simpa using hf
      rw [swr_handler hb hd hpp]
      rfl
  case ro =>
    rintro hp (rfl | rfl) <;> exact swr_core hb hd hp
  case core =>
    rintro f hp (⟨rfl, rfl⟩ | ⟨rfl, rfl⟩ | ⟨rfl, rfl⟩ | ⟨rfl, rfl⟩) <;> exact swr_core hb hd hp
  case caps =>
    rintro hp rfl h
    rw [swr_core hb hd hp]
    exact congrArg (fun e => Host.Outcome.next (s.ends e)) (State.writeHemctl_cap h)
  case same =>
    rintro hp rfl h1 h2 h3 h4 h
    rw [swr_core hb hd hp]
    exact congrArg (fun e => Host.Outcome.next (s.ends e)) (State.writeHemctl_same h1 h2 h3 h4 h)
  case change =>
    rintro hp rfl h1 h2 h3 h4 h
    rw [swr_core hb hd hp]
    refine ⟨fun hx live => ?_, fun free => ?_⟩
    · have ringen : t.myHem.hemctl.getLsbD 0 = true :=
        Bool.eq_true_of_not_eq_false fun h0 => h (h0.trans hx.symm)
      exact congrArg (fun e => Host.Outcome.next (s.ends e)) (State.writeHemctl_live h1 h2 h3 h4 ringen hx live)
    · have unit : s.cur.unit / 16 = hemOf t.cur.unit := by rw [hb.cur]; rfl
      have myHem : (t.ringSlotsZeroed (hemOf t.cur.unit)).myHem = t.myHem := by
        rw [State.myHem, State.cur_ringSlotsZeroed, State.hem_ringSlotsZeroed, State.myHem]
      refine ⟨_, congrArg (fun e => Host.Outcome.next (s.ends e)) (State.writeHemctl_change h1 h2 h3 h4 h free), ?_, ?_,
        fun k => ?_, fun c o hc ho => ?_, fun l hl => ?_⟩
      · exact (State.myHem_hemctlWritten ..).trans (by rw [myHem])
      · exact (State.me_hemctlWritten ..).trans (t.me_ringSlotsZeroed _)
      · exact (State.x_hemctlWritten ..).trans (t.x_ringSlotsZeroed _ k)
      · exact (State.byteAt_hemctlWritten ..).trans (t.byteAt_ringSlotsZeroed _ (hc.trans unit) ho)
      · rw [unit] at hl
        exact (State.byteAt_hemctlWritten ..).trans (t.byteAt_ringSlotsZeroed_other _ hl)

end Sys2Proof.Proofs

/-! PROOFS. The lanes of a vector register under writes (R80, R472). -/

namespace Sys2Proof.Machine

/-- The bits of a number in which b bits from a up are replaced. -/
theorem testBit_replaced (n x a b j : Nat) : (n - n / 2 ^ a % 2 ^ b * 2 ^ a + x % 2 ^ b * 2 ^ a).testBit j =
    if j < a then n.testBit j else if j < a + b then x.testBit (j - a) else n.testBit j := by
  have parts : n - n / 2 ^ a % 2 ^ b * 2 ^ a + x % 2 ^ b * 2 ^ a =
      2 ^ a * (2 ^ b * (n / 2 ^ a / 2 ^ b) + x % 2 ^ b) + n % 2 ^ a := by
    have low := Nat.div_add_mod n (2 ^ a)
    have high := Nat.div_add_mod (n / 2 ^ a) (2 ^ b)
    generalize n / 2 ^ a / 2 ^ b = q at *
    generalize n / 2 ^ a % 2 ^ b = m at *
    rw [← high] at low
    have whole : n = 2 ^ a * (2 ^ b * q) + n % 2 ^ a + m * 2 ^ a := by
      conv_lhs => rw [← low]
      ring
    rw [show n - m * 2 ^ a = 2 ^ a * (2 ^ b * q) + n % 2 ^ a by omega]
    ring
  rw [parts, Nat.testBit_two_pow_mul_add _ (Nat.mod_lt _ (Nat.two_pow_pos a)), Nat.testBit_mod_two_pow]
  split
  · next hj => simp [hj]
  · next hj =>
    rw [Nat.testBit_two_pow_mul_add _ (Nat.mod_lt _ (Nat.two_pow_pos b)), Nat.testBit_mod_two_pow]
    by_cases hb : j - a < b
    · rw [if_pos hb, if_pos (by omega), decide_eq_true hb, Bool.true_and]
    · rw [if_neg hb, if_neg (by omega), Nat.testBit_div_two_pow, Nat.testBit_div_two_pow]
      congr 1
      omega

/-- The bits that a digit takes of a number. -/
theorem testBit_digit (n a b j : Nat) : (n / 2 ^ a % 2 ^ b).testBit j = (decide (j < b) && n.testBit (a + j)) := by
  rw [Nat.testBit_mod_two_pow, Nat.testBit_div_two_pow, Nat.add_comm]

theorem laneOf_setLane_self (v : Vec) (x : Nat) {w i : Nat} (hi : i < laneCount w) :
    laneOf (setLane v w i x) w i = x % 2 ^ laneBits w := by
  rw [setLane, laneOf_ofNat _ hi]
  refine Nat.eq_of_testBit_eq fun j => ?_
  rw [testBit_digit, laneOf, testBit_replaced, Nat.testBit_mod_two_pow]
  by_cases hj : j < laneBits w
  · rw [if_neg (by omega), if_pos (by omega), Nat.add_sub_cancel_left]
  · simp [hj]

theorem laneOf_setLane_ne (v : Vec) (x : Nat) {w i k : Nat} (hk : k < laneCount w) (h : k ≠ i) :
    laneOf (setLane v w i x) w k = laneOf v w k := by
  have apart : laneBits w * k + laneBits w ≤ laneBits w * i ∨ laneBits w * i + laneBits w ≤ laneBits w * k := by
    rw [← Nat.mul_succ, ← Nat.mul_succ]
    obtain lt | gt := Nat.lt_or_gt_of_ne h
    · exact .inl (Nat.mul_le_mul_left _ lt)
    · exact .inr (Nat.mul_le_mul_left _ gt)
  rw [setLane, laneOf_ofNat _ hk, laneOf, laneOf]
  refine Nat.eq_of_testBit_eq fun j => ?_
  rw [testBit_digit, testBit_replaced, testBit_digit]
  by_cases hj : j < laneBits w
  · split
    · rfl
    · rw [if_neg (by omega)]
  · simp [hj]

/-- Lanes that a list does not name stay. -/
theorem laneOf_setLanes_other (l : List (Nat × Nat)) (v : Vec) {w k : Nat} (hk : k < laneCount w) (h : ∀ e ∈ l, e.1 ≠ k) :
    laneOf (setLanes v w l) w k = laneOf v w k := by
  induction l generalizing v with
  | nil => rfl
  | cons e l ih =>
    have rest := ih (setLane v w e.1 e.2) fun e' he => h e' (List.mem_cons_of_mem _ he)
    exact rest.trans (laneOf_setLane_ne v e.2 hk (h e (List.mem_cons_self ..)).symm)

/-- Of lanes that a list names once each, every one takes its value. -/
theorem laneOf_setLanes_of_mem {l : List (Nat × Nat)} (v : Vec) {w : Nat} (hl : ∀ e ∈ l, e.1 < laneCount w)
    (once : (l.map (·.1)).Nodup) {e : Nat × Nat} (he : e ∈ l) : laneOf (setLanes v w l) w e.1 = e.2 % 2 ^ laneBits w := by
  induction l generalizing v with
  | nil => cases he
  | cons f l ih =>
    obtain ⟨new, once⟩ := List.nodup_cons.mp once
    obtain rfl | he := List.mem_cons.mp he
    · have hk := hl e (List.mem_cons_self ..)
      have others : ∀ g ∈ l, g.1 ≠ e.1 := fun g hg same => new (List.mem_map.mpr ⟨g, hg, same⟩)
      exact (laneOf_setLanes_other l _ hk others).trans (laneOf_setLane_self v e.2 hk)
    · exact ih (setLane v w f.1 f.2) (fun g hg => hl g (List.mem_cons_of_mem _ hg)) once he

end Sys2Proof.Machine

/-! PROOFS. Accesses whose elements are all at hand and clean (R210, R229, R265, R266, R283): what their checks answer, and what writing
their places leaves. -/

namespace Sys2Proof.Machine

/-! ## The elements that an access checks -/

theorem mapM_length {α β : Type} {f : α → Exec β} {l : List α} {r : List β} (h : l.mapM f = .ok r) : r.length = l.length := by
  induction l generalizing r with
  | nil => cases h; rfl
  | cons a l ih =>
    rw [List.mapM_cons] at h
    obtain ⟨b, -, h⟩ := exec_bind_ok h
    obtain ⟨bs, tail, h⟩ := exec_bind_ok h
    cases h
    simp [ih tail]

theorem mapM_paired {α β : Type} {f : α → Exec β} {l : List α} {r : List (α × β)}
    (h : (l.mapM fun e => do let p ← f e; Except.ok (e, p)) = .ok r) : r.map (·.1) = l := by
  induction l generalizing r with
  | nil => cases h; rfl
  | cons a l ih =>
    rw [List.mapM_cons] at h
    obtain ⟨b, first, h⟩ := exec_bind_ok h
    obtain ⟨p, -, first⟩ := exec_bind_ok first
    obtain ⟨bs, tail, h⟩ := exec_bind_ok h
    cases first
    cases h
    simp [ih tail]

theorem translateAll_elements {priv : Priv} {a : Acc} {s t : State} {els : List El} {ps : List (Option Place)}
    {l : List (El × Place)} (h : translateAll priv a s els ps = .ok (t, l)) (hl : ps.length = els.length) : l.map (·.1) = els := by
  induction els generalizing s t ps l with
  | nil => cases ps <;> simp [translateAll] at h <;> simp [← h.2]
  | cons e es ih =>
    obtain _ | ⟨p, ps⟩ := ps
    · cases hl
    replace hl : ps.length = es.length := Nat.succ.inj hl
    cases p with
    | some p =>
      rw [translateAll] at h
      obtain ⟨⟨u, k⟩, rest, h⟩ := exec_bind_ok h
      cases h
      rw [List.map_cons, ih rest hl]
    | none =>
      rw [translateAll] at h
      split at h
      · cases h
      · obtain ⟨⟨u, k⟩, rest, h⟩ := exec_bind_ok h
        simp only at h
        split at h <;> cases h <;> simp [ih rest hl]
      · split at h <;> cases h
      · cases h

/-- The checks of an access keep its elements, in their order. -/
theorem checkAccess_elements {s t : State} {a : Acc} {f : Form} {w : Bool} {els : List El} {l : List (El × Place)}
    (h : checkAccess s a f w els = .ok (t, l)) : l.map (·.1) = els := by
  rw [checkAccess] at h
  obtain ⟨_, -, h⟩ := exec_bind_ok h
  split at h
  · obtain ⟨ps, paired, h⟩ := exec_bind_ok h
    cases h
    exact mapM_paired paired
  · obtain ⟨_, -, h⟩ := exec_bind_ok h
    obtain ⟨ps, placed, h⟩ := exec_bind_ok h
    exact translateAll_elements h (mapM_length placed)

/-! ## Sequences of checks -/

theorem exec_bind_of {α β : Type} {x : Exec α} {g : α → Exec β} {b : β} (P : α → Prop) (h : ∃ r, x = .ok r ∧ P r)
    (hg : ∀ r, P r → g r = .ok b) : (x >>= g) = .ok b := by
  obtain ⟨r, rfl, hr⟩ := h
  exact hg r hr

theorem forM_of_all {α : Type} {f : α → Exec PUnit} {l : List α} (h : ∀ a ∈ l, f a = .ok ()) : l.forM f = .ok () := by
  induction l with
  | nil => rfl
  | cons a l ih =>
    change (f a >>= fun _ => l.forM f) = .ok ()
    rw [h a (List.mem_cons_self ..)]
    exact ih fun b hb => h b (List.mem_cons_of_mem _ hb)

theorem filterMapM_of_all {α β : Type} {f : α → Exec (Option β)} {P : β → Prop} {l : List α}
    (h : ∀ a ∈ l, ∃ o, f a = .ok o ∧ ∀ b ∈ o, P b) : ∃ r, l.filterMapM f = .ok r ∧ ∀ b ∈ r, P b := by
  induction l with
  | nil => exact ⟨[], rfl, by simp⟩
  | cons a l ih =>
    obtain ⟨o, first, ho⟩ := h a (List.mem_cons_self ..)
    obtain ⟨r, rest, hr⟩ := ih fun b hb => h b (List.mem_cons_of_mem _ hb)
    rw [List.filterMapM_cons, first]
    cases o with
    | none => exact ⟨r, rest, hr⟩
    | some b =>
      refine ⟨b :: r, by simp [rest], fun c hc => ?_⟩
      obtain rfl | hc := List.mem_cons.mp hc
      · exact ho c rfl
      · exact hr c hc

theorem foldl_of_fixed {σ α : Type} {f : σ → α → σ} {s : σ} {l : List α} (h : ∀ a ∈ l, f s a = s) : l.foldl f s = s := by
  induction l with
  | nil => rfl
  | cons a l ih =>
    rw [List.foldl_cons, h a (List.mem_cons_self ..)]
    exact ih fun b hb => h b (List.mem_cons_of_mem _ hb)

/-! ## What a place at hand passes -/

/-- Every element is at a place that the core performs itself, and shows it no poison. -/
def State.AtHand (s : State) (a : Acc) (n : Nat) (ps : List (El × Place)) : Prop :=
  ∀ q ∈ ps, s.performs a n q.2 = true ∧ s.clean q.1 q.2 = true

/-- A block that the core performs an access to: its tag serves the access, and no request of it is under way (R265, R283). -/
theorem State.performs_phys {s : State} {a : Acc} {n pa : Nat} {pte : Word} (h : s.performs a n (.phys pa pte) = true) :
    uncachedProt pte = false ∧ pa % 64 + n ≤ 64 ∧
      (((s.myCore.block (blockOf pa)).tag = .rw ∨ (s.myCore.block (blockOf pa)).tag = .ro ∧ (a = .load ∨ a = .vload ∨ a = .fetch)) ∧
      s.myCore.far.look (blockOf pa) = none ∧
      (pteProt pte ≠ pReduce ∨ (a = .load ∨ a = .vload ∨ a = .fetch) ∧ (s.myCore.block (blockOf pa)).partialCopy = false)) := by
  simpa [State.performs, and_assoc, or_assoc] using h

theorem State.performs_remoteHome {s : State} {a : Acc} {n : Nat} {p : Place} (h : s.performs a n p = true) : p.remoteHome = false := by
  cases p with
  | phys pa pte => exact (State.performs_phys h).1
  | _ => rfl

theorem State.performs_device {s : State} {a : Acc} {n off : Nat} : s.performs a n (.device off) = false := rfl

theorem tagCheck_hit {s : State} {a : Acc} {n pa : Nat} {pte : Word} (h : s.performs a n (.phys pa pte) = true) :
    tagCheck s.myCore (blockOf pa) a = .hit := by
  obtain ⟨-, -, tag, far, -⟩ := State.performs_phys h
  have found : s.myCore.tagAt (blockOf pa) = (s.myCore.block (blockOf pa)).tag := by rw [Core.tagAt, far]; rfl
  obtain tag | ⟨tag, rfl | rfl | rfl⟩ := tag <;> (unfold tagCheck; rw [found, tag])

theorem reduceCheck_ok {s : State} {a : Acc} {n pa : Nat} {pte : Word} (h : s.performs a n (.phys pa pte) = true) (fn va : Nat) :
    reduceCheck s.myCore a fn pte (blockOf pa) va = .ok () := by
  obtain ⟨-, -, -, -, plain | ⟨reads, whole⟩⟩ := State.performs_phys h
  · unfold reduceCheck
    exact if_pos plain
  · have held : s.myCore.heldPartial (blockOf pa) = false := by rw [Core.heldPartial, whole, Bool.false_and]
    obtain rfl | rfl | rfl := reads <;> simp [reduceCheck, held]

theorem reduceTag_unused {s : State} {a : Acc} {n pa : Nat} {pte : Word} (h : s.performs a n (.phys pa pte) = true) :
    (pteProt pte = pReduce && a == Acc.atomic) = false := by
  obtain ⟨-, -, -, -, plain | ⟨reads, -⟩⟩ := State.performs_phys h
  · simp [plain]
  · obtain rfl | rfl | rfl := reads <;> simp

section
variable {s : State} {a : Acc} {n : Nat} {ps : List (El × Place)} (h : s.AtHand a n ps)
include h

theorem deviceForm_atHand (priv : Priv) (f : Form) : deviceForm priv f ps = .ok () := by
  unfold deviceForm
  refine forM_of_all fun (e, p) hq => ?_
  obtain ⟨here, -⟩ := h (e, p) hq
  cases p with
  | device off => cases here
  | _ => rfl

/-- Every block that the access touches serves it. -/
theorem tagAll_atHand (info : Word) : tagAll s a info ps = .ok () := by
  unfold tagAll
  refine exec_bind_of (fun blocks => ∀ b ∈ blocks, b.2.2.1 = TagRes.hit) (filterMapM_of_all fun (e, p) hq => ?_) fun blocks hits => ?_
  · obtain ⟨here, -⟩ := h (e, p) hq
    cases p with
    | phys pa pte =>
      simp only [(State.performs_phys here).1, reduceCheck_ok here, reduceTag_unused here, tagCheck_hit here, Bool.false_eq_true,
        if_false, except_ok_bind]
      exact ⟨_, rfl, fun b hb => by cases hb; rfl⟩
    | _ => exact ⟨none, rfl, fun b hb => by cases hb⟩
  · have all_hit : (blocks.find? fun b => b.2.2.1 != .hit) = none := by
      refine List.find?_eq_none.mpr fun b hb => ?_
      simp [hits b hb]
    simp only [all_hit]

theorem checkTags_atHand (info : Word) : checkTags s a info ps = .ok () := by
  unfold checkTags
  split
  · refine forM_of_all fun (e, p) hq => ?_
    obtain ⟨here, -⟩ := h (e, p) hq
    cases p with
    | phys pa pte => exact reduceCheck_ok here _ _
    | _ => rfl
  · exact tagAll_atHand h info

theorem storePoison_atHand : storePoison s ps = .ok () := by
  unfold storePoison
  split
  · next e p found =>
    obtain ⟨-, clean⟩ := h (e, p) (List.mem_of_find?_eq_some found)
    have poisoned := List.find?_some found
    simp [Option.isNone_iff_eq_none.mp clean] at poisoned
  · rfl

/-- A store clears no poison where it meets none. -/
theorem State.unpoison_atHand : s.unpoison ps = s := by
  unfold State.unpoison
  refine foldl_of_fixed fun (e, p) hq => ?_
  obtain ⟨-, clean⟩ := h (e, p) hq
  cases p with
  | sram c off =>
    have pure : (s.core c).sramPoison.at (off / 64) false = false := by
      by_contra hp
      simp [State.clean, State.poisonAt, hp] at clean
    simp [pure]
  | _ => rfl

end

end Sys2Proof.Machine

/-! PROOFS. Vector loads and stores of clean elements at hand (R80, R229, R485). -/

namespace Sys2Proof.Machine

/-! ## Forms (R485) -/

theorem signedOf_laneOf (v : Vec) (w i : Nat) : signedOf (laneBits w) (laneOf v w i) = laneS v w i := by
  have lt : laneOf v w i < 2 ^ laneBits w := Nat.mod_lt _ (Nat.two_pow_pos _)
  have half : 2 ^ laneBits w = 2 * 2 ^ (laneBits w - 1) := by
    rw [← Nat.pow_succ', Nat.succ_eq_add_one, Nat.sub_add_cancel]
    exact Nat.mul_pos (by decide) (Nat.two_pow_pos w)
  have small : (laneOf v w i : Int) % (2 ^ laneBits w : Nat) = laneOf v w i := Int.emod_eq_of_lt (by omega) (by exact_mod_cast lt)
  rw [signedOf, laneS, Nat.mod_eq_of_lt lt, Int.bmod, small]
  generalize 2 ^ laneBits w = full at *
  generalize 2 ^ (laneBits w - 1) = positive at *
  subst half
  split <;> split <;> omega

theorem elements_eq (x : VecAccess) (t : State) (a b : Word) (addr : Nat → Word) (h : ∀ i, addr i = x.addr t a b i) :
    elements x.w (t.mask x.m) addr = x.els t a b := by
  rw [elements, activeLanes, VecAccess.els, funext h]

theorem addrVec_eq (a : Word) (imm : Int) (w i : Nat) : addrVec a imm w i = a + BitVec.ofInt 64 (128 * imm + i * 2 ^ w) := by
  rw [addrVec, BitVec.ofInt_add, ← BitVec.add_assoc]
  congr 1

theorem addrIndex_eq (a : Word) (v : Vec) (w i : Nat) : addrIndex a v w i = a + BitVec.ofInt 64 (laneS v w i) := by
  rw [addrIndex, signedOf_laneOf]

theorem issue_congr {u : Uses} {f g : Word → Word → Word → State → Exec State} (h : ∀ a b c t, f a b c t = g a b c t) (s : State) :
    issue u f s = issue u g s :=
  congrArg (fun body => issue u body s) (funext fun a => funext fun b => funext fun c => funext (h a b c))

/-- Every vector load is `loadV` of its elements. -/
theorem exec_vloadOp {i : Instr} {x : VecAccess} (h : vloadOp i = some x) (s : State) :
    exec i s = issue x.uses (fun a b _ t => loadV x.d x.w x.form (x.els t a b) x.ord t) s := by
  unfold vloadOp at h
  split at h
  case h_4 => cases h
  all_goals
    cases h
    refine issue_congr (fun a b _ t => ?_) s
    rw [← elements_eq]
  case h_1 => exact fun i => addrVec_eq ..
  case h_2 => exact fun i => rfl
  case h_3 => exact fun i => addrIndex_eq ..

/-- Every vector store is `storeV` of its elements. -/
theorem exec_vstoreOp {i : Instr} {x : VecAccess} (h : vstoreOp i = some x) (s : State) :
    exec i s = issue x.uses (fun a b _ t => storeV x.d x.w x.form (x.els t a b) x.ord t) s := by
  unfold vstoreOp at h
  split at h
  case h_4 => cases h
  all_goals
    cases h
    refine issue_congr (fun a b _ t => ?_) s
    rw [← elements_eq]
  case h_1 => exact fun i => addrVec_eq ..
  case h_2 => exact fun i => rfl
  case h_3 => exact fun i => addrIndex_eq ..

/-! ## The elements of a vector access -/

section
variable {x : VecAccess} {t : State} {a b : Word} {ps : List (El × Place)} (h : ps.map (·.1) = x.els t a b)
include h

theorem vec_size {q : El × Place} (hq : q ∈ ps) : q.1.size = 2 ^ x.w := by
  have mem := List.mem_map_of_mem (f := (·.1)) hq
  rw [h, VecAccess.els] at mem
  obtain ⟨i, -, hi⟩ := List.mem_map.mp mem
  rw [← hi]

/-- An element's lane is one that the mask makes active. -/
theorem vec_lane {q : El × Place} (hq : q ∈ ps) : q.1.lane < laneCount x.w ∧ (t.mask x.m).getLsbD q.1.lane = true := by
  have mem := List.mem_map_of_mem (f := (·.1)) hq
  rw [h, VecAccess.els] at mem
  obtain ⟨i, hi, he⟩ := List.mem_map.mp mem
  rw [← he]
  simpa using hi

/-- Elements come in lane order. -/
theorem vec_lanes_sorted : ps.Pairwise fun q r => q.1.lane < r.1.lane := by
  have sorted : (x.els t a b).Pairwise fun e f => e.lane < f.lane :=
    (List.pairwise_lt_range.filter _).map _ fun i j hij => hij
  rw [← h] at sorted
  exact (List.pairwise_map (f := fun q : El × Place => q.1) (R := fun e f : El => e.lane < f.lane)).mp sorted

end

/-! ## Loads -/

theorem finishLoad_atHand {s : State} {a : Acc} {n : Nat} {ps : List (El × Place)} (h : s.AtHand a n ps) (dest : El → LateDest)
    (signed : Bool) (write : List (El × Nat) → State → Exec State) :
    finishLoad a dest signed write ps s = write (ps.map fun q => (q.1, s.readPlace q.1.size q.2)) s := by
  have clean : (ps.find? fun q => (s.poisonAt q.1 q.2).isSome) = none := by
    refine List.find?_eq_none.mpr fun q hq => ?_
    simp [Option.isNone_iff_eq_none.mp (h q hq).2]
  have near : (ps.any fun q => q.2.remoteHome) = false := by
    refine List.any_eq_false.mpr fun q hq => ?_
    simp [State.performs_remoteHome (h q hq).1]
  unfold finishLoad
  rw [clean]
  exact if_neg (by rw [near]; exact Bool.false_ne_true)

/-- The state after a vector load whose elements are at hand. -/
def State.loadedLanes (r : State) (d w : Nat) (ps : List (El × Place)) : State :=
  r.setV d (setLanes (r.v d) w (ps.map fun q => (q.1.lane, r.value q.2 (2 ^ w))))

theorem loadV_atHand {t r : State} {d w : Nat} {f : Form} {els : List El} {ps : List (El × Place)}
    (checked : checkAccess t .vload f false els = .ok (r, ps)) (h : r.AtHand .vload (2 ^ w) ps)
    (size : ∀ q ∈ ps, q.1.size = 2 ^ w) (pending : r.me.pending = []) (ord : OrdFld) :
    loadV d w f els ord t = .ok (r.loadedLanes d w ps) := by
  have values : (ps.map fun q => (q.1, r.readPlace q.1.size q.2)).map (fun y => (y.1.lane, y.2)) =
      ps.map fun q => (q.1.lane, r.value q.2 (2 ^ w)) := by
    rw [List.map_map]
    refine List.map_congr_left fun q hq => ?_
    simp only [Function.comp_apply, size q hq, State.readPlace_value (h q hq).1]
  have here : (r.loadedLanes d w ps).holdAcquire ord = r.loadedLanes d w ps := by
    simp [State.holdAcquire, State.loadedLanes, pending]
  rw [loadV, checked]
  simp only [except_ok_bind, deviceForm_atHand h, tagAll_atHand h, finishLoad_atHand h]
  exact congrArg Except.ok ((congrArg (fun l => (r.setV d (setLanes (r.v d) w l)).holdAcquire ord) values).trans here)

theorem State.byteAt_setV (s : State) (d : Nat) (v : Vec) (l : Loc) : (s.setV d v).byteAt l = s.byteAt l :=
  State.byteAt_modCore rfl rfl l

/-! ## Stores -/

/-- Values written at places, one after another. -/
def State.writePlaces (s : State) (n : Nat) (l : List (Place × Nat)) : State := l.foldl (fun s y => s.writePlace n y.2 y.1) s

theorem Core.touch_blocks (k : Core) (off b : Nat) : (k.touch off).far = k.far ∧ (k.touch off).block b = k.block b := by
  unfold Core.touch
  split <;> exact ⟨rfl, rfl⟩

/-- A write leaves the tags of all blocks and the requests under way. -/
theorem State.writePlace_tags (s : State) (m v : Nat) (p : Place) (b : Nat) :
    (s.writePlace m v p).myCore.far = s.myCore.far ∧ ((s.writePlace m v p).myCore.block b).tag = (s.myCore.block b).tag ∧
      ((s.writePlace m v p).myCore.block b).partialCopy = (s.myCore.block b).partialCopy := by
  cases p with
  | sram c off =>
    have touched := (s.core c).touch_blocks off b
    by_cases hc : s.cur.unit = c
    · subst hc
      simp only [State.writePlace, State.writeSram, State.myCore, State.modCore_cur, State.core_modCore_self]
      exact ⟨touched.1, congrArg Block.tag touched.2, congrArg Block.partialCopy touched.2⟩
    · simp only [State.writePlace, State.writeSram, State.myCore, State.modCore_cur, State.core_modCore_ne _ _ hc, and_self]
  | phys pa pte =>
    simp only [State.writePlace, State.setBlock, State.myCore, State.modCore_cur, State.core_modCore_self, true_and]
    by_cases hb : b = blockOf pa
    · subst hb
      rw [Core.block_put_self]
      exact ⟨rfl, rfl⟩
    · rw [Core.block_put_ne _ _ hb]
      exact ⟨rfl, rfl⟩
  | _ => exact ⟨rfl, rfl, rfl⟩

/-- So the core performs an access after a write as before it (R265). -/
theorem State.performs_writePlace (s : State) (m v : Nat) (p : Place) (a : Acc) (n : Nat) (q : Place) :
    (s.writePlace m v p).performs a n q = s.performs a n q := by
  cases q with
  | phys pa pte =>
    obtain ⟨far, tag, whole⟩ := s.writePlace_tags m v p (blockOf pa)
    simp only [State.performs, far, tag, whole]
  | _ => rfl

theorem Place.loc_of_cur {s t : State} (h : t.cur = s.cur) (k : Nat) (p : Place) : p.loc t k = p.loc s k := by
  cases p <;> simp only [Place.loc, h]

section
variable {s : State} {a : Acc} {n : Nat} {l : List (Place × Nat)}

/-- Bytes that no write of a list reaches stay. -/
theorem State.byteAt_writePlaces_other (h : ∀ y ∈ l, s.performs a n y.1 = true) {b : Loc}
    (hb : ∀ y ∈ l, ∀ k, k < n → b ≠ y.1.loc s k) : (s.writePlaces n l).byteAt b = s.byteAt b := by
  induction l generalizing s with
  | nil => rfl
  | cons y l ih =>
    have cur : (s.writePlace n y.2 y.1).cur = s.cur := (s.writePlace_keeps n y.2 y.1).1
    refine (ih (s := s.writePlace n y.2 y.1) ?_ ?_).trans
      (State.byteAt_writePlace_ne (h y (List.mem_cons_self ..)) (hb y (List.mem_cons_self ..)))
    · intro z hz
      rw [State.performs_writePlace]
      exact h z (List.mem_cons_of_mem _ hz)
    · intro z hz k hk
      rw [Place.loc_of_cur cur]
      exact hb z (List.mem_cons_of_mem _ hz) k hk

/-- A byte takes the value of the last write that reaches it. -/
theorem State.byteAt_writePlaces_last {l₁ l₂ : List (Place × Nat)} {y : Place × Nat} (hl : l = l₁ ++ y :: l₂)
    (h : ∀ z ∈ l, s.performs a n z.1 = true) {k : Nat} (hk : k < n)
    (last : ∀ z ∈ l₂, ∀ j, j < n → y.1.loc s k ≠ z.1.loc s j) :
    (s.writePlaces n l).byteAt (y.1.loc s k) = BitVec.ofNat 8 (y.2 / 256 ^ k) := by
  subst hl
  induction l₁ generalizing s with
  | nil =>
    have cur : (s.writePlace n y.2 y.1).cur = s.cur := (s.writePlace_keeps n y.2 y.1).1
    refine (State.byteAt_writePlaces_other (s := s.writePlace n y.2 y.1) (a := a) ?_ ?_).trans
      (State.byteAt_writePlace (h y (List.mem_cons_self ..)) hk)
    · intro z hz
      rw [State.performs_writePlace]
      exact h z (List.mem_cons_of_mem _ hz)
    · intro z hz j hj
      rw [Place.loc_of_cur cur]
      exact last z hz j hj
  | cons x l₁ ih =>
    have cur : (s.writePlace n x.2 x.1).cur = s.cur := (s.writePlace_keeps n x.2 x.1).1
    have later : ∀ z ∈ l₂, ∀ j, j < n → y.1.loc (s.writePlace n x.2 x.1) k ≠ z.1.loc (s.writePlace n x.2 x.1) j := by
      intro z hz j hj
      rw [Place.loc_of_cur cur, Place.loc_of_cur cur]
      exact last z hz j hj
    have rest := ih later fun z hz => by
      rw [State.performs_writePlace]
      exact h z (List.mem_cons_of_mem _ hz)
    rwa [Place.loc_of_cur cur] at rest

end

/-- What writes at places leave: the issuing slot, every slot and every register. -/
theorem State.writePlaces_keeps (s : State) (n : Nat) (l : List (Place × Nat)) :
    (s.writePlaces n l).cur = s.cur ∧ (∀ pp u t, (s.writePlaces n l).thread pp u t = s.thread pp u t) ∧
      (∀ k, (s.writePlaces n l).x k = s.x k) ∧ ∀ k, (s.writePlaces n l).v k = s.v k := by
  induction l generalizing s with
  | nil => exact ⟨rfl, fun _ _ _ => rfl, fun _ => rfl, fun _ => rfl⟩
  | cons y l ih =>
    obtain ⟨cur, thread, x, v⟩ := ih (s.writePlace n y.2 y.1)
    obtain ⟨cur', thread', x', v', -⟩ := s.writePlace_keeps n y.2 y.1
    refine ⟨cur.trans cur', fun pp u t => (thread pp u t).trans (thread' pp u t), fun k => (x k).trans ?_, fun k => (v k).trans ?_⟩
    · rw [State.x, cur', x', State.x]
    · rw [State.v, State.myCore, cur', v', State.v, State.myCore]

/-! ## A vector store whose elements are at hand -/

/-- What an access at hand rests on lies in the core beside its slots. -/
theorem State.SameElsewhere.atHand {s t : State} (same : s.SameElsewhere t) {a : Acc} {n : Nat} {ps : List (El × Place)}
    (h : s.AtHand a n ps) : t.AtHand a n ps := by
  have cur := State.cur_of_rest same.rest
  have cache (c : Nat) : (t.core c).cache = (s.core c).cache := by
    have rest := congrArg Core.cache (same.cores c)
    exact rest
  have far (c : Nat) : (t.core c).far = (s.core c).far := by
    have rest := congrArg Core.far (same.cores c)
    exact rest
  have marks (c : Nat) : (t.core c).sramPoison = (s.core c).sramPoison := by
    have rest := congrArg Core.sramPoison (same.cores c)
    exact rest
  have lines : t.poison = s.poison := by
    have rest := congrArg State.poison same.rest
    exact rest
  have poisoned (pa : Nat) : t.poisoned pa = s.poisoned pa := by rw [State.poisoned, lines, State.poisoned]
  have source (pa : Nat) : t.poisonSrc pa = s.poisonSrc pa := by rw [State.poisonSrc, lines, State.poisonSrc]
  intro q hq
  have performs : t.performs a n q.2 = s.performs a n q.2 := by
    cases q.2 <;> simp only [State.performs, State.myCore, Core.block, cur, cache, far]
  have poisonAt : t.poisonAt q.1 q.2 = s.poisonAt q.1 q.2 := by
    cases q.2 <;> simp only [State.poisonAt, poisoned, source, marks]
  rw [performs, State.clean, poisonAt]
  exact h q hq

/-- An ordering's release changes the thread alone, and no register of it. -/
theorem State.orderedAt_keeps (s : State) (ord : OrdFld) : s.SameElsewhere (s.orderedAt ord) ∧
    (∀ k, (s.orderedAt ord).x k = s.x k) ∧ ∀ k, (s.orderedAt ord).v k = s.v k := by
  unfold State.orderedAt
  split
  · obtain ⟨same, -, x, v⟩ := s.releasedAt_keeps (ord.scope != .core)
    exact ⟨same, x, v⟩
  · exact ⟨.refl s, fun _ => rfl, fun _ => rfl⟩

theorem State.AtHand.performs_all {s : State} {a : Acc} {n : Nat} {ps : List (El × Place)} (h : s.AtHand a n ps)
    (g : El × Place → Nat) : ∀ y ∈ ps.map fun q => (q.2, g q), s.performs a n y.1 = true := by
  intro y hy
  obtain ⟨q, hq, rfl⟩ := List.mem_map.mp hy
  exact (h q hq).1

section
variable {s : State} {a : Acc} {n : Nat} {ps : List (El × Place)} (h : s.AtHand a n ps) (g : El × Place → El × Nat)
include h

/-- Such a store sends nothing to homes. -/
theorem storeAsks_atHand (kind mode : Nat) : storeAsks kind mode a (ps.map fun q => (q, g q)) = [] := by
  unfold storeAsks
  refine List.filterMap_eq_nil_iff.mpr fun y hy => ?_
  obtain ⟨⟨e, p⟩, hq, rfl⟩ := List.mem_map.mp hy
  obtain ⟨here, -⟩ := h (e, p) hq
  cases p with
  | phys pa pte => simp [(State.performs_phys here).1]
  | _ => rfl

theorem State.storeHere_atHand (size : ∀ q ∈ ps, q.1.size = n) :
    s.storeHere (ps.map fun q => (q, g q)) = s.writePlaces n (ps.map fun q => (q.2, (g q).2)) := by
  have elements : (ps.map fun q => (q, g q)).map (·.1) = ps := by simp [Function.comp_def]
  unfold State.storeHere State.writePlaces
  rw [elements, State.unpoison_atHand h, List.foldl_map, List.foldl_map]
  refine List.foldl_ext _ _ _ fun r q hq => ?_
  simp only [State.storePlace, State.performs_remoteHome (h q hq).1, Bool.false_eq_true, if_false, size q hq]

end

theorem State.Begins.asks {s t : State} {u : Uses} {a b c : Word} (h : s.Begins u a b c t) : t.me.asks = [] := by
  obtain ⟨-, g, hg⟩ := h.keeps
  rw [hg]
  exact ((State.settled_iff s).1 h.1).2.2.2

/-- The state after a vector store whose elements are at hand. -/
def State.storedLanes (r : State) (v : Vec) (w : Nat) (ps : List (El × Place)) : State :=
  r.writePlaces (2 ^ w) (ps.map fun q => (q.2, laneOf v w q.1.lane))

theorem storeV_atHand {t r : State} {d w : Nat} {f : Form} {els : List El} {ps : List (El × Place)} {ord : OrdFld}
    (asks : t.me.asks = []) (checked : checkAccess t .vstore f true els = .ok (r, ps)) (h : r.AtHand .vstore (2 ^ w) ps)
    (size : ∀ q ∈ ps, q.1.size = 2 ^ w) (ordered : r.orderedOk ord = true) :
    storeV d w f els ord t = .ok ((r.orderedAt ord).storedLanes (t.v d) w ps) := by
  have names : (els.map fun e => (e, laneOf (t.v d) w e.lane)).map (·.1) = els := by simp [Function.comp_def]
  have pairs : ps.zip (els.map fun e => (e, laneOf (t.v d) w e.lane)) = ps.map fun q => (q, (q.1, laneOf (t.v d) w q.1.lane)) := by
    rw [← checkAccess_elements checked, List.map_map, List.map_prod_left_eq_zip]
    rfl
  have fresh : performed (.wait .asks id) t = none := by rw [performed, asks]; rfl
  have released := (r.orderedAt_keeps ord).1.atHand h
  have none_asked : answers 4 [] r = .ok [] := rfl
  unfold storeV storeAll
  rw [fresh]
  simp only [names, checked, except_ok_bind, deviceForm_atHand h, storePoison_atHand h, checkTags_atHand h, pairs,
    storeAsks_atHand h, ite_self, none_asked, releaseGate_ok ordered, tagAll_atHand released]
  split
  · next e off _ _ _ =>
    exact absurd (h (e, .device off) (List.mem_cons_self ..)).1 (by simp [State.performs_device])
  · simp only [commitStore, storeAsks_atHand released, State.storeHere_atHand released _ size]
    rfl

/-! ## What the lanes and the bytes are afterwards -/

section
variable {x : VecAccess} {t r : State} {a b : Word} {ps : List (El × Place)} (elements : ps.map (·.1) = x.els t a b)
include elements

/-- Each active lane takes the value at its address (R80, R485). -/
theorem laneOf_loadedLanes {q : El × Place} (hq : q ∈ ps) :
    laneOf ((r.loadedLanes x.d x.w ps).v x.d) x.w q.1.lane = r.value q.2 (2 ^ x.w) := by
  have fits : r.value q.2 (2 ^ x.w) < 2 ^ laneBits x.w := by
    rw [laneBits, Nat.pow_mul]
    exact r.value_lt q.2 (2 ^ x.w)
  rw [State.loadedLanes, State.v_setV_self, ← Nat.mod_eq_of_lt fits]
  refine laneOf_setLanes_of_mem (r.v x.d) ?_ ?_ (List.mem_map_of_mem (f := fun q => (q.1.lane, r.value q.2 (2 ^ x.w))) hq)
  · rintro _ he
    obtain ⟨p, hp, rfl⟩ := List.mem_map.mp he
    exact (vec_lane elements hp).1
  · rw [List.map_map]
    exact List.pairwise_map.mpr ((vec_lanes_sorted elements).imp Nat.ne_of_lt)

/-- The other lanes keep their values. -/
theorem laneOf_loadedLanes_inactive {k : Nat} (hk : k < laneCount x.w) (inactive : (t.mask x.m).getLsbD k = false) :
    laneOf ((r.loadedLanes x.d x.w ps).v x.d) x.w k = laneOf (r.v x.d) x.w k := by
  rw [State.loadedLanes, State.v_setV_self, laneOf_setLanes_other _ _ hk]
  rintro _ he rfl
  obtain ⟨p, hp, rfl⟩ := List.mem_map.mp he
  exact Bool.false_ne_true (inactive.symm.trans (vec_lane elements hp).2)

/-- The bytes of an active lane go to its address, where no later lane's do (R229). -/
theorem byteAt_storedLanes (h : r.AtHand .vstore (2 ^ x.w) ps) (v : Vec) {q : El × Place} (hq : q ∈ ps) {k : Nat} (hk : k < 2 ^ x.w)
    (last : ∀ q' ∈ ps, q.1.lane < q'.1.lane → ∀ j, j < 2 ^ x.w → q'.2.loc r j ≠ q.2.loc r k) :
    (r.storedLanes v x.w ps).byteAt (q.2.loc r k) = BitVec.ofNat 8 (laneOf v x.w q.1.lane / 256 ^ k) := by
  obtain ⟨before, after, parts⟩ := List.append_of_mem hq
  have sorted := vec_lanes_sorted elements
  rw [parts] at sorted
  have later := (List.pairwise_cons.mp (List.pairwise_append.mp sorted).2.1).1
  refine State.byteAt_writePlaces_last (y := (q.2, laneOf v x.w q.1.lane)) (by rw [parts, List.map_append, List.map_cons])
    (h.performs_all _) hk fun z hz j hj => ?_
  obtain ⟨q', hq', rfl⟩ := List.mem_map.mp hz
  exact (last q' (by rw [parts]; simp [hq']) (later q' hq') j hj).symm

end

/-- No other byte changes. -/
theorem byteAt_storedLanes_other {r : State} {w : Nat} {ps : List (El × Place)} (h : r.AtHand .vstore (2 ^ w) ps) (v : Vec) {l : Loc}
    (hl : ∀ q ∈ ps, ∀ k, k < 2 ^ w → l ≠ q.2.loc r k) : (r.storedLanes v w ps).byteAt l = r.byteAt l := by
  refine State.byteAt_writePlaces_other (h.performs_all _) fun y hy k hk => ?_
  obtain ⟨q, hq, rfl⟩ := List.mem_map.mp hy
  exact hl q hq k hk

end Sys2Proof.Machine

namespace Sys2Proof.Proofs

open Sys2Proof.Machine

/-- Settles O14: the checks change the translation caches only; a load then writes its lanes, a store its places in lane order. -/
theorem vectorAccesses : Obligations.VectorAccesses := by
  refine ⟨?load, ?store⟩
  case load =>
    intro i x s t r a b c ps hi _ hb checked h
    have kept := checkAccess_keeps checked
    have elements := checkAccess_elements checked
    have pending : r.me.pending = [] := by rw [kept.me, hb.pending]
    have loads := loadV_atHand (d := x.d) checked h (fun q hq => vec_size elements hq) pending x.ord
    refine ⟨r.loadedLanes x.d x.w ps, by rw [exec_vloadOp hi, issue_ok hb loads], elements, fun q hq => laneOf_loadedLanes elements hq,
      fun k hk inactive => ?_, fun n hn => ?_, fun n => ?_, ?_, kept.net, fun l => ?_⟩
    · rw [laneOf_loadedLanes_inactive elements hk inactive, kept.v]
    · rw [State.loadedLanes, State.v_setV_ne _ _ hn, kept.v]
    · rw [State.loadedLanes, State.x_setV, kept.x]
    · rw [State.loadedLanes, State.me_setV, kept.me]
    · rw [State.loadedLanes, State.byteAt_setV, kept.byteAt]
  case store =>
    intro i x s t r a b c ps hi _ hb checked h ordered
    have kept := checkAccess_keeps checked
    have elements := checkAccess_elements checked
    obtain ⟨same, ox, ov⟩ := r.orderedAt_keeps x.ord
    have cur : r.cur = s.cur := kept.cur.trans hb.cur
    have ocur := State.cur_of_rest same.rest
    obtain ⟨wcur, wthread, wx, wv⟩ :=
      (r.orderedAt x.ord).writePlaces_keeps (2 ^ x.w) (ps.map fun q => (q.2, laneOf (t.v x.d) x.w q.1.lane))
    have stores := storeV_atHand (d := x.d) hb.asks checked h (fun q hq => vec_size elements hq) ordered
    refine ⟨(r.orderedAt x.ord).storedLanes (t.v x.d) x.w ps, by rw [exec_vstoreOp hi, issue_ok hb stores], elements,
      fun q hq k hk last => ?_, fun l hl => ?_, fun n => (wv n).trans ((ov n).trans (kept.v n)),
      fun n => (wx n).trans ((ox n).trans (kept.x n)), wcur.trans (ocur.trans cur), fun pp u m other => ?_⟩
    · simp only [← Place.loc_of_cur ocur] at last ⊢
      exact byteAt_storedLanes elements (same.atHand h) (t.v x.d) hq hk last
    · simp only [← Place.loc_of_cur ocur] at hl
      exact (byteAt_storedLanes_other (same.atHand h) (t.v x.d) hl).trans ((same.byteAt l).trans (kept.byteAt l))
    · exact (wthread pp u m).trans ((same.threads pp u m (by rwa [cur])).trans (kept.thread pp u m))

end Sys2Proof.Proofs

/-! PROOFS. The chain that the encoder writes is read back piece by piece (R94 to R99, R104, R132): its prefixes, the immediate, the
base word, and the checks of the opcode map. -/

namespace Sys2Proof

/-! ## Prefixes -/

/-- The prefixes of a chain in pieces, in the order PAGE, ORD, REGX, IMMX (R132). -/
def Raw.prefixes (r : Raw) : List Nat :=
  (if r.page = 0 then [] else [0xF800 + r.mod * 16 + r.page]) ++
  (r.ord.map (0xFC00 + ·)).toList ++
  (if r.dh = 0 ∧ r.ah = 0 ∧ r.bh = 0 then [] else [0xF400 + r.dh * 128 + r.ah * 16 + r.bh * 2]) ++
  r.immx.map (0xF000 + ·)

/-- The base word of a chain in pieces (R97). -/
def Raw.base (r : Raw) : Nat := r.major * 4096 + r.n2 * 256 + r.n1 * 16 + r.n0

theorem rawWords_eq (r : Raw) : rawWords r = r.prefixes ++ [r.base] := by
  rw [rawWords, Raw.prefixes]
  cases r.ord <;> rfl

/-- The pieces lie in their fields (R95, R97), only a chain with a page has a mod, and the prefixes are four at most (R94). -/
structure Raw.Fits (r : Raw) : Prop where
  page : r.page < 15
  page_open : r.page ≠ 12
  mod : r.mod < 64
  mod_of_page : r.page = 0 → r.mod = 0
  ord : ∀ o ∈ r.ord, o < 1024 ∧ o % 16 = 0 ∧ o / 16 % 4 ≠ 3
  immx : ∀ p ∈ r.immx, p < 1024
  regx : r.dh < 8 ∧ r.ah < 8 ∧ r.bh < 8
  base : r.major < 15 ∧ r.n2 < 16 ∧ r.n1 < 16 ∧ r.n0 < 16
  short : r.prefixes.length ≤ 4

theorem isPrefix_of_payload {h : Nat} (lo : 0xF000 ≤ h) (hi : h < 0x10000) : isPrefix h = true := by
  simp only [isPrefix, beq_iff_eq]
  omega

theorem Raw.Fits.isPrefix {r : Raw} (fits : r.Fits) {h : Nat} (hh : h ∈ r.prefixes) : isPrefix h = true := by
  obtain ⟨hd, ha, hb⟩ := fits.regx
  have hp := fits.page
  have hm := fits.mod
  simp only [Raw.prefixes, List.mem_append] at hh
  obtain ((page | ord) | regx) | immx := hh
  case inl.inl.inl =>
    split at page
    · simp at page
    · rw [List.mem_singleton] at page
      exact isPrefix_of_payload (by omega) (by omega)
  case inl.inl.inr =>
    obtain ⟨o, ho, rfl⟩ := Option.map_eq_some_iff.mp (Option.mem_toList.mp ord)
    have := fits.ord o ho
    exact isPrefix_of_payload (by omega) (by omega)
  case inl.inr =>
    split at regx
    · simp at regx
    · rw [List.mem_singleton] at regx
      exact isPrefix_of_payload (by omega) (by omega)
  case inr =>
    obtain ⟨p, hp, rfl⟩ := List.mem_map.mp immx
    have := fits.immx p hp
    exact isPrefix_of_payload (by omega) (by omega)

theorem Raw.Fits.base_lt {r : Raw} (fits : r.Fits) : r.base < 0xF000 := by
  obtain ⟨major, n2, n1, n0⟩ := fits.base
  unfold Raw.base
  omega

theorem Raw.Fits.base_not_prefix {r : Raw} (fits : r.Fits) : Sys2Proof.isPrefix r.base = false := by
  have := fits.base_lt
  simp only [Sys2Proof.isPrefix, beq_eq_false_iff_ne]
  omega

/-- The run of prefixes ends at the base word. -/
theorem takePrefixes_append {ps : List Nat} (hp : ∀ h ∈ ps, isPrefix h = true) {b : Nat} (hb : isPrefix b = false) (l : List Nat)
    {n : Nat} (hn : ps.length ≤ n) : takePrefixes n (ps ++ b :: l) = (ps, b :: l) := by
  induction ps generalizing n with
  | nil => cases n <;> simp [takePrefixes, hb]
  | cons h ps ih =>
    obtain ⟨m, rfl⟩ : ∃ m, n = m + 1 := Nat.exists_eq_add_one.mpr (Nat.lt_of_lt_of_le (Nat.succ_pos _) hn)
    have rest := ih (fun g hg => hp g (List.mem_cons_of_mem h hg)) (Nat.le_of_succ_le_succ hn)
    simp [takePrefixes, hp h, rest]

/-! ## What the prefixes say (R95) -/

section
variable {k p : Nat} {s : Seen} {t : List Nat}

theorem collect_immx (hp : p < 1024) : collect k s ((0xF000 + p) :: t) = collect (k + 1) { s with immx := s.immx ++ [(k, p)] } t := by
  rw [collect, if_pos (by omega), show (0xF000 + p) % 1024 = p by omega]

theorem collect_regx (hp : p < 1024) (even : p % 2 = 0) (first : s.regx = none) :
    collect k s ((0xF400 + p) :: t) = collect (k + 1) { s with regx := some (k, p) } t := by
  rw [collect, if_neg (by omega), if_pos (by omega), if_neg (by simp [first]), if_neg (by omega), show (0xF400 + p) % 1024 = p by omega]

theorem collect_page (hp : p < 1024) (first : s.page = none) :
    collect k s ((0xF800 + p) :: t) = collect (k + 1) { s with page := some (k, p) } t := by
  rw [collect, if_neg (by omega), if_neg (by omega), if_pos (by omega), if_neg (by simp [first]), show (0xF800 + p) % 1024 = p by omega]

theorem collect_ord (hp : p < 1024) (low : p % 16 = 0) (hint : p / 16 % 4 ≠ 3) (first : s.ord = none) :
    collect k s ((0xFC00 + p) :: t) = collect (k + 1) { s with ord := some (k, p) } t := by
  have clear : ¬ ((0xFC00 + p) % 16 ≠ 0 || (0xFC00 + p) / 16 % 4 = 3) = true := by simp; omega
  rw [collect, if_neg (by omega), if_neg (by omega), if_neg (by omega), if_neg (by simp [first]), if_neg clear,
    show (0xFC00 + p) % 1024 = p by omega]

/-- IMMX prefixes are kept in their order. -/
theorem collect_immxs {ps : List Nat} (hp : ∀ p ∈ ps, p < 1024) (k : Nat) (s : Seen) :
    ∃ l : List (Nat × Nat), l.map (·.2) = ps ∧ collect k s (ps.map (0xF000 + ·)) = .ok { s with immx := s.immx ++ l } := by
  induction ps generalizing k s with
  | nil => exact ⟨[], rfl, by simp [collect]⟩
  | cons p ps ih =>
    obtain ⟨l, values, rest⟩ := ih (fun q hq => hp q (List.mem_cons_of_mem p hq)) (k + 1) { s with immx := s.immx ++ [(k, p)] }
    refine ⟨(k, p) :: l, by rw [List.map_cons, values], ?_⟩
    rw [List.map_cons, collect_immx (hp p List.mem_cons_self), rest]
    simp

end

/-- What the decoder has seen of a chain, positions apart. -/
structure Raw.SeenAs (r : Raw) (s : Seen) : Prop where
  page : s.page.map (·.2) = if r.page = 0 then none else some (r.mod * 16 + r.page)
  ord : s.ord.map (·.2) = r.ord
  regx : s.regx.map (·.2) = if r.dh = 0 ∧ r.ah = 0 ∧ r.bh = 0 then none else some (r.dh * 128 + r.ah * 16 + r.bh * 2)
  immx : s.immx.map (·.2) = r.immx

/-- The prefixes of a chain are read without a refusal. -/
theorem Raw.Fits.collect_prefixes {r : Raw} (fits : r.Fits) : ∃ s, collect 0 Seen.none r.prefixes = .ok s ∧ r.SeenAs s := by
  obtain ⟨hd, ha, hb⟩ := fits.regx
  have hp := fits.page
  have hm := fits.mod
  have page (t : List Nat) : ∃ k g, g.map (·.2) = (if r.page = 0 then none else some (r.mod * 16 + r.page)) ∧
      collect 0 Seen.none ((if r.page = 0 then [] else [0xF800 + r.mod * 16 + r.page]) ++ t) =
        collect k { Seen.none with page := g } t := by
    by_cases h : r.page = 0
    · exact ⟨0, none, by simp [h], by simp [h, Seen.none]⟩
    · refine ⟨1, some (0, r.mod * 16 + r.page), by simp [h], ?_⟩
      rw [if_neg h, Nat.add_assoc]
      exact collect_page (by omega) rfl
  have ord (k : Nat) (s : Seen) (t : List Nat) (first : s.ord = none) : ∃ k' g, g.map (·.2) = r.ord ∧
      collect k s ((r.ord.map (0xFC00 + ·)).toList ++ t) = collect k' { s with ord := g } t := by
    cases h : r.ord with
    | none => exact ⟨k, none, rfl, by rw [← first]; rfl⟩
    | some o =>
      obtain ⟨small, low, hint⟩ := fits.ord o h
      exact ⟨k + 1, some (k, o), rfl, collect_ord small low hint first⟩
  have regx (k : Nat) (s : Seen) (t : List Nat) (first : s.regx = none) : ∃ k' g,
      g.map (·.2) = (if r.dh = 0 ∧ r.ah = 0 ∧ r.bh = 0 then none else some (r.dh * 128 + r.ah * 16 + r.bh * 2)) ∧
      collect k s ((if r.dh = 0 ∧ r.ah = 0 ∧ r.bh = 0 then [] else [0xF400 + r.dh * 128 + r.ah * 16 + r.bh * 2]) ++ t) =
        collect k' { s with regx := g } t := by
    by_cases h : r.dh = 0 ∧ r.ah = 0 ∧ r.bh = 0
    · exact ⟨k, none, by rw [if_pos h]; rfl, by rw [if_pos h, ← first]; rfl⟩
    · refine ⟨k + 1, some (k, r.dh * 128 + r.ah * 16 + r.bh * 2), by rw [if_neg h]; rfl, ?_⟩
      rw [if_neg h, show 0xF400 + r.dh * 128 + r.ah * 16 + r.bh * 2 = 0xF400 + (r.dh * 128 + r.ah * 16 + r.bh * 2) by omega]
      exact collect_regx (by omega) (by omega) first
  unfold Raw.prefixes
  simp only [List.append_assoc]
  obtain ⟨k₁, g₁, page_eq, page⟩ := page _
  rw [page]
  obtain ⟨k₂, g₂, ord_eq, ord⟩ := ord k₁ { Seen.none with page := g₁ } _ rfl
  rw [ord]
  obtain ⟨k₃, g₃, regx_eq, regx⟩ := regx k₂ { Seen.none with page := g₁, ord := g₂ } (r.immx.map (0xF000 + ·)) rfl
  rw [regx]
  obtain ⟨l, immx_eq, immx⟩ := collect_immxs fits.immx k₃ { Seen.none with page := g₁, ord := g₂, regx := g₃ }
  exact ⟨_, immx, page_eq, ord_eq, regx_eq, immx_eq⟩

/-- The pieces that the decoder makes of what it has seen and of the base word are those of the chain (R95 to R99). -/
theorem Raw.Fits.raw_seen {r : Raw} (fits : r.Fits) {s : Seen} (seen : r.SeenAs s) : s.raw r.base = r := by
  obtain ⟨hd, ha, hb⟩ := fits.regx
  obtain ⟨major, n2, n1, n0⟩ := fits.base
  have hp := fits.page
  have hm := fits.mod
  have page : (s.page.map (·.2)).getD 0 = r.mod * 16 + r.page := by
    rw [seen.page]
    split
    · next h => simp [h, fits.mod_of_page h]
    · rfl
  have regx : (s.regx.map (·.2)).getD 0 = r.dh * 128 + r.ah * 16 + r.bh * 2 := by
    rw [seen.regx]
    split
    · next h => simp [h]
    · rfl
  obtain ⟨rpage, rmod, rord, rimmx, rdh, rah, rbh, rmajor, rn2, rn1, rn0⟩ := r
  simp only [Seen.raw, page, regx, seen.ord, seen.immx, Raw.base, Raw.mk.injEq] at *
  refine ⟨?_, ?_, trivial, trivial, ?_, ?_, ?_, ?_, ?_, ?_, ?_⟩ <;> omega

/-! ## The checks of the opcode map (R104, R105) -/

/-- How many IMMX prefixes an entry takes (R114). -/
def ImmAcc.takes : ImmAcc → Nat → Prop
  | .none, n => n = 0
  | .any, _ => True
  | .one, n => n = 1
  | .atMostOne, n => n ≤ 1

/-- The entry takes the chain's prefixes, its selectors are assigned, no unused bit is set and its operands are in range. -/
structure Entry.Accepts (e : Entry) (r : Raw) : Prop where
  imm : e.imm.takes r.immx.length
  regx : e.regx = true ∨ r.dh = 0 ∧ r.ah = 0 ∧ r.bh = 0
  ord : ∀ o ∈ r.ord, e.ord ≠ .none ∧ e.ord.ok (ordOf o) = true
  assigned : e.assigned = true
  unused : e.unused = []
  inRange : e.inRange = true

theorem immxAfter_eq_none {n : Nat} {l : List (Nat × Nat)} (h : l.length ≤ n) : immxAfter n l = none := by
  simp [immxAfter, List.drop_eq_nil_of_le h]

/-- The entry takes all prefixes of the chain (R96). -/
theorem Entry.Accepts.notAccepted_eq_nil {r : Raw} (fits : r.Fits) {s : Seen} (seen : r.SeenAs s) {e : Entry} (acc : e.Accepts r) :
    notAccepted s e = [] := by
  have count : s.immx.length = r.immx.length := by rw [← seen.immx, List.length_map]
  unfold notAccepted
  simp only [List.append_eq_nil_iff]
  refine ⟨⟨⟨?page, ?regx⟩, ?ord⟩, ?imm⟩
  case page =>
    split
    · next k p h =>
      have value := seen.page
      have hp := fits.page
      rw [h, Option.map_some] at value
      split at value
      · simp at value
      · have := Option.some.inj value
        exact if_neg (by omega)
    · rfl
  case regx =>
    split
    · next k p h =>
      have value := seen.regx
      rw [h, Option.map_some] at value
      rcases acc.regx with takes | zero
      · exact if_pos takes
      · simp [zero] at value
    · rfl
  case ord =>
    split
    · next k o h => exact if_neg (acc.ord o (by rw [← seen.ord, h]; rfl)).1
    · rfl
  case imm =>
    have takes := acc.imm
    split
    case h_2 => rfl
    all_goals
      next h =>
      simp only [h, ImmAcc.takes, ← count] at takes
      rw [immxAfter_eq_none (by omega)]
      rfl

/-- A chain whose entry accepts it gives the entry's instruction; page 13 is a protocol processor's. -/
theorem Raw.Fits.judge {r : Raw} (fits : r.Fits) {s : Seen} (seen : r.SeenAs s) {e : Entry}
    (he : entry r = some e) (acc : e.Accepts r) (pfx : List Nat) : judge (r.page == 13) s pfx r.base = .ok e.instr := by
  have hp := fits.page
  have one : ¬ (e.imm = .one && s.immx = []) = true := by
    have takes := acc.imm
    simp only [Bool.and_eq_true, decide_eq_true_eq]
    rintro ⟨h, none⟩
    rw [h, ← seen.immx, none] at takes
    exact absurd takes Nat.zero_ne_one
  have kept : ¬ ((r.page == 13) && withheld r.page r.major) = true := by
    simp only [Bool.and_eq_true, beq_iff_eq]
    rintro ⟨h, hw⟩
    simp [withheld, h] at hw
  have order : ∀ o ∈ r.ord, (!e.ord.ok (ordOf o)) = false := fun o ho => by rw [(acc.ord o ho).2]; rfl
  have open_page : ¬ (decide (r.page = 12) || decide (r.page = 15)) = true := by simp [fits.page_open]; omega
  have served : ¬ (decide (r.page = 13) && !(r.page == 13)) = true := by simp
  unfold Sys2Proof.judge
  simp only [fits.raw_seen seen, he, acc.notAccepted_eq_nil fits seen, acc.assigned, acc.unused, acc.inRange, if_neg one,
    if_neg kept, if_neg open_page, if_neg served, ne_eq, not_true_eq_false, if_false, Bool.not_true, Bool.false_eq_true]
  cases h : r.ord with
  | none => rfl
  | some o => simp only [order o h, Bool.false_eq_true, if_false]

/-- The halfwords of a chain that its entry accepts decode to the entry's instruction, whatever follows them. -/
theorem Raw.Fits.decode_rawWords {r : Raw} (fits : r.Fits) {e : Entry} (he : entry r = some e)
    (acc : e.Accepts r) (l : List Nat) : decode (r.page == 13) (rawWords r ++ l) = .ok e.instr (rawWords r).length := by
  obtain ⟨s, collected, seen⟩ := fits.collect_prefixes
  have taken := takePrefixes_append (fun h hh => fits.isPrefix hh) fits.base_not_prefix l (Nat.le_succ_of_le fits.short)
  have few : r.prefixes[4]? = none := List.getElem?_eq_none fits.short
  rw [rawWords_eq, List.append_assoc, List.singleton_append, decode, taken]
  simp only [few, collected, fits.judge seen he acc, List.length_append, List.length_singleton]

end Sys2Proof

/-! PROOFS. Immediates and orderings: their codes name them (R95, R98, R109, R110). -/

namespace Sys2Proof

/-! ## Immediates (R98) -/

@[simp] theorem length_immDigits (b n u : Nat) : (immDigits b n u).length = n := by
  induction n with
  | zero => rfl
  | succ n ih => simp [immDigits, ih]

theorem immDigits_lt (b n u : Nat) : ∀ p ∈ immDigits b n u, p < 1024 := by
  induction n with
  | zero => simp [immDigits]
  | succ n ih =>
    intro p hp
    rcases List.mem_cons.mp hp with rfl | hp
    · exact Nat.mod_lt _ (by decide)
    · exact ih p hp

/-- IMMX values are the digits of a number to the base 1,024. -/
theorem foldl_immDigits (b n u acc : Nat) : (immDigits b n u).foldl (fun acc p => acc * 1024 + p) acc =
    acc * 1024 ^ n + u / 2 ^ b % 1024 ^ n := by
  induction n generalizing acc with
  | zero => simp [immDigits, Nat.mod_one]
  | succ n ih =>
    rw [immDigits, List.foldl_cons, ih, pow_succ, Nat.mod_mul]
    ring

/-- The IMMX values and the base field together hold the immediate's bits. -/
theorem immU_immDigits {b n u base : Nat} (hu : u < 2 ^ (b + 10 * n)) (hb : base = u % 2 ^ b) : immU b (immDigits b n u) base = u := by
  have high : u / 2 ^ b < 1024 ^ n := by
    rw [Nat.div_lt_iff_lt_mul (Nat.two_pow_pos b), show 1024 = 2 ^ 10 from rfl, ← pow_mul, ← pow_add, Nat.add_comm]
    exact hu
  rw [immU, immxVal, foldl_immDigits, Nat.zero_mul, Nat.zero_add, Nat.mod_eq_of_lt high, hb]
  exact Nat.div_add_mod' u (2 ^ b)

theorem immBits_lt (b n : Nat) (v : Int) : immBits b n v < 2 ^ (b + 10 * n) := by
  have pos : (0 : Int) < 2 ^ (b + 10 * n) := by positivity
  have small := Int.emod_lt_of_pos v pos
  have nonneg := Int.emod_nonneg v pos.ne'
  zify
  rwa [immBits, Int.toNat_of_nonneg nonneg]

/-- A signed immediate is read back from its bits where they have room for it. -/
theorem immSigned_immDigits {b n base : Nat} {v : Int} (hb : 1 ≤ b) (fits : immS b n v = true) (hbase : base = immBits b n v % 2 ^ b) :
    immSigned b (immDigits b n (immBits b n v)) base = v := by
  simp only [immS, Bool.and_eq_true, decide_eq_true_eq] at fits
  obtain ⟨lo, hi⟩ := fits
  obtain ⟨k, hk⟩ : ∃ k, b + 10 * n = k + 1 := ⟨b + 10 * n - 1, by omega⟩
  have half : (2 : Int) ^ (k + 1) = 2 * 2 ^ k := by ring
  rw [immSigned, immU_immDigits (immBits_lt b n v) hbase, length_immDigits]
  simp only [hk, Nat.add_sub_cancel] at lo hi ⊢
  have bits : (immBits b n v : Int) = if 0 ≤ v then v else v + 2 ^ (k + 1) := by
    rw [immBits, hk, Int.toNat_of_nonneg (Int.emod_nonneg v (by positivity))]
    split
    · exact Int.emod_eq_of_lt (by omega) (by omega)
    · rw [← Int.add_emod_right, Int.emod_eq_of_lt (by omega) (by omega)]
  by_cases sign : 0 ≤ v
  · rw [if_pos sign] at bits
    rw [if_pos (by zify; omega), bits]
  · rw [if_neg sign] at bits
    rw [if_neg (by zify; omega), bits]
    ring

theorem immS_mono {b m n : Nat} {v : Int} (h : m ≤ n) (fits : immS b m v = true) : immS b n v = true := by
  simp only [immS, Bool.and_eq_true, decide_eq_true_eq] at fits ⊢
  have grows : (2 : Int) ^ (b + 10 * m - 1) ≤ 2 ^ (b + 10 * n - 1) := pow_le_pow_right₀ (by decide) (by omega)
  omega

/-- The least number of IMMX prefixes holds the immediate, and is no more than any number that does. -/
theorem immLen_spec {b n : Nat} {v : Int} (hn : n ≤ 4) (fits : immS b n v = true) :
    immS b (immLen b v) v = true ∧ immLen b v ≤ n := by
  have four : immS b 4 v = true := immS_mono hn fits
  have more {m : Nat} (h : ¬ immS b m v = true) : m < n := Nat.lt_of_not_le fun le => h (immS_mono le fits)
  unfold immLen
  split_ifs with h0 h1 h2 h3
  · exact ⟨h0, Nat.zero_le n⟩
  · exact ⟨h1, more h0⟩
  · exact ⟨h2, more h1⟩
  · exact ⟨h3, more h2⟩
  · exact ⟨four, more h3⟩

/-- The same of an unsigned immediate. -/
theorem immLenU_spec {b n v : Nat} (hn : n ≤ 4) (fits : v < 2 ^ (b + 10 * n)) :
    v < 2 ^ (b + 10 * immLenU b v) ∧ immLenU b v ≤ n := by
  have grows {m : Nat} (le : n ≤ m) : v < 2 ^ (b + 10 * m) := fits.trans_le (Nat.pow_le_pow_right (by decide) (by omega))
  have more {m : Nat} (h : ¬ v < 2 ^ (b + 10 * m)) : m < n := Nat.lt_of_not_le fun le => h (grows le)
  unfold immLenU
  split_ifs with h0 h1 h2 h3
  · exact ⟨h0, Nat.zero_le n⟩
  · exact ⟨h1, more (m := 0) h0⟩
  · exact ⟨h2, more (m := 1) h1⟩
  · exact ⟨h3, more (m := 2) h2⟩
  · exact ⟨grows hn, more (m := 3) h3⟩

/-! ## Orderings (R95, R109, R110) -/

@[simp] theorem ordOf_ordPayload (o : OrdFld) : ordOf (ordPayload o) = o := by
  obtain ⟨order, scope, hint⟩ := o
  cases order <;> cases scope <;> cases hint <;> rfl

theorem ordPayload_fits (o : OrdFld) : ordPayload o < 1024 ∧ ordPayload o % 16 = 0 ∧ ordPayload o / 16 % 4 ≠ 3 := by
  obtain ⟨order, scope, hint⟩ := o
  cases order <;> cases scope <;> cases hint <;> decide

theorem getD_ordEnc (o : OrdFld) : ((ordEnc o).map ordOf).getD OrdFld.plain = o := by
  unfold ordEnc
  split
  · next h => exact h.symm
  · simp

theorem getD_fenceEnc (o : OrdFld) : ((fenceEnc o).map ordOf).getD OrdFld.fence = o := by
  unfold fenceEnc
  split
  · next h => exact h.symm
  · simp

theorem mem_ordEnc {o : OrdFld} {p : Nat} (h : p ∈ ordEnc o) : p = ordPayload o := by
  unfold ordEnc at h
  split at h
  · simp at h
  · exact (Option.some.inj h).symm

theorem mem_fenceEnc {o : OrdFld} {p : Nat} (h : p ∈ fenceEnc o) : p = ordPayload o := by
  unfold fenceEnc at h
  split at h
  · simp at h
  · exact (Option.some.inj h).symm

theorem length_ordEnc (o : OrdFld) : (ordEnc o).toList.length = ordN o := by
  unfold ordEnc ordN
  split <;> rfl

end Sys2Proof

/-! PROOFS. The formats of the encoder: the pieces of their chains name the operands back, and lie in their fields (R97 to R101). -/

namespace Sys2Proof

/-! ## Reading the pieces back -/

section
variable (page mod major n u d a b f : Nat) (ord : Option Nat)

@[simp] theorem mod_rawRRR : (rawRRR page mod ord major d a b).mod = mod := rfl
@[simp] theorem ord_rawRRR : (rawRRR page mod ord major d a b).ord = ord := rfl
@[simp] theorem dh_rawRRR : (rawRRR page mod ord major d a b).dh = d / 16 := rfl
@[simp] theorem ah_rawRRR : (rawRRR page mod ord major d a b).ah = a / 16 := rfl
@[simp] theorem bh_rawRRR : (rawRRR page mod ord major d a b).bh = b / 16 := rfl
@[simp] theorem n2_rawRRR : (rawRRR page mod ord major d a b).n2 = d % 16 := rfl
@[simp] theorem n1_rawRRR : (rawRRR page mod ord major d a b).n1 = a % 16 := rfl
@[simp] theorem n0_rawRRR : (rawRRR page mod ord major d a b).n0 = b % 16 := rfl
@[simp] theorem mod_rawRF : (rawRF page mod major d a f).mod = mod := rfl
@[simp] theorem dh_rawRF : (rawRF page mod major d a f).dh = d / 16 := rfl
@[simp] theorem ah_rawRF : (rawRF page mod major d a f).ah = a / 16 := rfl
@[simp] theorem bh_rawRF : (rawRF page mod major d a f).bh = 0 := rfl
@[simp] theorem n2_rawRF : (rawRF page mod major d a f).n2 = d % 16 := rfl
@[simp] theorem n1_rawRF : (rawRF page mod major d a f).n1 = a % 16 := rfl
@[simp] theorem n0_rawRF : (rawRF page mod major d a f).n0 = f := rfl
@[simp] theorem mod_rawRRI : (rawRRI page mod ord major d a n u).mod = mod := rfl
@[simp] theorem immx_rawRRI : (rawRRI page mod ord major d a n u).immx = immDigits 4 n u := rfl
@[simp] theorem dh_rawRRI : (rawRRI page mod ord major d a n u).dh = d / 16 := rfl
@[simp] theorem ah_rawRRI : (rawRRI page mod ord major d a n u).ah = a / 16 := rfl
@[simp] theorem bh_rawRRI : (rawRRI page mod ord major d a n u).bh = 0 := rfl
@[simp] theorem n2_rawRRI : (rawRRI page mod ord major d a n u).n2 = d % 16 := rfl
@[simp] theorem n1_rawRRI : (rawRRI page mod ord major d a n u).n1 = a % 16 := rfl
@[simp] theorem n0_rawRRI : (rawRRI page mod ord major d a n u).n0 = u % 16 := rfl
@[simp] theorem mod_rawS4 (v : Int) : (rawS4 page mod ord major d a v).mod = mod := rfl
@[simp] theorem ord_rawS4 (v : Int) : (rawS4 page mod ord major d a v).ord = ord := rfl
@[simp] theorem dh_rawS4 (v : Int) : (rawS4 page mod ord major d a v).dh = d / 16 := rfl
@[simp] theorem ah_rawS4 (v : Int) : (rawS4 page mod ord major d a v).ah = a / 16 := rfl
@[simp] theorem bh_rawS4 (v : Int) : (rawS4 page mod ord major d a v).bh = 0 := rfl
@[simp] theorem n2_rawS4 (v : Int) : (rawS4 page mod ord major d a v).n2 = d % 16 := rfl
@[simp] theorem n1_rawS4 (v : Int) : (rawS4 page mod ord major d a v).n1 = a % 16 := rfl
@[simp] theorem mod_rawS8 (v : Int) : (rawS8 page major d v).mod = 0 := rfl
@[simp] theorem ah_rawS8 (v : Int) : (rawS8 page major d v).ah = 0 := rfl
@[simp] theorem bh_rawS8 (v : Int) : (rawS8 page major d v).bh = 0 := rfl
@[simp] theorem mod_rawRI : (rawRI page major d n u).mod = 0 := rfl
@[simp] theorem immx_rawRI : (rawRI page major d n u).immx = immDigits 8 n u := rfl
@[simp] theorem dh_rawRI : (rawRI page major d n u).dh = d / 16 := rfl
@[simp] theorem ah_rawRI : (rawRI page major d n u).ah = 0 := rfl
@[simp] theorem bh_rawRI : (rawRI page major d n u).bh = 0 := rfl
@[simp] theorem n2_rawRI : (rawRI page major d n u).n2 = d % 16 := rfl
@[simp] theorem n1_rawRI : (rawRI page major d n u).n1 = u / 16 % 16 := rfl
@[simp] theorem n0_rawRI : (rawRI page major d n u).n0 = u % 16 := rfl
@[simp] theorem mod_rawSH (t : Nat) : (rawSH t d n).mod = 0 := rfl
@[simp] theorem ah_rawSH (t : Nat) : (rawSH t d n).ah = 0 := rfl
@[simp] theorem bh_rawSH (t : Nat) : (rawSH t d n).bh = 0 := rfl
@[simp] theorem d_rawSH (t : Nat) : (rawSH t d n).d = d := Nat.div_add_mod' d 16
@[simp] theorem a_rawFSK (c k : Nat) : (rawFSK mod c k a b).a = a := Nat.div_add_mod' a 16
@[simp] theorem b_rawFSK (c k : Nat) : (rawFSK mod c k a b).b = b := Nat.div_add_mod' b 16
@[simp] theorem a_rawSK (c k : Nat) (s : SkSrc) : (rawSK major c k a s).a = a := by cases s <;> exact Nat.div_add_mod' a 16
@[simp] theorem mod_rawFSK (c k : Nat) : (rawFSK mod c k a b).mod = mod := rfl
@[simp] theorem ord_rawFSK (c k : Nat) : (rawFSK mod c k a b).ord = none := rfl
@[simp] theorem dh_rawFSK (c k : Nat) : (rawFSK mod c k a b).dh = 0 := rfl
@[simp] theorem page_rawSK (c k : Nat) (s : SkSrc) : (rawSK major c k a s).page = 0 := by cases s <;> rfl
@[simp] theorem mod_rawSK (c k : Nat) (s : SkSrc) : (rawSK major c k a s).mod = 0 := by cases s <;> rfl
@[simp] theorem ord_rawSK (c k : Nat) (s : SkSrc) : (rawSK major c k a s).ord = none := by cases s <;> rfl
@[simp] theorem dh_rawSK (c k : Nat) (s : SkSrc) : (rawSK major c k a s).dh = 0 := by cases s <;> rfl
@[simp] theorem major_rawSK (c k : Nat) (s : SkSrc) : (rawSK major c k a s).major = major := by cases s <;> rfl
@[simp] theorem d_rawRRR : (rawRRR page mod ord major d a b).d = d := Nat.div_add_mod' d 16
@[simp] theorem a_rawRRR : (rawRRR page mod ord major d a b).a = a := Nat.div_add_mod' a 16
@[simp] theorem b_rawRRR : (rawRRR page mod ord major d a b).b = b := Nat.div_add_mod' b 16
@[simp] theorem d_rawRF : (rawRF page mod major d a f).d = d := Nat.div_add_mod' d 16
@[simp] theorem a_rawRF : (rawRF page mod major d a f).a = a := Nat.div_add_mod' a 16
@[simp] theorem d_rawRRI : (rawRRI page mod ord major d a n u).d = d := Nat.div_add_mod' d 16
@[simp] theorem a_rawRRI : (rawRRI page mod ord major d a n u).a = a := Nat.div_add_mod' a 16
@[simp] theorem d_rawRI : (rawRI page major d n u).d = d := Nat.div_add_mod' d 16
@[simp] theorem d_rawS4 (v : Int) : (rawS4 page mod ord major d a v).d = d := d_rawRRI ..
@[simp] theorem a_rawS4 (v : Int) : (rawS4 page mod ord major d a v).a = a := a_rawRRI ..
@[simp] theorem d_rawS8 (v : Int) : (rawS8 page major d v).d = d := d_rawRI ..

end

/-- A signed immediate of a width and a count of IMMX prefixes that a chain has room for is read back. -/
theorem imm4_rawS4 {page mod major d a n : Nat} {ord : Option Nat} {v : Int} (hn : n ≤ 4) (fits : immS 4 n v = true) :
    (rawS4 page mod ord major d a v).imm4 = v :=
  immSigned_immDigits (by decide) (immLen_spec hn fits).1 rfl

theorem imm8_rawS8 {page major d n : Nat} {v : Int} (hn : n ≤ 4) (fits : immS 8 n v = true) : (rawS8 page major d v).imm8 = v :=
  immSigned_immDigits (by decide) (immLen_spec hn fits).1 (by simp only [rawS8, rawRI]; omega)

theorem imm12_rawJ {major n : Nat} {v : Int} (hn : n ≤ 4) (fits : immS 12 n v = true) :
    (rawJ major (immLen 12 v) (immBits 12 (immLen 12 v) v)).imm12 = v :=
  immSigned_immDigits (by decide) (immLen_spec hn fits).1 (by simp only [rawJ]; omega)

theorem immU_four {n u : Nat} (hu : u < 2 ^ (4 + 10 * n)) : immU 4 (immDigits 4 n u) (u % 16) = u := immU_immDigits hu rfl

theorem immU_eight {n u : Nat} (hu : u < 2 ^ (8 + 10 * n)) : immU 8 (immDigits 8 n u) (u / 16 % 16 * 16 + u % 16) = u :=
  immU_immDigits hu (by omega)

/-- The shift's kind and amount share a nibble (R116). -/
theorem rawSH_fields {t d n : Nat} (hn : n < 64) : (rawSH t d n).n1 / 4 = t ∧ (rawSH t d n).n1 % 4 * 16 + (rawSH t d n).n0 = n := by
  simp only [rawSH]
  omega

/-- A skip's count and condition share a nibble (R101). -/
theorem rawSK_fields {major c k a : Nat} {s : SkSrc} (hc : c < 4) :
    (rawSK major c k a s).n2 % 4 = c ∧ (rawSK major c k a s).n2 / 4 = k := by
  cases s <;> simp only [rawSK] <;> omega

theorem rawFSK_fields {mod c k a b : Nat} (hc : c < 4) : (rawFSK mod c k a b).n2 % 4 = c ∧ (rawFSK mod c k a b).n2 / 4 = k := by
  simp only [rawFSK]
  omega

/-- A skip's second operand is read back (R101, R452). -/
theorem skSrc_rawSK {major c k a : Nat} {s : SkSrc} (h : skSrc a s = true) : (rawSK major c k a s).skSrc = s := by
  cases s with
  | reg b => exact congrArg SkSrc.reg (Nat.div_add_mod' b 16)
  | imm v =>
    have least := (immLen_spec (by omega) h).1
    have one : immS 4 (Nat.max 1 (immLen 4 v)) v = true := immS_mono (Nat.le_max_right ..) least
    have some : immDigits 4 (Nat.max 1 (immLen 4 v)) (immBits 4 (Nat.max 1 (immLen 4 v)) v) ≠ [] := by
      rw [← List.length_pos_iff, length_immDigits]
      exact Nat.le_max_left ..
    exact (if_neg some).trans (congrArg SkSrc.imm (immSigned_immDigits (by decide) one rfl))

/-! ## The pieces lie in their fields -/

/-- How many PAGE prefixes a page needs: none for page 0 (R96). -/
def pageN (page : Nat) : Nat := if page = 0 then 0 else 1

theorem pageN_zero : pageN 0 = 0 := rfl

theorem pageN_le (page : Nat) : pageN page ≤ 1 := by
  unfold pageN
  split <;> omega

theorem regxN_high (d a b : Nat) : regxN (d / 16 * 16) (a / 16 * 16) (b / 16 * 16) = regxN d a b := by
  have high (r : Nat) : r / 16 * 16 < 16 ↔ r < 16 := by omega
  simp only [regxN, high]

theorem regxN_le (d a b : Nat) : regxN d a b ≤ 1 := by
  unfold regxN
  split <;> omega

theorem regxN_second (a : Nat) : regxN a 0 0 = regxN 0 a 0 := by simp [regxN]

/-- How many prefixes a chain has: PAGE, ORD, REGX (R99), IMMX. -/
theorem Raw.length_prefixes (r : Raw) : r.prefixes.length =
    pageN r.page + r.ord.toList.length + regxN (r.dh * 16) (r.ah * 16) (r.bh * 16) + r.immx.length := by
  have regx : (r.dh = 0 ∧ r.ah = 0 ∧ r.bh = 0) ↔ (r.dh * 16 < 16 && r.ah * 16 < 16 && r.bh * 16 < 16) = true := by
    simp only [Bool.and_eq_true, decide_eq_true_eq]
    omega
  simp only [Raw.prefixes, pageN, regxN, ← regx, List.length_append, List.length_map, apply_ite List.length, List.length_nil,
    List.length_singleton]
  cases r.ord <;> rfl

/-- Page, mod and major opcode of a chain lie in their fields, page 12 apart, and page 0 has no mod. -/
abbrev HeadFits (page mod major : Nat) : Prop := page < 15 ∧ page ≠ 12 ∧ mod < 64 ∧ (page = 0 → mod = 0) ∧ major < 15

/-- An ORD payload, where there is one, names an ordering. -/
def OrdFits (ord : Option Nat) : Prop := ∀ p ∈ ord, ∃ o, p = ordPayload o

theorem ordFits_none : OrdFits none := fun _ h => absurd h (Option.not_mem_none _)
theorem ordFits_ordEnc (o : OrdFld) : OrdFits (ordEnc o) := fun _ h => ⟨o, mem_ordEnc h⟩
theorem ordFits_fenceEnc (o : OrdFld) : OrdFits (fenceEnc o) := fun _ h => ⟨o, mem_fenceEnc h⟩

theorem length_toList_le (o : Option Nat) : o.toList.length ≤ 1 := by cases o <;> simp

section
variable {page mod major n u d a b f : Nat} {ord : Option Nat}

theorem fits_of_head {r : Raw} (head : HeadFits r.page r.mod r.major) (ord : OrdFits r.ord) (immx : ∀ p ∈ r.immx, p < 1024)
    (regx : r.dh < 8 ∧ r.ah < 8 ∧ r.bh < 8) (low : r.n2 < 16 ∧ r.n1 < 16 ∧ r.n0 < 16) (short : r.prefixes.length ≤ 4) : r.Fits := by
  obtain ⟨page, page_open, mod, mod_of_page, major⟩ := head
  refine ⟨page, page_open, mod, mod_of_page, fun o ho => ?_, immx, regx, ⟨major, low⟩, short⟩
  obtain ⟨f, rfl⟩ := ord o ho
  exact ordPayload_fits f

theorem fits_rawRRR (head : HeadFits page mod major) (ho : OrdFits ord) (hd : d < 128) (ha : a < 128) (hb : b < 128) :
    (rawRRR page mod ord major d a b).Fits := by
  refine fits_of_head head ho (by simp [rawRRR]) (by simp only [rawRRR]; omega) (by simp only [rawRRR]; omega) ?_
  have ords := length_toList_le ord
  have pages := pageN_le page
  have regx := regxN_le d a b
  rw [Raw.length_prefixes]
  simp only [rawRRR, regxN_high, List.length_nil]
  omega

theorem fits_rawRF (head : HeadFits page mod major) (hd : d < 128) (ha : a < 128) (hf : f < 16) :
    (rawRF page mod major d a f).Fits := by
  refine fits_of_head head ordFits_none (by simp [rawRF]) (by simp only [rawRF]; omega) (by simp only [rawRF]; omega) ?_
  have pages := pageN_le page
  have regx := regxN_le d a 0
  rw [Raw.length_prefixes]
  simp only [rawRF, regxN_high d a 0, List.length_nil, Option.toList_none]
  omega

theorem fits_rawRRI (head : HeadFits page mod major) (ho : OrdFits ord) (hd : d < 128) (ha : a < 128)
    (short : pageN page + ord.toList.length + regxN d a 0 + n ≤ 4) : (rawRRI page mod ord major d a n u).Fits := by
  refine fits_of_head head ho (immDigits_lt 4 n u) (by simp only [rawRRI]; omega) (by simp only [rawRRI]; omega) ?_
  rw [Raw.length_prefixes]
  simpa only [rawRRI, regxN_high d a 0, length_immDigits] using short

theorem fits_rawRI (head : HeadFits page 0 major) (hd : d < 128)
    (short : pageN page + regxN d 0 0 + n ≤ 4) : (rawRI page major d n u).Fits := by
  refine fits_of_head head ordFits_none (immDigits_lt 8 n u) (by simp only [rawRI]; omega) (by simp only [rawRI]; omega) ?_
  rw [Raw.length_prefixes]
  simpa only [rawRI, regxN_high d 0 0, length_immDigits, Option.toList_none, List.length_nil, Nat.add_zero] using short

end

/-! ## An entry that takes a chain of the encoder -/

@[simp] theorem unusedAt_eq_nil (p : Place) (n : Nat) : unusedAt p n = [] ↔ n = 0 := by
  unfold unusedAt
  split <;> simp_all

@[simp] theorem modAbove_eq_nil (r : Raw) (k : Nat) : r.modAbove k = [] ↔ r.mod / k = 0 := unusedAt_eq_nil ..
@[simp] theorem noD_eq_nil (r : Raw) : r.noD = [] ↔ r.dh = 0 ∧ r.n2 = 0 := by simp [Raw.noD]
@[simp] theorem noA_eq_nil (r : Raw) : r.noA = [] ↔ r.ah = 0 ∧ r.n1 = 0 := by simp [Raw.noA]
@[simp] theorem noB_eq_nil (r : Raw) : r.noB = [] ↔ r.bh = 0 ∧ r.n0 = 0 := by simp [Raw.noB]
@[simp] theorem noDH_eq_nil (r : Raw) : r.noDH = [] ↔ r.dh = 0 := unusedAt_eq_nil ..
@[simp] theorem noAH_eq_nil (r : Raw) : r.noAH = [] ↔ r.ah = 0 := unusedAt_eq_nil ..
@[simp] theorem noBH_eq_nil (r : Raw) : r.noBH = [] ↔ r.bh = 0 := unusedAt_eq_nil ..

/-- The selectors are assigned, no unused bit is set, and the operands are in range (R104). -/
def Entry.Clear (e : Entry) : Prop := e.assigned = true ∧ e.unused = [] ∧ e.inRange = true

/-- The entry's demand on an ordering is met, if there is one (R110). -/
def Entry.Orders (e : Entry) (ord : Option Nat) : Prop := ∀ o ∈ ord, e.ord ≠ .none ∧ e.ord.ok (ordOf o) = true

/-- A chain encodes an instruction: it fits, and the opcode map has an entry that accepts it and names the instruction. -/
def Raw.Encodes (r : Raw) (i : Instr) : Prop := r.Fits ∧ ∃ e, entry r = some e ∧ e.Accepts r ∧ e.instr = i

theorem Entry.orders_none (e : Entry) : e.Orders none := fun _ h => absurd h (Option.not_mem_none _)

theorem Entry.orders_ordEnc {e : Entry} {o : OrdFld} {c : OrdAcc} (takes : e.ord = c) (some : c ≠ .none) (ok : c.ok o = true) :
    e.Orders (ordEnc o) := by
  intro p hp
  rw [mem_ordEnc hp, ordOf_ordPayload, takes]
  exact ⟨some, ok⟩

theorem Entry.orders_load {e : Entry} {o : OrdFld} (takes : e.ord = .load) (ok : ordLoad o = true) : e.Orders (ordEnc o) :=
  Entry.orders_ordEnc takes OrdAcc.noConfusion ok
theorem Entry.orders_store {e : Entry} {o : OrdFld} (takes : e.ord = .store) (ok : ordStore o = true) : e.Orders (ordEnc o) :=
  Entry.orders_ordEnc takes OrdAcc.noConfusion ok
theorem Entry.orders_atomic {e : Entry} {o : OrdFld} (takes : e.ord = .atomic) (ok : ordAtomic o = true) : e.Orders (ordEnc o) :=
  Entry.orders_ordEnc takes OrdAcc.noConfusion ok

theorem Entry.orders_fence {e : Entry} {o : OrdFld} (takes : e.ord = .fence) (ok : ordFence o = true) : e.Orders (fenceEnc o) := by
  intro p hp
  rw [mem_fenceEnc hp, ordOf_ordPayload, takes]
  exact ⟨OrdAcc.noConfusion, ok⟩

section
variable {page mod major d a b f n u : Nat} {ord : Option Nat} {v : Int} {e : Entry} {i : Instr}

theorem encodes_rrr_ord (hd : d < 128) (ha : a < 128) (hb : b < 128) (head : HeadFits page mod major) (ho : OrdFits ord)
    (he : entry (rawRRR page mod ord major d a b) = some e) (imm : e.imm = .none) (regx : e.regx = true) (orders : e.Orders ord)
    (clear : e.Clear) (hi : e.instr = i) : (rawRRR page mod ord major d a b).Encodes i :=
  ⟨fits_rawRRR head ho hd ha hb, e, he, ⟨by rw [imm]; rfl, .inl regx, orders, clear.1, clear.2.1, clear.2.2⟩, hi⟩

theorem encodes_rrr (hd : d < 128) (ha : a < 128) (hb : b < 128) (head : HeadFits page mod major)
    (he : entry (rawRRR page mod none major d a b) = some e) (imm : e.imm = .none) (regx : e.regx = true) (clear : e.Clear)
    (hi : e.instr = i) : (rawRRR page mod none major d a b).Encodes i :=
  encodes_rrr_ord hd ha hb head ordFits_none he imm regx e.orders_none clear hi

/-- Registers below 16 need no REGX, so that an entry without it takes them. -/
theorem encodes_rrr_low (hd : d < 16) (ha : a < 16) (hb : b < 16) (head : HeadFits page mod major) (ho : OrdFits ord)
    (he : entry (rawRRR page mod ord major d a b) = some e) (imm : e.imm = .none) (orders : e.Orders ord) (clear : e.Clear)
    (hi : e.instr = i) : (rawRRR page mod ord major d a b).Encodes i :=
  ⟨fits_rawRRR head ho (by omega) (by omega) (by omega), e, he,
    ⟨by rw [imm]; rfl, .inr (by simp [rawRRR, hd, ha, hb]), orders, clear.1, clear.2.1, clear.2.2⟩, hi⟩

theorem encodes_rf (hd : d < 128) (ha : a < 128) (hf : f < 16) (head : HeadFits page mod major)
    (he : entry (rawRF page mod major d a f) = some e) (imm : e.imm = .none) (regx : e.regx = true ∨ d = 0 ∧ a = 0) (clear : e.Clear)
    (hi : e.instr = i) : (rawRF page mod major d a f).Encodes i := by
  have high : e.regx = true ∨ d / 16 = 0 ∧ a / 16 = 0 ∧ 0 = 0 := regx.imp_right fun ⟨d0, a0⟩ => by omega
  exact ⟨fits_rawRF head hd ha hf, e, he, ⟨by rw [imm]; rfl, high, e.orders_none, clear.1, clear.2.1, clear.2.2⟩, hi⟩

theorem encodes_rri (hd : d < 128) (ha : a < 128) (head : HeadFits page mod major) (ho : OrdFits ord)
    (short : pageN page + ord.toList.length + regxN d a 0 + n ≤ 4)
    (he : entry (rawRRI page mod ord major d a n u) = some e) (imm : e.imm.takes n) (regx : e.regx = true) (orders : e.Orders ord)
    (clear : e.Clear) (hi : e.instr = i) : (rawRRI page mod ord major d a n u).Encodes i :=
  ⟨fits_rawRRI head ho hd ha short, e, he,
    ⟨by simpa [rawRRI] using imm, .inl regx, orders, clear.1, clear.2.1, clear.2.2⟩, hi⟩

theorem encodes_s4_ord (hd : d < 128) (ha : a < 128) (head : HeadFits page mod major) (ho : OrdFits ord)
    (fits : immS 4 (4 - pageN page - regxN d a 0 - ord.toList.length) v = true)
    (he : entry (rawS4 page mod ord major d a v) = some e) (imm : e.imm = .any) (regx : e.regx = true) (orders : e.Orders ord)
    (clear : e.Clear) (hi : (rawS4 page mod ord major d a v).imm4 = v → e.instr = i) : (rawS4 page mod ord major d a v).Encodes i := by
  have pages := pageN_le page
  have regxs := regxN_le d a 0
  have ords := length_toList_le ord
  have room := (immLen_spec (by omega) fits).2
  exact encodes_rri hd ha head ho (by omega) he (by rw [imm]; trivial) regx orders clear (hi (imm4_rawS4 (by omega) fits))

theorem encodes_s4 (hd : d < 128) (ha : a < 128) (head : HeadFits page mod major) (fits : immS 4 (4 - pageN page - regxN d a 0) v = true)
    (he : entry (rawS4 page mod none major d a v) = some e) (imm : e.imm = .any) (regx : e.regx = true)
    (clear : e.Clear) (hi : (rawS4 page mod none major d a v).imm4 = v → e.instr = i) : (rawS4 page mod none major d a v).Encodes i :=
  encodes_s4_ord hd ha head ordFits_none fits he imm regx e.orders_none clear hi

theorem encodes_ri (hd : d < 128) (head : HeadFits page 0 major) (short : pageN page + regxN d 0 0 + n ≤ 4)
    (he : entry (rawRI page major d n u) = some e) (imm : e.imm.takes n) (regx : e.regx = true ∨ d = 0) (clear : e.Clear)
    (hi : e.instr = i) : (rawRI page major d n u).Encodes i := by
  have high : e.regx = true ∨ d / 16 = 0 ∧ 0 = 0 ∧ 0 = 0 := regx.imp_right fun d0 => by omega
  exact ⟨fits_rawRI head hd short, e, he, ⟨by simpa using imm, high, e.orders_none, clear.1, clear.2.1, clear.2.2⟩, hi⟩

theorem encodes_s8 (hd : d < 128) (head : HeadFits page 0 major) (fits : immS 8 (4 - pageN page - regxN d 0 0) v = true)
    (he : entry (rawS8 page major d v) = some e) (imm : e.imm = .any) (regx : e.regx = true) (clear : e.Clear)
    (hi : (rawS8 page major d v).imm8 = v → e.instr = i) : (rawS8 page major d v).Encodes i := by
  have pages := pageN_le page
  have regxs := regxN_le d 0 0
  have room := (immLen_spec (by omega) fits).2
  exact encodes_ri hd head (by omega) he (by rw [imm]; trivial) (.inl regx) clear (hi (imm8_rawS8 (by omega) fits))

theorem encodes_j (head : HeadFits 0 0 major) (fits : immS 12 4 v = true)
    (he : entry (rawJ major (immLen 12 v) (immBits 12 (immLen 12 v) v)) = some e) (imm : e.imm = .any) (clear : e.Clear)
    (hi : (rawJ major (immLen 12 v) (immBits 12 (immLen 12 v) v)).imm12 = v → e.instr = i) :
    (rawJ major (immLen 12 v) (immBits 12 (immLen 12 v) v)).Encodes i := by
  have room := (immLen_spec (by omega) fits).2
  refine ⟨fits_of_head head ordFits_none (immDigits_lt 12 _ _) (by simp [rawJ]) (by simp only [rawJ]; omega) ?_, e, he,
    ⟨by rw [imm]; trivial, .inr ⟨rfl, rfl, rfl⟩, e.orders_none, clear.1, clear.2.1, clear.2.2⟩, hi (imm12_rawJ (by omega) fits)⟩
  rw [Raw.length_prefixes]
  simpa [rawJ, pageN, regxN] using room

theorem encodes_sh {t : Nat} (ht : t < 4) (hd : d < 128) (hn : n < 64) (he : entry (rawSH t d n) = some e) (imm : e.imm = .none)
    (regx : e.regx = true) (clear : e.Clear) (hi : e.instr = i) : (rawSH t d n).Encodes i := by
  refine ⟨fits_of_head (show HeadFits 0 0 14 by decide) ordFits_none (by simp [rawSH]) (by simp only [rawSH]; omega)
      (by simp only [rawSH]; omega) ?_, e, he,
    ⟨by rw [imm]; rfl, .inl regx, e.orders_none, clear.1, clear.2.1, clear.2.2⟩, hi⟩
  have regxs := regxN_le d 0 0
  rw [Raw.length_prefixes]
  simp only [rawSH, regxN_high d 0 0, pageN_zero, Option.toList_none, List.length_nil]
  omega

theorem encodes_fsk {c k : Nat} {dbl quiet : Bool} {mk : Nat → Nat → Nat → Bool → Instr} (hc : c < 4) (hk : 1 ≤ k ∧ k < 4) (ha : a < 128)
    (hb : b < 128) (hm : mod < 4) (hdbl : (mod % 2 == 1) = dbl) (hq : quiet = true → c = 1 ∨ c = 2)
    (he : entry (rawFSK mod c k a b) = some (fskip (rawFSK mod c k a b) quiet mk)) :
    (rawFSK mod c k a b).Encodes (mk k a b dbl) := by
  obtain ⟨condition, count⟩ := rawFSK_fields (mod := mod) (k := k) (a := a) (b := b) hc
  refine ⟨fits_of_head (show HeadFits 9 mod 8 by omega) ordFits_none (by simp [rawFSK]) (by simp only [rawFSK]; omega)
    (by simp only [rawFSK]; omega) ?_, _, he, ⟨rfl, .inl rfl, by simp, ?_, ?_, ?_⟩, ?_⟩
  · have pages := pageN_le 9
    have regxs := regxN_le 0 a b
    rw [Raw.length_prefixes]
    simp only [rawFSK, regxN_high 0 a b, Option.toList_none, List.length_nil]
    omega
  · cases quiet with
    | false => rfl
    | true => rcases hq rfl with rfl | rfl <;> simp [fskip, condition]
  · simp [fskip, hm]
  · simp only [fskip, count, bne_iff_ne]
    omega
  · simp [fskip, count, hdbl]

theorem fits_rawSK {c k : Nat} {s : SkSrc} (hm : major < 15) (hc : c < 4) (hk : k < 4) (ha : a < 128) (hs : skSrc a s = true) :
    (rawSK major c k a s).Fits := by
  cases s with
  | reg b =>
    have hb : b < 128 := of_decide_eq_true hs
    refine fits_of_head (show HeadFits 0 0 major by omega) ordFits_none (by simp [rawSK]) (by simp only [rawSK]; omega)
      (by simp only [rawSK]; omega) ?_
    have regxs := regxN_le 0 a b
    rw [Raw.length_prefixes]
    simp only [rawSK, regxN_high 0 a b, pageN_zero, Option.toList_none, List.length_nil]
    omega
  | imm v =>
    refine fits_of_head (show HeadFits 0 0 major by omega) ordFits_none (immDigits_lt 4 _ _) (by simp only [rawSK]; omega)
      (by simp only [rawSK]; omega) ?_
    have regxs := regxN_le a 0 0
    have room := (immLen_spec (by omega) hs).2
    have more : Nat.max 1 (immLen 4 v) = max 1 (immLen 4 v) := rfl
    rw [Raw.length_prefixes]
    simp only [rawSK, regxN_high 0 a 0, ← regxN_second, more, pageN_zero, Option.toList_none, List.length_nil, length_immDigits]
    omega

theorem encodes_sk {c k : Nat} {s : SkSrc} {mk : Nat → Nat → SkSrc → Instr} (hm : major < 15) (hc : c < 4) (hk : 1 ≤ k ∧ k < 4)
    (ha : a < 128) (hs : skSrc a s = true) (he : entry (rawSK major c k a s) = some (skip (rawSK major c k a s) mk)) :
    (rawSK major c k a s).Encodes (mk k a s) := by
  obtain ⟨-, count⟩ := rawSK_fields (major := major) (k := k) (a := a) (s := s) hc
  refine ⟨fits_rawSK hm hc hk.2 ha hs, _, he, ⟨trivial, .inl rfl, by simp, rfl, ?_, ?_⟩, ?_⟩
  · have bits : (if (rawSK major c k a s).immx = [] then [] else (rawSK major c k a s).noBH) = [] := by
      cases s with
      | reg b => rfl
      | imm v => exact ite_self _
    simp [skip, bits]
  · simp only [skip, count, bne_iff_ne]
    omega
  · simp [skip, count, skSrc_rawSK hs]

end

end Sys2Proof

/-! PROOFS. Each entry of the opcode map takes the chains of its own instructions (R100, R110, R115 to R124). -/

namespace Sys2Proof

/-- The encoder has a chain for the instruction, on page 13 exactly where only a protocol processor runs it, and the chain encodes
it. -/
def Instr.Encoded (i : Instr) : Prop := ∃ r, toRaw i = some r ∧ (r.page == 13) = i.onPP ∧ r.Encodes i

@[simp] theorem reg_iff (r : Nat) : reg r = true ↔ r < 128 := decide_eq_true_iff
@[simp] theorem vreg_iff (r : Nat) : vreg r = true ↔ r < 32 := decide_eq_true_iff
@[simp] theorem mreg_iff (r : Nat) : mreg r = true ↔ r < 8 := decide_eq_true_iff
@[simp] theorem mregD_iff (r : Nat) : mregD r = true ↔ 1 ≤ r ∧ r < 8 := by simp [mregD]
@[simp] theorem acc_iff (r : Nat) : acc r = true ↔ r < 8 := decide_eq_true_iff

/-! ## The mods of vector instructions, atomics and two-format instructions -/

theorem vmod_fields {w m : Nat} (hw : w < 4) (hm : m < 8) :
    vmod w m < 32 ∧ vmod w m / 32 = 0 ∧ vmod w m % 8 = m ∧ vmod w m / 8 % 4 = w := by
  unfold vmod
  omega

theorem vmod_other_fields {w m : Nat} (hw : w < 4) (hm : m < 8) :
    (vmod w m + 32) / 64 = 0 ∧ (vmod w m + 32) / 32 = 1 ∧ (vmod w m + 32) % 8 = m ∧ (vmod w m + 32) / 8 % 4 = w := by
  unfold vmod
  omega

@[simp] theorem bit_false : bit false = 0 := rfl
@[simp] theorem bit_true : bit true = 1 := rfl
theorem bit_le (b : Bool) : bit b ≤ 1 := by cases b <;> decide
@[simp] theorem bit_mod_two (b : Bool) : (bit b % 2 == 1) = b := by cases b <;> rfl

section
variable {f : Nat} {dbl far : Bool}

theorem amod_lt (hf : f < 16) : amod f dbl far < 64 := by
  have := bit_le dbl
  have := bit_le far
  unfold amod
  omega

theorem amod_fields (hf : f < 16) :
    amod f dbl far % 16 = f ∧ (amod f dbl far / 16 % 2 == 1) = dbl ∧ (amod f dbl far / 32 == 1) = far := by
  cases dbl <;> cases far <;> simp [amod] <;> omega

end

/-! ## Three scalar registers -/

section
variable {page mod major d a b k w m s f : Nat} {dbl far : Bool} {o : OrdFld}

theorem encodes_reg3 {mk : Nat → Nat → Nat → Instr} (h : (reg d && reg a && reg b) = true) (head : HeadFits page mod major)
    (hk : mod / k = 0) (he : entry (rawRRR page mod none major d a b) =
      some (rrr (rawRRR page mod none major d a b) k (mk (rawRRR page mod none major d a b).d (rawRRR page mod none major d a b).a
        (rawRRR page mod none major d a b).b))) :
    (rawRRR page mod none major d a b).Encodes (mk d a b) := by
  simp only [Bool.and_eq_true, reg_iff, and_assoc] at h
  obtain ⟨hd, ha, hb⟩ := h
  rw [d_rawRRR, a_rawRRR, b_rawRRR] at he
  exact encodes_rrr hd ha hb head he rfl rfl ⟨rfl, (modAbove_eq_nil ..).mpr hk, rfl⟩ rfl

theorem encodes_f3 {mk : Nat → Nat → Nat → Bool → Instr} (h : (reg d && reg a && reg b) = true) (hm : major < 15)
    (he : entry (rawRRR 9 (bit dbl) none major d a b) = some (f3 (rawRRR 9 (bit dbl) none major d a b) mk)) :
    (rawRRR 9 (bit dbl) none major d a b).Encodes (mk d a b dbl) := by
  simp only [Bool.and_eq_true, reg_iff, and_assoc] at h
  obtain ⟨hd, ha, hb⟩ := h
  have lt := bit_le dbl
  exact encodes_rrr hd ha hb (by omega) he rfl rfl (by simp [Entry.Clear, f3, rrr]; omega) (by simp [f3, rrr])

theorem encodes_lea (h : (reg d && reg a && reg b && s < 4) = true) : (rawRRR 1 s none 10 d a b).Encodes (.lea d a b s) := by
  simp only [Bool.and_eq_true, reg_iff, decide_eq_true_eq, and_assoc] at h
  obtain ⟨hd, ha, hb, hs⟩ := h
  exact encodes_rrr hd ha hb (by omega) rfl rfl rfl (by simp [Entry.Clear, rrr, hs]) (by simp [rrr, Nat.mod_eq_of_lt hs])

theorem encodes_cpy (h : (reg d && reg a && reg b && k < 6) = true) : (rawRRR 7 k none 4 d a b).Encodes (.cpy d a b k) := by
  simp only [Bool.and_eq_true, reg_iff, decide_eq_true_eq, and_assoc] at h
  obtain ⟨hd, ha, hb, hk⟩ := h
  have low : k < 8 ∧ k % 8 = k := by omega
  exact encodes_rrr hd ha hb (by omega) rfl rfl rfl (by simp [Entry.Clear, rrr, hk, low]) (by simp [rrr, low])

theorem encodes_mst (h : (reg d && acc a && reg b && f < 4) = true) : (rawRRR 6 f none 2 d a b).Encodes (.mst d a b f) := by
  simp only [Bool.and_eq_true, reg_iff, acc_iff, decide_eq_true_eq, and_assoc] at h
  obtain ⟨hd, ha, hb, hf⟩ := h
  have low : f < 8 ∧ f % 8 = f := by omega
  exact encodes_rrr hd (by omega) hb (by omega) rfl rfl rfl (by simp [Entry.Clear, rrr, ha, hf, low]) (by simp [rrr, low])

theorem encodes_mma {clear trans : Bool} (h : (acc d && reg a && reg b) = true) :
    (rawRRR 6 (bit clear + bit trans * 2) none 0 d a b).Encodes (.mma d a b clear trans) := by
  simp only [Bool.and_eq_true, reg_iff, acc_iff, and_assoc] at h
  obtain ⟨hd, ha, hb⟩ := h
  cases clear <;> cases trans <;>
    exact encodes_rrr (by omega) ha hb (by decide) rfl rfl rfl (by simp [Entry.Clear, rrr, hd]) (by simp [rrr])

/-! ## Accesses with a scaled index, atomics -/

/-- The scale of an indexed access stands above its selector (R118). -/
theorem encodes_indexed {acc : OrdAcc} {un : List Place} {mk : Nat → Nat → Nat → Nat → OrdFld → Instr} (hd : d < 128) (ha : a < 128)
    (hb : b < 128) (hs : s < 4) (hf : f < 8) (hacc : acc ≠ .none) (ho : acc.ok o = true) (hun : un = []) (hm : major < 15)
    (he : entry (rawRRR 2 (f + s * 8) (ordEnc o) major d a b) = some (indexed (rawRRR 2 (f + s * 8) (ordEnc o) major d a b) acc un
      (mk (rawRRR 2 (f + s * 8) (ordEnc o) major d a b).d (rawRRR 2 (f + s * 8) (ordEnc o) major d a b).a
        (rawRRR 2 (f + s * 8) (ordEnc o) major d a b).b (rawRRR 2 (f + s * 8) (ordEnc o) major d a b).wt
        (rawRRR 2 (f + s * 8) (ordEnc o) major d a b).ordFld))) :
    (rawRRR 2 (f + s * 8) (ordEnc o) major d a b).Encodes (mk d a b s o) := by
  have scale : (f + s * 8) / 32 = 0 ∧ (f + s * 8) / 8 % 4 = s := by omega
  refine encodes_rrr_ord hd ha hb (by omega) (ordFits_ordEnc o) he rfl rfl (Entry.orders_ordEnc rfl hacc ho) ?_ ?_
  · subst hun
    exact ⟨rfl, by simp [indexed, scale.1], rfl⟩
  · simp [indexed, Raw.wt, scale.2, Raw.ordFld, getD_ordEnc]

theorem encodes_ldx {mk : Nat → Nat → Nat → Nat → OrdFld → Instr}
    (h : (reg d && reg a && reg b && s < 4 && ordLoad o) = true) (hf : f < 8)
    (he : ∀ r : Raw, r.page = 2 → r.major = 2 → r.mod % 8 = f → entry r = some (indexed r .load [] (mk r.d r.a r.b r.wt r.ordFld))) :
    (rawRRR 2 (f + s * 8) (ordEnc o) 2 d a b).Encodes (mk d a b s o) := by
  simp only [Bool.and_eq_true, reg_iff, decide_eq_true_eq, and_assoc] at h
  obtain ⟨hd, ha, hb, hs, ho⟩ := h
  exact encodes_indexed (acc := .load) hd ha hb hs hf OrdAcc.noConfusion ho rfl (by decide)
    (he _ rfl rfl (by simp only [mod_rawRRR]; omega))

theorem encodes_stx {mk : Nat → Nat → Nat → Nat → OrdFld → Instr}
    (h : (reg d && reg a && reg b && s < 4 && ordStore o) = true) (hf : f < 4)
    (he : ∀ r : Raw, r.page = 2 → r.major = 3 → r.mod % 4 = f →
      entry r = some (indexed r .store (unusedAt .page (r.mod / 4 % 2)) (mk r.d r.a r.b r.wt r.ordFld))) :
    (rawRRR 2 (f + s * 8) (ordEnc o) 3 d a b).Encodes (mk d a b s o) := by
  simp only [Bool.and_eq_true, reg_iff, decide_eq_true_eq, and_assoc] at h
  obtain ⟨hd, ha, hb, hs, ho⟩ := h
  exact encodes_indexed (acc := .store) hd ha hb hs (by omega) OrdAcc.noConfusion ho
    ((unusedAt_eq_nil ..).mpr (by simp only [mod_rawRRR]; omega)) (by decide) (he _ rfl rfl (by simp only [mod_rawRRR]; omega))

theorem encodes_amo {mk : Nat → Nat → Nat → Bool → Bool → OrdFld → Instr}
    (h : (reg d && reg a && reg b && ordAtomic o) = true) (hf : f < 16)
    (he : ∀ r : Raw, r.page = 3 → r.major = 0 → r.mod % 16 = f → entry r = some (amo r mk)) :
    (rawRRR 3 (amod f dbl far) (ordEnc o) 0 d a b).Encodes (mk d a b dbl far o) := by
  simp only [Bool.and_eq_true, reg_iff, and_assoc] at h
  obtain ⟨hd, ha, hb, ho⟩ := h
  have lt : amod f dbl far < 64 := amod_lt hf
  obtain ⟨function, hdbl, hfar⟩ : amod f dbl far % 16 = f ∧ _ ∧ _ := amod_fields hf
  exact encodes_rrr_ord hd ha hb ⟨by decide, by decide, lt, by omega, by decide⟩ (ordFits_ordEnc o) (he _ rfl rfl function) rfl rfl
    (Entry.orders_atomic rfl ho) ⟨rfl, rfl, rfl⟩ (by simp [amo, hdbl, hfar, Raw.ordFld, getD_ordEnc])

theorem encodes_cas (h : (reg d && reg a && reg b && ordAtomic o) = true) :
    (rawRRR 3 (bit dbl * 16) (ordEnc o) 1 d a b).Encodes (.cas d a b dbl o) := by
  simp only [Bool.and_eq_true, reg_iff, and_assoc] at h
  obtain ⟨hd, ha, hb, ho⟩ := h
  cases dbl <;> exact encodes_rrr_ord hd ha hb (by decide) (ordFits_ordEnc o) rfl rfl rfl (Entry.orders_atomic rfl ho)
    (by simp [Entry.Clear]) (by simp [Raw.ordFld, getD_ordEnc])

theorem encodes_amof (h : (reg d && reg a && reg b && ordAtomic o) = true) :
    (rawRRR 3 (bit dbl + bit far * 32) (ordEnc o) 2 d a b).Encodes (.amof d a b dbl far o) := by
  simp only [Bool.and_eq_true, reg_iff, and_assoc] at h
  obtain ⟨hd, ha, hb, ho⟩ := h
  cases dbl <;> cases far <;> exact encodes_rrr_ord hd ha hb (by decide) (ordFits_ordEnc o) rfl rfl rfl (Entry.orders_atomic rfl ho)
    (by simp [Entry.Clear]) (by simp [Raw.ordFld, getD_ordEnc])

theorem encodes_waitm (h : (reg d && reg a && reg b && ordLoad o) = true) : (rawRRR 3 0 (ordEnc o) 3 d a b).Encodes (.waitm d a b o) := by
  simp only [Bool.and_eq_true, reg_iff, and_assoc] at h
  obtain ⟨hd, ha, hb, ho⟩ := h
  exact encodes_rrr_ord hd ha hb (by decide) (ordFits_ordEnc o) rfl rfl rfl (Entry.orders_load rfl ho) (by simp [Entry.Clear])
    (by simp [Raw.ordFld, getD_ordEnc])

theorem encodes_fence {mk : OrdFld → Instr} (h : ordFence o = true) (hf : f < 4)
    (he : entry (rawRRR 2 f (fenceEnc o) 9 0 0 0) = some (fenceOf (rawRRR 2 f (fenceEnc o) 9 0 0 0) mk)) :
    (rawRRR 2 f (fenceEnc o) 9 0 0 0).Encodes (mk o) :=
  encodes_rrr_low (by decide) (by decide) (by decide) (by omega) (ordFits_fenceEnc o) he rfl (Entry.orders_fence rfl h)
    (by simp [Entry.Clear, fenceOf, hf]) (by simp [fenceOf, Raw.ordFence, getD_fenceEnc])

/-! ## Vector registers -/

theorem encodes_v3 {mk : Nat → Nat → Nat → Nat → Nat → Instr} (h : (vreg d && vreg a && vreg b && w < 4 && m < 8) = true)
    (page_high : page < 12) (page_low : 0 < page) (hm : major < 15) (hk : k = 32 ∨ k = 64)
    (he : ∀ r : Raw, r.page = page → r.major = major → r.mod / 32 = 0 → entry r = some (v3 r k mk)) :
    (rawRRR page (vmod w m) none major d a b).Encodes (mk d a b w m) := by
  simp only [Bool.and_eq_true, vreg_iff, decide_eq_true_eq, and_assoc] at h
  obtain ⟨hd, ha, hb, hw, hm⟩ := h
  obtain ⟨lt, high, hm', hw'⟩ := vmod_fields hw hm
  have above : vmod w m / k = 0 := Nat.div_eq_of_lt (by omega)
  exact encodes_rrr (by omega) (by omega) (by omega) (by omega) (he _ rfl rfl high) rfl rfl
    ⟨rfl, (modAbove_eq_nil ..).mpr above, by simp [v3, hd, ha, hb]⟩ (by simp [v3, Raw.wt, Raw.m, hm', hw'])

/-- The other form of a vector instruction has mod[5] set (R120). -/
theorem encodes_v3_other {mk : Nat → Nat → Nat → Nat → Nat → Instr} (h : (vreg d && vreg a && vreg b && w < 4 && m < 8) = true)
    (hm : major < 15) (he : ∀ r : Raw, r.page = 4 → r.major = major → r.mod / 32 = 1 → entry r = some (v3 r 64 mk)) :
    (rawRRR 4 (vmod w m + 32) none major d a b).Encodes (mk d a b w m) := by
  simp only [Bool.and_eq_true, vreg_iff, decide_eq_true_eq, and_assoc] at h
  obtain ⟨hd, ha, hb, hw, hm⟩ := h
  obtain ⟨above, high, hm', hw'⟩ := vmod_other_fields hw hm
  exact encodes_rrr (by omega) (by omega) (by omega) (by omega) (he _ rfl rfl high) rfl rfl
    ⟨rfl, (modAbove_eq_nil ..).mpr above, by simp [v3, hd, ha, hb]⟩ (by simp [v3, Raw.wt, Raw.m, hm', hw'])

theorem encodes_vcmp {mk : Nat → Nat → Nat → Nat → Nat → Instr} (h : (mregD d && vreg a && vreg b && w < 4 && f < 6) = true)
    (head : 0 < page ∧ page < 12 ∧ major < 15)
    (he : ∀ r : Raw, r.page = page → r.major = major → entry r = some ⟨.none, true, .none, r.m < 6, r.modAbove 32,
      mregD r.d && vreg r.a && vreg r.b, mk r.d r.a r.b r.m r.wt⟩) :
    (rawRRR page (vmod w f) none major d a b).Encodes (mk d a b f w) := by
  simp only [Bool.and_eq_true, vreg_iff, mregD_iff, decide_eq_true_eq, and_assoc] at h
  obtain ⟨hd, hd', ha, hb, hw, hf⟩ := h
  obtain ⟨lt, high, hf', hw'⟩ := vmod_fields hw (show f < 8 by omega)
  exact encodes_rrr (by omega) (by omega) (by omega) (by omega) (he _ rfl rfl) rfl rfl
    (by simp [Entry.Clear, Raw.m, hd, hd', ha, hb, hf, hf', lt]) (by simp [Raw.wt, Raw.m, hf', hw'])

theorem encodes_vfscl (h : (vreg d && vreg a && reg b && w < 4 && m < 8) = true) :
    (rawRRR 5 (vmod w m) none 14 d a b).Encodes (.vfscl d a b w m) := by
  simp only [Bool.and_eq_true, vreg_iff, reg_iff, decide_eq_true_eq, and_assoc] at h
  obtain ⟨hd, ha, hb, hw, hm⟩ := h
  obtain ⟨lt, high, hm', hw'⟩ := vmod_fields hw hm
  exact encodes_rrr (by omega) (by omega) (by omega) (by omega) rfl rfl rfl (by simp [Entry.Clear, hd, ha, lt])
    (by simp [Raw.wt, Raw.m, hm', hw'])

theorem lane_width (hw : w < 4) : w * 8 < 64 ∧ w * 8 % 8 + w * 8 / 32 = 0 ∧ w * 8 / 8 % 4 = w := by omega

theorem encodes_vext (h : (reg d && vreg a && reg b && w < 4) = true) : (rawRRR 11 (w * 8) none 4 d a b).Encodes (.vext d a b w) := by
  simp only [Bool.and_eq_true, vreg_iff, reg_iff, decide_eq_true_eq, and_assoc] at h
  obtain ⟨hd, ha, hb, hw⟩ := h
  obtain ⟨lt, zero, width⟩ := lane_width hw
  exact encodes_rrr hd (by omega) hb (by omega) rfl rfl rfl ⟨rfl, (unusedAt_eq_nil ..).mpr zero, by simp [ha]⟩
    (by simp only [Raw.wt, d_rawRRR, a_rawRRR, b_rawRRR, mod_rawRRR, width])

theorem encodes_vins (h : (vreg d && reg a && reg b && w < 4) = true) : (rawRRR 11 (w * 8) none 5 d a b).Encodes (.vins d a b w) := by
  simp only [Bool.and_eq_true, vreg_iff, reg_iff, decide_eq_true_eq, and_assoc] at h
  obtain ⟨hd, ha, hb, hw⟩ := h
  obtain ⟨lt, zero, width⟩ := lane_width hw
  exact encodes_rrr (by omega) ha hb (by omega) rfl rfl rfl ⟨rfl, (unusedAt_eq_nil ..).mpr zero, by simp [hd]⟩
    (by simp only [Raw.wt, d_rawRRR, a_rawRRR, b_rawRRR, mod_rawRRR, width])

/-- A vector access through a scalar or a vector register b: the load is the form without mod[5]. -/
theorem encodes_vload {mk : Nat → Nat → Nat → Nat → Nat → OrdFld → Instr} {ok : Nat → Bool} (hd : d < 32) (ha : a < 128) (hb : b < 128)
    (hok : ok b = true) (hw : w < 4) (hm : m < 8) (ho : ordLoad o = true) (hmaj : major < 15)
    (he : ∀ r : Raw, r.page = 2 → r.major = major → r.mod / 32 = 0 →
      entry r = some (vacc .none .load [] (vreg r.d && ok r.b) (mk r.d r.a r.b r.wt r.m r.ordFld))) :
    (rawRRR 2 (vmod w m) (ordEnc o) major d a b).Encodes (mk d a b w m o) := by
  obtain ⟨lt, high, hm', hw'⟩ := vmod_fields hw hm
  exact encodes_rrr_ord (by omega) ha hb (by omega) (ordFits_ordEnc o) (he _ rfl rfl high) rfl rfl (Entry.orders_load rfl ho)
    ⟨rfl, rfl, by simp [vacc, hd, hok]⟩ (by simp [vacc, Raw.wt, Raw.m, hm', hw', Raw.ordFld, getD_ordEnc])

theorem encodes_vstore {mk : Nat → Nat → Nat → Nat → Nat → OrdFld → Instr} {ok : Nat → Bool} (hd : d < 32) (ha : a < 128) (hb : b < 128)
    (hok : ok b = true) (hw : w < 4) (hm : m < 8) (ho : ordStore o = true) (hmaj : major < 15)
    (he : ∀ r : Raw, r.page = 2 → r.major = major → r.mod / 32 = 1 →
      entry r = some (vacc .none .store [] (vreg r.d && ok r.b) (mk r.d r.a r.b r.wt r.m r.ordFld))) :
    (rawRRR 2 (vmod w m + 32) (ordEnc o) major d a b).Encodes (mk d a b w m o) := by
  obtain ⟨above, high, hm', hw'⟩ := vmod_other_fields hw hm
  exact encodes_rrr_ord (by omega) ha hb (by omega) (ordFits_ordEnc o) (he _ rfl rfl high) rfl rfl (Entry.orders_store rfl ho)
    ⟨rfl, rfl, by simp [vacc, hd, hok]⟩ (by simp [vacc, Raw.wt, Raw.m, hm', hw', Raw.ordFld, getD_ordEnc])

/-! ## Instructions with a function code -/

theorem encodes_rf2 {mk : Nat → Nat → Instr} (h : (reg d && reg a) = true) (hf : f < 16) (head : HeadFits page 0 major)
    (he : entry (rawRF page 0 major d a f) =
      some (rf (rawRF page 0 major d a f) 1 (mk (rawRF page 0 major d a f).d (rawRF page 0 major d a f).a))) :
    (rawRF page 0 major d a f).Encodes (mk d a) := by
  simp only [Bool.and_eq_true, reg_iff] at h
  obtain ⟨hd, ha⟩ := h
  exact encodes_rf hd ha hf head he rfl (.inl rfl) (by simp [Entry.Clear, rf]) (by simp [rf])

theorem encodes_rf0 {mk : Nat → Nat → Instr} (h : (reg d && reg a) = true) (head : HeadFits page 0 major)
    (he : entry (rawRF page 0 major d a 0) =
      some (rf0 (rawRF page 0 major d a 0) 1 [] (mk (rawRF page 0 major d a 0).d (rawRF page 0 major d a 0).a))) :
    (rawRF page 0 major d a 0).Encodes (mk d a) := by
  simp only [Bool.and_eq_true, reg_iff] at h
  obtain ⟨hd, ha⟩ := h
  exact encodes_rf hd ha (by decide) head he rfl (.inl rfl) (by simp [Entry.Clear, rf0]) (by simp [rf0])

theorem encodes_vred {mk : Nat → Nat → Nat → Nat → Instr} (h : (reg d && vreg a && w < 4 && m < 8) = true) (hf : f < 16)
    (he : ∀ r : Raw, r.page = 5 → r.major = 12 → r.n0 = f →
      entry r = some ⟨.none, true, .none, true, r.modAbove 32 ++ r.noBH, vreg r.a, mk r.d r.a r.wt r.m⟩) :
    (rawRF 5 (vmod w m) 12 d a f).Encodes (mk d a w m) := by
  simp only [Bool.and_eq_true, vreg_iff, reg_iff, decide_eq_true_eq, and_assoc] at h
  obtain ⟨hd, ha, hw, hm⟩ := h
  obtain ⟨lt, high, hm', hw'⟩ := vmod_fields hw hm
  exact encodes_rf hd (by omega) hf (by omega) (he _ rfl rfl rfl) rfl (.inl rfl) (by simp [Entry.Clear, ha, lt])
    (by simp [Raw.wt, Raw.m, hm', hw'])

theorem encodes_vbcast (h : (vreg d && reg a && w < 4 && m < 8) = true) :
    (rawRF 4 (vmod w m) 14 d a 0).Encodes (.vbcast d a w m) := by
  simp only [Bool.and_eq_true, vreg_iff, reg_iff, decide_eq_true_eq, and_assoc] at h
  obtain ⟨hd, ha, hw, hm⟩ := h
  obtain ⟨lt, high, hm', hw'⟩ := vmod_fields hw hm
  exact encodes_rf (by omega) ha (by decide) (by omega) rfl rfl (.inl rfl) (by simp [Entry.Clear, rf, hd, lt])
    (by simp [rf, Raw.wt, Raw.m, hm', hw'])

theorem encodes_vidx (h : (vreg d && w < 4 && m < 8) = true) : (rawRF 4 (vmod w m) 14 d 0 1).Encodes (.vidx d w m) := by
  simp only [Bool.and_eq_true, vreg_iff, decide_eq_true_eq, and_assoc] at h
  obtain ⟨hd, hw, hm⟩ := h
  obtain ⟨lt, high, hm', hw'⟩ := vmod_fields hw hm
  exact encodes_rf (by omega) (by decide) (by decide) (by omega) rfl rfl (.inl rfl) (by simp [Entry.Clear, rf, hd, lt])
    (by simp [rf, Raw.wt, Raw.m, hm', hw'])

theorem encodes_vmov (h : (vreg d && vreg a && w < 4 && m < 8) = true) : (rawRF 4 (vmod w m) 14 d a 2).Encodes (.vmov d a w m) := by
  simp only [Bool.and_eq_true, vreg_iff, decide_eq_true_eq, and_assoc] at h
  obtain ⟨hd, ha, hw, hm⟩ := h
  obtain ⟨lt, high, hm', hw'⟩ := vmod_fields hw hm
  exact encodes_rf (by omega) (by omega) (by decide) (by omega) rfl rfl (.inl rfl) (by simp [Entry.Clear, rf, hd, ha, lt])
    (by simp [rf, Raw.wt, Raw.m, hm', hw'])

theorem encodes_vfsqrt (h : (vreg d && vreg a && w < 4 && m < 8) = true) : (rawRF 5 (vmod w m) 5 d a 0).Encodes (.vfsqrt d a w m) := by
  simp only [Bool.and_eq_true, vreg_iff, decide_eq_true_eq, and_assoc] at h
  obtain ⟨hd, ha, hw, hm⟩ := h
  obtain ⟨lt, high, hm', hw'⟩ := vmod_fields hw hm
  exact encodes_rf (by omega) (by omega) (by decide) (by omega) rfl rfl (.inl rfl) (by simp [Entry.Clear, rf0, hd, ha, lt])
    (by simp [rf0, Raw.wt, Raw.m, hm', hw'])

theorem encodes_vcvt (h : (vreg d && vreg a && w < 4 && m < 8 && f < 12) = true) :
    (rawRF 5 (vmod w m) 9 d a f).Encodes (.vcvt d a f w m) := by
  simp only [Bool.and_eq_true, vreg_iff, decide_eq_true_eq, and_assoc] at h
  obtain ⟨hd, ha, hw, hm, hf⟩ := h
  obtain ⟨lt, high, hm', hw'⟩ := vmod_fields hw hm
  exact encodes_rf (by omega) (by omega) (by omega) (by omega) rfl rfl (.inl rfl) (by simp [Entry.Clear, rf, hd, ha, hf, lt])
    (by simp [rf, Raw.wt, Raw.m, hm', hw'])

theorem encodes_vbsc (h : (reg d && vreg a && f < 8 && w < 4 && m < 8 && w != 3) = true) :
    (rawRF 5 (vmod w m) 13 d a f).Encodes (.vbsc d a f w m) := by
  simp only [Bool.and_eq_true, vreg_iff, reg_iff, decide_eq_true_eq, bne_iff_ne, and_assoc] at h
  obtain ⟨hd, ha, hf, hw, hm, not_three⟩ := h
  obtain ⟨lt, high, hm', hw'⟩ := vmod_fields hw hm
  exact encodes_rf hd (by omega) (by omega) (by omega) rfl rfl (.inl rfl) (by simp [Entry.Clear, Raw.wt, hw', not_three, ha, hf, lt])
    (by simp [Raw.wt, Raw.m, hm', hw', Nat.mod_eq_of_lt hf])

/-- VDEC and VENC: the table, and whether elements have four bits, in the mod (R121). -/
theorem encodes_vcode {tab q : Nat} {four : Bool} {mk : Nat → Nat → Nat → Bool → Nat → Instr}
    (h : (vreg d && vreg a && tab < 8 && q < 4) = true) (hmaj : major < 15)
    (he : ∀ r : Raw, r.page = 5 → r.major = major → entry r = some ⟨.none, true, .none, true, r.modAbove 16 ++ r.noBH,
      vreg r.d && vreg r.a && r.n0 < 4, mk r.d r.a r.m (r.mod / 8 % 2 == 1) r.n0⟩) :
    (rawRF 5 (tab + bit four * 8) major d a q).Encodes (mk d a tab four q) := by
  simp only [Bool.and_eq_true, vreg_iff, decide_eq_true_eq, and_assoc] at h
  obtain ⟨hd, ha, ht, hq⟩ := h
  have le := bit_le four
  have fields : (tab + bit four * 8) % 8 = tab ∧ (tab + bit four * 8) / 8 = bit four ∧ tab + bit four * 8 < 16 := by omega
  exact encodes_rf (by omega) (by omega) (by omega) (by omega) (he _ rfl rfl) rfl (.inl rfl) (by simp [Entry.Clear, hd, ha, hq, fields])
    (by simp [Raw.m, fields])

theorem encodes_fcvt {rtz : Bool} (h : (reg d && reg a && f < 13) = true) :
    (rawRF 9 (bit dbl + bit rtz * 2) 9 d a f).Encodes (.fcvt d a f dbl rtz) := by
  simp only [Bool.and_eq_true, reg_iff, decide_eq_true_eq, and_assoc] at h
  obtain ⟨hd, ha, hf⟩ := h
  cases dbl <;> cases rtz <;>
    exact encodes_rf hd ha (by omega) (by decide) rfl rfl (.inl rfl) (by simp [Entry.Clear, rf, hf]) (by simp [rf])

end

end Sys2Proof

/-! PROOFS. Chains with an immediate, and formats of one or few instructions (R98, R101, R114, R116, R117). -/

namespace Sys2Proof

/-! ## Immediates -/

section
variable {page mod major d a b k w m n f : Nat} {dbl : Bool} {o : OrdFld} {v : Int}

theorem encodes_rri2 {mk : Nat → Nat → Int → Instr} (h : (reg d && reg a && immS 4 (4 - pageN page - regxN d a 0) v) = true)
    (head : HeadFits page 0 major) (he : entry (rawS4 page 0 none major d a v) = some (rri (rawS4 page 0 none major d a v) 1 .none
      (mk (rawS4 page 0 none major d a v).d (rawS4 page 0 none major d a v).a (rawS4 page 0 none major d a v).imm4))) :
    (rawS4 page 0 none major d a v).Encodes (mk d a v) := by
  simp only [Bool.and_eq_true, reg_iff, and_assoc] at h
  obtain ⟨hd, ha, fits⟩ := h
  exact encodes_s4 hd ha head fits he rfl rfl (by simp [Entry.Clear, rri]) fun hv => by simp [rri, hv]

theorem encodes_load {mk : Nat → Nat → Int → OrdFld → Instr}
    (h : (reg d && reg a && ordLoad o && immS 4 (4 - pageN page - regxN d a 0 - ordN o) v) = true) (head : HeadFits page mod major)
    (hk : mod / k = 0)
    (he : entry (rawS4 page mod (ordEnc o) major d a v) = some (rri (rawS4 page mod (ordEnc o) major d a v) k .load
      (mk (rawS4 page mod (ordEnc o) major d a v).d (rawS4 page mod (ordEnc o) major d a v).a
        (rawS4 page mod (ordEnc o) major d a v).imm4 (rawS4 page mod (ordEnc o) major d a v).ordFld))) :
    (rawS4 page mod (ordEnc o) major d a v).Encodes (mk d a v o) := by
  simp only [Bool.and_eq_true, reg_iff, and_assoc, ← length_ordEnc] at h
  obtain ⟨hd, ha, ho, fits⟩ := h
  exact encodes_s4_ord hd ha head (ordFits_ordEnc o) fits he rfl rfl (Entry.orders_load rfl ho) (by simp [Entry.Clear, rri, hk])
    fun hv => by simp [rri, hv, Raw.ordFld, getD_ordEnc]

theorem encodes_store {mk : Nat → Nat → Int → OrdFld → Instr}
    (h : (reg d && reg a && ordStore o && immS 4 (4 - pageN page - regxN d a 0 - ordN o) v) = true) (head : HeadFits page mod major)
    (hk : mod / k = 0)
    (he : entry (rawS4 page mod (ordEnc o) major d a v) = some (rri (rawS4 page mod (ordEnc o) major d a v) k .store
      (mk (rawS4 page mod (ordEnc o) major d a v).d (rawS4 page mod (ordEnc o) major d a v).a
        (rawS4 page mod (ordEnc o) major d a v).imm4 (rawS4 page mod (ordEnc o) major d a v).ordFld))) :
    (rawS4 page mod (ordEnc o) major d a v).Encodes (mk d a v o) := by
  simp only [Bool.and_eq_true, reg_iff, and_assoc, ← length_ordEnc] at h
  obtain ⟨hd, ha, ho, fits⟩ := h
  exact encodes_s4_ord hd ha head (ordFits_ordEnc o) fits he rfl rfl (Entry.orders_store rfl ho) (by simp [Entry.Clear, rri, hk])
    fun hv => by simp [rri, hv, Raw.ordFld, getD_ordEnc]

theorem encodes_vld (h : (vreg d && reg a && w < 4 && m < 8 && ordLoad o && immS 4 (4 - pageN 2 - regxN d a 0 - ordN o) v) = true) :
    (rawS4 2 (vmod w m) (ordEnc o) 4 d a v).Encodes (.vld d a v w m o) := by
  simp only [Bool.and_eq_true, reg_iff, vreg_iff, decide_eq_true_eq, and_assoc, ← length_ordEnc] at h
  obtain ⟨hd, ha, hw, hm, ho, fits⟩ := h
  obtain ⟨lt, high, hm', hw'⟩ := vmod_fields hw hm
  exact encodes_s4_ord (by omega) ha (by omega) (ordFits_ordEnc o) fits rfl rfl rfl (Entry.orders_load rfl ho)
    (by simp [Entry.Clear, vacc, hd, lt]) fun hv => by simp [vacc, hv, Raw.wt, Raw.m, hm', hw', Raw.ordFld, getD_ordEnc]

theorem encodes_vst (h : (vreg d && reg a && w < 4 && m < 8 && ordStore o && immS 4 (4 - pageN 2 - regxN d a 0 - ordN o) v) = true) :
    (rawS4 2 (vmod w m) (ordEnc o) 5 d a v).Encodes (.vst d a v w m o) := by
  simp only [Bool.and_eq_true, reg_iff, vreg_iff, decide_eq_true_eq, and_assoc, ← length_ordEnc] at h
  obtain ⟨hd, ha, hw, hm, ho, fits⟩ := h
  obtain ⟨lt, high, hm', hw'⟩ := vmod_fields hw hm
  exact encodes_s4_ord (by omega) ha (by omega) (ordFits_ordEnc o) fits rfl rfl rfl (Entry.orders_store rfl ho)
    (by simp [Entry.Clear, vacc, hd, lt]) fun hv => by simp [vacc, hv, Raw.wt, Raw.m, hm', hw', Raw.ordFld, getD_ordEnc]

theorem encodes_pref {mk : Nat → Int → Instr} (h : (reg a && immS 4 (4 - pageN 2 - regxN a 0 0) v) = true) (hf : f < 4)
    (he : entry (rawS4 2 f none 8 0 a v) = some (pref (rawS4 2 f none 8 0 a v) mk)) :
    (rawS4 2 f none 8 0 a v).Encodes (mk a v) := by
  simp only [Bool.and_eq_true, reg_iff, regxN_second] at h
  obtain ⟨ha, fits⟩ := h
  exact encodes_s4 (by decide) ha (by omega) fits he rfl rfl (by simp [Entry.Clear, pref, hf]) fun hv => by simp [pref, hv]

theorem encodes_join (h : (reg a && immS 4 (4 - pageN 8 - regxN a 0 0) v) = true) :
    (rawS4 8 0 none 2 0 a v).Encodes (.join a v) := by
  simp only [Bool.and_eq_true, reg_iff, regxN_second] at h
  obtain ⟨ha, fits⟩ := h
  exact encodes_s4 (by decide) ha (by decide) fits rfl rfl rfl (by simp [Entry.Clear, rri]) fun hv => by simp [rri, hv]

theorem encodes_fork (h : immS 4 3 v = true) : (rawS4 8 0 none 0 0 0 v).Encodes (.fork v) :=
  encodes_s4 (by decide) (by decide) (by decide) h rfl rfl rfl (by simp [Entry.Clear, rri]) fun hv => by simp [rri, hv]

theorem encodes_ri1 {mk : Nat → Int → Instr} (h : (reg d && immS 8 (4 - pageN page - regxN d 0 0) v) = true)
    (head : HeadFits page 0 major)
    (he : entry (rawS8 page major d v) = some (ri (rawS8 page major d v) (mk (rawS8 page major d v).d (rawS8 page major d v).imm8))) :
    (rawS8 page major d v).Encodes (mk d v) := by
  simp only [Bool.and_eq_true, reg_iff] at h
  obtain ⟨hd, fits⟩ := h
  exact encodes_s8 hd head fits he rfl rfl (by simp [Entry.Clear, ri]) fun hv => by simp [ri, hv]

theorem encodes_jump {mk : Int → Instr} (h : immS 12 4 v = true) (hm : major < 15)
    (he : ∀ r : Raw, r.page = 0 → r.major = major → entry r = some ⟨.any, false, .none, true, r.modAbove 1, true, mk r.imm12⟩) :
    (rawJ major (immLen 12 v) (immBits 12 (immLen 12 v) v)).Encodes (mk v) :=
  encodes_j (by omega) h (he _ rfl rfl) rfl ⟨rfl, (modAbove_eq_nil ..).mpr (Nat.zero_div 1), rfl⟩ fun hv => by simp [hv]

/-- BFX: pos and len share the immediate; a len of 64 is written as 0 (R117, R380). -/
theorem encodes_bfx {pos len : Nat} {mk : Nat → Nat → Nat → Nat → Instr}
    (h : (reg d && reg a && pos < 64 && 1 ≤ len && len ≤ 64 && pos + len ≤ 64) = true) (hf : f < 3)
    (he : entry (rawBFX f d a pos len) = some (bfx (rawBFX f d a pos len) mk)) : (rawBFX f d a pos len).Encodes (mk d a pos len) := by
  simp only [Bool.and_eq_true, reg_iff, decide_eq_true_eq, and_assoc] at h
  obtain ⟨hd, ha, hp, hl, hl', sum⟩ := h
  have value := immU_four (n := 1) (u := pos + len % 64 * 64) (by omega)
  have fields : (pos + len % 64 * 64) % 64 = pos ∧ (pos + len % 64 * 64) / 64 % 64 = len % 64 ∧ pos + len % 64 * 64 < 4096 := by omega
  have length : (if len % 64 = 0 then 64 else len % 64) = len := by split <;> omega
  have regxs := regxN_le d a 0
  have pages := pageN_le 1
  unfold rawBFX at he ⊢
  exact encodes_rri hd ha (by omega) ordFits_none (by simp only [Option.toList_none, List.length_nil]; omega) he rfl rfl
    (Entry.orders_none _) (by simp [Entry.Clear, bfx, value, fields, length, sum]; omega) (by simp [bfx, value, fields, length])

theorem encodes_tdec (h : (reg a && 1 ≤ n && n < 2 ^ (4 + 10 * (3 - regxN a 0 0))) = true) :
    (rawRRI 8 0 none 3 0 a (immLenU 4 n) n).Encodes (.tdec a n) := by
  simp only [Bool.and_eq_true, reg_iff, decide_eq_true_eq, and_assoc] at h
  obtain ⟨ha, hn, fits⟩ := h
  have regxs := regxN_le a 0 0
  have pages := pageN_le 8
  obtain ⟨room, least⟩ := immLenU_spec (by omega) fits
  rw [regxN_second] at regxs least
  exact encodes_rri (by decide) ha (by decide) ordFits_none (by simp only [Option.toList_none, List.length_nil]; omega) rfl trivial rfl
    (Entry.orders_none _) (by simp [Entry.Clear, rri, immU_four room]; omega) (by simp [rri, immU_four room])

/-- The number of a system register takes at most one of the IMMX prefixes (R114). -/
theorem sysNumber_spec (hn : n < 4096) : n < 2 ^ (4 + 10 * immLenU 4 n) ∧ immLenU 4 n ≤ 1 :=
  immLenU_spec (n := 1) (by decide) (by omega)

theorem encodes_srd (h : (reg d && n < 4096) = true) : (rawRRI 14 0 none 2 d 0 (immLenU 4 n) n).Encodes (.srd d n) := by
  simp only [Bool.and_eq_true, reg_iff, decide_eq_true_eq] at h
  obtain ⟨hd, hn⟩ := h
  obtain ⟨room, least⟩ := sysNumber_spec hn
  have regxs := regxN_le d 0 0
  have pages := pageN_le 14
  exact encodes_rri hd (by decide) (by decide) ordFits_none (by simp only [Option.toList_none, List.length_nil]; omega) rfl least rfl
    (Entry.orders_none _) (by simp [Entry.Clear, immU_four room, hn]) (by simp [immU_four room])

theorem encodes_swr (h : (reg a && n < 4096) = true) : (rawRRI 14 0 none 3 0 a (immLenU 4 n) n).Encodes (.swr n a) := by
  simp only [Bool.and_eq_true, reg_iff, decide_eq_true_eq] at h
  obtain ⟨ha, hn⟩ := h
  obtain ⟨room, least⟩ := sysNumber_spec hn
  have regxs := regxN_le 0 a 0
  have pages := pageN_le 14
  exact encodes_rri (by decide) ha (by decide) ordFits_none (by simp only [Option.toList_none, List.length_nil]; omega) rfl least rfl
    (Entry.orders_none _) (by simp [Entry.Clear, immU_four room, hn]) (by simp [immU_four room])

theorem encodes_trap (h : n < 2 ^ 38) : (rawRI 14 0 0 (immLenU 8 n) n).Encodes (.trap n) := by
  obtain ⟨room, least⟩ := immLenU_spec (b := 8) (n := 3) (by decide) h
  have none : regxN 0 0 0 = 0 := rfl
  have pages := pageN_le 14
  exact encodes_ri (by decide) (by decide) (by omega) rfl trivial (.inl rfl) (by simp [Entry.Clear, ri]) (by simp [ri, immU_eight room])

theorem encodes_brk (h : n < 256) : (rawRI 14 1 0 0 n).Encodes (.brk n) := by
  have low : n / 16 % 16 * 16 + n % 16 = n := by omega
  exact encodes_ri (by decide) (by decide) (by decide) rfl rfl (.inr rfl) (by simp [Entry.Clear]) (congrArg Instr.brk low)

/-! ## Formats of one or few instructions -/

theorem encodes_shift {t : Nat} {mk : Nat → Nat → Instr} (h : (reg d && n < 64) = true) (ht : t < 4)
    (he : ∀ r : Raw, r.page = 0 → r.major = 14 → r.n1 / 4 = t → entry r = some
      ⟨.none, true, .none, true, r.modAbove 1 ++ r.noAH ++ r.noBH, true, mk r.d (r.n1 % 4 * 16 + r.n0)⟩) :
    (rawSH t d n).Encodes (mk d n) := by
  simp only [Bool.and_eq_true, reg_iff, decide_eq_true_eq] at h
  obtain ⟨hd, hn⟩ := h
  obtain ⟨kind, amount⟩ := rawSH_fields (t := t) (d := d) hn
  exact encodes_sh ht hd hn (he _ rfl rfl kind) rfl rfl (by simp [Entry.Clear]) (by simp [amount])

theorem encodes_fskip {c : Nat} {mk : Nat → Nat → Nat → Bool → Instr} (h : (reg a && reg b && 1 ≤ k && k < 4) = true) (hc : c < 4)
    (he : ∀ r : Raw, r.page = 9 → r.major = 8 → r.n2 % 4 = c → r.mod / 2 % 2 = 0 → entry r = some (fskip r false mk)) :
    (rawFSK (bit dbl) c k a b).Encodes (mk k a b dbl) := by
  simp only [Bool.and_eq_true, reg_iff, decide_eq_true_eq, and_assoc] at h
  obtain ⟨ha, hb, hk, hk'⟩ := h
  have le := bit_le dbl
  exact encodes_fsk hc ⟨hk, hk'⟩ ha hb (by omega) (bit_mod_two dbl) (fun h => absurd h Bool.false_ne_true)
    (he _ rfl rfl (rawFSK_fields hc).1 (by rw [mod_rawFSK]; omega))

theorem encodes_fskip_quiet {c : Nat} {mk : Nat → Nat → Nat → Bool → Instr} (h : (reg a && reg b && 1 ≤ k && k < 4) = true)
    (hc : c = 1 ∨ c = 2)
    (he : ∀ r : Raw, r.page = 9 → r.major = 8 → r.n2 % 4 = c → r.mod / 2 % 2 = 1 → entry r = some (fskip r true mk)) :
    (rawFSK (bit dbl + 2) c k a b).Encodes (mk k a b dbl) := by
  simp only [Bool.and_eq_true, reg_iff, decide_eq_true_eq, and_assoc] at h
  obtain ⟨ha, hb, hk, hk'⟩ := h
  have le := bit_le dbl
  have low : ((bit dbl + 2) % 2 == 1) = dbl := by rw [Nat.add_mod_right, bit_mod_two]
  exact encodes_fsk (by omega) ⟨hk, hk'⟩ ha hb (by omega) low (fun _ => hc)
    (he _ rfl rfl (rawFSK_fields (by omega)).1 (by rw [mod_rawFSK]; omega))

theorem encodes_btag (h : (f < 8 && immS 8 3 v) = true) :
    Raw.Encodes ⟨7, 0, none, immDigits 8 (immLen 8 v) (immBits 8 (immLen 8 v) v), 0, 0, 0, 0, f, immBits 8 (immLen 8 v) v / 16 % 16,
      immBits 8 (immLen 8 v) v % 16⟩ (.btag f v) := by
  simp only [Bool.and_eq_true, decide_eq_true_eq] at h
  obtain ⟨hf, fits⟩ := h
  obtain ⟨room, least⟩ := immLen_spec (by decide) fits
  have value := immSigned_immDigits (base := immBits 8 (immLen 8 v) v / 16 % 16 * 16 + immBits 8 (immLen 8 v) v % 16)
    (by decide) room (by omega)
  refine ⟨fits_of_head (show HeadFits 7 0 0 by decide) ordFits_none (immDigits_lt 8 _ _) (by simp) (by simp; omega) ?_, _, rfl,
    ⟨trivial, .inr ⟨rfl, rfl, rfl⟩, Entry.orders_none _, rfl,
      (modAbove_eq_nil ..).mpr (Nat.zero_div 1), by simpa using hf⟩, congrArg (Instr.btag f) value⟩
  have pages := pageN_le 7
  rw [Raw.length_prefixes]
  simp only [Option.toList_none, List.length_nil, length_immDigits, show regxN (0 * 16) (0 * 16) (0 * 16) = 0 from rfl]
  omega

theorem encodes_ppt (h : n < 64) : Raw.Encodes ⟨8, 0, none, [], 0, 0, 0, 6, 0, n / 16, n % 16⟩ (.ppt n) := by
  refine ⟨fits_of_head (show HeadFits 8 0 6 by decide) ordFits_none (by simp) (by simp) (by simp; omega) (by simp [Raw.prefixes]), _, rfl,
    ⟨rfl, .inr ⟨rfl, rfl, rfl⟩, Entry.orders_none _, rfl, by simp; omega, rfl⟩, ?_⟩
  exact congrArg Instr.ppt (by omega : n / 16 % 4 * 16 + n % 16 = n)

end

end Sys2Proof

/-! PROOFS. The decoder inverts the encoder, and reads the words of the encoding tables (R94 to R126). -/

namespace Sys2Proof

/-- Every well-formed instruction has a chain that encodes it: its format's pieces, and its entry of the opcode map. -/
theorem Instr.encoded_of_wf {i : Instr} (h : i.wf = true) : i.Encoded := by
  cases i
  case add | sub | and | or | xor | mul | mulh | mulhu | div | divu | rem | remu | min | minu | max | maxu | shl | shr | sra | ror
      | addw | subw | mulw | rinja | rinjb | pmark | rfetch | tarm | hsend | bxf | grant | waket =>
    exact ⟨_, rfl, rfl, encodes_reg3 h (by decide) rfl rfl⟩
  case fadd | fsub | fmul | fma | fdiv | fmin | fmax =>
    exact ⟨_, rfl, rfl, encodes_f3 h (by decide) rfl⟩
  case forkh | pset | xinv =>
    simp only [Instr.wf, Bool.and_eq_true, reg_iff] at h
    obtain ⟨ha, hb⟩ := h
    exact ⟨_, rfl, rfl, encodes_rrr (by decide) ha hb (by decide) rfl rfl rfl (by simp [Entry.Clear, rrr]) (by simp [rrr])⟩
  case tstart | sstop | ttrn =>
    simp only [Instr.wf, Bool.and_eq_true, reg_iff] at h
    obtain ⟨hd, ha⟩ := h
    exact ⟨_, rfl, rfl, encodes_rrr hd ha (by decide) (by decide) rfl rfl rfl (by simp [Entry.Clear, rrr]) (by simp [rrr])⟩
  case pclr =>
    exact ⟨_, rfl, rfl, encodes_rrr (by decide) (by decide) ((reg_iff _).mp h) (by decide) rfl rfl rfl
      (by simp [Entry.Clear, rrr]) (by simp [rrr])⟩
  case wake =>
    exact ⟨_, rfl, rfl, encodes_rrr (by decide) ((reg_iff _).mp h) (by decide) (by decide) rfl rfl rfl
      (by simp [Entry.Clear, rrr]) (by simp [rrr])⟩
  case mld =>
    simp only [Instr.wf, Bool.and_eq_true, reg_iff, acc_iff] at h
    obtain ⟨hd, ha⟩ := h
    exact ⟨_, rfl, rfl, encodes_rrr (by omega) ha (by decide) (by decide) rfl rfl rfl (by simp [Entry.Clear, rrr, hd]) (by simp [rrr])⟩
  case fsqrt dbl =>
    simp only [Instr.wf, Bool.and_eq_true, reg_iff] at h
    obtain ⟨hd, ha⟩ := h
    cases dbl <;>
      exact ⟨_, rfl, rfl, encodes_rrr hd ha (by decide) (by decide) rfl rfl rfl (by simp [Entry.Clear, rf0]) (by simp [rf0])⟩
  case mand | mor | mxor =>
    simp only [Instr.wf, Bool.and_eq_true, mreg_iff, mregD_iff] at h
    exact ⟨_, rfl, rfl, encodes_rrr_low (by omega) (by omega) (by omega) (by decide) ordFits_none rfl rfl (Entry.orders_none _)
      (by simp [Entry.Clear, h]) (by simp)⟩
  case lea => exact ⟨_, rfl, rfl, encodes_lea h⟩
  case cpy => exact ⟨_, rfl, rfl, encodes_cpy h⟩
  case mst => exact ⟨_, rfl, rfl, encodes_mst h⟩
  case mma => exact ⟨_, rfl, rfl, encodes_mma h⟩
  case ldxb | ldxbu | ldxh | ldxhu | ldxw | ldxwu | ldx =>
    exact ⟨_, rfl, rfl, encodes_ldx h (by decide) fun r hp hm hf => by simp [entry, page2, hp, hm, hf]⟩
  case stxb | stxh | stxw | stx =>
    exact ⟨_, rfl, rfl, encodes_stx h (by decide) fun r hp hm hf => by simp [entry, page2, hp, hm, hf]⟩
  case amoadd | amoand | amoor | amoxor | amomin | amomax | amominu | amomaxu | amoswap =>
    exact ⟨_, rfl, rfl, encodes_amo h (by decide) fun r hp hm hf => by simp [entry, page3, hp, hm, hf]⟩
  case cas => exact ⟨_, rfl, rfl, encodes_cas h⟩
  case amof => exact ⟨_, rfl, rfl, encodes_amof h⟩
  case waitm => exact ⟨_, rfl, rfl, encodes_waitm h⟩
  case fence | fencem | fencee | fencer => exact ⟨_, rfl, rfl, encodes_fence h (by decide) rfl⟩
  case vmul | vand | vor | vxor | vshl | vshr | vsra | vsel | vperm =>
    exact ⟨_, rfl, rfl, encodes_v3 h (by decide) (by decide) (by decide) (.inl rfl) fun r hp hm _ => by simp [entry, page4, hp, hm]⟩
  case vfadd | vfsub | vfmul | vfma | vfdiv | vfmin | vfmax =>
    exact ⟨_, rfl, rfl, encodes_v3 h (by decide) (by decide) (by decide) (.inl rfl) fun r hp hm _ => by simp [entry, page5, hp, hm]⟩
  case vadd | vsub | vmin | vmax =>
    exact ⟨_, rfl, rfl, encodes_v3 h (by decide) (by decide) (by decide) (.inr rfl)
      fun r hp hm hx => by simp [entry, page4, v3x, hp, hm, hx]⟩
  case vaddSat | vsubSat | vminu | vmaxu =>
    exact ⟨_, rfl, rfl, encodes_v3_other h (by decide) fun r hp hm hx => by simp [entry, page4, v3x, hp, hm, hx]⟩
  case vcmp => exact ⟨_, rfl, rfl, encodes_vcmp h (by decide) fun r hp hm => by simp [entry, page4, hp, hm]⟩
  case vfcmp => exact ⟨_, rfl, rfl, encodes_vcmp h (by decide) fun r hp hm => by simp [entry, page5, hp, hm]⟩
  case vfscl => exact ⟨_, rfl, rfl, encodes_vfscl h⟩
  case vext => exact ⟨_, rfl, rfl, encodes_vext h⟩
  case vins => exact ⟨_, rfl, rfl, encodes_vins h⟩
  case vlds =>
    simp only [Instr.wf, Bool.and_eq_true, vreg_iff, reg_iff, decide_eq_true_eq, and_assoc] at h
    obtain ⟨hd, ha, hb, hw, hm, ho⟩ := h
    exact ⟨_, rfl, rfl, encodes_vload (ok := fun _ => true) hd ha hb rfl hw hm ho (by decide)
      fun r hp hm hx => by simp [entry, page2, hp, hm, hx]⟩
  case vsts =>
    simp only [Instr.wf, Bool.and_eq_true, vreg_iff, reg_iff, decide_eq_true_eq, and_assoc] at h
    obtain ⟨hd, ha, hb, hw, hm, ho⟩ := h
    exact ⟨_, rfl, rfl, encodes_vstore (ok := fun _ => true) hd ha hb rfl hw hm ho (by decide)
      fun r hp hm hx => by simp [entry, page2, hp, hm, hx]⟩
  case vgth =>
    simp only [Instr.wf, Bool.and_eq_true, vreg_iff, reg_iff, decide_eq_true_eq, and_assoc] at h
    obtain ⟨hd, ha, hb, hw, hm, ho⟩ := h
    exact ⟨_, rfl, rfl, encodes_vload (ok := vreg) hd ha (by omega) ((vreg_iff _).mpr hb) hw hm ho (by decide)
      fun r hp hm hx => by simp [entry, page2, hp, hm, hx]⟩
  case vsct =>
    simp only [Instr.wf, Bool.and_eq_true, vreg_iff, reg_iff, decide_eq_true_eq, and_assoc] at h
    obtain ⟨hd, ha, hb, hw, hm, ho⟩ := h
    exact ⟨_, rfl, rfl, encodes_vstore (ok := vreg) hd ha (by omega) ((vreg_iff _).mpr hb) hw hm ho (by decide)
      fun r hp hm hx => by simp [entry, page2, hp, hm, hx]⟩
  case not | neg | abs | sextB | sextH | sextW | zextB | zextH | zextW | callr | clz | ctz | popc | brev | bswap =>
    exact ⟨_, rfl, rfl, encodes_rf2 h (by decide) (by decide) rfl⟩
  case tagq | mfmt | rstat | ship | cwait | rgn | conerd | cqsc => exact ⟨_, rfl, rfl, encodes_rf0 h (by decide) rfl⟩
  case ret | nop | endTask | yield | hend | hdefer =>
    exact ⟨_, rfl, rfl, encodes_rf (by decide) (by decide) (by decide) (by decide) rfl rfl (.inl rfl) (by simp [Entry.Clear, rf]) rfl⟩
  case jr =>
    exact ⟨_, rfl, rfl, encodes_rf (by decide) ((reg_iff _).mp h) (by decide) (by decide) rfl rfl (.inl rfl)
      (by simp [Entry.Clear, rf]) (by simp [rf])⟩
  case eret | idle =>
    exact ⟨_, rfl, rfl, encodes_rf (by decide) (by decide) (by decide) (by decide) rfl rfl (.inr ⟨rfl, rfl⟩) (by simp [Entry.Clear]) rfl⟩
  case bar | bcarm | dtld | bcwait | qstat | tid | rdc =>
    simp only [Instr.wf, Bool.and_eq_true, reg_iff, decide_eq_true_eq] at h
    exact ⟨_, rfl, rfl, encodes_rf (by omega) (by omega) (by omega) (by decide) rfl rfl (.inl rfl)
      (by simp [Entry.Clear, rf, h]) (by simp [rf])⟩
  case mzero | vpop | vpush | mnot | mpop =>
    simp only [Instr.wf, Bool.and_eq_true, acc_iff, reg_iff, vreg_iff, mreg_iff, mregD_iff, decide_eq_true_eq, beq_iff_eq] at h
    exact ⟨_, rfl, rfl, encodes_rf (by omega) (by omega) (by omega) (by decide) rfl rfl (.inl rfl) (by simp [Entry.Clear, rf, rf0, h])
      (by simp [rf, rf0])⟩
  case mfromx d a hi | mtox d a hi =>
    simp only [Instr.wf, Bool.and_eq_true, reg_iff, mreg_iff, mregD_iff] at h
    cases hi <;>
      exact ⟨_, rfl, rfl, encodes_rf (by omega) (by omega) (by omega) (by decide) rfl rfl (.inl rfl)
        (by simp [Entry.Clear, rf, h]) (by simp [rf])⟩
  case fclass d a dbl =>
    simp only [Instr.wf, Bool.and_eq_true, reg_iff] at h
    obtain ⟨hd, ha⟩ := h
    cases dbl <;>
      exact ⟨_, rfl, rfl, encodes_rf hd ha (by decide) (by decide) rfl rfl (.inl rfl) (by simp [Entry.Clear, rf0]) (by simp [rf0])⟩
  case fcvt => exact ⟨_, rfl, rfl, encodes_fcvt h⟩
  case vdec | venc => exact ⟨_, rfl, rfl, encodes_vcode h (by decide) fun r hp hm => by simp [entry, page5, hp, hm]⟩
  case vredadd | vredmin | vredmax =>
    exact ⟨_, rfl, rfl, encodes_vred h (by decide) fun r hp hm hf => by simp [entry, page5, hp, hm, hf]⟩
  case vbcast => exact ⟨_, rfl, rfl, encodes_vbcast h⟩
  case vidx => exact ⟨_, rfl, rfl, encodes_vidx h⟩
  case vmov => exact ⟨_, rfl, rfl, encodes_vmov h⟩
  case vfsqrt => exact ⟨_, rfl, rfl, encodes_vfsqrt h⟩
  case vcvt => exact ⟨_, rfl, rfl, encodes_vcvt h⟩
  case vbsc => exact ⟨_, rfl, rfl, encodes_vbsc h⟩
  case shli | shri | srai | rori =>
    exact ⟨_, rfl, rfl, encodes_shift h (by decide) fun r hp hm ht => by simp [entry, page0, hp, hm, ht]⟩
  case fskeq | fsklt | fskle | fskun =>
    exact ⟨_, rfl, rfl, encodes_fskip h (by decide) fun r hp hm hc hq => by simp [entry, page9, hp, hm, hc, hq]⟩
  case fskltq | fskleq =>
    exact ⟨_, rfl, rfl, encodes_fskip_quiet h (by decide) fun r hp hm hc hq => by simp [entry, page9, hp, hm, hc, hq]⟩
  case skeq | skne | sklt | skge | skltu | skgeu | skbs | skbc =>
    simp only [Instr.wf, Bool.and_eq_true, reg_iff, decide_eq_true_eq, and_assoc] at h
    obtain ⟨ha, hk, hk', hb⟩ := h
    exact ⟨_, rfl, by rw [page_rawSK]; rfl, encodes_sk (by decide) (by decide) ⟨hk, hk'⟩ ha hb (by simp [entry, page0, rawSK_fields])⟩
  case addi | andi | ori | xori | dld | dst =>
    exact ⟨_, rfl, rfl, encodes_rri2 h (by decide) rfl⟩
  case ld | ldb | ldbu | ldh | ldhu | ldw | ldwu | ldLong =>
    exact ⟨_, rfl, rfl, encodes_load h (by decide) rfl rfl⟩
  case st | stb | sth | stw | stLong =>
    exact ⟨_, rfl, rfl, encodes_store h (by decide) rfl rfl⟩
  case vld => exact ⟨_, rfl, rfl, encodes_vld h⟩
  case vst => exact ⟨_, rfl, rfl, encodes_vst h⟩
  case prefr | prefw | prefk | prefrel => exact ⟨_, rfl, rfl, encodes_pref h (by decide) rfl⟩
  case join => exact ⟨_, rfl, rfl, encodes_join h⟩
  case fork => exact ⟨_, rfl, rfl, encodes_fork h⟩
  case li | lih | lpc => exact ⟨_, rfl, rfl, encodes_ri1 h (by decide) rfl⟩
  case br | call => exact ⟨_, rfl, rfl, encodes_jump h (by decide) fun r hp hm => by simp [entry, page0, hp, hm]⟩
  case extu | exts | ins => exact ⟨_, rfl, rfl, encodes_bfx h (by decide) rfl⟩
  case tdec => exact ⟨_, rfl, rfl, encodes_tdec h⟩
  case srd => exact ⟨_, rfl, rfl, encodes_srd h⟩
  case swr => exact ⟨_, rfl, rfl, encodes_swr h⟩
  case trap => exact ⟨_, rfl, rfl, encodes_trap (of_decide_eq_true h)⟩
  case brk => exact ⟨_, rfl, rfl, encodes_brk (of_decide_eq_true h)⟩
  case btag => exact ⟨_, rfl, rfl, encodes_btag h⟩
  case ppt => exact ⟨_, rfl, rfl, encodes_ppt (of_decide_eq_true h)⟩
  -- What remains are the device's events, which no halfword encodes.
  all_goals exact absurd h Bool.false_ne_true

end Sys2Proof

namespace Sys2Proof.Proofs

/-- Settles O43: a well-formed instruction's chain lies in its fields and its entry of the opcode map accepts it, so that the decoder
reads back its pieces and then the instruction. -/
theorem decodeEncode : Obligations.DecodeEncode := by
  intro i l h
  obtain ⟨r, chain, page, fits, e, he, acc, rfl⟩ := Instr.encoded_of_wf h
  rw [encode, chain, ← page]
  exact fits.decode_rawWords he acc l

/-- Settles O44: the decoder runs on each of the words. -/
theorem decodeWords : Obligations.DecodeWords := by
  unfold Obligations.DecodeWords
  decide

end Sys2Proof.Proofs

/-! PROOFS. Skips, branches and jumps (R102, R108, R111, R382, R386, R411, R432, R442, R452, R494). -/

namespace Sys2Proof.Machine

/-! ## Where a jump goes -/

/-- A jump through a register to an even address only moves the pc (R108). -/
theorem jumpTo_even {x : Word} {t : State} (h : x.getLsbD 0 = false) : jumpTo x t = .ok (t.setPc x) := by
  rw [jumpTo, h]; rfl
/-- One to an odd address raises MISALIGNED with the target (R108). -/
theorem jumpTo_odd {x : Word} {t : State} (h : x.getLsbD 0 = true) : jumpTo x t = .error (.trap 0x04 x none) := by
  rw [jumpTo, h]; rfl

/-- A register write and an update of the thread touch different parts of the state. -/
theorem State.setX_modMe (s : State) (r : Nat) (v : Word) (f : Thread → Thread) :
    (s.modMe f).setX r v = (s.setX r v).modMe f := by
  by_cases hr : r = 0
  · simp [State.setX, State.setXOf, hr]
  · by_cases hp : s.cur.pp = true
    · simp [State.setX, State.setXOf, State.modMe, State.setMe, State.setThread, State.modHandler, State.modPP,
        State.setPP, State.pp, PP.handler, State.me, State.thread, hp, hr]
    · simp [State.setX, State.setXOf, State.modMe, State.setMe, State.setThread, State.modCore, State.setCore,
        State.core, Core.setThread, Core.thread, State.me, State.thread, hp, hr]

/-- A jump that follows an instruction's other effect replaces the pc that issuing it left. -/
theorem State.setPc_advanced (s : State) (pc : Word) : s.advanced.setPc pc = s.setPc pc := by
  simp [State.advanced, State.setPc]
theorem State.setPc_setX_advanced (s : State) (r : Nat) (v pc : Word) :
    (s.advanced.setX r v).setPc pc = (s.setX r v).setPc pc := by
  simp [State.advanced, State.setPc, State.setX_modMe]

/-! ## Skips -/

/-- A skip changes its own thread only: the annul count when its condition holds (R111), and the flags that it raises. -/
theorem State.me_skip (s : State) (k : Nat) (c : Bool) : (s.skip k c).me = { s.me with annul := if c then k else s.me.annul } := by
  cases c <;> simp [State.skip]
theorem State.x_skip (s : State) (k : Nat) (c : Bool) (r : Nat) : (s.skip k c).x r = s.x r := by
  cases c <;> simp [State.skip]
theorem State.v_skip (s : State) (k : Nat) (c : Bool) (r : Nat) : (s.skip k c).v r = s.v r := by
  cases c <;> simp [State.skip]
theorem State.sameElsewhere_skip (s : State) (k : Nat) (c : Bool) : s.SameElsewhere (s.skip k c) := by
  cases c
  · exact .refl s
  · exact s.sameElsewhere_modMe fun t => { t with annul := k }

/-- The state after a skip whose condition and flags are r. -/
def State.skips (s : State) (k : Nat) (r : Bool × Nat) : State := (s.raise r.2).skip k r.1

theorem State.sameElsewhere_skips (s : State) (k : Nat) (r : Bool × Nat) : s.SameElsewhere (s.skips k r) :=
  (s.sameElsewhere_raise r.2).trans (State.sameElsewhere_skip ..)

theorem skipOn_begins {c : Cond} {k a : Nat} {b : SkSrc} {s t : State} {x y z : Word}
    (h : s.Begins ⟨false, .src a, skFld b, .none⟩ x y z t) :
    skipOn c k a b s = .next (t.skips k (c.holds x (skVal b y), 0)) :=
  issue_ok h rfl
theorem floatSkip_begins {c : FCond} {k a b : Nat} {dbl : Bool} {s t : State} {x y z : Word}
    (h : s.Begins (usesAB a b) x y z t) :
    floatSkip c k a b dbl s =
      .next (t.skips k (c.holds (readF (scalarType dbl) t.ftz x) (readF (scalarType dbl) t.ftz y))) :=
  issue_ok h rfl

/-- The two conditions that the model states as the negation of another, as R150 states them. -/
theorem Cond.holds_ge (x y : Word) : Cond.ge.holds x y = decide (y.toInt ≤ x.toInt) := by
  simp [Cond.holds, BitVec.slt, ← decide_not]
theorem Cond.holds_geu (x y : Word) : Cond.geu.holds x y = decide (y.toNat ≤ x.toNat) := by
  simp [Cond.holds, BitVec.lt_def, ← decide_not]

/-- Each skip of `skipOp` is its condition's effect on the state with the operands read (R406, R452). -/
theorem exec_skip {i : Instr} {k : Nat} {u : Uses} {f : State → Word → Word → Bool × Nat} {s t : State} {a b c : Word}
    (hi : skipOp i = some (k, u, f)) (h : s.Begins u a b c t) : exec i s = .next (t.skips k (f t a b)) := by
  cases i <;> simp only [skipOp, Option.some.injEq, Prod.mk.injEq, reduceCtorEq] at hi <;> obtain ⟨rfl, rfl, rfl⟩ := hi
  case skge => exact (skipOn_begins h (c := .ge)).trans (by rw [Cond.holds_ge])
  case skgeu => exact (skipOn_begins h (c := .geu)).trans (by rw [Cond.holds_geu])
  case skeq | skne | sklt | skltu | skbs | skbc => exact skipOn_begins h
  all_goals exact floatSkip_begins h

/-! ## Branches and jumps -/

theorem exec_br (off : Int) (h : s.settled = true) :
    exec (.br off) s = .next (s.setPc (s.cur.pc + w64 (2 * (s.cur.len - 1)) + BitVec.ofInt 64 (2 * off))) := by
  rw [← State.setPc_advanced]
  exact issue_ok (State.begins_none h) rfl

theorem exec_call (off : Int) (h : s.settled = true) (h1 : s.has 1 = true) :
    exec (.call off) s = .next ((s.setX 1 (s.cur.pc + w64 (2 * s.cur.len))).setPc
      (s.cur.pc + w64 (2 * (s.cur.len - 1)) + BitVec.ofInt 64 (2 * off))) := by
  rw [← State.setPc_setX_advanced]
  exact issue_ok (State.begins_plain h (u := usesD 1) (by simp [Uses.plain, Uses.list, usesD, Fld.plain, h1]) rfl) rfl

theorem exec_nop (h : s.settled = true) : exec .nop s = .next s.advanced := issue_ok (State.begins_none h) rfl

theorem exec_yield (h : s.settled = true) : exec .yield s = .next (s.advanced.modMe fun h => { h with noBorrow := true }) :=
  issue_ok (State.begins_none h) rfl

section
variable {s t : State} {d a : Nat} {x y z : Word}

theorem exec_jr_even (h : s.Begins (usesA a) x y z t) (hx : x.getLsbD 0 = false) : exec (.jr a) s = .next (t.setPc x) :=
  issue_ok h (jumpTo_even hx)
theorem exec_jr_odd (h : s.Begins (usesA a) x y z t) (hx : x.getLsbD 0 = true) :
    exec (.jr a) s = .next (s.takeTrap 0x04 x none) :=
  issue_halt (body := fun x _ _ t => jumpTo x t) h (jumpTo_odd hx)

theorem exec_ret_even (h : s.Begins (usesA 1) x y z t) (hx : x.getLsbD 0 = false) : exec .ret s = .next (t.setPc x) :=
  issue_ok h (jumpTo_even hx)
theorem exec_ret_odd (h : s.Begins (usesA 1) x y z t) (hx : x.getLsbD 0 = true) :
    exec .ret s = .next (s.takeTrap 0x04 x none) :=
  issue_halt (body := fun x _ _ t => jumpTo x t) h (jumpTo_odd hx)

/-- CALLR writes its register after the jump's check (R386). -/
theorem exec_callr (h : s.Begins (usesDA d a) x y z t) :
    exec (.callr d a) s = .next (s.ends (jumpTo x t >>= putX d s.nextPc)) :=
  issue_begins h
theorem exec_callr_even (h : s.Begins (usesDA d a) x y z t) (hx : x.getLsbD 0 = false)
    (ht : (t.setPc x).takes d s.nextPc) : exec (.callr d a) s = .next (s.gives false (t.setPc x) d s.nextPc) := by
  rw [exec_callr h, jumpTo_even hx, ← State.ends_putX ht]
  rfl
theorem exec_callr_odd (h : s.Begins (usesDA d a) x y z t) (hx : x.getLsbD 0 = true) :
    exec (.callr d a) s = .next (s.takeTrap 0x04 x none) := by
  rw [exec_callr h, jumpTo_odd hx]
  rfl
end

end Sys2Proof.Machine

namespace Sys2Proof.Proofs
open Sys2Proof.Machine

/-- Settles O5: a skip is its condition's effect on its own thread, and the branches and jumps are their equations. -/
theorem skipsAndJumps : Obligations.SkipsAndJumps := by
  unfold Obligations.SkipsAndJumps
  refine ⟨fun i k u f s t a b c hi h => ⟨_, exec_skip hi h, ?_⟩, fun s t off d a x y z => ?_, fun s t d a x y z hx => ?_⟩
  · have same := t.sameElsewhere_skips k (f t a b)
    exact ⟨same, fun r => by simp [State.skips, State.x_skip], fun r => by simp [State.skips, State.v_skip], same.byteAt,
      by simp [State.skips, State.me_skip]⟩
  · exact ⟨exec_br off, exec_call off, exec_jr_even, exec_callr_even, exec_ret_even, exec_nop, exec_yield⟩
  · exact ⟨(exec_jr_odd · hx), (exec_callr_odd · hx), (exec_ret_odd · hx)⟩

end Sys2Proof.Proofs

/-! PROOFS. What a fetch reads; steps that no slot takes (R94, R104, R112, R213, R266, R273). -/

namespace Sys2Proof.Machine

/-! ## A chain of halfwords (R104) -/

theorem fetchChain_base {s f : State} {pc : Word} {h : Nat} (hf : fetchHalf s pc pc = .ok (h, f)) (hb : h / 4096 ≠ 15) (n : Nat) :
    fetchChain (n + 1) s pc = .ok ([h], f) := by
  rw [fetchChain, hf]
  exact if_neg hb

theorem fetchChain_prefix {s f g : State} {pc : Word} {h n : Nat} {l : List Nat} (hf : fetchHalf s pc pc = .ok (h, f))
    (hp : h / 4096 = 15) (ht : fetchChain n f (pc + 2) = .ok (l, g)) : fetchChain (n + 1) s pc = .ok (h :: l, g) := by
  have hc : fetchChain (n + 1) s pc = if h / 4096 = 15 then
      (do let (l, s) ← fetchChain n f (pc + 2); .ok (h :: l, s)) else .ok ([h], f) := by
    rw [fetchChain, hf]; rfl
  rw [hc, if_pos hp, ht]
  rfl

/-! ## At H (R273) -/

theorem fetchHalf_handler {s : State} {pc : Word} (hp : s.cur.pp = true) (hpc : pc.toNat < 2 ^ 48) :
    fetchHalf s pc pc = if s.poisoned (pc.toNat / 2 * 2) then .error (.trap cPoison pc none)
      else .ok (s.mem.read (pc.toNat / 2 * 2) 2, s) := by
  have hlow : ¬ 2 ^ 48 ≤ pc.toNat / 2 * 2 := by omega
  rw [fetchHalf, if_pos hp, if_neg hlow]

/-! ## On a core (R112, R266) -/

/-- A halfword lies in one window with both its bytes. -/
theorem windowOf_even (va : Nat) : windowOf (va / 2 * 2) = windowOf va := by
  have h : va / 2 * 2 / 2 ^ 56 = va / 2 ^ 56 := by omega
  rw [windowOf, windowOf, h]

theorem fetchHalf_window {s : State} {pc : Word} (hp : s.cur.pp = false) (hw : windowOf pc.toNat ≠ .global) :
    fetchHalf s pc pc = .error (.trap cWindow pc none) := by
  rw [fetchHalf, if_neg (by simp [hp]), windowOf_even, if_pos (by simp [hw])]

/-- The READ-MISS by which a fetch of two bytes asks the home (R266). -/
def State.fetchAsk (k : State) (va pa : Nat) (pc pte : Word) : State := k.ucAsk 0 va .fetch ⟨pc.toNat, 2, 0⟩ pa pte

section
variable {s f : State} {pc pte : Word} {pa : Nat}

/-- A fetch from the core's data cache reads the block's bytes at the translation's place. -/
theorem fetchHalf_cached (hp : s.cur.pp = false) (hw : windowOf pc.toNat = .global)
    (ht : s.translate s.cur.unit s.me.priv .fetch (pc.toNat / 2 * 2) = (.ok pa pte, f)) (h4 : pa / 2 ^ 48 ≠ 4)
    (h : f.performs .fetch 2 (.phys pa pte) = true) : fetchHalf s pc pc = .ok (f.value (.phys pa pte) 2, f) := by
  obtain ⟨cached, -⟩ := State.performs_phys h
  rw [fetchHalf, if_neg (by simp [hp]), windowOf_even, if_neg (by simp [hw]), ht]
  simp only [h4, cached, Bool.false_eq_true, if_false]
  rw [reduceCheck_ok h, tagCheck_hit h, ← State.readPlace_value h]
  rfl

/-- One from an UNCACHED or a WALK page takes what the home answers. -/
theorem fetchHalf_uncached (hp : s.cur.pp = false) (hw : windowOf pc.toNat = .global)
    (ht : s.translate s.cur.unit s.me.priv .fetch (pc.toNat / 2 * 2) = (.ok pa pte, f)) (h4 : pa / 2 ^ 48 ≠ 4)
    (h : uncachedProt pte = true) : fetchHalf s pc pc =
      (answers 0 [(pc.toNat / 2 * 2, pc, fun k => k.fetchAsk (pc.toNat / 2 * 2) pa pc pte)] f >>= fun l =>
        .ok ((l.headD 0).toNat % 65536, f)) := by
  rw [fetchHalf, if_neg (by simp [hp]), windowOf_even, if_neg (by simp [hw]), ht]
  simp only [h4, h, if_true, if_false]
  rfl
end

theorem uncachedProt_of (h : pteProt pte = 0 ∨ pteProt pte = 7) : uncachedProt pte = true := by
  simpa [uncachedProt, pUncached, pWalk] using h

/-! ## What an instruction asks of one access (R45, R266) -/

section
variable {s : State} {kind key : Nat} {va : Word} {send : State → State}

theorem answers_ready {v : Word} (h : s.askVal kind key = some (.ready v)) : answers kind [(key, va, send)] s = .ok [v] := by
  simp [answers, h]

/-- Not yet asked: the access is sent, unless the thread has sent it meanwhile, and the thread waits. -/
theorem answers_unasked (h : s.askVal kind key = none) : answers kind [(key, va, send)] s =
    .error (.wait .asks fun k => if (k.me.askOf kind key).isSome then k else send k) := by
  simp [answers, h]
end

/-- The request that the fetch sends: a READ-MISS of two bytes to the home of the place (R266, R270). -/
def State.fetchFlit (k : State) (pa : Nat) (pte : Word) : Flit :=
  newFlit (.core k.cur.unit k.cur.slot) (.pp (k.homeFor pa)) ((k.myPart.map (·.cls)).getD 0) k.myPartId (k.newSeq 1).1
    (.msg ⟨0, tReadMiss, [w64 pa, infoWord .fetch 0 false false true k.supBit, protWord (pteProt pte) (pteRegion pte), w64 2], none⟩) []

theorem State.fetchAsk_eq {k : State} (hf : k.fenced k.myPartId = false) (va pa : Nat) (pc pte : Word) :
    k.fetchAsk va pa pc pte = State.modMe { (k.newSeq 1).2 with net := k.net ++ [k.fetchFlit pa pte] }
      fun t => { t with asks := t.asks ++ [⟨(k.newSeq 1).1, 0, va, w64 pc.toNat, .waiting⟩] } := by
  have hs := State.send_request (s := (k.newSeq 1).2) (src := .core k.cur.unit k.cur.slot) (dst := .pp (k.homeFor pa))
    (cls := (k.myPart.map (·.cls)).getD 0) (part := k.myPartId) (rseq := (k.newSeq 1).1)
    (b := (k.fetchFlit pa pte).body) (show (0 : Nat) ≠ 2 by decide) hf
  unfold State.fetchAsk State.ucAsk State.ask State.request
  exact congrArg (fun s : State => s.modMe _) hs

/-- What a fetch that waits for its home has sent, and what its thread then expects. -/
theorem State.fetchAsk_sends {k : State} (hk : k.me.asks = []) (hf : k.fenced k.myPartId = false) (va pa : Nat) (pc pte : Word) :
    ∃ q : Flit, (k.fetchAsk va pa pc pte).net = k.net ++ [q] ∧
      q.src = .core k.cur.unit k.cur.slot ∧ q.dst = .pp (k.homeFor pa) ∧ q.lane = 0 ∧ q.type = 0 ∧ q.word 0 = w64 pa ∧
      q.word 3 = 2 ∧ (k.fetchAsk va pa pc pte).me = { k.me with asks := [⟨q.rseq, 0, va, pc, .waiting⟩] } := by
  refine ⟨k.fetchFlit pa pte, ?_, rfl, rfl, rfl, rfl, rfl, rfl, ?_⟩
  · rw [State.fetchAsk_eq hf, State.modMe_net]
  · rw [State.fetchAsk_eq hf, State.me_modMe]
    have hme : ({ (k.newSeq 1).2 with net := k.net ++ [k.fetchFlit pa pte] } : State).me = k.me := rfl
    rw [hme, hk]
    simp [State.fetchFlit, newFlit, w64]

/-! ## Steps that no slot takes (R4, R42) -/

theorem step_event {s : State} {i : Instr} {r : List Action} (h : s.agenda = .event i :: r) :
    step s = exec i { s with agenda := r } := by
  rw [step, stepDevice, h]
  rfl

theorem step_idle {s : State} (ha : s.agenda = []) (he : s.autoEvent = none) (hn : s.nextIssue = none) :
    step s = .next s.endCycle := by
  rw [step, stepDevice, ha]
  simp only [he, hn]

end Sys2Proof.Machine

namespace Sys2Proof.Proofs
open Sys2Proof.Machine

/-- Settles O42: the halfwords of a chain, what each of them is at H and on a core, and the steps that no slot takes. -/
theorem fetchedBytes : Obligations.FetchedBytes := by
  unfold Obligations.FetchedBytes
  refine ⟨fun n s f pc h hf => ⟨(fetchChain_base hf · n), fun hp l g => fetchChain_prefix hf hp⟩,
    fun s pc hp hpc => ?_, fun s f pc pte pa hp hw ht h4 => ⟨fetchHalf_cached hp hw ht h4, fun hu => ⟨fun v hv => ?_, fun hv => ?_⟩⟩,
    fun s pc => fetchHalf_window, fun s i r => step_event, fun s ha he hn => ⟨_, step_idle ha he hn, rfl, rfl, rfl, rfl, rfl, rfl⟩⟩
  · exact ⟨fun clean => by rw [fetchHalf_handler hp hpc, clean]; rfl, fun bad => by rw [fetchHalf_handler hp hpc, bad]; rfl⟩
  · rw [fetchHalf_uncached hp hw ht h4 (uncachedProt_of hu), answers_ready hv]
    rfl
  · rw [fetchHalf_uncached hp hw ht h4 (uncachedProt_of hu), answers_unasked hv]
    refine ⟨_, rfl, fun k hk hf => ?_⟩
    have unasked : (k.me.askOf 0 (pc.toNat / 2 * 2)).isSome = false := by simp [Thread.askOf, hk]
    simp only [unasked, Bool.false_eq_true, if_false]
    exact State.fetchAsk_sends hk hf ..

end Sys2Proof.Proofs

/-! PROOFS. Division (R140, R391, R441). -/

namespace Sys2Proof.Machine

/-! ## Quotients and remainders (R140) -/

theorem toNat_divU {x y : Word} (h : y ≠ 0) : (divU x y).toNat = x.toNat / y.toNat := by rw [divU, if_neg h, BitVec.toNat_udiv]
theorem toNat_remU {x y : Word} (h : y ≠ 0) : (remU x y).toNat = x.toNat % y.toNat := by rw [remU, if_neg h, BitVec.toNat_umod]
theorem toInt_remS {x y : Word} (h : y ≠ 0) : (remS x y).toInt = x.toInt.tmod y.toInt := by rw [remS, if_neg h, BitVec.toInt_srem]

/-- Only the quotient of -2^63 by -1 does not fit (R140). -/
theorem toInt_divS {x y : Word} (h : y ≠ 0) (fits : ¬ (x = BitVec.ofInt 64 (-2 ^ 63) ∧ y = BitVec.ofInt 64 (-1))) :
    (divS x y).toInt = x.toInt.tdiv y.toInt := by
  rw [divS, if_neg h]
  exact BitVec.toInt_sdiv_of_ne_or_ne x y (not_and_or.mp fits)

theorem divU_mul_add_remU {x y : Word} (h : y ≠ 0) : (divU x y).toNat * y.toNat + (remU x y).toNat = x.toNat := by
  rw [toNat_divU h, toNat_remU h, Nat.div_add_mod']

/-- Quotient × divisor + remainder is the dividend modulo 2^64, of words without sign (R140). -/
theorem divU_mul_add_remU_word {x y : Word} (h : y ≠ 0) : divU x y * y + remU x y = x := by
  apply BitVec.eq_of_toNat_eq
  rw [BitVec.toNat_add, BitVec.toNat_mul, Nat.mod_add_mod, divU_mul_add_remU h, Nat.mod_eq_of_lt x.isLt]

/-- Quotient × divisor + remainder is the dividend modulo 2^64, of signed words (R140). -/
theorem divS_mul_add_remS_word {x y : Word} (h : y ≠ 0) : divS x y * y + remS x y = x := by
  rw [divS_eq, remS_eq, if_neg h, if_neg h]
  calc BitVec.ofInt 64 (x.toInt.tdiv y.toInt) * y + BitVec.ofInt 64 (x.toInt.tmod y.toInt)
      = BitVec.ofInt 64 (x.toInt.tdiv y.toInt * y.toInt + x.toInt.tmod y.toInt) := by
        rw [BitVec.ofInt_add, BitVec.ofInt_mul, BitVec.ofInt_toInt]
    _ = x := by rw [Int.tdiv_mul_add_tmod, BitVec.ofInt_toInt]

theorem divS_mul_add_remS {x y : Word} (h : y ≠ 0) (fits : ¬ (x = BitVec.ofInt 64 (-2 ^ 63) ∧ y = BitVec.ofInt 64 (-1))) :
    (divS x y).toInt * y.toInt + (remS x y).toInt = x.toInt := by
  rw [toInt_divS h fits, toInt_remS h, Int.tdiv_mul_add_tmod]

theorem toInt_ne_zero {y : Word} (h : y ≠ 0) : y.toInt ≠ 0 := fun e => h (BitVec.eq_of_toInt_eq e)

theorem remU_lt {x y : Word} (h : y ≠ 0) : (remU x y).toNat < y.toNat := by
  rw [toNat_remU h]
  exact Nat.mod_lt _ (Nat.pos_of_ne_zero fun e => h (BitVec.eq_of_toNat_eq e))

theorem remS_natAbs_lt {x y : Word} (h : y ≠ 0) : (remS x y).toInt.natAbs < y.toInt.natAbs := by
  rw [toInt_remS h, Int.natAbs_tmod]
  exact Nat.mod_lt _ (Int.natAbs_pos.mpr (toInt_ne_zero h))

/-- A remainder that is not 0 takes the sign of the dividend (R140). -/
theorem remS_sign {x y : Word} (h : y ≠ 0) : remS x y = 0 ∨ ((remS x y).toInt < 0 ↔ x.toInt < 0) := by
  refine or_iff_not_imp_left.mpr fun hr => ?_
  have not_dvd : ¬ y.toInt ∣ x.toInt := fun dvd =>
    toInt_ne_zero hr ((toInt_remS h).trans (Int.tmod_eq_zero_of_dvd dvd))
  have sign : (remS x y).toInt.sign = x.toInt.sign := by rw [toInt_remS h, Int.sign_tmod, if_neg not_dvd]
  rw [← Int.sign_eq_neg_one_iff_neg, sign, Int.sign_eq_neg_one_iff_neg]

/-! ## What a division does -/

/-- A division into a register completes with the quotient or the remainder in it (R391, R441). -/
theorem divides_begins {s t : State} {d a b : Nat} {x y z : Word} (f : Word → Word → Word) (h : s.Begins (usesDAB d a b) x y z t)
    (hd : d ≠ 121) : issue (usesDAB d a b) (divides d f) s = .next (t.setX d (f x y)) :=
  issue_ok h (by simp [divides, reserveX, lateX, hd])

end Sys2Proof.Machine

namespace Sys2Proof.Proofs
open Sys2Proof.Machine

/-- Settles O4: `divS`, `divU`, `remS` and `remU` of the operands. -/
theorem division : Obligations.Division := by
  intro s t d a b x y z h _ hd
  have completes (f : Word → Word → Word) := divides_begins f h (show d ≠ 121 by omega)
  refine ⟨divS x y, remS x y, divU x y, remU x y, completes divS, completes remS, completes divU, completes remU, ?_, ?_, fun hy => ?_⟩
  · rintro rfl
    exact ⟨rfl, rfl, rfl, rfl⟩
  · rintro rfl rfl
    decide
  · exact ⟨divS_mul_add_remS_word hy, divU_mul_add_remU_word hy, divU_mul_add_remU hy, remU_lt hy, remS_sign hy, remS_natAbs_lt hy,
      divS_mul_add_remS hy⟩

end Sys2Proof.Proofs

/-! PROOFS. A float division into q1 whose value is a header that q1 refuses (R79, R147, R237, R398, R505). -/

namespace Sys2Proof.Machine

/-! ## FDIV into q1 (R398, R505) -/

/-- A late float result that is a header which fails its checks, of a message of more than one dword: its flags stand, and the
thread's next issue takes the trap (R505). -/
theorem lateF_refused {t : State} {v n e : Nat} (room : t.q1Room 1 = true) (header : t.me.queues.q1partial = 0)
    (fault : (t.raise n).headerFault (w64 v) = some e) (more : t.me.queues.completes (w64 v) = false) :
    lateF 121 (v, n) t = .ok ((t.raise n).modMe fun h => { h with lateTrap := some (0x0D, w64 (0x1000 + e)) }) := by
  simp only [lateF, reserveX, room, Bool.not_true, Bool.and_false, Bool.false_eq_true, if_false, except_ok_bind, lateX, if_true,
    State.me_raise, more, State.latePush, fault, header]
  rfl

theorem fdiv_refused {s t : State} {a b : Nat} {dbl : Bool} {x y z : Word} {v n e : Nat} (h : s.Begins (usesDAB 121 a b) x y z t)
    (result : divVal (scalarType dbl) t.env (readF (scalarType dbl) t.ftz x) (readF (scalarType dbl) t.ftz y) = (v, n))
    (room : t.q1Room 1 = true) (header : t.me.queues.q1partial = 0) (fault : (t.raise n).headerFault (w64 v) = some e)
    (more : t.me.queues.completes (w64 v) = false) :
    exec (.fdiv 121 a b dbl) s = .next ((t.raise n).modMe fun h => { h with lateTrap := some (0x0D, w64 (0x1000 + e)) }) :=
  issue_ok h ((congrArg (fun r => lateF 121 r t) result).trans (lateF_refused room header fault more))

/-! ## A zero divided by a zero -/

/-- A zero divided by a zero is the canonical NaN, with the flag NV (R147, R148). -/
theorem divVal_zeros (env : Env) (ftz : Bool) : divVal 2 env (readF 2 ftz 0) (readF 2 ftz 0) = (0x7FC00000, 0x100) := by
  cases ftz <;> rfl

/-- That NaN is no header: a bit above the fields of a header is set (R237). -/
theorem State.headerFault_nan (t : State) : t.headerFault 0x7FC00000 = some 0x201 := rfl

/-- Slot 0 of core 0, as reset leaves it, issues an instruction. -/
def State.firstSlot : State := { State.reset with cur := ⟨false, 0, 0, 0, 1⟩ }

theorem State.firstSlot_begins : State.firstSlot.Begins (usesDAB 121 0 0) 0 0 0 State.firstSlot.advanced :=
  ⟨by decide, by decide, State.firstSlot, rfl, rfl⟩

end Sys2Proof.Machine

namespace Sys2Proof.Proofs
open Sys2Proof.Machine

/-- Refutes O3, by its last part, whose next state of a late instruction leaves out the flags of FCSR: FDIV of a zero by a zero into q1
raises NV, and gives a NaN that q1 refuses as a header of LEN 12; only the trap waits for the next issue (R505), the flag stands. -/
theorem not_scalarResults : ¬ Obligations.ScalarResults := by
  rintro ⟨-, pushes⟩
  obtain ⟨-, -, -, refused⟩ := pushes (.fdiv 121 0 0 false) 121 _ _ _ _ 0 0 0 rfl rfl State.firstSlot_begins rfl
  let t := State.firstSlot.advanced
  have room : t.q1Room 1 = true := by decide
  have header : t.me.queues.q1partial = 0 := by decide
  have more : t.me.queues.completes 0x7FC00000 = false := by decide
  have result := divVal_zeros t.env t.ftz
  have value := congrArg (fun r => (wordFlags r).1) result
  have claimed := refused room header 0x201 ((congrArg t.headerFault value).trans t.headerFault_nan)
    ((congrArg t.me.queues.completes value).trans more)
  have actual := fdiv_refused (dbl := false) State.firstSlot_begins result room header (State.headerFault_nan _) more
  have fcsr := congrArg (fun r : State => r.me.regs.fcsr) (Host.Outcome.next.inj (actual.symm.trans claimed))
  exact absurd fcsr (by decide)

end Sys2Proof.Proofs

/-! PROOFS. Lane and mask operations (R80, R143 to R151, R420, R421, R427, R472 to R483). -/

namespace Sys2Proof.Machine

/-! ## Lanes and flags of a list of results -/

/-- Values that agree modulo the width set the same lanes. -/
theorem setLanes_congr {l : List Nat} {w : Nat} {f g : Nat → Nat} (h : ∀ k, f k % 2 ^ laneBits w = g k % 2 ^ laneBits w) (v : Vec) :
    setLanes v w (l.map fun k => (k, f k)) = setLanes v w (l.map fun k => (k, g k)) := by
  induction l generalizing v with
  | nil => rfl
  | cons k l ih =>
    have same : setLane v w k (f k) = setLane v w k (g k) := by simp only [setLane, h]
    change setLanes (setLane v w k (f k)) w _ = setLanes (setLane v w k (g k)) w _
    rw [same, ih]

theorem orFlags_zero {α : Type} (l : List α) : orFlags (l.map fun _ => 0) = 0 := by
  induction l with
  | nil => rfl
  | cons _ l ih => simpa [orFlags] using ih

/-- Flags that are 0 from n up. -/
theorem orFlags_range {n k : Nat} (h : n ≤ k) (f : Nat → Nat) :
    orFlags ((List.range k).map fun i => if i < n then f i else 0) = orFlags ((List.range n).map f) := by
  induction k, h using Nat.le_induction with
  | base => exact congrArg orFlags (List.map_congr_left fun i hi => if_pos (List.mem_range.mp hi))
  | succ k hk ih =>
    have none_left : ¬ k < n := Nat.not_lt.mpr hk
    rw [List.range_succ, List.map_append, orFlags, List.foldl_append, ← orFlags, ih]
    simp [none_left]

/-! ## What a lane operation leaves (R80, R147, R472) -/

/-- The active lanes of v[d] have taken the values of r modulo their width, and FCSR the OR of its flags. -/
def State.setLaneResults (t : State) (d w m : Nat) (r : Nat → Int × Nat) : State :=
  t.setFloats d w ((activeLanes (t.mask m) w).map fun k => (k, ((r k).1 % (2 ^ laneBits w : Nat)).toNat, (r k).2))

theorem toNat_emod_lt (x : Int) (w : Nat) : (x % (2 ^ laneBits w : Nat)).toNat < 2 ^ laneBits w := by
  have pos := Nat.two_pow_pos (laneBits w)
  have lt := Int.emod_lt_of_pos x (Int.natCast_pos.mpr pos)
  omega

theorem toNat_emod_modEq (x : Int) (w : Nat) :
    (((x % (2 ^ laneBits w : Nat)).toNat : Nat) : Int) ≡ x [ZMOD (2 ^ laneBits w : Nat)] := by
  rw [Int.toNat_of_nonneg (Int.emod_nonneg _ (Int.natCast_ne_zero.mpr (Nat.two_pow_pos _).ne'))]
  exact Int.mod_modEq _ _

theorem mod_of_modEq {w n : Nat} {x : Int} (h : (n : Int) ≡ x [ZMOD (2 ^ laneBits w : Nat)]) :
    n % 2 ^ laneBits w = (x % (2 ^ laneBits w : Nat)).toNat % 2 ^ laneBits w := by
  exact_mod_cast h.trans (toNat_emod_modEq x w).symm

theorem State.setFloats_results {t : State} {d w m : Nat} {g : Nat → Nat × Nat} {r : Nat → Int × Nat}
    (val : ∀ k, ((g k).1 : Int) ≡ (r k).1 [ZMOD (2 ^ laneBits w : Nat)]) (flags : ∀ k, (g k).2 = (r k).2) :
    t.setFloats d w ((activeLanes (t.mask m) w).map fun k => (k, g k)) = t.setLaneResults d w m r := by
  simp only [State.setFloats, State.setLaneResults, List.map_map, Function.comp_def, flags]
  rw [setLanes_congr fun k => mod_of_modEq (val k)]

section
variable {t : State} {d w m : Nat} {g : Nat → Nat} {r : Nat → Int}

/-- A write of the active lanes, without flags. -/
theorem State.setActive_results (val : ∀ k, (g k : Int) ≡ r k [ZMOD (2 ^ laneBits w : Nat)]) :
    t.setActive d w m g = t.setLaneResults d w m fun k => (r k, 0) := by
  rw [← State.setFloats_results (g := fun k => (g k, 0)) val fun _ => rfl]
  simp only [State.setFloats, List.map_map, Function.comp_def, orFlags_zero, State.raise_zero]
  rfl

theorem State.setActive_results_of_eq (val : ∀ k, (g k : Int) = r k) : t.setActive d w m g = t.setLaneResults d w m fun k => (r k, 0) :=
  State.setActive_results fun k => val k ▸ Int.ModEq.refl _

theorem State.setActive_results_of_emod (val : ∀ k, g k = (r k % (2 ^ laneBits w : Nat)).toNat) :
    t.setActive d w m g = t.setLaneResults d w m fun k => (r k, 0) :=
  State.setActive_results fun k => (val k).symm ▸ toNat_emod_modEq (r k) w

end

section
variable (t : State) (d w m : Nat) (r : Nat → Int × Nat)

theorem State.laneOf_setLaneResults {k : Nat} (hk : k < laneCount w) : laneOf ((t.setLaneResults d w m r).v d) w k =
    if (t.mask m).getLsbD k then ((r k).1 % (2 ^ laneBits w : Nat)).toNat else laneOf (t.v d) w k := by
  simp only [State.setLaneResults, State.setFloats, State.v_raise, State.v_setV_self, List.map_map, Function.comp_def]
  split
  · next active =>
    have member : k ∈ activeLanes (t.mask m) w := List.mem_filter.mpr ⟨List.mem_range.mpr hk, active⟩
    have once : (activeLanes (t.mask m) w).Nodup := List.nodup_range.filter _
    rw [laneOf_setLanes_of_mem _ _ _ (List.mem_map.mpr ⟨k, member, rfl⟩)]
    · exact Nat.mod_eq_of_lt (toNat_emod_lt ..)
    · intro e he
      obtain ⟨j, hj, rfl⟩ := List.mem_map.mp he
      exact List.mem_range.mp (List.mem_filter.mp hj).1
    · simpa [Function.comp_def] using once
  · next inactive =>
    refine laneOf_setLanes_other _ _ hk fun e he same => inactive ?_
    obtain ⟨j, hj, rfl⟩ := List.mem_map.mp he
    exact same ▸ (List.mem_filter.mp hj).2

theorem State.v_setLaneResults_ne {n : Nat} (h : n ≠ d) : (t.setLaneResults d w m r).v n = t.v n := by
  rw [State.setLaneResults, State.setFloats, State.v_raise, State.v_setV_ne _ _ h]

theorem State.x_setLaneResults (n : Nat) : (t.setLaneResults d w m r).x n = t.x n := by
  rw [State.setLaneResults, State.setFloats, State.x_raise, State.x_setV]

theorem State.me_setLaneResults : (t.setLaneResults d w m r).me = { t.me with regs := { t.me.regs with
    fcsr := t.me.regs.fcsr ||| w64 (((List.range (laneCount w)).filter fun k => (t.mask m).getLsbD k).foldl
      (fun n k => n ||| (r k).2) 0) } } := by
  rw [State.setLaneResults, State.setFloats, State.me_raise, State.me_setV, orFlags, List.map_map, List.foldl_map, activeLanes]
  rfl

theorem State.sameElsewhere_setLaneResults (hd : d < 32) (hp : t.cur.pp = false) : t.SameElsewhere (t.setLaneResults d w m r) :=
  (t.sameElsewhere_setV d _ hd hp).trans (State.sameElsewhere_raise ..)

end

/-- Only a core's slot may name a vector register (R38, R272). -/
theorem State.Begins.core_of_vec {s t : State} {u : Uses} {a b c : Word} {d : Nat} (h : s.Begins u a b c t) (hd : u.d = .vec d) :
    t.cur.pp = false := by
  have bound : s.hasV d = true := by
    obtain ⟨-, legal, -⟩ := h
    have all_legal := List.all_eq_true.mp (Bool.and_eq_true_iff.mp legal).1 (.vec d)
    exact all_legal (by simp [Uses.list, hd])
  rw [h.cur]
  by_contra hp
  have none_there : s.vlim = 0 := by simp [State.vlim, State.vlimOf, Bool.eq_true_of_not_eq_false hp]
  simp [State.hasV, none_there] at bound

/-! ## The lane operations (R472 to R483) -/

theorem saturate_eq (n : Nat) (x : Int) : saturate n x = (clampS n x % (2 ^ n : Nat)).toNat := by
  have clamp : clampS n x = if (2 ^ (n - 1) : Nat) - 1 < x then ((2 ^ (n - 1) : Nat) : Int) - 1
      else if x < -(2 ^ (n - 1) : Nat) then -((2 ^ (n - 1) : Nat) : Int) else x := by
    have pos := Nat.two_pow_pos (n - 1)
    simp only [clampS]
    generalize 2 ^ (n - 1) = p at *
    split
    · omega
    · split <;> omega
  rw [clamp]
  rfl

/-- A lane's signed value is its value modulo its width. -/
theorem laneOf_modEq (v : Vec) (w k : Nat) : (laneOf v w k : Int) ≡ laneS v w k [ZMOD (2 ^ laneBits w : Nat)] := by
  rw [laneS]
  split
  · rfl
  · exact (Int.modEq_sub_modulus_iff).mpr rfl

/-- VSUB adds 2^n to the minuend before it subtracts. -/
theorem sub_laneOf_modEq (p w k : Nat) (v : Vec) :
    ((p + 2 ^ laneBits w - laneOf v w k : Nat) : Int) ≡ (p : Int) - laneOf v w k [ZMOD (2 ^ laneBits w : Nat)] := by
  have lt : laneOf v w k < 2 ^ laneBits w := Nat.mod_lt _ (Nat.two_pow_pos _)
  rw [Nat.cast_sub (by omega), Nat.cast_add, add_sub_right_comm]
  exact Int.add_modEq_right

theorem laneMin_modEq (x y : Vec) (w k : Nat) :
    ((if signedOf (laneBits w) (laneOf y w k) < signedOf (laneBits w) (laneOf x w k) then laneOf y w k else laneOf x w k : Nat) : Int) ≡
      min (laneS x w k) (laneS y w k) [ZMOD (2 ^ laneBits w : Nat)] := by
  rw [signedOf_laneOf, signedOf_laneOf]
  split
  · next lt => rw [min_eq_right lt.le]; exact laneOf_modEq ..
  · next ge => rw [min_eq_left (not_lt.mp ge)]; exact laneOf_modEq ..

theorem laneMax_modEq (x y : Vec) (w k : Nat) :
    ((if signedOf (laneBits w) (laneOf x w k) < signedOf (laneBits w) (laneOf y w k) then laneOf y w k else laneOf x w k : Nat) : Int) ≡
      max (laneS x w k) (laneS y w k) [ZMOD (2 ^ laneBits w : Nat)] := by
  rw [signedOf_laneOf, signedOf_laneOf]
  split
  · next lt => rw [max_eq_right lt.le]; exact laneOf_modEq ..
  · next ge => rw [max_eq_left (not_lt.mp ge)]; exact laneOf_modEq ..

/-- Each instruction of `laneResult` sets the active lanes and the flags to its results (R472 to R483). -/
theorem exec_lane {i : Instr} {d w m : Nat} {u : Uses} {f : State → Word → Word → Nat → Int × Nat} {s t : State} {a b c : Word}
    (hi : laneResult i = some (d, w, m, u, f)) (h : s.Begins u a b c t) : exec i s = .next (t.setLaneResults d w m (f t a b)) := by
  cases i <;> simp only [laneResult, Option.some.injEq, Prod.mk.injEq, reduceCtorEq] at hi <;> obtain ⟨rfl, rfl, rfl, rfl, rfl⟩ := hi
  all_goals refine (issue_ok h rfl).trans (congrArg Host.Outcome.next ?_)
  case vadd => exact State.setActive_results_of_eq fun _ => Nat.cast_add ..
  case vmul => exact State.setActive_results_of_eq fun _ => Nat.cast_mul ..
  case vshl => exact State.setActive_results_of_eq fun _ => by push_cast; rfl
  case vand | vor | vxor | vshr | vminu | vmaxu | vperm | vbcast | vidx | vmov => exact State.setActive_results_of_eq fun _ => rfl
  case vsub => exact State.setActive_results fun _ => sub_laneOf_modEq ..
  case vaddSat | vsubSat => exact State.setActive_results_of_emod fun _ => by simp only [saturate_eq, signedOf_laneOf]
  case vsra => exact State.setActive_results_of_emod fun _ => by simp only [signedOf_laneOf, Nat.cast_pow, Nat.cast_ofNat]
  case vmin => exact State.setActive_results fun _ => laneMin_modEq ..
  case vmax => exact State.setActive_results fun _ => laneMax_modEq ..
  case vsel => exact State.setActive_results_of_eq fun _ => by split <;> rfl
  all_goals exact State.setFloats_results (fun _ => rfl) fun _ => rfl

/-- Each of them writes one of the 32 vector registers. -/
theorem laneResult_dest {i : Instr} {d w m : Nat} {u : Uses} {f : State → Word → Word → Nat → Int × Nat}
    (hi : laneResult i = some (d, w, m, u, f)) (wf : i.wf = true) : u.d = .vec d ∧ d < 32 := by
  cases i <;> simp only [laneResult, Option.some.injEq, Prod.mk.injEq, reduceCtorEq] at hi <;> obtain ⟨rfl, -, -, rfl, -⟩ := hi
  all_goals
    simp only [Instr.wf, Bool.and_eq_true, vreg_iff] at wf
    exact ⟨rfl, by tauto⟩

/-! ## The bits of a mask -/

theorem testBit_maskSum (p : Nat → Bool) (n k : Nat) :
    ((List.range n).foldl (fun m i => if p i then m + 2 ^ i else m) 0).testBit k = (decide (k < n) && p k) := by
  induction n generalizing k with
  | zero => simp
  | succ n ih =>
    have below := Nat.lt_pow_two_of_testBit _ fun j (hj : n ≤ j) => by rw [ih, decide_eq_false (by omega), Bool.false_and]
    have top (m : Nat) : (if p n then m + 2 ^ n else m) = 2 ^ n * (p n).toNat + m := by cases p n <;> simp [Nat.add_comm]
    rw [List.range_succ, List.foldl_append, List.foldl_cons, List.foldl_nil, top, Nat.testBit_two_pow_mul_add _ below]
    obtain lt | rfl | gt := Nat.lt_trichotomy k n
    · rw [if_pos lt, ih, decide_eq_true lt, decide_eq_true (by omega)]
    · rw [if_neg (Nat.lt_irrefl k), Nat.sub_self, Nat.testBit_bool_toNat, decide_eq_true rfl, decide_eq_true (Nat.lt_succ_self k)]
    · have apart : k - n ≠ 0 := by omega
      rw [if_neg (by omega), Nat.testBit_bool_toNat, decide_eq_false apart, decide_eq_false (by omega), Bool.false_and, Bool.false_and]

theorem getLsbD_maskOf {n : Nat} (hn : n ≤ 128) (p : Nat → Bool) (k : Nat) : (maskOf n p).getLsbD k = (decide (k < n) && p k) := by
  rw [maskOf, BitVec.getLsbD_ofNat, testBit_maskSum]
  by_cases hk : k < n
  · simp [hk, hk.trans_le hn]
  · simp [hk]

/-- MFROMX of the low half (R420). -/
theorem getLsbD_lowHalf (old : Mask) (x : Word) (k : Nat) (hk : k < 128) :
    (BitVec.ofNat 128 (old.toNat / 2 ^ 64 * 2 ^ 64 + x.toNat)).getLsbD k = if k < 64 then x.getLsbD k else old.getLsbD k := by
  rw [BitVec.getLsbD_ofNat, decide_eq_true hk, Bool.true_and, Nat.mul_comm, Nat.testBit_two_pow_mul_add _ x.isLt]
  split
  · rfl
  · next high =>
    rw [Nat.testBit_div_two_pow, Nat.sub_add_cancel (by omega)]
    rfl

/-- MFROMX of the high half (R420). -/
theorem getLsbD_highHalf (old : Mask) (x : Word) (k : Nat) (hk : k < 128) :
    (BitVec.ofNat 128 (old.toNat % 2 ^ 64 + x.toNat * 2 ^ 64)).getLsbD k = if k < 64 then old.getLsbD k else x.getLsbD (k - 64) := by
  rw [BitVec.getLsbD_ofNat, decide_eq_true hk, Bool.true_and, Nat.add_comm, Nat.mul_comm,
    Nat.testBit_two_pow_mul_add _ (Nat.mod_lt _ (Nat.two_pow_pos 64)), Nat.testBit_mod_two_pow]
  split
  · next low => rw [decide_eq_true low, Bool.true_and]; rfl
  · rfl

/-! ## What setting a mask leaves (R80, R421) -/

/-- A mask depends on the slot's own masks only. -/
theorem State.mask_congr {s t : State} (cur : t.cur = s.cur) {r : Nat} (masks : t.me.regs.masks.at r 0 = s.me.regs.masks.at r 0) :
    t.mask r = s.mask r := by
  rw [State.mask, State.mask, cur, masks]

theorem State.mask_setMask_self (s : State) (d : Nat) (v : Mask) :
    (s.setMask d v).mask d = if d = 0 then BitVec.allOnes 128 else if s.cur.pp then 0 else v := by
  cases hp : s.cur.pp
  · simp [State.setMask, State.mask, hp, State.modRegs]
  · simp [State.setMask, State.mask, hp]

theorem State.mask_setMask_ne (s : State) {d r : Nat} (v : Mask) (h : r ≠ d) : (s.setMask d v).mask r = s.mask r := by
  cases hp : s.cur.pp
  · refine State.mask_congr ?_ ?_
    · simp [State.setMask, hp, State.modRegs]
    · simp [State.setMask, hp, State.modRegs, Map.at_put_ne _ _ _ h]
  · simp [State.setMask, hp]

/-- Setting a mask changes the thread alone, and of it the masks (R80). -/
theorem State.setMask_keeps (s : State) (d : Nat) (v : Mask) : s.SameElsewhere (s.setMask d v) ∧
    (∀ r, (s.setMask d v).v r = s.v r) ∧ (∀ r, (s.setMask d v).x r = s.x r) ∧
    ∃ masks, (s.setMask d v).me = { s.me with regs := { s.me.regs with masks } } := by
  cases hp : s.cur.pp
  · simp only [State.setMask, hp, Bool.false_eq_true, if_false]
    exact ⟨s.sameElsewhere_modMe _, fun r => State.v_modMe .., fun r => State.x_modMe .., _, State.me_modMe ..⟩
  · simp only [State.setMask, hp, if_true]
    exact ⟨.refl s, fun _ => trivial, fun _ => trivial, s.me.regs.masks, rfl⟩

theorem State.mask_raise (s : State) (n r : Nat) : (s.raise n).mask r = s.mask r :=
  State.mask_congr (s.cur_raise n) (by rw [State.me_raise])

/-- Mask d has taken the bits of r, and FCSR the OR of their flags. -/
def State.setMaskResults (t : State) (d : Nat) (r : Nat → Bool × Nat) : State :=
  (t.setMask d (maskOf 128 fun k => (r k).1)).raise (orFlags ((List.range 128).map fun k => (r k).2))

section
variable (t : State) (d : Nat) (r : Nat → Bool × Nat)

theorem State.getLsbD_setMaskResults {k : Nat} (hk : k < 128) : ((t.setMaskResults d r).mask d).getLsbD k =
    if d = 0 then true else if t.cur.pp then false else (r k).1 := by
  rw [State.setMaskResults, State.mask_raise, State.mask_setMask_self]
  split
  · rw [BitVec.getLsbD_allOnes, decide_eq_true hk]
  split
  · exact BitVec.getLsbD_zero
  · rw [getLsbD_maskOf le_rfl, decide_eq_true hk, Bool.true_and]

theorem State.mask_setMaskResults_ne {n : Nat} (h : n ≠ d) : (t.setMaskResults d r).mask n = t.mask n :=
  (State.mask_raise ..).trans (t.mask_setMask_ne _ h)

/-- Setting a mask and raising flags changes the thread alone, and no register of it. -/
theorem State.setMaskResults_keeps : t.SameElsewhere (t.setMaskResults d r) ∧ (∀ n, (t.setMaskResults d r).v n = t.v n) ∧
    ∀ n, (t.setMaskResults d r).x n = t.x n := by
  obtain ⟨same, v, x, -⟩ := t.setMask_keeps d (maskOf 128 fun k => (r k).1)
  exact ⟨same.trans (State.sameElsewhere_raise ..), fun n => (State.v_raise ..).trans (v n), fun n => (State.x_raise ..).trans (x n)⟩

theorem State.me_setMaskResults : ∃ masks, (t.setMaskResults d r).me = { t.me with regs := { t.me.regs with
    masks, fcsr := t.me.regs.fcsr ||| w64 ((List.range 128).foldl (fun n k => n ||| (r k).2) 0) } } := by
  obtain ⟨-, -, -, masks, me⟩ := t.setMask_keeps d (maskOf 128 fun k => (r k).1)
  exact ⟨masks, by rw [State.setMaskResults, State.me_raise, me, orFlags, List.foldl_map]⟩

end

/-- A mask that has those bits, without flags. -/
theorem State.setMask_results {t : State} {d : Nat} {v : Mask} {r : Nat → Bool} (bits : ∀ k, k < 128 → v.getLsbD k = r k) :
    t.setMask d v = t.setMaskResults d fun k => (r k, 0) := by
  have same : v = maskOf 128 r := BitVec.eq_of_getLsbD_eq fun k hk => by
    rw [bits k hk, getLsbD_maskOf le_rfl, decide_eq_true hk, Bool.true_and]
  simp only [State.setMaskResults, orFlags_zero, State.raise_zero, same]

/-- A mask of fewer lanes than bits, with the flags of its lanes (R481). -/
theorem State.setMaskResults_lanes (t : State) (d : Nat) {n : Nat} (hn : n ≤ 128) (r : Nat → Bool × Nat) :
    (t.setMask d (maskOf n fun k => (r k).1)).raise (orFlags ((List.range n).map fun k => (r k).2)) =
      t.setMaskResults d fun k => if k < n then r k else (false, 0) := by
  have bits : maskOf n (fun k => (r k).1) = maskOf 128 fun k => (if k < n then r k else (false, 0)).1 :=
    BitVec.eq_of_getLsbD_eq fun k hk => by
      rw [getLsbD_maskOf hn, getLsbD_maskOf le_rfl, decide_eq_true hk]
      split
      · next lane => simp [lane]
      · next above => simp [above]
  have flags (k : Nat) : (if k < n then r k else (false, 0)).2 = if k < n then (r k).2 else 0 := by split <;> rfl
  simp only [State.setMaskResults, flags, orFlags_range hn, bits]

theorem laneCount_le (w : Nat) : laneCount w ≤ 128 := Nat.div_le_self ..

/-! ## The mask operations (R420, R421, R427, R474, R481) -/

/-- Each instruction of `maskResult` sets its mask and the flags to its results. -/
theorem exec_mask {i : Instr} {d : Nat} {u : Uses} {f : State → Word → Nat → Bool × Nat} {s t : State} {a b c : Word}
    (hi : maskResult i = some (d, u, f)) (h : s.Begins u a b c t) : exec i s = .next (t.setMaskResults d (f t a)) := by
  cases i <;> simp only [maskResult, Option.some.injEq, Prod.mk.injEq, reduceCtorEq] at hi <;> obtain ⟨rfl, rfl, rfl⟩ := hi
  all_goals refine (issue_ok h rfl).trans (congrArg Host.Outcome.next ?_)
  case mand => exact State.setMask_results fun k _ => BitVec.getLsbD_and ..
  case mor => exact State.setMask_results fun k _ => BitVec.getLsbD_or ..
  case mxor => exact State.setMask_results fun k _ => BitVec.getLsbD_xor ..
  case mnot => exact State.setMask_results fun k hk => by simp [hk]
  case mfromx hi =>
    refine State.setMask_results fun k hk => ?_
    cases hi
    · exact getLsbD_lowHalf _ _ k hk
    · exact getLsbD_highHalf _ _ k hk
  case vcmp => exact State.setMask_results fun k _ => getLsbD_maskOf (laneCount_le _) _ k
  case vfcmp => exact State.setMaskResults_lanes _ _ (laneCount_le _) _

end Sys2Proof.Machine

namespace Sys2Proof.Proofs
open Sys2Proof.Machine

/-- Settles O21: a lane operation sets the active lanes to its results, a mask operation the bits of its mask, each with the OR of the
flags; the masks of a handler slot are fixed. -/
theorem vectorResults : Obligations.VectorResults := by
  refine ⟨fun i d w m u f s t a b c hi wf h => ?lanes, fun i d u f s t a b c hi wf h => ?mask, fun s d v hp => ?handler⟩
  case lanes =>
    obtain ⟨dest, lt⟩ := laneResult_dest hi wf
    have same := t.sameElsewhere_setLaneResults d w m (f t a b) lt (h.core_of_vec dest)
    refine ⟨_, exec_lane hi h, fun k => t.laneOf_setLaneResults d w m (f t a b), fun r => t.v_setLaneResults_ne d w m (f t a b),
      t.x_setLaneResults d w m (f t a b), ?_, same, same.byteAt⟩
    rintro n rfl
    exact t.me_setLaneResults d w m (f t a b)
  case mask =>
    obtain ⟨same, v, x⟩ := t.setMaskResults_keeps d (f t a)
    refine ⟨_, exec_mask hi h, fun k hk => ?_, fun r => t.mask_setMaskResults_ne d (f t a), v, x, ?_, same, same.byteAt⟩
    · rw [t.getLsbD_setMaskResults d (f t a) hk, h.cur]
    · rintro n rfl
      exact t.me_setMaskResults d (f t a)
  case handler =>
    refine ⟨rfl, fun r lo _ => ?_, if_pos hp⟩
    rw [State.mask, if_neg (by omega), if_pos hp]

end Sys2Proof.Proofs

/-! PROOFS. The acceptance of matrix operations (R87, R173 to R177, R394, R424 to R431, R471): each of MMA, MZERO, MLD, MST and TTRN
makes the checks of its `MatForm` in one order, then joins the queue. -/

namespace Sys2Proof.Machine

/-! ## The checks of one group -/

theorem kindSlots_eq (kind : Nat) : kindSlots kind = if kind < 2 then 1 else 2 := by
  unfold kindSlots
  split <;> split <;> omega

/-- The tables of an MMA are those of its operands of code kinds. -/
theorem mmaTables_eq (c : Word) :
    mmaTables c = (if fld c 4 3 < 2 then [fld c 2 0] else []) ++ (if fld c 12 11 < 2 then [fld c 10 8] else []) := by
  simp only [mmaTables, ctxAKind, ctxBKind, ctxATab, ctxBTab, Nat.le_iff_lt_add_one]

theorem groupCheck_aligned {n k : Nat} (h : n % k = 0) : groupCheck n k = .ok () := by
  rw [groupCheck, h]
  rfl

theorem groupCheck_unaligned {n k : Nat} (h : n % k ≠ 0) : groupCheck n k = trapWith cFormat (0x200 + n) := by
  rw [groupCheck, beq_false_of_ne h]
  rfl

/-- The lowest slot of a group that the rings reserve, or that pins hold back from a write, is the one of its trap (R175). -/
theorem ringCheck_eq (s : State) (g : Group) :
    ringCheck s g.write g.n g.k = match g.slots.find? s.slotBarred with
      | some x => trapWith cRing x.1
      | none => .ok () := by
  have barred : s.slotBarred ∘ (fun i => (g.n + i, g.write)) =
      fun i => s.ringOn s.cur.unit && decide (480 ≤ g.n + i) || g.write && decide (s.myCore.pins.at (g.n + i) 0 ≠ 0) := by
    funext i
    simp only [Function.comp_apply, State.slotBarred, bne, beq_eq_decide, ne_eq, decide_not]
  rw [ringCheck, Group.slots, List.find?_map, barred]
  cases List.find? _ (List.range g.k) <;> rfl

/-! ## The checks of all groups -/

/-- Order 2 of R175 for all groups. -/
def groupsAligned (l : List Group) : Exec PUnit := forM l fun g => groupCheck g.n g.k

/-- Order 3 of R175 for all groups. -/
def groupsFree (s : State) (l : List Group) : Exec PUnit := forM l fun g => ringCheck s g.write g.n g.k

theorem groupsAligned_ok {l : List Group} (h : ∀ g ∈ l, g.n % g.k = 0) : groupsAligned l = .ok () :=
  forM_of_all fun g hg => groupCheck_aligned (h g hg)

theorem groupsAligned_first {p r : List Group} {g : Group} (hp : ∀ h ∈ p, h.n % h.k = 0) (hg : g.n % g.k ≠ 0) :
    groupsAligned (p ++ g :: r) = trapWith cFormat (0x200 + g.n) := by
  have before : (forM p fun g => groupCheck g.n g.k) = .ok () := groupsAligned_ok hp
  rw [groupsAligned, List.forM_append, before, List.forM_cons, groupCheck_unaligned hg]
  rfl

theorem groupsFree_eq (s : State) (l : List Group) :
    groupsFree s l = match (l.flatMap Group.slots).find? s.slotBarred with
      | some x => trapWith cRing x.1
      | none => .ok () := by
  induction l with
  | nil => rfl
  | cons g l ih =>
    rw [groupsFree] at ih ⊢
    rw [List.forM_cons, ringCheck_eq, ih, List.flatMap_cons, List.find?_append]
    cases g.slots.find? s.slotBarred <;> rfl

/-! ## Acceptance (R175, R176) -/

/-- The last step of an instruction that its checks let pass: the operation joins the queue; the result of MST is still to come. -/
def MatForm.enters (m : MatForm) (t : State) : Instr → Exec State
  | .mst d _ _ _ => do
      reserveX d t
      let r ← acceptOp m.kind t.seq { t with seq := t.seq + 1 }
      .ok (r.awaits t.seq d)
  | _ => acceptOp m.kind 0 t

/-- What follows once the groups are aligned and free: the scales, the wait for a decode table (R394), the 4-bit use of one. -/
def MatForm.rest (m : MatForm) (t : State) (i : Instr) : Exec State := do
  must (m.fault != some 17) cFormat 17
  tablesFree m.tables t
  match m.fault with
  | some e => trapWith cFormat e
  | none => m.enters t i

/-- What a matrix instruction of this form does: its checks in the order of R175. -/
def MatForm.body (m : MatForm) (t : State) (i : Instr) : Exec State := do
  groupsAligned m.groups
  groupsFree t m.groups
  m.rest t i

/-- The checks of an operation on one group. -/
theorem MatForm.body_one (g : Group) (tables : List Nat) (fault : Option Nat) (kind : MatKind) (t : State) (i : Instr) :
    (⟨[g], tables, fault, kind⟩ : MatForm).body t i = (do
      groupCheck g.n g.k
      ringCheck t g.write g.n g.k
      MatForm.rest ⟨[g], tables, fault, kind⟩ t i) := by
  simp only [MatForm.body, groupsAligned, groupsFree, List.forM_cons, List.forM_nil, bind_assoc, pure_bind]

/-- The checks of an operation on two groups: each check of the first before that of the second (log entry 78). -/
theorem MatForm.body_two (g h : Group) (tables : List Nat) (fault : Option Nat) (kind : MatKind) (t : State) (i : Instr) :
    (⟨[g, h], tables, fault, kind⟩ : MatForm).body t i = (do
      groupCheck g.n g.k
      groupCheck h.n h.k
      ringCheck t g.write g.n g.k
      ringCheck t h.write h.n h.k
      MatForm.rest ⟨[g, h], tables, fault, kind⟩ t i) := by
  simp only [MatForm.body, groupsAligned, groupsFree, List.forM_cons, List.forM_nil, bind_assoc, pure_bind]

theorem State.not_unfit4 (t : State) (four : Bool) (tab : Nat) : (!t.unfit4 four tab) = (!four || t.myCore.fourOk tab) := by
  rw [State.unfit4, Bool.not_and, Bool.not_not]

section
variable {s t : State} {x y z : Word} {m : MatForm}

theorem exec_mma {d a b : Nat} {clear tr : Bool} (hb : s.Begins (usesAB a b) x y z t)
    (hm : matForm t x y z (.mma d a b clear tr) = some m) :
    exec (.mma d a b clear tr) s = .next (s.ends (m.body t (.mma d a b clear tr))) := by
  refine (issue_begins hb).trans ?_
  cases hm
  rw [MatForm.body_two]
  simp only [MatForm.rest, groupOf, ← kindSlots_eq, ← mmaTables_eq, ctxScale16_eq, ← State.not_unfit4]
  cases scaleOn16 (t.me.regs.fmtctx.getLsbD 5) (fld t.me.regs.fmtctx 4 3) ||
    scaleOn16 (t.me.regs.fmtctx.getLsbD 13) (fld t.me.regs.fmtctx 12 11)
  case true => rfl
  cases unfitA : t.unfit4 (fld t.me.regs.fmtctx 4 3 == 1) (fld t.me.regs.fmtctx 2 0) <;>
    cases unfitB : t.unfit4 (fld t.me.regs.fmtctx 12 11 == 1) (fld t.me.regs.fmtctx 10 8) <;>
    simp only [ctxAKind, ctxBKind, ctxATab, ctxBTab, unfitA, unfitB] <;> rfl

theorem exec_mzero {d : Nat} (hb : s.Begins usesNone x y z t) (hm : matForm t x y z (.mzero d) = some m) :
    exec (.mzero d) s = .next (s.ends (m.body t (.mzero d))) := by
  refine (issue_begins hb).trans ?_
  cases hm
  rfl

theorem exec_mld {d a : Nat} (hb : s.Begins (usesA a) x y z t) (hm : matForm t x y z (.mld d a) = some m) :
    exec (.mld d a) s = .next (s.ends (m.body t (.mld d a))) := by
  refine (issue_begins hb).trans ?_
  cases hm
  rw [MatForm.body_one]
  rfl

/-- The form of MST, its group by the slots of its destination's format (R428, R429). -/
theorem matForm_mst (d a b f : Nat) : matForm t x y z (.mst d a b f) = some ⟨[groupOf y (mstSlots f) true],
    if f = 3 then [ctxOTab t.me.regs.fmtctx] else [],
    if t.unfit4 (f == 3 && ctxO4 t.me.regs.fmtctx) (ctxOTab t.me.regs.fmtctx) then some 16 else none, .mst f a (slotNum y)⟩ := by
  rcases f with _ | _ | _ | _ | f <;> rfl

theorem exec_mst {d a b f : Nat} (hb : s.Begins ⟨false, .none, .src b, .dst d⟩ x y z t)
    (hm : matForm t x y z (.mst d a b f) = some m) : exec (.mst d a b f) s = .next (s.ends (m.body t (.mst d a b f))) := by
  refine (issue_begins hb).trans ?_
  rw [matForm_mst] at hm
  cases hm
  rw [MatForm.body_one]
  simp only [MatForm.rest, ← State.not_unfit4]
  cases t.unfit4 (f == 3 && ctxO4 t.me.regs.fmtctx) (ctxOTab t.me.regs.fmtctx) <;> rfl

theorem exec_ttrn {d a : Nat} (hb : s.Begins ⟨false, .src a, .none, .src d⟩ x y z t)
    (hm : matForm t x y z (.ttrn d a) = some m) : exec (.ttrn d a) s = .next (s.ends (m.body t (.ttrn d a))) := by
  refine (issue_begins hb).trans ?_
  cases hm
  have scale : (ctxASclOn t.me.regs.fmtctx && decide (2 ≤ ctxAKind t.me.regs.fmtctx)) =
    scaleOn16 (t.me.regs.fmtctx.getLsbD 5) (fld t.me.regs.fmtctx 4 3) := rfl
  rw [MatForm.body_two]
  simp only [MatForm.rest, groupOf, ← kindSlots_eq, scale]
  cases scaleOn16 (t.me.regs.fmtctx.getLsbD 5) (fld t.me.regs.fmtctx 4 3) <;> rfl

/-- Every matrix instruction is the body of its form (R424 to R431, R471). -/
theorem exec_matForm {i : Instr} {u : Uses} (hu : usesOf s i = some u) (hb : s.Begins u x y z t)
    (hm : matForm t x y z i = some m) : exec i s = .next (s.ends (m.body t i)) := by
  cases i
  case mma => cases hu; exact exec_mma hb hm
  case mzero => cases hu; exact exec_mzero hb hm
  case mld => cases hu; exact exec_mld hb hm
  case mst => cases hu; exact exec_mst hb hm
  case ttrn => cases hu; exact exec_ttrn hb hm
  all_goals cases hm

end

/-! ## What the checks come to -/

section
variable {s t : State} {i : Instr} {m : MatForm}

theorem MatForm.body_unaligned {p r : List Group} {g : Group} (hm : m.groups = p ++ g :: r) (hp : ∀ h ∈ p, h.n % h.k = 0)
    (hg : g.n % g.k ≠ 0) : m.body t i = trapWith cFormat (0x200 + g.n) := by
  rw [MatForm.body, hm, groupsAligned_first hp hg]
  rfl

theorem MatForm.body_barred {n : Nat} {w : Bool} (aligned : ∀ g ∈ m.groups, g.n % g.k = 0)
    (h : (m.groups.flatMap Group.slots).find? t.slotBarred = some (n, w)) : m.body t i = trapWith cRing n := by
  rw [MatForm.body, groupsAligned_ok aligned, groupsFree_eq, h]
  rfl

theorem MatForm.body_free (aligned : ∀ g ∈ m.groups, g.n % g.k = 0)
    (free : (m.groups.flatMap Group.slots).find? t.slotBarred = none) : m.body t i = m.rest t i := by
  rw [MatForm.body, groupsAligned_ok aligned, groupsFree_eq, free]
  rfl

theorem MatForm.rest_scale (h : m.fault = some 17) : m.rest t i = trapWith cFormat 17 := by
  rw [MatForm.rest, h]
  rfl

theorem MatForm.rest_held {j : Nat} (hf : m.fault ≠ some 17) (held : m.tables.find? (t.myCore.tableHeld t.cur.slot) = some j) :
    m.rest t i = .error (.wait (.table j) id) := by
  rw [MatForm.rest, tablesFree, held, bne_iff_ne.mpr hf]
  rfl

theorem MatForm.rest_fault {e : Nat} (free : m.tables.find? (t.myCore.tableHeld t.cur.slot) = none) (h : m.fault = some e) :
    m.rest t i = trapWith cFormat e := by
  by_cases scale : e = 17
  · exact scale ▸ rest_scale (scale ▸ h)
  · have passes : (some e != some 17) = true := by simpa using scale
    rw [MatForm.rest, tablesFree, free, h, passes]
    rfl

theorem MatForm.rest_enters (free : m.tables.find? (t.myCore.tableHeld t.cur.slot) = none) (h : m.fault = none) :
    m.rest t i = m.enters t i := by
  rw [MatForm.rest, tablesFree, free, h]
  rfl

end

/-! ## The queue of the array (R176), and the place in q1 of MST's result (R505) -/

section
variable {t : State} {kind : MatKind} {late d : Nat}

theorem acceptOp_full (h : 4 ≤ (t.myCore.array.ops t.cur.slot).length) : acceptOp kind late t = .error (.wait .matrix id) :=
  if_pos h

theorem acceptOp_joins (h : (t.myCore.array.ops t.cur.slot).length < 4) : acceptOp kind late t = .ok (t.joined kind late) :=
  if_neg (Nat.not_le_of_lt h)

theorem reserveX_roomFor (h : t.roomFor d) : reserveX d t = .ok () := by
  refine if_neg fun full => ?_
  obtain ⟨q1, full⟩ := Bool.and_eq_true_iff.mp full
  rw [h (of_decide_eq_true q1)] at full
  cases full

theorem reserveX_full (h : ¬ t.roomFor d) : reserveX d t = .error (.park .qfull (.q1room 1) id) := by
  obtain ⟨rfl, full⟩ := Classical.not_imp.mp h
  exact if_pos (by simpa using full)

end

section
variable {t : State} {m : MatForm} {i : Instr} {d a b f : Nat}

theorem MatForm.enters_of_not_mst (h : ∀ d a b f, i ≠ .mst d a b f) : m.enters t i = acceptOp m.kind 0 t := by
  unfold MatForm.enters
  split
  · exact (h _ _ _ _ rfl).elim
  · rfl

theorem MatForm.enters_mst_full (h : ¬ t.roomFor d) : m.enters t (.mst d a b f) = .error (.park .qfull (.q1room 1) id) := by
  rw [MatForm.enters, reserveX_full h]
  rfl

theorem MatForm.enters_mst (h : t.roomFor d) (room : (t.myCore.array.ops t.cur.slot).length < 4) :
    m.enters t (.mst d a b f) = .ok (({ t with seq := t.seq + 1 }.joined m.kind t.seq).awaits t.seq d) := by
  rw [MatForm.enters, reserveX_roomFor h, except_ok_bind, acceptOp_joins (t := { t with seq := t.seq + 1 }) room]
  rfl

theorem MatForm.enters_waits (h : ∀ d a b f, i = .mst d a b f → t.roomFor d)
    (full : 4 ≤ (t.myCore.array.ops t.cur.slot).length) : m.enters t i = .error (.wait .matrix id) := by
  unfold MatForm.enters
  split
  · rw [reserveX_roomFor (h _ _ _ _ rfl), except_ok_bind, acceptOp_full (t := { t with seq := t.seq + 1 }) full]
    rfl
  · exact acceptOp_full full

end

end Sys2Proof.Machine

namespace Sys2Proof.Proofs

open Sys2Proof.Machine

/-- Settles O23: the instruction is the body of its form, and each premise decides one check of the body. -/
theorem matrixAccepted : Obligations.MatrixAccepted := by
  intro s t i u x y z m hu hb hm _
  rw [← hb.cur]
  have goes {e : Exec State} (h : m.body t i = e) : exec i s = .next (s.ends e) := h ▸ exec_matForm hu hb hm
  refine ⟨fun p g r groups before unaligned => goes (MatForm.body_unaligned groups before unaligned), fun aligned =>
    ⟨fun n w barred => goes (MatForm.body_barred aligned barred), fun free => ?_⟩⟩
  have goes {e : Exec State} (h : m.rest t i = e) : exec i s = .next (s.ends e) := goes ((MatForm.body_free aligned free).trans h)
  refine ⟨fun scale => goes (MatForm.rest_scale scale), fun j unscaled held => goes (MatForm.rest_held unscaled held),
    fun unheld => ⟨fun e fault => goes (MatForm.rest_fault unheld fault), ?full, ?waits, ?joins⟩⟩
  all_goals
    have goes {e : Exec State} (fine : m.fault = none) (h : m.enters t i = e) : exec i s = .next (s.ends e) :=
      goes ((MatForm.rest_enters unheld fine).trans h)
  case full =>
    rintro d a b f fine rfl full
    exact goes fine (MatForm.enters_mst_full full)
  case waits =>
    intro fine room full
    exact goes fine (MatForm.enters_waits room full)
  case joins =>
    refine fun fine room => ⟨?_, fun other => goes fine ((MatForm.enters_of_not_mst other).trans (acceptOp_joins room))⟩
    rintro d a b f rfl place
    exact goes fine (MatForm.enters_mst place room)

end Sys2Proof.Proofs

/-! PROOFS. Where an access of one element goes in the windows that are not translated (R168, R209 to R212). -/

namespace Sys2Proof.Machine

/-! ## One element -/

theorem loAddr_one {e : El} (h : e.va ≤ 2 ^ 65) : loAddr [e] = e.va := Nat.min_eq_right h

theorem hiAddr_one (e : El) : hiAddr [e] = e.va + e.size := Nat.max_eq_right (Nat.zero_le _)

/-- The window of the device registers is closed to U only (R212). -/
theorem device_allowed {priv : Priv} {w : Window} (h : priv ≠ .u ∨ w ≠ .device) : (priv == .u && w == .device) = false := by
  simpa [or_iff_not_imp_left] using h

section
variable {s : State} {a : Acc} {f : Form} {write : Bool} {e : El}

/-- An aligned element at a core's thread is checked for its window, then for its place (R210). -/
theorem checkAccess_one (core : s.cur.pp = false) (aligned : e.va % e.size = 0) : checkAccess s a f write [e] = (do
    windowCheck s.me.priv [e]
    let p ← placeOf s s.me.priv f write e
    translateAll s.me.priv a s [e] [p]) := by
  have passes : alignCheck [e] = .ok () := by simp [alignCheck, aligned]
  rw [checkAccess, passes, except_ok_bind, core]
  simp only [Bool.false_eq_true, if_false, List.mapM_cons, List.mapM_nil, bind_assoc, pure_bind]

/-- At U the window of the device registers is out of reach, whatever the offset (R212). -/
theorem checkAccess_privilege (core : s.cur.pp = false) (aligned : e.va % e.size = 0) (small : e.va ≤ 2 ^ 65)
    (user : s.me.priv = .u) (window : windowOf e.va = .device) : checkAccess s a f write [e] = trapWith cPrivilege e.va := by
  rw [checkAccess_one core aligned, windowCheck, loAddr_one small, user, window]
  rfl

/-- An address that no extent of its window holds (R209, R210). -/
theorem checkAccess_outside (core : s.cur.pp = false) (aligned : e.va % e.size = 0) (small : e.va ≤ 2 ^ 65)
    (allowed : s.me.priv ≠ .u ∨ windowOf e.va ≠ .device) (outside : extentOf e.va = none) :
    checkAccess s a f write [e] = trapWith cWindow e.va := by
  rw [checkAccess_one core aligned, windowCheck, loAddr_one small, device_allowed allowed, outside]
  rfl

/-- An element inside an extent of a window that is not translated goes where its window's check says (R210, R211). -/
theorem checkAccess_inside {x : Nat × Nat} {r : Exec Place} (core : s.cur.pp = false) (aligned : e.va % e.size = 0)
    (small : e.va ≤ 2 ^ 65) (allowed : s.me.priv ≠ .u ∨ windowOf e.va ≠ .device) (extent : extentOf e.va = some x)
    (inside : e.va + e.size ≤ x.2) (place : placeOf s s.me.priv f write e = some <$> r) :
    checkAccess s a f write [e] = (fun p => (s, [(e, p)])) <$> r := by
  have window : windowCheck s.me.priv [e] = .ok () := by
    simp [windowCheck, loAddr_one small, hiAddr_one, device_allowed allowed, extent, inside]
  rw [checkAccess_one core aligned, window, except_ok_bind, place]
  cases r <;> rfl

end

/-! ## The address of an offset in a window -/

/-- The window of an offset below 2^56 is the address's upper byte (R209). -/
theorem windowOf_offset {w off : Nat} (h : off < 2 ^ 56) : windowOf (w * 2 ^ 56 + off) = windowOf (w * 2 ^ 56) := by
  have upper : (w * 2 ^ 56 + off) / 2 ^ 56 = w * 2 ^ 56 / 2 ^ 56 := by omega
  rw [windowOf, windowOf, upper]

theorem offset_mod {w off : Nat} (h : off < 2 ^ 56) : (w * 2 ^ 56 + off) % 2 ^ 56 = off := by omega

/-- An offset that is a multiple of its size is an aligned address in any window (R210). -/
theorem offset_aligned {w off size : Nat} (hs : size = 1 ∨ size = 2 ∨ size = 4 ∨ size = 8) (h : off % size = 0) :
    (w * 2 ^ 56 + off) % size = 0 := by
  rcases hs with rfl | rfl | rfl | rfl <;> omega

/-- An aligned element of at most 8 bytes that begins below a multiple of 8 ends by it. -/
theorem aligned_end {off size limit : Nat} (hs : size = 1 ∨ size = 2 ∨ size = 4 ∨ size = 8) (h : off % size = 0)
    (hl : limit % 8 = 0) (below : off < limit) : off + size ≤ limit := by
  rcases hs with rfl | rfl | rfl | rfl <;> omega

/-- At U an access that reaches into the reserved scratchpad (R211). -/
theorem reserved_iff {priv : Priv} {reserved off size : Nat} (pos : 1 ≤ size) :
    (priv == .u && decide (reserved ≤ off + size - 1)) = true ↔ priv = .u ∧ reserved < off + size := by
  rw [Bool.and_eq_true, beq_iff_eq, decide_eq_true_eq]
  exact and_congr_right fun _ => by omega

/-! ## The local window (R168, R209, R211) -/

theorem slotAt_iff {off n : Nat} : slotAt off = some n ↔ 0x200000 ≤ off ∧ off < 0x400000 ∧ n = (off - 0x200000) / 0x1000 ∨
    0x400000 ≤ off ∧ off < 0x410000 ∧ n = (off - 0x400000) / 0x80 := by
  unfold slotAt
  split
  · next data =>
    simp only [Bool.and_eq_true, decide_eq_true_eq] at data
    rw [Option.some.injEq]
    omega
  split
  · next side =>
    simp only [Bool.and_eq_true, decide_eq_true_eq] at side
    rw [Option.some.injEq]
    omega
  · simp_all

theorem localExtent_none {off : Nat} (h : 0x080000 ≤ off ∧ off < 0x200000 ∨ 0x410000 ≤ off) : localExtent off = none := by
  simp only [localExtent, Bool.and_eq_true, decide_eq_true_eq]
  rw [if_neg (by omega), if_neg (by omega), if_neg (by omega)]

/-- The extents of the scratchpad and of the tile slots; each ends at a multiple of 8. -/
theorem localExtent_some {off : Nat} (h : off < 0x080000 ∨ ∃ n, slotAt off = some n) :
    ∃ x, localExtent off = some x ∧ off < x.2 ∧ x.2 % 8 = 0 ∧ x.2 ≤ 0x410000 := by
  have fits : off < 0x080000 ∨ 0x200000 ≤ off ∧ off < 0x410000 := h.imp_right fun ⟨n, slot⟩ => by
    rw [slotAt_iff] at slot
    omega
  simp only [localExtent, Bool.and_eq_true, decide_eq_true_eq]
  split
  · exact ⟨_, rfl, by assumption, by decide⟩
  split
  · next data => exact ⟨_, rfl, data.2, by decide⟩
  rw [if_pos (by omega)]
  exact ⟨_, rfl, by omega, by decide⟩

section
variable {s : State} {a : Acc} {f : Form} {write : Bool} {off size lane : Nat}

/-- In the scratchpad and in the tile slots an access goes where the check of the local window says. -/
theorem checkAccess_local (core : s.cur.pp = false) (hs : size = 1 ∨ size = 2 ∨ size = 4 ∨ size = 8)
    (aligned : off % size = 0) (h : off < 0x080000 ∨ ∃ n, slotAt off = some n) :
    checkAccess s a f write [⟨0xFE * 2 ^ 56 + off, size, lane⟩] =
      (fun p => (s, [(⟨0xFE * 2 ^ 56 + off, size, lane⟩, p)])) <$>
        localCheck s s.me.priv write s.cur.unit ⟨0xFE * 2 ^ 56 + off, size, lane⟩ := by
  obtain ⟨x, extent, below, limit, last⟩ := localExtent_some h
  have inside := aligned_end hs aligned limit below
  have offset : off < 2 ^ 56 := by omega
  have window : windowOf (0xFE * 2 ^ 56 + off) = .localW := windowOf_offset offset
  refine checkAccess_inside (x := (0xFE * 2 ^ 56 + x.1, 0xFE * 2 ^ 56 + x.2)) core (offset_aligned hs aligned)
    (by simp only; omega) (.inr (ne_of_eq_of_ne window nofun)) ?_ (by simp only; omega) ?_
  · rw [extentOf, window, offset_mod offset, extent]
    rfl
  · rw [placeOf, window]

theorem localCheck_scratch {priv : Priv} {c : Nat} (h : off < 0x080000) (pos : 1 ≤ size) :
    localCheck s priv write c ⟨0xFE * 2 ^ 56 + off, size, lane⟩ =
      if priv = .u ∧ s.reservedFrom c < off + size then trapWith cPageProt (0xFE * 2 ^ 56 + off) else .ok (.sram c off) := by
  rw [localCheck, offset_mod (by omega), if_pos h]
  exact if_congr (reserved_iff pos) rfl rfl

theorem localCheck_slot {priv : Priv} {c n : Nat} (h : slotAt off = some n) :
    localCheck s priv write c ⟨0xFE * 2 ^ 56 + off, size, lane⟩ =
      if s.ringOn c && 480 ≤ n then trapWith cRing n
      else if write && (s.core c).pins.at n 0 ≠ 0 then trapWith cRing n
      else if s.slotBusy c s.cur.slot n then .error (.wait .matrix id)
      else .ok (.sram c off) := by
  have place := slotAt_iff.mp h
  rw [localCheck, offset_mod (by omega), if_neg (by omega), h]

/-- A slot that the rings reserve, or that pins hold back from a write (R168, R211). -/
theorem localCheck_barred {priv : Priv} {c n : Nat} (h : slotAt off = some n)
    (barred : s.ringOn c = true ∧ 480 ≤ n ∨ write = true ∧ (s.core c).pins.at n 0 ≠ 0) :
    localCheck s priv write c ⟨0xFE * 2 ^ 56 + off, size, lane⟩ = trapWith cRing n := by
  rw [localCheck_slot h]
  split
  · rfl
  next unreserved =>
  refine if_pos ?_
  simpa using barred.resolve_left (by simpa using unreserved)

theorem localCheck_free {priv : Priv} {c n : Nat} (h : slotAt off = some n) (unreserved : s.ringOn c = false ∨ n < 480)
    (unpinned : write = false ∨ (s.core c).pins.at n 0 = 0) (idle : s.slotBusy c s.cur.slot n = false) :
    localCheck s priv write c ⟨0xFE * 2 ^ 56 + off, size, lane⟩ = .ok (.sram c off) := by
  rw [localCheck_slot h, if_neg, if_neg, if_neg]
  · simp [idle]
  · rcases unpinned with h | h <;> simp [h]
  · rcases unreserved with h | h <;> simp [h]

end

/-! ## The remote-local window (R209, R211) -/

section
variable {s : State} {a : Acc} {f : Form} {write : Bool} {core off size lane : Nat}

/-- In a scratchpad of the remote-local window an access goes where that window's check says. -/
theorem checkAccess_remote (thread : s.cur.pp = false) (hs : size = 1 ∨ size = 2 ∨ size = 4 ∨ size = 8)
    (aligned : off % size = 0) (below : off < 0x080000) (index : core < 1024) :
    checkAccess s a f write [⟨0xFD * 2 ^ 56 + core * 2 ^ 24 + off, size, lane⟩] =
      (fun p => (s, [(⟨0xFD * 2 ^ 56 + core * 2 ^ 24 + off, size, lane⟩, p)])) <$>
        remoteCheck s s.me.priv f ⟨0xFD * 2 ^ 56 + core * 2 ^ 24 + off, size, lane⟩ := by
  have inside := aligned_end hs aligned (limit := 0x080000) rfl below
  have offset : core * 2 ^ 24 + off < 2 ^ 56 := by omega
  have whole : (core * 2 ^ 24 + off) % size = 0 := by rcases hs with rfl | rfl | rfl | rfl <;> omega
  rw [Nat.add_assoc]
  have window : windowOf (0xFD * 2 ^ 56 + (core * 2 ^ 24 + off)) = .remote := windowOf_offset offset
  refine checkAccess_inside (x := (0xFD * 2 ^ 56 + core * 2 ^ 24, 0xFD * 2 ^ 56 + core * 2 ^ 24 + 0x080000)) thread
    (offset_aligned hs whole) (by simp only; omega) (.inr (ne_of_eq_of_ne window nofun)) ?_ (by simp only; omega) ?_
  · have quotient : (core * 2 ^ 24 + off) / 2 ^ 24 = core := by omega
    have remainder : (core * 2 ^ 24 + off) % 2 ^ 24 = off := by omega
    have fits : core * 2 ^ 24 + off < 2 ^ 34 := by omega
    rw [extentOf, window, offset_mod offset, quotient, remainder]
    exact if_pos (by simpa using ⟨fits, below⟩)
  · rw [placeOf, window]

/-- A form that the window refuses (R211). -/
theorem remoteCheck_form {priv : Priv} {e : El} (h : f = .amof ∨ f = .watch ∨ f = .indexed) :
    remoteCheck s priv f e = trapWith cWindow e.va := by
  refine if_pos ?_
  rcases h with rfl | rfl | rfl <;> rfl

/-- The check of a form that the window takes, by the partition's index of the core (R211). -/
theorem remoteCheck_eq {priv : Priv} {p : Partition} (part : s.myPart = some p) (form : f = .scalar ∨ f = .vector ∨ f = .amo)
    (below : off < 0x080000) (index : core < 1024) (pos : 1 ≤ size) :
    remoteCheck s priv f ⟨0xFD * 2 ^ 56 + core * 2 ^ 24 + off, size, lane⟩ =
      if 16 * p.hemCount ≤ core then trapWith cWindow (0xFD * 2 ^ 56 + core * 2 ^ 24 + off)
      else if priv = .u ∧ s.reservedFrom (p.coreAt core) < off + size then
        trapWith cPageProt (0xFD * 2 ^ 56 + core * 2 ^ 24 + off)
      else .ok (.sram (p.coreAt core) off) := by
  have takes : (f == .amof || f == .watch || f == .indexed) = false := by rcases form with rfl | rfl | rfl <;> rfl
  have quotient : (0xFD * 2 ^ 56 + core * 2 ^ 24 + off) % 2 ^ 56 / 2 ^ 24 = core := by omega
  have remainder : (0xFD * 2 ^ 56 + core * 2 ^ 24 + off) % 2 ^ 56 % 2 ^ 24 = off := by omega
  simp only [remoteCheck, takes, part, quotient, remainder, Bool.false_eq_true, if_false, reserved_iff pos]

end

/-! ## The device-register window (R209, R212) -/

section
variable {s : State} {a : Acc} {f : Form} {write : Bool} {off size lane : Nat}

/-- Above U an access to the window's extent goes where that window's check says. -/
theorem checkAccess_device (core : s.cur.pp = false) (hs : size = 1 ∨ size = 2 ∨ size = 4 ∨ size = 8)
    (aligned : off % size = 0) (above : s.me.priv ≠ .u) (below : off < 2 ^ 24) :
    checkAccess s a f write [⟨0xFC * 2 ^ 56 + off, size, lane⟩] =
      (fun p => (s, [(⟨0xFC * 2 ^ 56 + off, size, lane⟩, p)])) <$>
        deviceCheck s.me.priv f ⟨0xFC * 2 ^ 56 + off, size, lane⟩ := by
  have inside := aligned_end hs aligned (limit := 2 ^ 24) rfl below
  have offset : off < 2 ^ 56 := by omega
  have window : windowOf (0xFC * 2 ^ 56 + off) = .device := windowOf_offset offset
  refine checkAccess_inside (x := (0xFC * 2 ^ 56, 0xFC * 2 ^ 56 + 2 ^ 24)) core (offset_aligned hs aligned) (by simp only; omega)
    (.inl above) ?_ (by simp only; omega) ?_
  · rw [extentOf, window, offset_mod offset, if_pos below]
  · rw [placeOf, window]

/-- Above U the window takes 8-byte scalar loads and stores only (R212). -/
theorem deviceCheck_above {priv : Priv} {e : El} (above : priv ≠ .u) : deviceCheck priv f e =
    if f = .amo ∨ f = .amof ∨ f = .watch then trapWith cWindow e.va
    else if f = .scalar ∧ e.size = 8 then .ok (.device (e.va % 2 ^ 56)) else trapWith cMisaligned e.va := by
  rw [deviceCheck, if_neg (by simpa using above)]
  cases f <;> by_cases wide : e.size = 8 <;> simp [wide]

end

end Sys2Proof.Machine

namespace Sys2Proof.Proofs

open Sys2Proof.Machine

/-- Settles O7: each window by the extent that the offset lies in, then by the window's own check of the place. -/
theorem places : Obligations.Places := by
  refine ⟨fun s a f write off size lane core hs aligned => ?localWindow,
    fun s a f write p core off size lane thread part hs aligned below index => ?remoteWindow,
    fun s a f write off size lane core offset hs aligned => ?deviceWindow⟩
  case localWindow =>
    have pos : 1 ≤ size := by omega
    refine ⟨fun scratch allowed => ?_, fun scratch user reserved => ?_, fun n slot => ?_, fun hole => ?_⟩
    · rw [checkAccess_local core hs aligned (.inl scratch), localCheck_scratch scratch pos,
        if_neg (not_and_or.mpr (allowed.imp_right Nat.not_lt.mpr))]
      rfl
    · rw [checkAccess_local core hs aligned (.inl scratch), localCheck_scratch scratch pos, if_pos ⟨user, reserved⟩]
      rfl
    · have slot := slotAt_iff.mpr slot
      refine ⟨fun barred => ?_, fun unreserved unpinned idle => ?_⟩
      · rw [checkAccess_local core hs aligned (.inr ⟨n, slot⟩), localCheck_barred slot barred]
        rfl
      · rw [checkAccess_local core hs aligned (.inr ⟨n, slot⟩), localCheck_free slot unreserved unpinned idle]
        rfl
    · have offset : off < 2 ^ 56 := by omega
      have window : windowOf (0xFE * 2 ^ 56 + off) = .localW := windowOf_offset offset
      refine checkAccess_outside core (offset_aligned hs aligned) (by simp only; omega) (.inr (ne_of_eq_of_ne window nofun)) ?_
      rw [extentOf, window, offset_mod offset, localExtent_none (by omega)]
      rfl
  case remoteWindow =>
    have pos : 1 ≤ size := by omega
    refine ⟨fun form known allowed => ?_, fun refused => ?_, fun form known user reserved => ?_⟩
    · rw [checkAccess_remote thread hs aligned below index, remoteCheck_eq part form below index pos,
        if_neg (Nat.not_le_of_lt known), if_neg (not_and_or.mpr (allowed.imp_right Nat.not_lt.mpr))]
      rfl
    · have window : remoteCheck s s.me.priv f ⟨0xFD * 2 ^ 56 + core * 2 ^ 24 + off, size, lane⟩ =
          trapWith cWindow (0xFD * 2 ^ 56 + core * 2 ^ 24 + off) := by
        by_cases form : f = .amof ∨ f = .watch ∨ f = .indexed
        · exact remoteCheck_form form
        · have taken : f = .scalar ∨ f = .vector ∨ f = .amo := by cases f <;> simp at form ⊢
          have unknown : 16 * p.hemCount ≤ core := by tauto
          rw [remoteCheck_eq part taken below index pos, if_pos unknown]
      rw [checkAccess_remote thread hs aligned below index, window]
      rfl
    · rw [checkAccess_remote thread hs aligned below index, remoteCheck_eq part form below index pos,
        if_neg (Nat.not_le_of_lt known), if_pos ⟨user, reserved⟩]
      rfl
  case deviceWindow =>
    have window : windowOf (0xFC * 2 ^ 56 + off) = .device := windowOf_offset offset
    have whole : (0xFC * 2 ^ 56 + off) % size = 0 := offset_aligned hs aligned
    refine ⟨fun user => checkAccess_privilege core whole (by simp only; omega) user window, fun above past => ?_, fun below =>
      ⟨fun above form => ?_, fun above form => ?_, fun above form wide => ?_⟩⟩
    · refine checkAccess_outside core whole (by simp only; omega) (.inl above) ?_
      rw [extentOf, window, offset_mod offset, if_neg (Nat.not_lt.mpr past)]
    · rw [checkAccess_device core hs aligned above below, deviceCheck_above above, if_pos form]
      rfl
    · rw [checkAccess_device core hs aligned above below, deviceCheck_above above, if_neg, if_neg]
      · rfl
      · rcases form with rfl | rfl | ⟨rfl, narrow⟩ <;> simp_all
      · rcases form with rfl | rfl | ⟨rfl, narrow⟩ <;> simp
    · rw [checkAccess_device core hs aligned above below, deviceCheck_above above, if_neg (by simp [form]),
        if_pos ⟨form, wide⟩, offset_mod offset]
      rfl

end Sys2Proof.Proofs

/-! PROOFS. What a stop keeps of a launch (R319, R323): the error met lies beside the budgets, whose words overlap it where a budget is
wider than the eight bits that the manual gives it. -/

namespace Sys2Proof.Proofs

open Sys2Proof.Machine

/-- Refutes O57, by the words that a save area keeps of a launch: a slim of 2^25, which the statement does not exclude, carries out of bit
25 of the first word, and the error 0 that the launch has met is read back as none. -/
theorem not_stopEvents : ¬ Obligations.StopEvents := by
  rintro ⟨-, -, sweeps⟩
  let l : Launch := ⟨2 ^ 25, 0, 0, 0, 0, 0, 0, 0, 0, some 0, false, false⟩
  let p : Partition := { Partition.formed 1 0 0 0 with launch := some l }
  let s : State := { State.reset with parts := [(1, p)] }
  obtain ⟨-, -, -, kept, -⟩ := sweeps s 1 p l (s.sweepOf p) rfl rfl rfl
  have lost : (Launch.ofWords l.words).error = none := by decide
  exact absurd (lost.symm.trans (kept 0 rfl (by decide))) (Option.some_ne_none 0).symm

end Sys2Proof.Proofs

/-! PROOFS. FENCE and its forms, and what a release waits for (R192, R268, R299, R302, R403). -/

namespace Sys2Proof.Machine

/-! ## A body that traps, parks or waits -/

section
variable {u : Uses} {body : Word → Word → Word → State → Exec State} {s t : State} {a b c : Word}

theorem issue_trap {n v : Nat} (h : s.Begins u a b c t) (hb : body a b c t = trapWith n v) :
    issue u body s = .next (s.takeTrap n (w64 v) none) := issue_halt h hb

theorem issue_park {r : Park} {w : WaitFor} (h : s.Begins u a b c t) (hb : body a b c t = .error (.park r w id)) :
    issue u body s = .next (s.modMe fun h => h.parked r w) := issue_halt h hb

theorem issue_wait {w : WaitFor} (h : s.Begins u a b c t) (hb : body a b c t = .error (.wait w id)) :
    issue u body s = .next (s.modMe fun h => h.waits w) := issue_halt h hb

end

/-! ## The acquire part (R299) -/

section
variable {s t : State}

theorem enginesGate_ok (h : ∀ e ∈ s.myHem.heldBy s.cur.unit s.cur.slot, e.2.state.ended = true ∨ e.2.kind = 5) :
    enginesGate s = .ok () := by
  refine if_neg fun held => ?_
  obtain ⟨e, he, runs⟩ := List.any_eq_true.mp held
  rcases h e he with ended | stream
  · simp [ended] at runs
  · simp [stream] at runs

theorem enginesGate_parks (h : ∃ e ∈ s.myHem.heldBy s.cur.unit s.cur.slot, e.2.state.ended = false ∧ e.2.kind ≠ 5) :
    enginesGate s = .error (.park .jobwait .jobsEnd id) := by
  obtain ⟨e, he, runs, kind⟩ := h
  exact if_pos (List.any_eq_true.mpr ⟨e, he, by simp [runs, kind]⟩)

theorem ringsGate_ok (h : s.ringsOpen s.cur.unit s.cur.slot = false) : ringsGate s = .ok () := if_neg (by simp [h])
theorem ringsGate_waits (h : s.ringsOpen s.cur.unit s.cur.slot = true) : ringsGate s = .error (.wait .rings id) := if_pos h

/-- A tile of the thread that is not yet in its station, or has laps to go, keeps its rings open (R192). -/
theorem State.ringsOpen_of_injector {c n : Nat} (h : ∃ e ∈ (s.hem (hemOf c)).ring.injectors, e.2.active = true ∧ e.2.core = c ∧
    e.2.thread = n ∧ (e.2.entered = false ∨ hLaps e.2.hdr = 0)) : s.ringsOpen c n = true := by
  obtain ⟨e, he, act, core, thread, under⟩ := h
  refine Bool.or_eq_true_iff.mpr (.inl (List.any_eq_true.mpr ⟨e, he, ?_⟩))
  simpa [act, core, thread] using under

/-! ## Where the two states differ in the threads alone -/

theorem State.SameElsewhere.myHem (h : s.SameElsewhere t) : t.myHem = s.myHem := by
  rw [State.myHem, State.cur_of_rest h.rest, State.hem_of_rest h.rest]
  rfl

theorem State.SameElsewhere.array (h : s.SameElsewhere t) (c : Nat) : (t.core c).array = (s.core c).array := by
  have array := congrArg Core.array (h.cores c)
  exact array

theorem State.SameElsewhere.ringsOpen (h : s.SameElsewhere t) (c n : Nat) : t.ringsOpen c n = s.ringsOpen c n := by
  unfold State.ringsOpen
  simp only [h.array, State.hem_of_rest h.rest]

theorem State.sameElsewhere_fenced (s : State) (wide : Bool) : s.SameElsewhere (s.advanced.releasedAt wide) :=
  s.sameElsewhere_advanced.trans (s.advanced.releasedAt_keeps wide).1

end

/-! ## A FENCE (R299, R403) -/

section
variable {s t : State} {o : OrdFld} {engines rings wide : Bool}

/-- The four forms are one fence, by what they go over. -/
theorem exec_fenceOf {i : Instr}
    (hi : i = .fence o ∧ engines = true ∧ rings = true ∨ i = .fencem o ∧ engines = false ∧ rings = false ∨
      i = .fencee o ∧ engines = true ∧ rings = false ∨ i = .fencer o ∧ engines = false ∧ rings = true) :
    exec i s = issue usesNone (fun _ _ _ t => fenceOf engines rings o t) s := by
  rcases hi with ⟨rfl, rfl, rfl⟩ | ⟨rfl, rfl, rfl⟩ | ⟨rfl, rfl, rfl⟩ | ⟨rfl, rfl, rfl⟩ <;> rfl

theorem fenceOf_handler (h : t.cur.pp = true) : fenceOf engines rings o t = .ok t := if_pos h

/-- A gate of a FENCE that has it. -/
def gateIf (b : Bool) (g : Exec Unit) : Exec Unit := if b then g else .ok ()

/-- A gate lets a FENCE pass that does not go over it, or acquires nothing, or whose thread has nothing under way behind it. -/
theorem gateIf_ok {b a : Bool} {g : Exec Unit} (h : b = true → a = true → g = .ok ()) : gateIf (b && a) g = .ok () := by
  cases b
  · rfl
  · cases a
    · rfl
    · exact h rfl rfl

/-- Once the release part is done, a FENCE is its acquire parts. -/
theorem fenceOf_drained (hpp : t.cur.pp = false) (hw : wide = (ordReleases o && o.scope != .core)) (hd : t.drained wide = true) :
    fenceOf engines rings o t = (gateIf (engines && ordAcquires o) (enginesGate (t.releasedAt wide)) >>= fun _ =>
      gateIf (rings && ordAcquires o) (ringsGate (t.releasedAt wide)) >>= fun _ => .ok (t.releasedAt wide)) := by
  rw [fenceOf, if_neg (by simp [hpp]), ← hw, gate_drained hd]
  cases engines && ordAcquires o <;> cases rings && ordAcquires o <;> rfl

end

/-! ## What a release waits for (R268, R302) -/

section
variable {s : State} {wide : Bool}

theorem gate_waits_matrix (hpp : s.cur.pp = false) (hl : lateMark s.me = .ok ()) (h : s.myCore.array.ops s.cur.slot ≠ []) :
    gate wide s = .error (.wait .matrix id) := by
  simp [gate, hl, hpp, h]

theorem gate_waits_results (hpp : s.cur.pp = false) (hl : lateMark s.me = .ok ()) (ops : s.myCore.array.ops s.cur.slot = [])
    (h : s.me.pending ≠ []) : gate wide s = .error (.wait .results id) := by
  simp [gate, hl, hpp, ops, h]

/-- A release that has not begun, of a core with a release action left, begins with its FLUSHes. -/
theorem State.release_starts (stage : s.me.release.stage = 0)
    (h : s.myCore.flushes ≠ [] ∨ s.myCore.closing ≠ [] ∨ ∃ e ∈ s.myCore.cache, s.needsFlush s.cur.unit e.2 = true) :
    s.release = .hold State.startFlush := by
  have due : (decide (s.myCore.flushes = []) && decide (s.myCore.closing = []) &&
      !(s.myCore.cache.any fun e => s.needsFlush s.cur.unit e.2)) = false := by
    rcases h with flushes | closing | ⟨e, he, needs⟩
    · simp [flushes]
    · simp [closing]
    · have due : (s.myCore.cache.any fun e => s.needsFlush s.cur.unit e.2) = true := List.any_eq_true.mpr ⟨e, he, needs⟩
      simp [due]
  simp [State.release, stage, due]

theorem gate_waits_release (hpp : s.cur.pp = false) (hl : lateMark s.me = .ok ()) (ops : s.myCore.array.ops s.cur.slot = [])
    (results : s.me.pending = []) {fx : State → State} (h : s.release = .hold fx) : gate true s = .error (.wait .release fx) := by
  simp [gate, hl, hpp, ops, results, h]

end

end Sys2Proof.Machine

namespace Sys2Proof.Proofs

open Sys2Proof.Machine

/-- Settles O19: a FENCE is its release, which a drained thread passes, then the gates over engines and over rings; of a release, by the
first of its waits that is not over. -/
theorem fences : Obligations.Fences := by
  constructor
  · intro s i o engines rings wide hs hi hw
    have begins := State.begins_none hs
    have same := s.sameElsewhere_fenced wide
    have cur : (s.advanced.releasedAt wide).cur = s.cur := State.cur_of_rest same.rest
    have hem := same.myHem
    have stillOpen := same.ringsOpen s.cur.unit s.cur.slot
    rw [exec_fenceOf hi]
    refine ⟨fun hpp => issue_ok begins (fenceOf_handler (by simpa using hpp)), fun hpp hd jobs ring => issue_ok begins ?_,
      fun hpp hd hr ha jobs ring => issue_wait begins ?_,
      fun hpp hd he ha jobs => issue_park begins ?_⟩
    all_goals rw [fenceOf_drained (by simpa using hpp) hw hd]
    · rw [gateIf_ok fun he ha => enginesGate_ok (by rw [hem, cur]; exact jobs he ha), except_ok_bind,
        gateIf_ok fun hr ha => ringsGate_ok (by rw [cur, stillOpen]; exact ring hr ha)]
      rfl
    · rw [gateIf_ok fun he _ => enginesGate_ok (by rw [hem, cur]; exact jobs he), except_ok_bind, hr, ha,
        ringsGate_waits (by rw [cur, stillOpen]; exact State.ringsOpen_of_injector ring)]
      rfl
    · rw [he, ha, enginesGate_parks (by rw [hem, cur]; exact jobs)]
      rfl
  · intro s wide hpp hl
    refine ⟨gate_waits_matrix hpp hl, gate_waits_results hpp hl, ?_, gate_drained⟩
    rintro ops results rfl stage due
    exact gate_waits_release hpp hl ops results (State.release_starts stage due)

end Sys2Proof.Proofs

/-! PROOFS. RINJA and RINJB (R191, R445). -/

namespace Sys2Proof.Machine

/-! ## Bits of a dword above the ones replaced (R12) -/

theorem testBit_setFld (v : Word) (n : Nat) {hi lo j : Nat} (hj : j < 64) : (setFld v hi lo n).toNat.testBit j =
    if j < lo then v.toNat.testBit j else if j < lo + (hi - lo + 1) then n.testBit (j - lo) else v.toNat.testBit j := by
  rw [setFld, BitVec.toNat_ofNat, Nat.testBit_mod_two_pow, decide_eq_true hj, Bool.true_and]
  exact testBit_replaced ..

theorem fld_setFld_above (v : Word) (n : Nat) {hi lo hi' lo' : Nat} (order : lo ≤ hi) (above : hi < lo') (order' : lo' ≤ hi')
    (top : hi' < 64) : fld (setFld v hi lo n) hi' lo' = fld v hi' lo' := by
  refine Nat.eq_of_testBit_eq fun j => ?_
  rw [fld, fld, bits, bits, testBit_digit, testBit_digit]
  by_cases hj : j < hi' - lo' + 1
  · rw [testBit_setFld v n (by omega), if_neg (by omega), if_neg (by omega)]
  · simp [hj]

theorem fld_setFld_self (v : Word) (n : Nat) {hi lo : Nat} (order : lo ≤ hi) (top : hi < 64) :
    fld (setFld v hi lo n) hi lo = n % 2 ^ (hi - lo + 1) := by
  refine Nat.eq_of_testBit_eq fun j => ?_
  rw [fld, bits, testBit_digit, Nat.testBit_mod_two_pow]
  by_cases hj : j < hi - lo + 1
  · rw [testBit_setFld v n (by omega), if_neg (by omega), if_pos (by omega), Nat.add_sub_cancel_left]
  · simp [hj]

/-- The header that a record keeps: laps 0, and the tile id's fields in place of the low ones (R189, R191). -/
def stampedHdr (h : Word) (st rec seq : Nat) : Word :=
  setFld (setFld (setFld (setFld (setFld h 39 36 0) 25 22 st) 17 12 rec) 11 7 seq) 6 0 0

/-- Bits 63 to 40 of a header, which name the tile, stay. -/
theorem fld_stampedHdr (h : Word) (st rec seq : Nat) {hi lo : Nat} (above : 40 ≤ lo) (order : lo ≤ hi) (top : hi < 64) :
    fld (stampedHdr h st rec seq) hi lo = fld h hi lo := by
  unfold stampedHdr
  repeat rw [fld_setFld_above _ _ (by omega) (by omega) order top]

theorem hLaps_stampedHdr (h : Word) (st rec seq : Nat) : hLaps (stampedHdr h st rec seq) = 0 := by
  unfold hLaps stampedHdr
  repeat rw [fld_setFld_above _ _ (by omega) (by omega) (by omega) (by omega)]
  exact fld_setFld_self h 0 (by omega) (by omega)

/-! ## A hem's state changed -/

@[simp] theorem State.myHem_modMyHem (s : State) (f : Hem → Hem) : (s.modMyHem f).myHem = f s.myHem :=
  State.hem_modHem_self ..
@[simp] theorem State.me_modMyHem (s : State) (f : Hem → Hem) : (s.modMyHem f).me = s.me := rfl
@[simp] theorem State.byteAt_modHem (s : State) (h : Nat) (f : Hem → Hem) (l : Loc) : (s.modHem h f).byteAt l = s.byteAt l := by
  cases l <;> rfl
@[simp] theorem State.byteAt_modMyHem (s : State) (f : Hem → Hem) (l : Loc) : (s.modMyHem f).byteAt l = s.byteAt l :=
  State.byteAt_modHem ..
@[simp] theorem RingDyn.inj_setInj_self (r : RingDyn) (key : Nat) (i : Injector) : (r.setInj key i).inj key = i :=
  Map.at_put_self ..

/-! ## The checks of RINJ (R191) -/

/-- The record of a tile that RINJ accepts at a station, as number n of its family, of the hem's state m (R191, R445). -/
def State.newInjector (s : State) (m : Hem) (fam st n : Nat) (x y : Word) : Injector :=
  { active := true, entered := false, core := s.cur.unit, slot := slotNum x, remain := hPartners y, thread := s.cur.slot, late := s.seq
    hdr := stampedHdr y st n (m.ring.inj (injKey fam st n)).seq, seq := (m.ring.inj (injKey fam st n)).seq, order := s.myHem.ring.order }

/-- A hem with a record made, the latest of them. -/
def Hem.recorded (m : Hem) (key : Nat) (i : Injector) : Hem :=
  { m with ring := { m.ring.setInj key i with order := m.ring.order + 1 } }

/-- The state in which a record is made and its slot pinned. -/
def State.accepts (s : State) (key : Nat) (x : Word) (i : Injector) : State :=
  ({ s with seq := s.seq + 1 }.modMyHem fun m => m.recorded key i).modMyCore fun k =>
    { k with pins := k.pins.put (slotNum x) (k.pins.at (slotNum x) 0 + 1) }

/-- What RINJ does once none of its conditions has failed. -/
def injectOpen (fam d : Nat) (a h : Word) (s : State) : Exec State := do
  let st := stationOf s.cur.unit
  reserveX d s
  match if s.myHem.cap fam ≤ s.myHem.live fam || s.myHem.stopped then none else s.myHem.freeInj fam st with
  | none => .error (.park .livecap (.liveCap fam) id)
  | some n => do
    let r ← gate true s
    .ok ((r.accepts (injKey fam st n) a (r.newInjector s.myHem fam st n a h)).awaits r.seq d)

theorem ringMust_bind {α : Type} (b : Bool) (v : Nat) (f : Unit → Exec α) :
    (ringMust b v >>= f) = if b = true then f () else trapWith cRing v := by
  cases b <;> rfl

/-- RINJ traps with the value of the first condition that fails, else goes on to take the tile. -/
theorem inject_eq (fam d : Nat) (a h : Word) (s : State) : inject fam d a h s = match s.injectFault fam a h with
    | some e => trapWith cRing e
    | none => injectOpen fam d a h s := by
  have slots : slotNum a < 480 ↔ ¬ 480 ≤ a.toNat % 512 := Nat.not_le.symm
  simp only [inject, State.injectFault, ringMust_bind, decide_eq_true_eq, beq_iff_eq, Bool.and_eq_true, bne_iff_ne, slots]
  by_cases on : s.myHem.hemctl.getLsbD 0 = false
  case pos => rw [if_neg (Bool.not_eq_true _ ▸ on), if_pos on]
  rw [if_pos (Bool.not_eq_false _ ▸ on), if_neg on]
  by_cases reserved : 480 ≤ a.toNat % 512
  case pos => rw [if_neg (not_not.mpr reserved), if_pos reserved]; rfl
  rw [if_pos reserved, if_neg reserved]
  by_cases other : hFam h ≠ fam
  case pos => rw [if_neg other, if_pos other]
  rw [if_pos (not_not.mp other), if_neg other]
  by_cases bad : hPartners h = 0 ∨ fld h 21 19 ≠ 0
  case pos => rw [if_neg (by rwa [not_and_or, not_not]), if_pos bad]
  rw [if_pos (by rwa [not_or, not_not] at bad), if_neg bad]
  cases s.myHem.entryFor fam (hMat h) with
  | none => rfl
  | some e =>
    dsimp only
    by_cases outside : (if fam = 0 then e.2.oi else e.2.oj) ≤ hX h ∨ e.2.kb ≤ hK h
    case pos => rw [if_neg (by rwa [not_and_or, Nat.not_lt, Nat.not_lt]), if_pos outside]
    rw [if_pos (by rwa [not_or, Nat.not_le, Nat.not_le] at outside), if_neg outside]
    cases s.myHem.liveTile fam (hMat h) (hX h) (hK h) <;> rfl

section
variable {s t : State} {fam d n : Nat} {x y : Word}

theorem inject_fault {e : Nat} (h : t.injectFault fam x y = some e) : inject fam d x y t = trapWith cRing e := by
  rw [inject_eq, h]

theorem inject_full (h : t.injectFault fam x y = none) (full : ¬ t.roomFor d) :
    inject fam d x y t = .error (.park .qfull (.q1room 1) id) := by
  rw [inject_eq, h]
  exact congrArg (· >>= _) (reserveX_full full)

theorem inject_livecap (h : t.injectFault fam x y = none) (room : t.roomFor d)
    (cap : t.myHem.cap fam ≤ t.myHem.live fam ∨ t.myHem.stopped = true ∨ t.myHem.freeInj fam (stationOf t.cur.unit) = none) :
    inject fam d x y t = .error (.park .livecap (.liveCap fam) id) := by
  have noRecord : (if (t.myHem.cap fam ≤ t.myHem.live fam || t.myHem.stopped) = true then none
      else t.myHem.freeInj fam (stationOf t.cur.unit)) = none := by
    rcases cap with full | stopped | free
    · simp [full]
    · simp [stopped]
    · simp [free]
  rw [inject_eq, h, injectOpen, reserveX_roomFor room, except_ok_bind, noRecord]

theorem inject_accepts {st : Nat} (h : t.injectFault fam x y = none) (room : t.roomFor d) (hst : stationOf t.cur.unit = st)
    (cap : t.myHem.live fam < t.myHem.cap fam) (runs : t.myHem.stopped = false) (free : t.myHem.freeInj fam st = some n)
    (drained : t.drained true = true) : inject fam d x y t = .ok (((t.releasedAt true).accepts (injKey fam st n) x
      ((t.releasedAt true).newInjector t.myHem fam st n x y)).awaits (t.releasedAt true).seq d) := by
  have record : (if (t.myHem.cap fam ≤ t.myHem.live fam || t.myHem.stopped) = true then none
      else t.myHem.freeInj fam (stationOf t.cur.unit)) = some n := by
    simp [Nat.not_le.mpr cap, runs, hst, free]
  rw [inject_eq, h, injectOpen, reserveX_roomFor room, except_ok_bind, record, gate_drained drained, hst]
  rfl

end

/-! ## The state after acceptance -/

section
variable (t : State) (key : Nat) (x : Word) (i : Injector)

theorem State.inj_accepts : (t.accepts key x i).myHem.ring.inj key = i :=
  (congrArg (fun m : Hem => m.ring.inj key)
    (State.myHem_modMyHem { t with seq := t.seq + 1 } fun m => m.recorded key i)).trans (RingDyn.inj_setInj_self ..)

theorem State.pins_accepts : (t.accepts key x i).myCore.pins.at (slotNum x) 0 = t.myCore.pins.at (slotNum x) 0 + 1 :=
  (congrArg (fun k : Core => k.pins.at (slotNum x) 0) (State.myCore_modMyCore ..)).trans (Map.at_put_self ..)

theorem State.me_accepts : (t.accepts key x i).me = t.me := State.me_modMyCore rfl

theorem State.byteAt_accepts (l : Loc) : (t.accepts key x i).byteAt l = t.byteAt l :=
  (State.byteAt_modCore (by rfl) (by rfl) l).trans ((State.byteAt_modMyHem ..).trans (by cases l <;> rfl))

end

theorem State.myHem_awaits (s : State) (id d : Nat) : (s.awaits id d).myHem = s.myHem := (s.sameElsewhere_modMe _).myHem
theorem State.me_awaits (s : State) (id d : Nat) :
    (s.awaits id d).me = { s.me with pending := s.me.pending ++ [⟨id, 0, lateDest d, 0, 8, false, .waiting⟩] } := State.me_modMe ..

theorem State.SameElsewhere.pins {s t : State} (h : s.SameElsewhere t) : t.myCore.pins = s.myCore.pins := by
  have pins := congrArg Core.pins (h.cores t.cur.unit)
  rw [State.cur_of_rest h.rest] at pins
  rw [State.myCore, State.cur_of_rest h.rest]
  exact pins

end Sys2Proof.Machine

namespace Sys2Proof.Proofs

open Sys2Proof.Machine

/-- Settles O25: by the first condition of RINJ that fails, the room in q1, and the live cap; the record that is made names the tile by
the bits of its header that stay. -/
theorem ringInjection : Obligations.RingInjection := by
  intro s t i fam d a b x y z hi hb hpp
  have hx : exec i s = issue (usesDAB d a b) (fun x y _ s => inject fam d x y s) s := by
    rcases hi with ⟨rfl, rfl⟩ | ⟨rfl, rfl⟩ <;> rfl
  rw [hx]
  refine ⟨fun e he => issue_trap hb (inject_fault he), fun free full => issue_park hb (inject_full free full),
    fun free room => ⟨fun cap => issue_park hb (inject_livecap free room (by rwa [hb.cur])), ?_⟩⟩
  intro n cap runs record drained
  have same := (t.releasedAt_keeps true).1
  have cur : (t.releasedAt true).cur = s.cur := (State.cur_of_rest same.rest).trans hb.cur
  have seq : (t.releasedAt true).seq = t.seq := by
    have seq := congrArg State.seq same.rest
    exact seq
  have kept {lo hi : Nat} (above : 40 ≤ lo) (order : lo ≤ hi) (top : hi < 64) :=
    fld_stampedHdr y (stationOf s.cur.unit) n (t.myHem.ring.inj (injKey fam (stationOf s.cur.unit) n)).seq above order top
  refine ⟨_, (t.releasedAt true).newInjector t.myHem fam (stationOf s.cur.unit) n x y,
    issue_ok hb (inject_accepts free room (by rw [hb.cur]) cap runs record drained), ?_, rfl, rfl,
    congrArg Actor.unit cur, rfl, rfl, congrArg Actor.slot cur,
    kept (by omega) (by omega) (by omega), kept (by omega) (by omega) (by omega),
    kept (by omega) (by omega) (by omega), kept (by omega) (by omega) (by omega),
    hLaps_stampedHdr .., ?_, ?_, fun l => ?_⟩
  · rw [State.myHem_awaits, State.inj_accepts]
  · have pinned := (t.releasedAt true).pins_accepts (injKey fam (stationOf s.cur.unit) n) x
      ((t.releasedAt true).newInjector t.myHem fam (stationOf s.cur.unit) n x y)
    rw [State.awaits, (State.sameElsewhere_modMe _ _).pins]
    rwa [same.pins] at pinned
  · rw [State.me_awaits, State.me_awaits, State.me_accepts, seq]
  · rw [State.awaits, State.byteAt_modMe, State.byteAt_accepts, same.byteAt]

end Sys2Proof.Proofs

/-! PROOFS. A result after issue that is here already: a register takes it, or the dword of q1 that was reserved (R505). -/

namespace Sys2Proof.Machine

/-- The partition of a core's slot, where the two states differ in the issuing slot alone. -/
theorem State.SameElsewhere.myPart {s t : State} (h : s.SameElsewhere t) (core : s.cur.pp = false) : t.myPart = s.myPart := by
  have part := congrArg (fun r : State => r.partOfCore s.cur.unit) h.rest
  rw [State.myPart, State.myPart, State.cur_of_rest h.rest, core]
  exact part

theorem State.headerFault_releasedAt (s : State) (wide : Bool) (v : Word) : (s.releasedAt wide).headerFault v = s.headerFault v := by
  unfold State.releasedAt
  split
  · next waits =>
    have core : s.cur.pp = false := by simpa using (Bool.and_eq_true_iff.mp waits).2
    simp only [State.headerFault, (s.sameElsewhere_modMe _).myPart core, State.me_modMe]
  · rfl

/-- The fault of the next dword that q1 takes, where that is a header (R237). -/
def State.nextFault (s : State) (v : Word) : Option Nat := if s.me.queues.q1partial = 0 then s.headerFault v else none

theorem State.nextFault_releasedAt (s : State) (wide : Bool) (v : Word) : (s.releasedAt wide).nextFault v = s.nextFault v := by
  rw [State.nextFault, State.releasedAt_queues, State.headerFault_releasedAt]
  rfl

section
variable {s t : State} {d : Nat} {v : Word}

theorem State.latePush_fault {e : Nat} (h : t.nextFault v = some e) :
    t.latePush v = t.modMe fun h => { h with lateTrap := some (0x0D, w64 (0x1000 + e)) } := by
  by_cases starts : t.me.queues.q1partial = 0
  · rw [State.nextFault, if_pos starts] at h
    simp [State.latePush, starts, h, cQueue]
  · simp [State.nextFault, starts] at h

theorem State.latePush_joins (h : t.nextFault v = none) : t.latePush v = t.modQueues fun q => q.push (t.pushed v) := by
  by_cases starts : t.me.queues.q1partial = 0
  · rw [State.nextFault, if_pos starts] at h
    simp [State.latePush, h]
  · simp [State.latePush, starts]

/-- The state in which a dword joins q1: the release of a message that it completes has passed (R237, R268). -/
def State.gatedOf (s : State) (v : Word) : State := if s.me.queues.completes v then s.releasedAt true else s

theorem lateX_q1 (h : t.takes 121 v) : lateX 121 v t = .ok ((t.gatedOf v).latePush v) := by
  unfold lateX State.gatedOf
  by_cases sends : t.me.queues.completes v = true
  · simp [sends, gate_drained (h rfl sends)]
  · simp [sends]

theorem State.nextFault_gatedOf : (t.gatedOf v).nextFault v = t.nextFault v := by
  unfold State.gatedOf
  split
  · exact t.nextFault_releasedAt true v
  · rfl

/-- The dword joins q1 of the gated state as `gives` says. -/
theorem State.gatedOf_push : ((t.gatedOf v).modQueues fun q => q.push ((t.gatedOf v).pushed v)) = (t.gatedOf v).modQueues fun q =>
    { q with q1 := q.q1 ++ [t.pushed v], q1partial := if t.me.queues.completes v then 0 else q.q1partial + 1 } := by
  by_cases sends : t.me.queues.completes v = true
  · rw [State.gatedOf, if_pos sends]
    exact State.modQueues_push (t.releasedAt_queues true) (t.pushed_releasedAt true v)
  · rw [State.gatedOf, if_neg sends]
    exact State.modQueues_push rfl rfl

theorem State.ends_lateX (room : t.roomFor d) (h : t.takes d v) : s.ends (lateX d v t) = s.gives true t d v := by
  unfold State.gives
  by_cases hd : d = 121
  case neg => simp [lateX, hd, State.ends]
  subst hd
  rw [lateX_q1 h, room rfl, ← State.nextFault]
  cases fault : t.nextFault v with
  | some e => exact State.latePush_fault (State.nextFault_gatedOf.trans fault)
  | none => exact (State.latePush_joins (State.nextFault_gatedOf.trans fault)).trans State.gatedOf_push

/-- An instruction that first reserves the dword of q1 that its result fills. -/
theorem State.ends_reserved (h : t.takes d v) : s.ends (reserveX d t >>= fun _ => lateX d v t) = s.gives true t d v := by
  by_cases room : t.roomFor d
  · rw [reserveX_roomFor room]
    exact State.ends_lateX room h
  · rw [reserveX_full room]
    obtain ⟨rfl, full⟩ := Classical.not_imp.mp room
    simp [State.gives, full, State.ends, State.halt, State.noRoom]

end

end Sys2Proof.Machine

/-! PROOFS. PSET (R195, R197, R438). -/

namespace Sys2Proof.Machine

theorem checkPending_of_none {s : State} {u : Uses} (h : s.me.pending = []) : checkPending s u = .ok () := by
  simp [checkPending, lateTrapOf, h]

/-- Nothing is left at a key of a range that has been taken out. -/
theorem Map.look_delRange {α : Type} {m : Map α} {lo hi j : Nat} (low : lo ≤ j) (high : j < hi) : (m.delRange lo hi).look j = none := by
  induction m with
  | nil => rfl
  | cons e r ih =>
    have keeps : Map.delRange (e :: r) lo hi = if e.1 < lo || hi ≤ e.1 then e :: Map.delRange r lo hi else Map.delRange r lo hi :=
      List.filter_cons ..
    rw [keeps]
    split
    · next outside =>
      have apart : j ≠ e.1 := by
        simp only [Bool.or_eq_true, decide_eq_true_eq] at outside
        omega
      rw [Map.look, if_neg (by simpa using apart), ih]
    · exact ih

/-- A hem with a pattern entered, its outputs as at reset, and no deferral or miss counted (R195). -/
def Hem.withPattern (m : Hem) (e : Nat) (p : Pattern) : Hem :=
  { m with patterns := m.patterns.put e p, outputs := m.outputs.delRange (128 * e) (128 * e + 128), deferrals := 0, misses := 0 }

theorem Hem.entry_withPattern {m : Hem} {e : Nat} {p : Pattern} (active : p.active = true) : (m.withPattern e p).entry e = some p := by
  simp [Hem.entry, Hem.withPattern, active]

theorem Hem.output_withPattern {m : Hem} {e o : Nat} {p : Pattern} (ho : o < 128) : (m.withPattern e p).output e o = Output.reset := by
  rw [Hem.output, Map.at, Hem.withPattern, Map.look_delRange (by unfold outKey; omega) (by unfold outKey; omega)]
  rfl

/-- The descriptor that PSET has read. -/
def descriptor (s : State) (l : List (Place × Nat)) : Pattern :=
  let w (i : Nat) : Word := w64 ((l.map (·.2)).getD i 0)
  ⟨true, w 0, w 1, w 2, w 3, w 4, w 5, w 6, [], s.x 3⟩

/-- The elements of the owner map that a descriptor names. -/
def Pattern.ownerEls (p : Pattern) : List El := (List.range (p.oi * p.oj)).map fun i => ⟨(p.ownmap + w64 i).toNat, 1, i⟩

/-- What PSET does from its second read on: the owner map joins the pattern. -/
def psetMap (e : Nat) (p : Pattern) (s : State) : Exec State := do
  let (m, s) ← readNow .vload .vector p.ownerEls s
  let p := { p with owners := m.map (·.2) }
  ringMust (!p.mapBad) 0x1007
  .ok (s.modMyHem fun h => h.withPattern e p)

/-- What PSET does from its first read on. -/
def psetRead (e : Nat) (l : List (Place × Nat)) (s : State) : Exec State := do
  ringMust ((s.myHem.entry e).isNone) 0x1006
  ringMust (!s.patternBad (descriptor s l) (w64 ((l.map (·.2)).getD 7 0))) 0x1007
  psetMap e (descriptor s l) s

/-- PSET: the checks before its reads, the descriptor, the owner map. -/
def psetOf (x y : Word) (s : State) : Exec State := do
  checkPending s (usesA 3)
  ringMust (s.myHem.hemctl.getLsbD 0) 0x1001
  must (x.toNat % 64 == 0) cMisaligned x.toNat
  let (l, s) ← readNow .vload .vector (dwordEls x 8) s
  psetRead (fld y 3 0) l s

theorem exec_pset {s : State} {a b : Nat} : exec (.pset a b) s = issue (usesAB a b) (fun x y _ t => psetOf x y t) s := rfl

section
variable {t r : State} {x y : Word} {e : Nat} {l m : List (Place × Nat)} {p : Pattern}

theorem psetOf_off (hp : t.me.pending = []) (off : t.myHem.hemctl.getLsbD 0 = false) : psetOf x y t = trapWith cRing 0x1001 := by
  rw [psetOf, checkPending_of_none hp, off]
  rfl

theorem psetOf_misaligned (hp : t.me.pending = []) (on : t.myHem.hemctl.getLsbD 0 = true) (h : x.toNat % 64 ≠ 0) :
    psetOf x y t = trapWith cMisaligned x.toNat := by
  rw [psetOf, checkPending_of_none hp, on, beq_eq_false_iff_ne.mpr h]
  rfl

theorem psetOf_reads (hp : t.me.pending = []) (on : t.myHem.hemctl.getLsbD 0 = true) (h : x.toNat % 64 = 0)
    (read : readNow .vload .vector (dwordEls x 8) t = .ok (l, r)) : psetOf x y t = psetRead (fld y 3 0) l r := by
  rw [psetOf, checkPending_of_none hp, on, h, read]
  rfl

theorem psetRead_used (h : (t.myHem.entry e).isSome) : psetRead e l t = trapWith cRing 0x1006 := by
  rw [psetRead, Option.isNone_eq_false_iff.mpr h]
  rfl

theorem psetRead_bad (free : t.myHem.entry e = none)
    (h : t.patternBad (descriptor t l) (w64 ((l.map (·.2)).getD 7 0)) = true) : psetRead e l t = trapWith cRing 0x1007 := by
  rw [psetRead, free, h]
  rfl

theorem psetRead_good (free : t.myHem.entry e = none)
    (h : t.patternBad (descriptor t l) (w64 ((l.map (·.2)).getD 7 0)) = false) : psetRead e l t = psetMap e (descriptor t l) t := by
  rw [psetRead, free, h]
  rfl

variable (read : readNow .vload .vector p.ownerEls t = .ok (m, r))
include read

theorem psetMap_bad (h : Pattern.mapBad { p with owners := m.map (·.2) } = true) : psetMap e p t = trapWith cRing 0x1007 := by
  rw [psetMap, read, except_ok_bind]
  dsimp only
  rw [h]
  rfl

theorem psetMap_good (h : Pattern.mapBad { p with owners := m.map (·.2) } = false) :
    psetMap e p t = .ok (r.modMyHem fun h => h.withPattern e { p with owners := m.map (·.2) }) := by
  rw [psetMap, read, except_ok_bind]
  dsimp only
  rw [h]
  rfl

end

end Sys2Proof.Machine

namespace Sys2Proof.Proofs

open Sys2Proof.Machine

/-- Settles O27: PSET by its checks in order, the descriptor that the first read gives and the owner map that the second gives. -/
theorem patternSet : Obligations.PatternSet := by
  intro s t r1 r2 a b x y z l m p hb
  rw [exec_pset]
  refine ⟨fun off => issue_trap hb (psetOf_off hb.pending off), fun on h => ?_, fun on h read => ?_⟩
  · have trap := issue_trap (body := fun x y _ t => psetOf x y t) hb (psetOf_misaligned hb.pending on h)
    rwa [w64, BitVec.ofNat_toNat, BitVec.setWidth_eq] at trap
  · have reads : psetOf x y t = psetRead (fld y 3 0) l r1 := psetOf_reads hb.pending on h read
    refine ⟨fun used => issue_trap hb (reads.trans (psetRead_used used)), fun w hw free hp => ?_⟩
    have described : p = descriptor r1 l := by
      rw [hp, hw, hw, hw, hw, hw, hw, hw]
      rfl
    rw [hw, described]
    refine ⟨fun bad => issue_trap hb (reads.trans (psetRead_bad free bad)), fun good owners => ⟨fun bad => ?_, fun ok => ?_⟩⟩
    · exact issue_trap hb (reads.trans ((psetRead_good free good).trans (psetMap_bad owners bad)))
    · refine ⟨_, issue_ok hb (reads.trans ((psetRead_good free good).trans (psetMap_good owners ok))), State.me_modMyHem .., ?_⟩
      rw [State.myHem_modMyHem]
      exact ⟨Hem.entry_withPattern rfl, fun o ho => Hem.output_withPattern ho, rfl, rfl, rfl, fun k => State.byteAt_modMyHem ..⟩

end Sys2Proof.Proofs

/-! PROOFS. Bytes under the copying of a run from one memory to another. -/

namespace Sys2Proof.Machine

/-- An address below every listed one reads 0. -/
theorem Memory.byte_of_lt {m : Memory} {k : Nat} (h : ∀ c ∈ m, k < c.1) : m.byte k = 0 := by
  induction m with
  | nil => rfl
  | cons e m ih =>
    rw [Memory.byte, if_neg (Nat.ne_of_lt (h e (List.mem_cons_self ..)))]
    exact ih fun c hc => h c (List.mem_cons_of_mem _ hc)

theorem Memory.byte_slice (m : Memory) (lo n k : Nat) : (m.slice lo n 0).byte k = if k < n then m.byte (lo + k) else 0 := by
  induction m with
  | nil => exact (ite_self _).symm
  | cons e m ih =>
    by_cases inside : lo ≤ e.1 ∧ e.1 < lo + n
    · have cons : Memory.slice (e :: m) lo n 0 = (e.1 - lo, e.2) :: Memory.slice m lo n 0 := by simp [Memory.slice, inside]
      rw [cons, Memory.byte, ih, Memory.byte]
      by_cases hk : k = e.1 - lo
      · rw [if_pos hk, if_pos (by omega), if_pos (by omega)]
      · have apart : lo + k ≠ e.1 := by omega
        rw [if_neg hk, if_neg apart]
    · have cons : Memory.slice (e :: m) lo n 0 = Memory.slice m lo n 0 := by simp [Memory.slice, inside]
      rw [cons, ih, Memory.byte]
      by_cases hk : k < n
      · rw [if_pos hk, if_pos hk, if_neg (by omega)]
      · rw [if_neg hk, if_neg hk]

/-- A run whose addresses all move down by as much stays canonical. -/
theorem Memory.wf_map_sub {m : Memory} {lo : Nat} (h : m.wf = true) (low : ∀ c ∈ m, lo ≤ c.1) :
    Memory.wf (m.map fun c => (c.1 - lo + 0, c.2)) = true := by
  induction m with
  | nil => rfl
  | cons e m ih =>
    refine Memory.wf_cons (Memory.wf_head h) (ih (Memory.wf_tail h) fun c hc => low c (List.mem_cons_of_mem _ hc)) fun f hf => ?_
    obtain ⟨c, hc, rfl⟩ := List.mem_map.mp hf
    have rises := Memory.wf_lt h c hc
    have here := low e (List.mem_cons_self ..)
    dsimp only
    omega

theorem Memory.wf_slice (m : Memory) (lo n : Nat) (h : m.wf = true) : (m.slice lo n 0).wf = true := by
  refine Memory.wf_map_sub (Memory.wf_filter _ _ h) fun c hc => ?_
  have kept := (List.mem_filter.mp hc).2
  simp only [Bool.and_eq_true, decide_eq_true_eq] at kept
  exact kept.1

/-- The bytes listed in a canonical run are written, the others stay. -/
theorem Memory.byte_pasteOver (m run : Memory) (a n j : Nat) (h : run.wf = true) :
    (run.foldl (fun m c => if c.1 < n then m.setByte (a + c.1) c.2 else m) m).byte j =
      if a ≤ j ∧ j < a + n ∧ run.byte (j - a) ≠ 0 then run.byte (j - a) else m.byte j := by
  induction run generalizing m with
  | nil => simp [Memory.byte]
  | cons e run ih =>
    have above := Memory.byte_of_lt (Memory.wf_lt h)
    rw [List.foldl_cons, ih _ (Memory.wf_tail h), Memory.byte]
    by_cases here : j - a = e.1 ∧ a ≤ j
    · rw [here.1, if_pos rfl, above, if_neg (by simp)]
      by_cases inside : e.1 < n
      · rw [if_pos inside, Memory.byte_setByte, if_pos (by omega), if_pos ⟨here.2, by omega, Memory.wf_head h⟩]
      · rw [if_neg inside, if_neg (by omega)]
    · have elsewhere : (if e.1 < n then m.setByte (a + e.1) e.2 else m).byte j = m.byte j := by
        split
        · rw [Memory.byte_setByte, if_neg (by omega)]
        · rfl
      rw [elsewhere]
      by_cases low : a ≤ j
      · have apart : j - a ≠ e.1 := fun at' => here ⟨at', low⟩
        rw [if_neg apart]
      · rw [if_neg (by omega), if_neg (by omega)]

theorem Memory.byte_paste (m run : Memory) (a n j : Nat) (h : run.wf = true) :
    (m.paste a n run).byte j = if a ≤ j ∧ j < a + n then run.byte (j - a) else m.byte j := by
  rw [Memory.paste, Memory.byte_pasteOver _ _ _ _ _ h, Memory.byte_clearRange]
  by_cases inside : a ≤ j ∧ j < a + n
  · rw [if_pos inside, if_pos inside]
    by_cases zero : run.byte (j - a) = 0
    · rw [zero, if_neg (by simp)]
    · rw [if_pos ⟨inside.1, inside.2, zero⟩]
  · rw [if_neg inside, if_neg inside, if_neg fun h => inside ⟨h.1, h.2.1⟩]

end Sys2Proof.Machine

/-! PROOFS. RFETCH (R204, R443). -/

namespace Sys2Proof.Machine

/-! ## The contents of a tile (R158, R191) -/

theorem wf_zeroCode (four : Bool) (m : Memory) (r c : Nat) (h : m.wf = true) : (zeroCode four m r c).wf = true := by
  unfold zeroCode
  split
  · exact Memory.wf_setByte _ _ _ h
  · exact Memory.wf_setByte _ _ _ h

section
variable {k : Core} {slot fam : Nat} {fmt : Word}

/-- Without scales the data of a tile travels as it stands. -/
theorem tileContents_unscaled (h : (if fam = 0 then fmt.getLsbD 5 else fmt.getLsbD 13) = false) :
    (tileContents k slot fam fmt).1 = k.sram.slice (0x200000 + slot * 0x1000) 0x1000 0 := by
  simp only [tileContents, h]
  rfl

theorem tileContents_side : (tileContents k slot fam fmt).2 = k.sram.slice (0x400000 + slot * 0x80) 0x80 0 := by
  cases scaled : (if fam = 0 then fmt.getLsbD 5 else fmt.getLsbD 13)
  · simp only [tileContents, scaled]
    rfl
  · simp only [tileContents, scaled]
    rfl

theorem wf_tileContents (h : k.sram.wf = true) : (tileContents k slot fam fmt).1.wf = true := by
  have data := Memory.wf_slice k.sram (0x200000 + slot * 0x1000) 0x1000 h
  cases scaled : (if fam = 0 then fmt.getLsbD 5 else fmt.getLsbD 13)
  · rw [tileContents_unscaled scaled]
    exact data
  · simp only [tileContents, scaled]
    refine Memory.wf_foldl _ (fun m b hm => Memory.wf_foldl _ (fun m q hm => ?_) _ _ hm) _ _ data
    split
    · exact wf_zeroCode _ _ _ _ hm
    · exact wf_zeroCode _ _ _ _ hm

end

/-! ## The destination slot -/

/-- A core with a tile's contents in a slot. -/
def Core.tileWritten (k : Core) (n : Nat) (c : Memory × Memory) : Core :=
  let k := k.touch (slotData n)
  let k := { k with sram := (k.sram.paste (slotData n) 0x1000 c.1).paste (slotSide n) 0x80 c.2 }
  (k.markRange (slotData n) 0x1000 false).markRange (slotSide n) 0x80 false

theorem Core.touch_keeps (k : Core) (off : Nat) : (k.touch off).sram = k.sram ∧ (k.touch off).cache = k.cache ∧
    (k.touch off).threads = k.threads ∧ (k.touch off).xrf = k.xrf := by
  unfold Core.touch
  split <;> exact ⟨rfl, rfl, rfl, rfl⟩

section
variable {k : Core} {n : Nat} {c : Memory × Memory}

theorem Core.cache_tileWritten : (k.tileWritten n c).cache = k.cache := (k.touch_keeps (slotData n)).2.1
theorem Core.threads_tileWritten : (k.tileWritten n c).threads = k.threads := (k.touch_keeps (slotData n)).2.2.1
theorem Core.xrf_tileWritten : (k.tileWritten n c).xrf = k.xrf := (k.touch_keeps (slotData n)).2.2.2
theorem Core.sram_tileWritten :
    (k.tileWritten n c).sram = (k.sram.paste (slotData n) 0x1000 c.1).paste (slotSide n) 0x80 c.2 :=
  congrArg (fun m : Memory => (m.paste (slotData n) 0x1000 c.1).paste (slotSide n) 0x80 c.2) (k.touch_keeps (slotData n)).1

theorem slotData_eq (n : Nat) : slotData n = 0x200000 + 0x1000 * n := by rw [slotData, Nat.mul_comm]
theorem slotSide_eq (n : Nat) : slotSide n = 0x400000 + 0x80 * n := by rw [slotSide, Nat.mul_comm]

/-- The bytes of the local memory once a tile's contents are in a slot. -/
theorem Core.byte_tileWritten (hd : c.1.wf = true) (hs : c.2.wf = true) (o : Nat) : (k.tileWritten n c).sram.byte o =
    if 0x400000 + 0x80 * n ≤ o ∧ o < 0x400000 + 0x80 * n + 0x80 then c.2.byte (o - (0x400000 + 0x80 * n))
    else if 0x200000 + 0x1000 * n ≤ o ∧ o < 0x200000 + 0x1000 * n + 0x1000 then c.1.byte (o - (0x200000 + 0x1000 * n))
    else k.sram.byte o := by
  rw [Core.sram_tileWritten, Memory.byte_paste _ _ _ _ _ hs, Memory.byte_paste _ _ _ _ _ hd, slotData_eq, slotSide_eq]

section
variable (hn : n < 512) (hd : c.1.wf = true) (hs : c.2.wf = true) {o : Nat}
include hn hd hs

theorem Core.byte_tileWritten_data (ho : o < 0x1000) : (k.tileWritten n c).sram.byte (0x200000 + 0x1000 * n + o) = c.1.byte o := by
  rw [Core.byte_tileWritten hd hs, if_neg (by omega), if_pos (by omega), Nat.add_sub_cancel_left]

omit hn in
theorem Core.byte_tileWritten_side (ho : o < 0x80) : (k.tileWritten n c).sram.byte (0x400000 + 0x80 * n + o) = c.2.byte o := by
  rw [Core.byte_tileWritten hd hs, if_pos (by omega), Nat.add_sub_cancel_left]

omit hn in
theorem Core.byte_tileWritten_other (data : ∀ j, j < 0x1000 → o ≠ 0x200000 + 0x1000 * n + j)
    (side : ∀ j, j < 0x80 → o ≠ 0x400000 + 0x80 * n + j) : (k.tileWritten n c).sram.byte o = k.sram.byte o := by
  rw [Core.byte_tileWritten hd hs, if_neg fun h => side (o - (0x400000 + 0x80 * n)) (by omega) (by omega),
    if_neg fun h => data (o - (0x200000 + 0x1000 * n)) (by omega) (by omega)]

end

end

/-! ## A core changed in its local memory -/

section
variable {s : State} {f : Core → Core}

theorem State.x_modMyCore (h : (f s.myCore).xrf = s.myCore.xrf) (r : Nat) : (s.modMyCore f).x r = s.x r := by
  have xrf : ((s.modMyCore f).core s.cur.unit).xrf = (s.core s.cur.unit).xrf := by
    rw [State.modMyCore, State.core_modCore_self]
    exact h
  simp only [State.x, State.xOf, State.modMyCore_cur, xrf]
  rfl

theorem State.roomFor_of_me {t : State} {d : Nat} (hm : t.me = s.me) (hc : t.cur = s.cur) (h : s.roomFor d) : t.roomFor d := by
  intro hd
  rw [State.q1Room, hm, hc]
  exact h hd

theorem State.byteAt_modMyCore_sram (s : State) (f : Core → Core) (o : Nat) :
    (s.modMyCore f).byteAt (.sram s.cur.unit o) = (f s.myCore).sram.byte o :=
  congrArg (fun k : Core => k.sram.byte o) (State.core_modCore_self ..)

/-- A change of the core's local memory alone leaves every other byte. -/
theorem State.byteAt_modMyCore_other (hc : (f s.myCore).cache = s.myCore.cache) {l : Loc}
    (hl : ∀ o, l = .sram s.cur.unit o → (f s.myCore).sram.byte o = s.myCore.sram.byte o) :
    (s.modMyCore f).byteAt l = s.byteAt l := by
  cases l with
  | phys a => rfl
  | handler n o => rfl
  | sram c o =>
    by_cases mine : c = s.cur.unit
    · subst mine
      rw [State.byteAt_modMyCore_sram, hl o rfl]
      rfl
    · exact congrArg (fun k : Core => k.sram.byte o) (State.core_modCore_ne _ _ mine)
  | cached c pa =>
    have cache : ((s.modMyCore f).core c).cache = (s.core c).cache := by
      by_cases mine : c = s.cur.unit
      · subst mine
        rw [State.modMyCore, State.core_modCore_self]
        exact hc
      · rw [State.modMyCore, State.core_modCore_ne _ _ mine]
    simp only [State.byteAt, Core.block, cache]

end

/-! ## RFETCH -/

/-- What RFETCH does once its checks and its reservation have passed and its slot is not in use. -/
def fetchInto (d n : Nat) (x : Word) (s : State) : Exec State :=
  match s.tileSource (hemOf s.cur.unit) x with
  | none => lateX d 1 s
  | some (core, slot) =>
    let fmt := (((s.myHem.tileRecord x).bind fun r => s.myHem.entryFor (fld x 11 11) (hMat r.2.hdr)).map (·.2.fmt)).getD 0
    lateX d 0 (s.modMyCore fun k => k.tileWritten n (tileContents (s.core core) slot (fld x 11 11) fmt))

theorem exec_rfetch {s : State} {d a b : Nat} : exec (.rfetch d a b) s = issue (usesDAB d a b) (fun x y _ s => do
    ringCheck s true (slotNum y) 1
    reserveX d s
    if s.slotBusy s.cur.unit s.cur.slot (slotNum y) then .error (.wait .matrix id) else fetchInto d (slotNum y) x s) s := rfl

/-- The check of one destination slot. -/
theorem ringCheck_one (t : State) (n : Nat) :
    ringCheck t true n 1 = if t.slotBarred (n, true) = true then trapWith cRing n else .ok () := by
  rw [ringCheck_eq t ⟨n, 1, true⟩]
  have slots : (Group.mk n 1 true).slots = [(n, true)] := rfl
  rw [slots, List.find?_singleton]
  by_cases barred : t.slotBarred (n, true) = true
  · rw [if_pos barred, if_pos barred]
  · rw [if_neg barred, if_neg barred]

section
variable {s t : State} {d a b n : Nat} {x y z : Word} (hb : s.Begins (usesDAB d a b) x y z t) (hn : n = slotNum y)
include hb hn

theorem rfetch_barred (h : t.slotBarred (n, true) = true) :
    exec (.rfetch d a b) s = .next (s.takeTrap 0x0F (w64 n) none) := by
  subst hn
  rw [exec_rfetch]
  refine issue_trap hb ?_
  rw [ringCheck_one, if_pos h]
  rfl

variable (free : t.slotBarred (n, true) = false)
include free

theorem rfetch_full (h : ¬ t.roomFor d) : exec (.rfetch d a b) s = .next s.noRoom := by
  subst hn
  rw [exec_rfetch]
  refine issue_park hb ?_
  rw [ringCheck_one, free, reserveX_full h]
  rfl

theorem rfetch_fetches (room : t.roomFor d) (idle : t.slotBusy s.cur.unit s.cur.slot n = false) :
    exec (.rfetch d a b) s = .next (s.ends (fetchInto d n x t)) := by
  rw [← hb.cur] at idle
  subst hn
  rw [exec_rfetch]
  refine (issue_begins hb).trans ?_
  rw [ringCheck_one, free, reserveX_roomFor room, idle]
  rfl

end

end Sys2Proof.Machine

namespace Sys2Proof.Proofs

open Sys2Proof.Machine

/-- Settles O28: the checks of RFETCH, then the copy of the source slot's bytes into the destination's, which lie apart from all others. -/
theorem tileFetch : Obligations.TileFetch := by
  constructor
  · intro s t d a b n x y z hb hpp hn
    refine ⟨rfetch_barred hb hn, rfetch_full hb hn, fun free room idle => ?_⟩
    rw [rfetch_fetches hb hn free room idle, ← hb.cur, fetchInto]
    refine ⟨fun none' takes => ?_, fun core slot fmt source wf hfmt => ?_⟩
    · rw [none']
      exact congrArg _ (State.ends_lateX room takes)
    · let c := tileContents (t.core core) slot (fld x 11 11) fmt
      have data : c.1.wf = true := wf_tileContents wf
      have sideIs : c.2 = (t.core core).sram.slice (0x400000 + slot * 0x80) 0x80 0 := tileContents_side
      have side : c.2.wf = true := sideIs ▸ Memory.wf_slice _ _ _ wf
      have low : n < 512 := hn ▸ Nat.mod_lt _ (by decide)
      have me : (t.modMyCore fun k => k.tileWritten n c).me = t.me := State.me_modMyCore Core.threads_tileWritten
      refine ⟨t.modMyCore fun k => k.tileWritten n c, fun takes => ?_, State.x_modMyCore Core.xrf_tileWritten, me, fun o ho => ?_,
        fun o ho => ?_, fun l notData notSide => State.byteAt_modMyCore_other Core.cache_tileWritten ?_⟩
      · rw [source]
        dsimp only
        rw [← hfmt]
        exact congrArg _ (State.ends_lateX (State.roomFor_of_me me rfl room) takes)
      · rw [State.byteAt_modMyCore_sram, Core.byte_tileWritten_data low data side ho]
      · rw [State.byteAt_modMyCore_sram, Core.byte_tileWritten_side data side ho, sideIs, Memory.byte_slice, if_pos ho, Nat.mul_comm]
        rfl
      · rintro o rfl
        exact Core.byte_tileWritten_other data side (fun j hj at' => notData j hj (congrArg _ at'))
          fun j hj at' => notSide j hj (congrArg _ at')
  · intro k slot fam o fmt wf ho unscaled
    rw [tileContents_unscaled unscaled, Memory.byte_slice, if_pos ho, Nat.mul_comm]

end Sys2Proof.Proofs

/-! PROOFS. Tiles at stations and on links (R191 to R194, R206, R208). -/

namespace Sys2Proof.Machine

theorem linkKey_eq (fam st : Nat) : linkKey fam st = 16 * fam + st := by rw [linkKey, Nat.mul_comm]

/-- A fold in which only the step at one element, which comes once, changes the state. -/
theorem foldl_only {σ α : Type} {f : σ → α → σ} {s : σ} {k : α} {l : List α} (hk : k ∈ l) (once : l.Nodup)
    (before : ∀ a ∈ l, a ≠ k → f s a = s) (after : ∀ a ∈ l, a ≠ k → f (f s k) a = f s k) : l.foldl f s = f s k := by
  obtain ⟨p, q, rfl⟩ := List.append_of_mem hk
  obtain ⟨notIn, -⟩ := List.nodup_cons.mp (List.nodup_middle.mp once)
  rw [List.mem_append, not_or] at notIn
  rw [List.foldl_append, List.foldl_cons,
    foldl_of_fixed fun a ha => before a (List.mem_append_left _ ha) fun at' => notIn.1 (at' ▸ ha)]
  exact foldl_of_fixed fun a ha => after a (List.mem_append_right _ (List.mem_cons_of_mem _ ha)) fun at' => notIn.2 (at' ▸ ha)

theorem hopEnd_of_slot {now : Nat} (slot : now % 12 = 0) : hopEnd now = now + 12 := by
  simp only [hopEnd, hopCycles]
  omega

/-! ## Which tile may enter, and which arrives (R192, R194) -/

section
variable {m : Hem} {fam st now : Nat}

theorem slotBegins_iff : slotBegins now = true ↔ now % 12 = 0 := by simp [slotBegins, hopCycles]

theorem Hem.mayEnter_iff : m.mayEnter fam st now = true ↔ now % 12 = 0 ∧ m.ring.saveBuffer = [] ∧ m.arrivingTile fam st now = none ∧
    m.ring.links.look (16 * fam + st) = none ∧ m.ring.departing.at (16 * fam + st) [] = [] := by
  simp only [Hem.mayEnter, Bool.and_eq_true, slotBegins_iff, beq_iff_eq, Option.isNone_iff_eq_none, linkKey_eq, and_assoc]

/-- With the ring save buffer empty a tile comes over the link into the station (R24). -/
theorem Hem.arrivingTile_link {t : Tile} (empty : m.ring.saveBuffer = []) (on : m.ring.links.look (linkInto fam st) = some t)
    (due : t.due ≤ now) : m.arrivingTile fam st now = some t := by
  simp [Hem.arrivingTile, empty, on, due]

/-- A tile that came over a link leaves it; nothing waits for the link. -/
theorem Hem.takeTile_link {t : Tile} (empty : m.ring.saveBuffer = []) (none' : m.ring.departing = []) :
    m.takeTile fam st now t = { m with ring := { m.ring with links := m.ring.links.del (linkInto fam st) } } := by
  simp only [Hem.takeTile, empty, Hem.depart, none']
  simp

/-- A tile takes a free link for which no other waits (R206). -/
theorem Hem.ring_forward {t : Tile} (runs : m.stopped = false) (free : m.ring.links.look (linkKey t.fam st) = none)
    (first : m.ring.departing.at (linkKey t.fam st) [] = []) : (m.forward st now t).ring = { m.ring with
      links := m.ring.links.put (linkKey t.fam st) { t with due := hopEnd now }
      departing := (m.ring.departing.put (linkKey t.fam st) [t]).del (linkKey t.fam st) } := by
  simp [Hem.forward, Hem.depart, free, first, runs]

end

/-! ## A tile that meets none and does not return to its station (R193, R194) -/

section
variable {s : State} {h st idx : Nat} {t : Tile}

theorem State.meetAll_of_alone (alone : (s.hem h).ring.passing = []) (l : List Nat) : s.meetAll h st idx t l = s := by
  induction l with
  | nil => rfl
  | cons i l ih =>
    simp only [State.meetAll, alone, Map.look_nil]
    exact ih

/-- The state in which a tile has entered the passing set and gone on. -/
def State.passesOn (s : State) (h st : Nat) (t : Tile) : State :=
  (s.enterPass h st ((s.hem h).passFor t.fam st (injKey t.fam t.inj t.record)) t).modHem h fun m =>
    m.forward st s.time { t with hdr := ((s.hem h).ring.inj (injKey t.fam t.inj t.record)).hdr }

theorem State.arriveTile_of_alone {first : Bool} (alone : (s.hem h).ring.passing = []) (away : first = true ∨ t.inj ≠ st) :
    s.arriveTile h st t first = s.passesOn h st t := by
  have notHome : (decide (st = t.inj) && !first) = false := by
    rcases away with rfl | other
    · simp
    · simp [Ne.symm other]
  simp only [State.arriveTile, notHome, Bool.false_eq_true, if_false, State.meetAll_of_alone alone, Bool.false_and, State.passesOn]

theorem State.coreThread_passesOn (c n : Nat) : (s.passesOn h st t).coreThread c n = s.coreThread c n :=
  State.coreThread_modCore (f := fun k => { k with
    sram := (k.sram.paste (0x200000 + passSlot t.fam _ * 0x1000) 0x1000 t.data).paste (0x400000 + passSlot t.fam _ * 0x80) 0x80 t.side })
    (fun _ => rfl) _ _ c n

/-- Entering the passing set leaves the records and the links. -/
theorem State.hem_enterPass : ((s.enterPass h st idx t).hem h).stopped = (s.hem h).stopped ∧
    ((s.enterPass h st idx t).hem h).ring.links = (s.hem h).ring.links ∧
    ((s.enterPass h st idx t).hem h).ring.departing = (s.hem h).ring.departing ∧
    ((s.enterPass h st idx t).hem h).ring.injectors = (s.hem h).ring.injectors := by
  simp only [State.enterPass, State.hem_modCore, State.hem_modHem_self, and_self]

/-- The tile as it is on the link. -/
def State.onLink (s : State) (h : Nat) (t : Tile) : Tile :=
  { t with hdr := ((s.hem h).ring.inj (injKey t.fam t.inj t.record)).hdr, due := hopEnd s.time }

/-- The tile is on the link, for a hop; the records stay. -/
theorem State.ring_passesOn (runs : (s.hem h).stopped = false) (free : (s.hem h).ring.links.look (linkKey t.fam st) = none)
    (first : (s.hem h).ring.departing.at (linkKey t.fam st) [] = []) :
    ((s.passesOn h st t).hem h).ring.links = (s.hem h).ring.links.put (linkKey t.fam st) (s.onLink h t) ∧
      ((s.passesOn h st t).hem h).ring.injectors = (s.hem h).ring.injectors := by
  obtain ⟨stopped, links, departing, injectors⟩ :=
    State.hem_enterPass (s := s) (h := h) (st := st) (t := t) (idx := (s.hem h).passFor t.fam st (injKey t.fam t.inj t.record))
  rw [State.passesOn, State.hem_modHem_self,
    Hem.ring_forward (t := { t with hdr := ((s.hem h).ring.inj (injKey t.fam t.inj t.record)).hdr }) (stopped.trans runs)
      ((congrArg (fun m : Map Tile => m.look _) links).trans free) ((congrArg (fun m : Map (List Tile) => m.at _ []) departing).trans first)]
  exact ⟨congrArg (fun m : Map Tile => m.put _ _) links, injectors⟩

end

/-! ## TILE_ENTRY and TILE_ARRIVAL -/

section
variable {s : State} {h st fam : Nat} (hh : h < 64) (hst : st < 16) (hfam : fam < 2)
include hh hst hfam

theorem exec_tileEntry : exec (.tileEntry h st fam) s = .next (s.tileEntry h st fam) :=
  (hemEvent_next hh _ s).trans (by simp [hst, hfam])

theorem exec_tileArrival : exec (.tileArrival h st fam) s = .next (s.tileArrival h st fam) :=
  (hemEvent_next hh _ s).trans (by simp [hst, hfam])

end

section
variable {s : State} {h st fam k : Nat} {i : Injector} {t : Tile}

theorem State.tileEntry_waits (runs : (s.hem h).stopped = false) (no : (s.hem h).mayEnter fam st s.time = false) :
    s.tileEntry h st fam = s := by
  rw [State.tileEntry, runs]
  cases (s.hem h).waitingInj fam st with
  | none => rfl
  | some x => simp [no]

/-- While the hem stops, an accepted tile stays in its record, and its thread gets the id (R208). -/
theorem State.tileEntry_stopped (stops : (s.hem h).stopped = true) (hk : k < 64)
    (only : (s.hem h).ring.injectors = [(injKey fam st k, i)]) (active : i.active = true) (outside : i.entered = false) :
    s.tileEntry h st fam = s.giveId st fam k i := by
  have record (r : Nat) : (s.hem h).ring.inj (injKey fam st r) = if r = k then i else Injector.reset := by
    rw [RingDyn.inj, only]
    by_cases hr : r = k
    · subst hr
      simp [Map.at, Map.look]
    · have apart : injKey fam st r ≠ injKey fam st k := by simpa [injKey] using hr
      simp [Map.at, Map.look, hr, apart]
  have idle (u : State) (same : (u.hem h).ring.injectors = (s.hem h).ring.injectors) {r : Nat} (hr : r ≠ k) :
      ((u.hem h).ring.inj (injKey fam st r)).active = false := by
    have at' : (u.hem h).ring.inj (injKey fam st r) = (s.hem h).ring.inj (injKey fam st r) :=
      congrArg (fun m : Map Injector => m.at _ _) same
    rw [at', record, if_neg hr]
    rfl
  rw [State.tileEntry, if_pos stops, foldl_only (k := k) (List.mem_range.mpr hk) List.nodup_range]
  · simp [record, active, outside]
  · intro r _ hr
    simp [idle s rfl hr]
  · intro r _ hr
    simp only [record, if_true, active, outside, Bool.not_false, Bool.and_self]
    rw [idle (s.giveId st fam k i) rfl hr]
    rfl

/-- The state in which an accepted tile is entered, its thread with the id, before it is processed. -/
def State.entered (s : State) (h st fam k : Nat) (i : Injector) : State :=
  (s.modHem h fun m => { m with ring := m.ring.setInj (injKey fam st k) { i with entered := true } }).giveId st fam k i

/-- The tile of a record, as it enters (R191). -/
def State.tileOf (s : State) (h st fam k : Nat) (i : Injector) : Tile :=
  let c := tileContents (s.core i.core) i.slot fam ((((s.hem h).entryFor fam (hMat i.hdr)).map (·.2.fmt)).getD 0)
  { hdr := i.hdr, due := 0, fam, inj := st, record := k, seq := i.seq, data := c.1, side := c.2 }

theorem State.tileEntry_enters (runs : (s.hem h).stopped = false) (first : (s.hem h).waitingInj fam st = some (k, i))
    (may : (s.hem h).mayEnter fam st s.time = true) :
    s.tileEntry h st fam = (s.entered h st fam k i).arriveTile h st (s.tileOf h st fam k i) true := by
  rw [State.tileEntry, runs, first, may]
  rfl

theorem State.hem_entered : (s.entered h st fam k i).hem h =
    { s.hem h with ring := (s.hem h).ring.setInj (injKey fam st k) { i with entered := true } } := by
  rw [State.entered, State.giveId, State.modCoreThread, State.modThread, State.hem_setThread, State.hem_modHem_self]

theorem State.tileArrival_arrives (comes : (s.hem h).arrivingTile fam st s.time = some t)
    (first : fam = 1 → (s.hem h).arrivingTile 0 st s.time = none) :
    s.tileArrival h st fam = (s.modHem h fun m => m.takeTile fam st s.time t).arriveTile h st t false := by
  have turn : (decide (fam = 1) && ((s.hem h).arrivingTile 0 st s.time).isSome) = false := by
    by_cases hf : fam = 1
    · simp [first hf]
    · simp [hf]
  simp [State.tileArrival, comes, turn]

end

end Sys2Proof.Machine

/-! PROOFS. The starts and the elements of copy jobs, and JOBRES (R251 to R254). -/

namespace Sys2Proof.Machine

section
variable {s : State} {h e : Nat} {j : Job} {w : Word}

@[simp] theorem Hem.job_setJob (m : Hem) (e : Nat) (j : Job) : (m.setJob e j).job e = some j := Map.look_put_self ..

theorem exec_jobStart (hh : h < 64) (only : (s.hem h).jobs = [(e, j)]) (queued : j.state = .queued) :
    exec (.jobStart h) s = .next (s.modHem h fun m => m.setJob e { j with state := .running }) := by
  have room : (s.hem h).runningJobs = 0 := by simp [Hem.runningJobs, only, queued]
  have oldest : (s.hem h).oldestQueued = some (e, j) := by simp [Hem.oldestQueued, only, queued]
  refine (hemEvent_next hh _ s).trans ?_
  rw [room, oldest]
  rfl

theorem exec_jobres (hh : h < 64) : exec (.jobres h w) s = .next (s.jobres h w) := hemEvent_next hh (fun s => s.jobres h w) s

theorem jobEntry_fld (w : Word) : jobEntry (fld w 15 0) = fld w 15 8 := by
  simp only [jobEntry, fld, bits]
  omega

section
variable (job : (s.hem h).job e = some j) (paused : j.state = .paused) (hid : (s.hem h).jobId e = fld w 15 0) (he : fld w 15 8 = e)
include job paused hid he

theorem State.jobres_retries (retry : w.getLsbD 16 = false) :
    s.jobres h w = s.modHem h fun m => m.setJob e { j with state := .running } := by
  have entry : jobEntry (fld w 15 0) = e := (jobEntry_fld w).trans he
  simp only [State.jobres, entry, job, paused, hid, retry, beq_self_eq_true, Bool.and_self, if_true, Bool.false_eq_true, if_false]

theorem State.jobres_fails (fails : w.getLsbD 16 = true) : s.jobres h w = s.endJob h e .failed 0x07 := by
  have entry : jobEntry (fld w 15 0) = e := (jobEntry_fld w).trans he
  simp [State.jobres, entry, job, paused, hid, fails, cPageInvalid]

end

/-- A job that fails keeps its entry, with the cause (R253, R255). -/
theorem State.job_endJob_failed {c : Nat} (job : (s.hem h).job e = some j) :
    ((s.endJob h e .failed c).hem h).job e = some { j with state := .failed, cause := c, waiting := false } := by
  have goesOn : (JobState.failed == JobState.complete && j.norec) = false := rfl
  simp only [State.endJob, job, goesOn, Bool.false_eq_true, if_false]
  rw [State.modCoreThread, State.modThread, State.hem_setThread, State.hem_modHem_self, Hem.job_setJob]

/-! ## An element of a STREAM job (R252, R254) -/

/-- The last piece of an element of 8 bytes goes to the queue. -/
theorem Job.next_stream {v : Nat} (kind : j.kind = 5) (whole : j.zskip = false) (esz : j.esz = 3) (wrote : j.wrote = 0)
    (buf : j.buf = [v]) : j.next = .stream v := by
  simp [Job.next, Job.needsIndex, Job.unread, Job.pieces, Job.pieceSize, Job.piece, kind, whole, esz, wrote, buf]

/-- A job with its element delivered. -/
def Job.delivers (j : Job) : Job :=
  { j with pos := j.pos + 1, delivered := j.delivered + 2 ^ j.esz, buf := [], wrote := 0, index := none }

theorem State.elementDone_of_more (job : (s.hem h).job e = some j) (quiet : j.bcen = false) (whole : j.zskip = false)
    (more : j.pos + 1 ≠ j.total) : s.elementDone h e = s.modHem h fun m => m.setJob e j.delivers := by
  simp only [State.elementDone, job, quiet, whole, more, Job.delivers]
  rfl

/-- The engine's acts on an element end where the job has come to another. -/
theorem State.engineRun_moved {p : Partition} {pos n : Nat} (job : (s.hem h).job e = some j) (moved : j.pos ≠ pos) :
    s.engineRun h e p pos n = s := by
  cases n with
  | zero => rfl
  | succ n => simp [State.engineRun, job, moved]

theorem State.settleJob_of_running {p : Partition} (part : s.partOfHem h = some p) (noStop : p.cqsc = none) : s.settleJob h e = s := by
  unfold State.settleJob
  rw [part]
  cases (s.hem h).job e with
  | none => rfl
  | some j => simp [noStop]

/-- The state in which a thread's q4 has taken a dword of a STREAM job, whose element is delivered. -/
def State.streamed (s : State) (h e : Nat) (j : Job) (v : Nat) : State :=
  (s.modCoreThread j.core j.slot fun t => { t with queues := { t.queues with q4 := t.queues.q4 ++ [w64 v] } }).modHem h fun m =>
    m.setJob e j.delivers

theorem State.q4_streamed (v : Nat) : ((s.streamed h e j v).coreThread j.core j.slot).queues.q4 =
    (s.coreThread j.core j.slot).queues.q4 ++ [w64 v] :=
  congrArg (fun t : Thread => t.queues.q4) (State.coreThread_modCoreThread_self s j.core j.slot fun t =>
    { t with queues := { t.queues with q4 := t.queues.q4 ++ [w64 v] } })

theorem exec_elementDelivery_stream {p : Partition} {v : Nat} (hh : h < 64) (job : (s.hem h).job e = some j)
    (part : s.partOfHem h = some p) (noStop : p.cqsc = none) (runs : j.state = .running) (kind : j.kind = 5)
    (free : j.waiting = false) (whole : j.zskip = false) (quiet : j.bcen = false) (esz : j.esz = 3) (wrote : j.wrote = 0)
    (buf : j.buf = [v]) (more : j.pos + 1 ≠ j.total) (room : (s.coreThread j.core j.slot).queues.q4.length < 32) :
    exec (.elementDelivery h e) s = .next (s.streamed h e j v) := by
  have notFull : s.streamFull j = false := by simp [State.streamFull, room]
  have onTime : s.armDue j = false := by simp [State.armDue, quiet]
  have act : s.engineAct h e p j = s.streamed h e j v := by
    have there : ((s.modCoreThread j.core j.slot fun t =>
        { t with queues := { t.queues with q4 := t.queues.q4 ++ [w64 v] } }).hem h).job e = some j := job
    rw [State.engineAct, Job.next_stream kind whole esz wrote buf]
    exact State.elementDone_of_more there quiet whole more
  have moved : ((s.streamed h e j v).hem h).job e = some j.delivers := by
    rw [State.streamed, State.hem_modHem_self, Hem.job_setJob]
  have run : s.engineRun h e p j.pos elementActs = s.streamed h e j v := by
    rw [elementActs, State.engineRun, job]
    simp only [runs, free, notFull, act, State.engineRun_moved moved (Nat.succ_ne_self j.pos)]
    rfl
  have partAfter : (s.streamed h e j v).partOfHem h = some p := part
  refine (hemEvent_next hh (fun s => s.deliverElement h e) s).trans ?_
  simp only [State.deliverElement, part, job, onTime, run, State.settleJob_of_running partAfter noStop]
  rfl

end

end Sys2Proof.Machine

namespace Sys2Proof.Proofs

open Sys2Proof.Machine

/-- Settles O51: a tile enters or arrives as its link and its hem allow, and alone it goes on to the next link; a job starts, delivers an
element, or is answered. -/
theorem stationEvents : Obligations.StationEvents := by
  refine ⟨?waits, ?stopped, ?enters, ?arrives, ?jobs⟩
  case waits =>
    intro s h st fam hh hst hfam runs busy
    rw [exec_tileEntry hh hst hfam, State.tileEntry_waits runs (Bool.eq_false_iff.mpr fun may => ?_)]
    obtain ⟨slot, empty, none', free, first⟩ := Hem.mayEnter_iff.mp may
    rcases busy with off | kept | comes | used | waits
    · exact off slot
    · exact kept empty
    · simp [none'] at comes
    · simp [free] at used
    · exact waits first
  case stopped =>
    intro s h st fam k i hh hst hfam hk stops only active outside
    rw [exec_tileEntry hh hst hfam, State.tileEntry_stopped stops hk only active outside]
    rfl
  case enters =>
    intro s h st fam k i hh hst hfam runs alone first slot empty none' free waits
    have hem := State.hem_entered (s := s) (h := h) (st := st) (fam := fam) (k := k) (i := i)
    have alone' : ((s.entered h st fam k i).hem h).ring.passing = [] := by rw [hem]; exact alone
    obtain ⟨links, injectors⟩ := State.ring_passesOn (s := s.entered h st fam k i) (h := h) (st := st) (t := s.tileOf h st fam k i)
      (by rw [hem]; exact runs) (by rw [hem, linkKey_eq]; exact free) (by rw [hem, linkKey_eq]; exact waits)
    rw [exec_tileEntry hh hst hfam,
      State.tileEntry_enters runs first (Hem.mayEnter_iff.mpr ⟨slot, empty, none', free, waits⟩),
      State.arriveTile_of_alone alone' (.inl rfl)]
    refine ⟨_, (s.entered h st fam k i).onLink h (s.tileOf h st fam k i), rfl, ?_, ?_, ?_, ?_⟩
    · rw [RingDyn.inj, injectors, hem]
      exact congrArg Injector.entered (RingDyn.inj_setInj_self ..)
    · rw [State.coreThread_passesOn]
      exact congrArg Thread.pending (State.coreThread_modCoreThread_self ..)
    · rw [links, ← linkKey_eq]
      exact Map.look_put_self ..
    · rw [← hopEnd_of_slot slot]
      rfl
  case arrives =>
    intro s h st fam link t hh hst hfam runs empty alone waits hl on due hf away turn free
    have into : linkInto fam st = link := (linkKey_eq ..).trans hl.symm
    have apart : 16 * fam + st ≠ link := by
      rw [hl]
      split <;> omega
    rw [← into] at on
    have hem : (s.modHem h fun m => m.takeTile fam st s.time t).hem h = { s.hem h with ring :=
        { (s.hem h).ring with links := (s.hem h).ring.links.del link } } := by
      rw [State.hem_modHem_self, Hem.takeTile_link empty waits, into]
    subst hf
    obtain ⟨links, -⟩ := State.ring_passesOn (s := s.modHem h fun m => m.takeTile t.fam st s.time t) (h := h) (st := st) (t := t)
      (by rw [hem]; exact runs) (by rw [hem, linkKey_eq]; exact (Map.look_del_ne _ apart).trans free) (by rw [hem]; simp [waits])
    rw [exec_tileArrival hh hst hfam, State.tileArrival_arrives (Hem.arrivingTile_link empty on due) turn,
      State.arriveTile_of_alone (by rw [hem]; exact alone) (.inr away)]
    refine ⟨_, (s.modHem h fun m => m.takeTile t.fam st s.time t).onLink h t, rfl, ?_, ?_, rfl⟩
    · rw [links, hem, linkKey_eq, Map.look_put_ne _ _ apart.symm]
      exact Map.look_del_self ..
    · rw [links, ← linkKey_eq]
      exact Map.look_put_self ..
  case jobs =>
    intro s h e j p w v hh
    refine ⟨fun only queued => ⟨_, exec_jobStart hh only queued, ?started⟩,
      fun job part noStop runs kind free whole quiet esz wrote buf more room =>
        ⟨_, exec_elementDelivery_stream hh job part noStop runs kind free whole quiet esz wrote buf more room, ?taken, j.delivers,
          ?kept, rfl, ?counted, rfl⟩,
      fun job paused hid he =>
        ⟨fun retry => ⟨_, (exec_jobres hh).trans (congrArg _ (State.jobres_retries job paused hid he retry)), ?retried⟩,
          fun fails => ⟨_, (exec_jobres hh).trans (congrArg _ (State.jobres_fails job paused hid he fails)), ?failed⟩⟩⟩
    case started => rw [State.hem_modHem_self, Hem.job_setJob]
    case taken => exact State.q4_streamed v
    case kept => rw [State.streamed, State.hem_modHem_self, Hem.job_setJob]
    case counted => exact congrArg (fun n => j.delivered + 2 ^ n) esz
    case retried => rw [State.hem_modHem_self, Hem.job_setJob]
    case failed => exact State.job_endJob_failed job

end Sys2Proof.Proofs

/-! PROOFS. What the rings' work on an output keeps: the issuing thread, and the applied bits of every output (R198 to R200). -/

namespace Sys2Proof.Machine

theorem Core.threads_pushQ7 (k : Core) (foreign : Bool) (l : List Word) : (k.pushQ7 foreign l).threads = k.threads := by
  unfold Core.pushQ7
  dsimp only
  generalize (!(k.q7waiting.any fun r => r.foreign == foreign) && _ : Bool) = room
  cases room <;> rfl

theorem Core.threads_patch (k : Core) (pa n v : Nat) : (k.patch pa n v).threads = k.threads := by
  unfold Core.patch
  split <;> rfl

/-- The entry at a key once every entry has been changed. -/
theorem Map.look_mapSnd {α : Type} (m : Map α) (f : α → α) (j : Nat) :
    Map.look (List.map (fun e => (e.1, f e.2)) m) j = (m.look j).map f := by
  induction m with
  | nil => rfl
  | cons e m ih =>
    rw [List.map_cons, Map.look, Map.look]
    split
    · rfl
    · exact ih

/-- The slot that issues and its thread are the same, and no output loses an applied bit. -/
structure State.MarksStay (s t : State) : Prop where
  cur : t.cur = s.cur
  me : t.me = s.me
  applied : ∀ h e o k, ((s.hem h).output e o).applied.getLsbD k = true → ((t.hem h).output e o).applied.getLsbD k = true

namespace State.MarksStay

theorem refl (s : State) : s.MarksStay s := ⟨rfl, rfl, fun _ _ _ _ => id⟩

theorem trans {s t u : State} (a : s.MarksStay t) (b : t.MarksStay u) : s.MarksStay u :=
  ⟨b.cur.trans a.cur, b.me.trans a.me, fun h e o k on => b.applied h e o k (a.applied h e o k on)⟩

theorem modCore {f : Core → Core} (hf : ∀ k, (f k).threads = k.threads) (s : State) (c : Nat) : s.MarksStay (s.modCore c f) := by
  refine ⟨rfl, ?_, fun _ _ _ _ => id⟩
  rw [State.me, State.me, State.modCore_cur]
  cases s.cur.pp with
  | true => rfl
  | false => exact State.coreThread_modCore hf ..

theorem modHem {f : Hem → Hem} {s : State} {h : Nat} (hf : ∀ e o k, ((s.hem h).output e o).applied.getLsbD k = true →
    ((f (s.hem h)).output e o).applied.getLsbD k = true) : s.MarksStay (s.modHem h f) := by
  refine ⟨rfl, rfl, fun g e o k on => ?_⟩
  by_cases mine : g = h
  · subst mine
    rw [State.hem_modHem_self]
    exact hf e o k on
  · rwa [State.hem_modHem_ne _ _ mine]

theorem modHem_outputs {f : Hem → Hem} (hf : ∀ m, (f m).outputs = m.outputs) (s : State) (h : Nat) : s.MarksStay (s.modHem h f) :=
  modHem fun e o k on => by rwa [Hem.output, hf]

theorem modPart (s : State) (i : Nat) (f : Partition → Partition) : s.MarksStay (s.modPart i f) := by
  unfold State.modPart
  split
  · exact ⟨rfl, rfl, fun _ _ _ _ => id⟩
  · exact refl s

theorem send (s : State) (a b : Agent) (cls part rseq : Nat) (body : Body) : s.MarksStay (s.send a b cls part rseq body) := by
  unfold State.send State.post
  split
  · exact refl s
  · exact ⟨rfl, rfl, fun _ _ _ _ => id⟩

theorem of_tlbOnly {s t : State} (h : s.TlbOnly t) : s.MarksStay t :=
  ⟨h.cur, h.me, fun g e o k on => by rw [h.hem g]; exact on⟩

/-! ## Records and packets -/

theorem record (s : State) (c : Nat) (l : List Word) : s.MarksStay (s.record c l) :=
  modCore (fun k => k.threads_pushQ7 false l) s c

theorem launchError (s : State) (c n : Nat) : s.MarksStay (s.launchError c n) := by
  unfold State.launchError
  split
  · split
    · split
      · exact refl s
      · exact modPart ..
    · exact refl s
  · exact refl s

theorem taskFault (s : State) (c slot n a : Nat) : s.MarksStay (s.taskFault c slot n a) := by
  unfold State.taskFault
  split
  · exact (record ..).trans (launchError ..)
  · exact record ..

theorem translateNow (s : State) (c : Nat) (p : Priv) (a : Acc) (va : Nat) : s.MarksStay (s.translateNow c p a va).2 := by
  have kept := of_tlbOnly (s.translate_keeps c p a va)
  unfold State.translateNow
  split
  · next held =>
    rw [held] at kept
    split
    · exact kept
    · split <;> exact kept
  · exact kept

theorem devWrite (s : State) (pa n v : Nat) : s.MarksStay (s.devWrite pa n v) := by
  have threads (c : Nat) : ((s.devWrite pa n v).core c).threads = (s.core c).threads := by
    rw [State.core, State.core, Map.at, Map.at, State.devWrite, Map.look_mapSnd s.cores (·.patch pa n v)]
    cases s.cores.look c with
    | none => rfl
    | some k => exact k.threads_patch pa n v
  refine ⟨rfl, ?_, fun _ _ _ _ => id⟩
  rw [State.me, State.me, State.thread, State.thread, Core.thread, threads]
  rfl

theorem ringWrite {s t : State} {c va : Nat} {l : List Word} (h : s.ringWrite c va l = .ok t) : s.MarksStay t := by
  induction l generalizing s va with
  | nil =>
    cases h
    exact refl _
  | cons v l ih =>
    have kept := translateNow s c .s .store va
    unfold State.ringWrite at h
    split at h
    · next tr =>
      rw [tr] at kept
      exact (kept.trans (devWrite ..)).trans (ih h)
    · cases h

theorem ringPut {s t : State} {c pos : Nat} {r : Word} {l : List Packet} (h : s.ringPut c r pos l = .ok t) : s.MarksStay t := by
  induction l generalizing s pos with
  | nil =>
    cases h
    exact refl _
  | cons p l ih =>
    unfold State.ringPut at h
    cases written : s.ringWrite c (ringBase r + pos % ringSize r * 96) p.words with
    | error a =>
      rw [written] at h
      cases h
    | ok u =>
      rw [written] at h
      exact (ringWrite written).trans (ih h)

theorem overflowPut (s : State) (c : Nat) (keep : Bool) (l : List Packet) : s.MarksStay (s.overflowPut c keep l) := by
  unfold State.overflowPut
  dsimp only
  split
  · exact taskFault ..
  · next t put =>
    refine (ringPut put).trans ?_
    split
    · refine trans ?_ (taskFault ..)
      exact modCore (fun _ => by rfl) t c
    · exact modCore (fun _ => by rfl) t c

theorem build (s : State) (c kind : Nat) (pc : Word) (l : List Word) : s.MarksStay (s.build c kind pc l).2 := by
  unfold State.build
  dsimp only
  exact modCore (fun _ => by rfl) s c

theorem place (s : State) (c cls : Nat) (p : Packet) : s.MarksStay (s.place c cls p).2 := by
  unfold State.place
  dsimp only
  split
  · exact modCore (f := fun k => k.listPut cls p) (fun _ => rfl) s c
  · split
    · exact overflowPut ..
    · exact refl s

theorem addTask (s : State) (c cls : Nat) (p : Packet) : s.MarksStay (s.addTask c cls p) := by
  have kept := place s c cls p
  unfold State.addTask
  dsimp only
  split
  · exact kept
  · exact kept.trans (send ..)

theorem sendDec (s : State) (c : Nat) (va : Word) (n : Nat) : s.MarksStay (s.sendDec c va n) :=
  (modCore (f := fun k => k.modWork _) (fun _ => rfl) s c).trans (send ..)

/-! ## Outputs (R198 to R200) -/

theorem setOutput {s : State} {h e o : Nat} {v : Output}
    (kept : ∀ k, ((s.hem h).output e o).applied.getLsbD k = true → v.applied.getLsbD k = true) :
    s.MarksStay (s.modHem h fun m => m.setOutput e o v) := by
  refine modHem fun e' o' k on => ?_
  by_cases same : outKey e' o' = outKey e o
  · rw [Hem.output, same] at on
    rw [Hem.output, same, Hem.setOutput, Map.at_put_self]
    exact kept k on
  · rwa [Hem.output, Hem.setOutput, Map.at_put_ne _ _ _ same]

theorem start (s : State) (h e : Nat) (p : Pattern) (i j k st ia ib : Nat) : s.MarksStay (s.start h e p i j k st ia ib) := by
  have counted := setOutput (s := s) (h := h) (e := e) (o := p.out i j)
    (v := { (s.hem h).output e (p.out i j) with started := true, running := ((s.hem h).output e (p.out i j)).running + 1 }) fun _ => id
  unfold State.start
  dsimp only
  split
  · refine counted.trans ?_
    exact modCore (fun _ => by rfl) _ _
  · have spawned (u : State) (x : Nat × Nat × AppOf) :
        u.MarksStay (u.modHem h fun m => { m with spawned := m.spawned ++ [x] }) := modHem_outputs (fun _ => by rfl) u h
    exact ((counted.trans (build ..)).trans (spawned ..)).trans (addTask ..)

theorem releaseHeld (s : State) (h e : Nat) (p : Pattern) (i j st n : Nat) : s.MarksStay (s.releaseHeld h e p i j st n) := by
  induction n generalizing s with
  | zero => exact refl s
  | succ n ih =>
    unfold State.releaseHeld
    dsimp only
    split
    · have applied := setOutput (s := s) (h := h) (e := e) (o := p.out i j) (v := { (s.hem h).output e (p.out i j) with
        applied := ((s.hem h).output e (p.out i j)).applied ||| w64 (2 ^ ((s.hem h).output e (p.out i j)).next)
        pendingBits := ((s.hem h).output e (p.out i j)).pendingBits &&& ~~~w64 (2 ^ ((s.hem h).output e (p.out i j)).next) })
        fun k on => by rw [BitVec.getLsbD_or, on, Bool.true_or]
      split
      · exact (applied.trans (start ..)).trans (ih _)
      · exact applied
    · exact refl s

theorem complete (s : State) (h e o : Nat) : s.MarksStay (s.complete h e o) := by
  have decs (l : List Word) (c : Nat) (s : State) : s.MarksStay (l.foldl (fun s a => s.sendDec c a 1) s) := by
    induction l generalizing s with
    | nil => exact refl s
    | cons a l ih => exact (sendDec ..).trans (ih _)
  have done (s : State) : s.MarksStay (s.modHem h fun m => m.setOutput e o { m.output e o with completed := true }) :=
    setOutput (v := { (s.hem h).output e o with completed := true }) fun _ => id
  unfold State.complete
  dsimp only
  split
  · exact refl s
  · split
    · exact refl s
    · split
      · exact modHem_outputs (fun _ => by rfl) _ _
      · split
        · refine trans ?_ ((done _).trans (decs ..))
          exact modCore (fun _ => by rfl) s _
        · exact (done _).trans (decs ..)

end State.MarksStay

end Sys2Proof.Machine

/-! PROOFS. PCLR, PMARK and RSTAT (R195, R203, R205, R434, R438, R447). -/

namespace Sys2Proof.Machine

/-! ## The output that a query names -/

section
variable {s : State} {e i j k : Nat} {p : Pattern}

theorem outputOf_inactive (h : s.myHem.entry e = none) : outputOf e i j k s = trapWith cRing 0x1004 := by
  rw [outputOf, h]

theorem outputOf_outside (h : s.myHem.entry e = some p) (out : p.oi ≤ i ∨ p.oj ≤ j ∨ p.kb ≤ k) :
    outputOf e i j k s = trapWith cRing 0x1005 := by
  have outside : (decide (i < p.oi) && decide (j < p.oj) && decide (k < p.kb)) = false := by
    rcases out with hi | hj | hk
    · simp [Nat.not_lt.mpr hi]
    · simp [Nat.not_lt.mpr hj]
    · simp [Nat.not_lt.mpr hk]
  rw [outputOf, h]
  dsimp only
  rw [outside]
  rfl

theorem outputOf_inside (h : s.myHem.entry e = some p) (hi : i < p.oi) (hj : j < p.oj) (hk : k < p.kb) :
    outputOf e i j k s = .ok p := by
  have inside : (decide (i < p.oi) && decide (j < p.oj) && decide (k < p.kb)) = true := by simp [hi, hj, hk]
  rw [outputOf, h]
  dsimp only
  rw [inside]
  rfl

end

/-! ## PCLR (R195, R438) -/

section
variable {s t : State} {b : Nat} {x y z : Word} {p : Pattern} (hb : s.Begins ⟨false, .none, .src b, .none⟩ x y z t)
include hb

theorem pclr_off (off : t.myHem.hemctl.getLsbD 0 = false) : exec (.pclr b) s = .next (s.takeTrap 0x0F 0x1001 none) := by
  refine issue_trap hb (n := cRing) (v := 0x1001) ?_
  simp only [off, ringMust_bind]
  rfl

variable (on : t.myHem.hemctl.getLsbD 0 = true)
include on

theorem pclr_inactive (h : t.myHem.entry (fld y 3 0) = none) : exec (.pclr b) s = .next (s.takeTrap 0x0F 0x1004 none) := by
  refine issue_trap hb (n := cRing) (v := 0x1004) ?_
  simp only [on, ringMust_bind, h]
  rfl

variable (h : t.myHem.entry (fld y 3 0) = some p)
include h

theorem pclr_busy (busy : t.myHem.entryBusy (fld y 3 0) p = true) : exec (.pclr b) s = .next (s.takeTrap 0x0F 0x1008 none) := by
  refine issue_trap hb (n := cRing) (v := 0x1008) ?_
  simp only [on, ringMust_bind, h, busy]
  rfl

/-- A hem with an entry ended; no q5 record that waits names it any more (log entry 55). -/
def Hem.cleared (m : Hem) (e : Nat) (p : Pattern) : Hem :=
  { m with patterns := m.patterns.put e { p with active := false }
           q5waiting := m.q5waiting.map fun w => if w.2.2.1 = e then (w.1, w.2.1, 16, 0) else w }

theorem pclr_clears (free : t.myHem.entryBusy (fld y 3 0) p = false) :
    exec (.pclr b) s = .next (t.modMyHem fun m => m.cleared (fld y 3 0) p) := by
  refine issue_ok hb ?_
  simp only [on, ringMust_bind, h, free]
  rfl

end

/-! ## PMARK (R203, R434) -/

/-- The tile of a family that carries a step counts one partner less (R198). -/
def Hem.tickTile (m : Hem) (fam mat x k : Nat) : Hem := match m.liveTile fam mat x k with
  | some key => m.tick key
  | none => m

theorem Hem.outputs_tickTile (m : Hem) (fam mat x k : Nat) : (m.tickTile fam mat x k).outputs = m.outputs := by
  unfold Hem.tickTile
  split <;> rfl

/-- The state in which a step of an output is applied, with what follows from it. -/
def State.marked (s : State) (e : Nat) (p : Pattern) (i j k : Nat) : State :=
  let h := hemOf s.cur.unit
  let out := s.myHem.output e (p.out i j)
  let s := s.modHem h fun m => m.setOutput e (p.out i j) { out with applied := out.applied ||| w64 (2 ^ k) }
  let s := s.modHem h fun m => (m.tickTile 0 p.ma i k).tickTile 1 p.mb j k
  let s := if p.ordered then s.releaseHeld h e p i j (p.owner (p.out i j)) 64 else s
  s.complete h e (p.out i j)

/-- PMARK of an output that it may name. -/
def pmarkOf (d e : Nat) (p : Pattern) (i j k : Nat) (s : State) : Exec State :=
  if s.myCore.array.ops s.cur.slot ≠ [] then .error (.wait .matrix id)
  else if (s.myHem.output e (p.out i j)).applied.getLsbD k || (s.myHem.output e (p.out i j)).pendingBits.getLsbD k then lateX d 1 s
  else lateX d 0 (s.marked e p i j k)

theorem exec_pmark {s : State} {d a b : Nat} : exec (.pmark d a b) s = issue (usesDAB d a b) (fun x y _ s => do
    let p ← outputOf (fld x 63 60) (fld x 19 10) (fld x 9 0) (fld y 5 0) s
    reserveX d s
    pmarkOf d (fld x 63 60) p (fld x 19 10) (fld x 9 0) (fld y 5 0) s) s := rfl

section
variable {s : State} {e i j k : Nat} {p : Pattern}

/-- What follows from a mark keeps the thread and the marks. -/
theorem State.marksStay_marked (s : State) (e : Nat) (p : Pattern) (i j k : Nat) :
    (s.modMyHem fun m => m.setOutput e (p.out i j) { s.myHem.output e (p.out i j) with
      applied := (s.myHem.output e (p.out i j)).applied ||| w64 (2 ^ k) }).MarksStay (s.marked e p i j k) := by
  have ticked (u : State) : u.MarksStay (u.modHem (hemOf s.cur.unit) fun m => (m.tickTile 0 p.ma i k).tickTile 1 p.mb j k) :=
    State.MarksStay.modHem_outputs (fun m => by rw [Hem.outputs_tickTile, Hem.outputs_tickTile]) u _
  unfold State.marked
  dsimp only
  split
  · exact ((ticked _).trans (State.MarksStay.releaseHeld ..)).trans (State.MarksStay.complete ..)
  · exact (ticked _).trans (State.MarksStay.complete ..)

theorem State.me_marked : (s.marked e p i j k).me = s.me := (s.marksStay_marked e p i j k).me
theorem State.cur_marked : (s.marked e p i j k).cur = s.cur := (s.marksStay_marked e p i j k).cur

/-- The step is applied. -/
theorem State.applied_marked (hk : k < 64) : ((s.marked e p i j k).myHem.output e (p.out i j)).applied.getLsbD k = true := by
  rw [State.myHem, State.cur_marked]
  refine (s.marksStay_marked e p i j k).applied _ _ _ _ ?_
  rw [State.modMyHem, State.hem_modHem_self, Hem.output, Hem.setOutput, Map.at_put_self]
  have bit : (w64 (2 ^ k)).getLsbD k = true := by
    rw [w64, BitVec.getLsbD_ofNat, decide_eq_true hk, Nat.testBit_two_pow_self, Bool.and_self]
  rw [BitVec.getLsbD_or, bit, Bool.or_true]

end

section
variable {s t : State} {d a b : Nat} {x y z : Word} {p : Pattern} (hb : s.Begins (usesDAB d a b) x y z t)
include hb

theorem pmark_inactive (h : t.myHem.entry (fld x 63 60) = none) : exec (.pmark d a b) s = .next (s.takeTrap 0x0F 0x1004 none) := by
  rw [exec_pmark]
  refine issue_trap hb (n := cRing) (v := 0x1004) ?_
  rw [outputOf_inactive h]
  rfl

variable (h : t.myHem.entry (fld x 63 60) = some p)
include h

theorem pmark_outside (out : p.oi ≤ fld x 19 10 ∨ p.oj ≤ fld x 9 0 ∨ p.kb ≤ fld y 5 0) :
    exec (.pmark d a b) s = .next (s.takeTrap 0x0F 0x1005 none) := by
  rw [exec_pmark]
  refine issue_trap hb (n := cRing) (v := 0x1005) ?_
  rw [outputOf_outside h out]
  rfl

variable (hi : fld x 19 10 < p.oi) (hj : fld x 9 0 < p.oj) (hk : fld y 5 0 < p.kb)
include hi hj hk

theorem pmark_full (full : ¬ t.roomFor d) : exec (.pmark d a b) s = .next s.noRoom := by
  rw [exec_pmark]
  refine issue_park hb ?_
  rw [outputOf_inside h hi hj hk, except_ok_bind, reserveX_full full]
  rfl

theorem pmark_goes (room : t.roomFor d) : exec (.pmark d a b) s =
    .next (s.ends (pmarkOf d (fld x 63 60) p (fld x 19 10) (fld x 9 0) (fld y 5 0) t)) := by
  rw [exec_pmark]
  refine (issue_begins hb).trans ?_
  rw [outputOf_inside h hi hj hk, except_ok_bind, reserveX_roomFor room, except_ok_bind]

end

section
variable {s t : State} {d e i j k : Nat} {p : Pattern} (room : t.roomFor d) (idle : t.myCore.array.ops t.cur.slot = [])
include room idle

theorem pmarkOf_again (again : (t.myHem.output e (p.out i j)).applied.getLsbD k = true ∨
      (t.myHem.output e (p.out i j)).pendingBits.getLsbD k = true) (takes : t.takes d 1) :
    s.ends (pmarkOf d e p i j k t) = s.gives true t d 1 := by
  rw [pmarkOf, if_neg (not_not.mpr idle), if_pos (Bool.or_eq_true_iff.mpr again)]
  exact State.ends_lateX room takes

theorem pmarkOf_marks (fresh : (t.myHem.output e (p.out i j)).applied.getLsbD k = false)
    (unqueued : (t.myHem.output e (p.out i j)).pendingBits.getLsbD k = false) (takes : (t.marked e p i j k).takes d 0) :
    s.ends (pmarkOf d e p i j k t) = s.gives true (t.marked e p i j k) d 0 := by
  rw [pmarkOf, if_neg (not_not.mpr idle), if_neg (by simp [fresh, unqueued])]
  exact State.ends_lateX (State.roomFor_of_me State.me_marked State.cur_marked room) takes

end

/-! ## RSTAT (R205, R447) -/

theorem exec_rstat {s : State} {d a : Nat} : exec (.rstat d a) s = issue (usesDA d a) (fun x _ _ s => do
    let v ← ringQuery x s
    reserveX d s
    lateX d v s) s := rfl

section
variable {s : State} {x : Word}

theorem ringQuery_other (h : 3 < fld x 63 60) : ringQuery x s = trapWith cRing 0x100B := by
  obtain ⟨n, hn⟩ := Nat.exists_eq_add_of_lt h
  rw [ringQuery, hn, show 3 + n + 1 = n + 4 by omega]
  rfl

theorem ringQuery_bits (h : fld x 63 60 ≤ 1) : ringQuery x s = outputOf (fld x 59 56) (fld x 19 10) (fld x 9 0) 0 s >>= fun p =>
    .ok (if fld x 63 60 = 0 then (s.myHem.output (fld x 59 56) (p.out (fld x 19 10) (fld x 9 0))).applied
      else (s.myHem.output (fld x 59 56) (p.out (fld x 19 10) (fld x 9 0))).pendingBits) := by
  rcases Nat.le_one_iff_eq_zero_or_eq_one.mp h with zero | one
  · rw [ringQuery, zero]
    rfl
  · rw [ringQuery, one]
    rfl

theorem ringQuery_counts (h : fld x 63 60 = 2) : ringQuery x s =
    .ok (w64 (s.myHem.live 0 + s.myHem.live 1 * 2 ^ 8 + s.myHem.deferrals * 2 ^ 16 + s.myHem.misses * 2 ^ 32)) := by
  rw [ringQuery, h]
  rfl

theorem ringQuery_dead (h : fld x 63 60 = 3) (dead : ∀ k r, s.myHem.tileRecord x = some (k, r) → r.active = false) :
    ringQuery x s = .ok 0 := by
  rw [ringQuery, h]
  cases at' : s.myHem.tileRecord x with
  | none => rfl
  | some kr => simp [dead kr.1 kr.2 at']

theorem ringQuery_live {k : Nat} {r : Injector} (h : fld x 63 60 = 3) (at' : s.myHem.tileRecord x = some (k, r)) (live : r.active = true) :
    ringQuery x s = .ok (w64 (r.remain + hLaps r.hdr * 2 ^ 10 + 2 ^ 14 +
      if s.myHem.tilePinned (fld x 11 11) (fld x 15 12) (fld x 10 5) r.seq then 2 ^ 15 else 0)) := by
  rw [ringQuery, h]
  simp only [at', live]
  rfl

variable {t : State} {d a : Nat} {y z : Word} (hb : s.Begins (usesDA d a) x y z t)
include hb

theorem rstat_traps {v : Nat} (h : ringQuery x t = trapWith cRing v) : exec (.rstat d a) s = .next (s.takeTrap 0x0F (w64 v) none) := by
  rw [exec_rstat]
  refine issue_trap hb ?_
  rw [h]
  rfl

theorem rstat_gives {v : Word} (h : ringQuery x t = .ok v) (takes : t.takes d v) : exec (.rstat d a) s = .next (s.gives true t d v) := by
  rw [exec_rstat]
  refine (issue_begins hb).trans ?_
  rw [h, except_ok_bind]
  exact congrArg _ (State.ends_reserved takes)

end

end Sys2Proof.Machine

namespace Sys2Proof.Proofs

open Sys2Proof.Machine

/-- Settles O26: each of the three by its checks in order; what follows from a mark keeps the thread and every applied bit. -/
theorem ringQueries : Obligations.RingQueries := by
  refine ⟨?pclr, ?pmark, ?rstat⟩
  case pclr =>
    intro s t b x y z hb
    refine ⟨pclr_off hb, pclr_inactive hb, fun p on h => ⟨pclr_busy hb on h, fun free => ⟨_, pclr_clears hb on h free, ?_, ?_⟩⟩⟩
    · exact State.me_modMyHem ..
    · exact State.myHem_modMyHem ..
  case pmark =>
    intro s t d a b x y z hb
    refine ⟨pmark_inactive hb, fun p h => ⟨pmark_outside hb h, pmark_full hb h, ?_⟩⟩
    rintro hi hj hk room idle o rfl hpp
    rw [← hb.cur] at idle
    rw [pmark_goes hb h hi hj hk room]
    refine ⟨fun again takes => congrArg _ (pmarkOf_again room idle again takes), fun fresh unqueued =>
      ⟨t.marked (fld x 63 60) p (fld x 19 10) (fld x 9 0) (fld y 5 0),
        fun takes => congrArg _ (pmarkOf_marks room idle fresh unqueued takes), State.applied_marked ?_⟩⟩
    exact Nat.mod_lt _ (by decide)
  case rstat =>
    intro s t d a x y z hb
    refine ⟨fun h => rstat_traps hb (ringQuery_other h), fun kind none' => ?_, fun p kind h => ⟨fun out => ?_, ?_⟩, ?_⟩
    · refine rstat_traps hb (v := 0x1004) ?_
      rw [ringQuery_bits kind, outputOf_inactive none']
      rfl
    · refine rstat_traps hb (v := 0x1005) ?_
      rw [ringQuery_bits kind, outputOf_outside h (by omega)]
      rfl
    · rintro hi hj hk o v rfl rfl takes
      refine rstat_gives hb ?_ takes
      rw [ringQuery_bits kind, outputOf_inside h hi hj hk]
      rfl
    · rintro v (⟨kind, rfl⟩ | ⟨kind, dead, rfl⟩ | ⟨k, r, kind, at', live, rfl⟩) takes
      · exact rstat_gives hb (ringQuery_counts kind) takes
      · exact rstat_gives hb (ringQuery_dead kind dead) takes
      · exact rstat_gives hb (ringQuery_live kind at' live) takes

end Sys2Proof.Proofs

/-! PROOFS. An access in the global window through a cached leaf (R217, R218, R220, R221). -/

namespace Sys2Proof.Machine

/-! ## The global window (R209) -/

theorem windowOf_global {va : Nat} (h : va < 2 ^ 56) : windowOf va = .global := by
  rw [windowOf, Nat.div_eq_of_lt h]
  rfl

section
variable {s : State} {a : Acc} {f : Form} {write : Bool} {e : El}

/-- An aligned element of the global window goes on to translation (R210). -/
theorem checkAccess_global (core : s.cur.pp = false) (aligned : e.va % e.size = 0) (first : e.va < 2 ^ 56)
    (last : e.va + e.size ≤ 2 ^ 56) : checkAccess s a f write [e] = translateAll s.me.priv a s [e] [none] := by
  have window := windowOf_global first
  have extent : extentOf e.va = some (0, 2 ^ 56) := by rw [extentOf, window]
  have passes : windowCheck s.me.priv [e] = .ok () := by
    have reaches : decide (hiAddr [e] ≤ 2 ^ 56) = true := decide_eq_true (hiAddr_one e ▸ last)
    rw [windowCheck, if_neg (List.cons_ne_nil _ _), loAddr_one (by omega), window, extent]
    simp only [reaches, must_true]
    exact if_neg (by simp)
  have place : placeOf s s.me.priv f write e = .ok none := by rw [placeOf, window]
  rw [checkAccess_one core aligned, passes, place]
  rfl

/-! ## What translation answers for one element (R220) -/

theorem translateAll_trap {priv : Priv} {c pa : Nat} {t : State} (h : s.translate s.cur.unit priv a e.va = (.trap c pa, t)) :
    translateAll priv a s [e] [none] = .error (.trap c (w64 e.va) (if c = cPoison then some (0, pa) else none)) := by
  rw [translateAll, h]

theorem translateAll_ok {priv : Priv} {pa : Nat} {pte : Word} {t : State}
    (h : s.translate s.cur.unit priv a e.va = (.ok pa pte, t)) :
    translateAll priv a s [e] [none] = .ok (t, [(e, if pa / 2 ^ 48 = 4 then .device (pa % 2 ^ 24) else .phys pa pte)]) := by
  rw [translateAll, h]
  simp only [translateAll, except_ok_bind]
  split <;> rfl

/-- A cached leaf is judged as it stands (R221). -/
theorem State.translate_cached {core : Nat} {priv : Priv} {va : Nat} {p : Partition} {t : TlbEntry}
    (part : s.partOfCore core = some p) (cached : s.tlbLook core p.id va = some t) :
    s.translate core priv a va = (s.judgeLeaf p priv a va t.size t.pte, s) := by
  simp only [State.translate, part, cached]

end

/-! ## The judgement of a leaf, in the order of R220 -/

section
variable {s : State} {p : Partition} {priv : Priv} {a : Acc} {va size : Nat} {pte : Word}

theorem State.judgeLeaf_invalid (h : s.physOk p pte (pteFrame pte * 4096 + va % size) = .invalid) :
    s.judgeLeaf p priv a va size pte = .trap cPageInvalid 0 := by
  rw [State.judgeLeaf, h]

theorem State.judgeLeaf_revoked (h : s.physOk p pte (pteFrame pte * 4096 + va % size) = .revoked) :
    s.judgeLeaf p priv a va size pte = .trap cExtentRevoked (pteFrame pte * 4096 + va % size) := by
  rw [State.judgeLeaf, h]

variable (good : s.physOk p pte (pteFrame pte * 4096 + va % size) = .good)
include good

theorem State.judgeLeaf_prot (h : pteS pte = true ∧ priv = .u ∨ permitted a pte = false) :
    s.judgeLeaf p priv a va size pte = .trap cPageProt (pteFrame pte * 4096 + va % size) := by
  rw [State.judgeLeaf, good]
  rcases h with ⟨sup, rfl⟩ | denied
  · simp [sup]
  · simp [denied]

theorem State.judgeLeaf_allowed (sup : pteS pte = false ∨ priv ≠ .u) (h : permitted a pte = true) :
    s.judgeLeaf p priv a va size pte = if ptePsn pte then .trap cPoison (pteFrame pte * 4096 + va % size)
      else .ok (pteFrame pte * 4096 + va % size) pte := by
  have reachable : (pteS pte && priv == .u) = false := by rcases sup with sup | sup <;> simp [sup]
  simp [State.judgeLeaf, good, reachable, h]

end

/-- The physical address of an aligned element is aligned where the page's size is a multiple of 4,096 (R217). -/
theorem physical_aligned {frame va size page : Nat} (hs : size = 1 ∨ size = 2 ∨ size = 4 ∨ size = 8) (aligned : va % size = 0)
    (whole : page % 4096 = 0) : (frame * 4096 + va % page) % size = 0 := by
  have divides : size ∣ 4096 := by rcases hs with rfl | rfl | rfl | rfl <;> decide
  have offset : size ∣ va % page :=
    (Nat.dvd_mod_iff (divides.trans (Nat.dvd_of_mod_eq_zero whole))).mpr (Nat.dvd_of_mod_eq_zero aligned)
  exact Nat.mod_eq_zero_of_dvd (Nat.dvd_add (divides.mul_left frame) offset)

end Sys2Proof.Machine

namespace Sys2Proof.Proofs

open Sys2Proof.Machine

/-- Settles O8: the access comes to the judgement of the cached leaf, each of whose answers is an equation. -/
theorem cachedTranslation : Obligations.CachedTranslation := by
  intro s a f write va size lane p t core inside hs aligned part cached e pa
  have global : checkAccess s a f write [e] = translateAll s.me.priv a s [e] [none] :=
    checkAccess_global core aligned (by simp only [e]; omega) inside
  have leaf {r : Tr} (h : s.judgeLeaf p s.me.priv a va t.size t.pte = r) : s.translate s.cur.unit s.me.priv a e.va = (r, s) :=
    h ▸ State.translate_cached part cached
  refine ⟨fun invalid => global.trans (translateAll_trap (leaf (State.judgeLeaf_invalid invalid))),
    fun revoked => global.trans (translateAll_trap (leaf (State.judgeLeaf_revoked revoked))),
    fun good denied => global.trans (translateAll_trap (leaf (State.judgeLeaf_prot good denied))),
    fun good sup allowed => ?_, physical_aligned hs aligned⟩
  have judged := State.judgeLeaf_allowed good sup allowed
  have goes (clean : t.pte.getLsbD 62 = false) := translateAll_ok (leaf (judged.trans (if_neg (ne_true_of_eq_false clean))))
  exact ⟨fun psn => global.trans (translateAll_trap (leaf (judged.trans (if_pos psn)))),
    fun clean space => (global.trans (goes clean)).trans (congrArg (fun q => Except.ok (s, [(e, q)])) (if_neg space)),
    fun clean space => (global.trans (goes clean)).trans (congrArg (fun q => Except.ok (s, [(e, q)])) (if_pos space))⟩

end Sys2Proof.Proofs

/-! PROOFS. The window check at an address wider than a dword (R210). -/

namespace Sys2Proof.Machine

/-- The lowest address of an access is sought from 2^65 downward. -/
theorem loAddr_high {e : El} (h : 2 ^ 65 ≤ e.va) : loAddr [e] = 2 ^ 65 := Nat.min_eq_left h

theorem windowOf_high : windowOf (2 ^ 65) = .none := by decide

/-- So an element above 2^65 traps with the address 2^65. -/
theorem checkAccess_high {s : State} {a : Acc} {f : Form} {write : Bool} {e : El} (core : s.cur.pp = false)
    (aligned : e.va % e.size = 0) (h : 2 ^ 65 ≤ e.va) : checkAccess s a f write [e] = trapWith cWindow (2 ^ 65) := by
  have closed : (s.me.priv == .u && Window.none == .device) = false := Bool.and_false _
  have outside : extentOf (2 ^ 65) = none := by rw [extentOf, windowOf_high]
  rw [checkAccess_one core aligned, windowCheck, loAddr_high h, windowOf_high, closed, outside]
  rfl

end Sys2Proof.Machine

namespace Sys2Proof.Proofs

open Sys2Proof.Machine

/-- Refutes O9, by the part of its first clause that gives the address of a WINDOW trap: it leaves the element's address without a
bound. The byte at 2^65 + 1, which no 64-bit address names, traps with the EVAL 0 of 2^65 where the clause says 1. -/
theorem not_accessTraps : ¬ Obligations.AccessTraps := by
  rintro ⟨order, -⟩
  obtain ⟨-, window⟩ := order State.reset .load .scalar false [] [] ⟨2 ^ 65 + 1, 1, 0⟩
  have claimed := window rfl (Nat.mod_one _) (by decide)
  have actual := checkAccess_high (s := State.reset) (a := .load) (f := .scalar) (write := false) (e := ⟨2 ^ 65 + 1, 1, 0⟩) rfl
    (Nat.mod_one _) (Nat.le_succ _)
  have eval : w64 (2 ^ 65) = w64 (2 ^ 65 + 1) := by
    injection actual.symm.trans claimed with halts
    injection halts
  exact absurd eval (by decide)

end Sys2Proof.Proofs

/-! PROOFS. Scalar loads and stores of device registers (R212). -/

namespace Sys2Proof.Machine

theorem deviceForm_register {priv : Priv} {e : El} {off : Nat} (above : priv ≠ .u) (wide : e.size = 8) :
    deviceForm priv .scalar [(e, .device off)] = .ok () := by
  have passes : deviceCheck priv .scalar e = .ok (.device (e.va % 2 ^ 56)) := by
    rw [deviceCheck_above above, if_neg (by simp), if_pos ⟨rfl, wide⟩]
  change (do let _ ← deviceCheck priv .scalar e; Except.ok PUnit.unit) >>= _ = _
  rw [passes]
  rfl

section
variable {t r : State} {e : El} {off : Nat}

/-! ## Loads -/

/-- A load whose place is a register reads it. -/
theorem loadX_device {d : Nat} {va : Word} {sgn : Bool} {ord : OrdFld} (hd : d < 120) (above : t.me.priv ≠ .u)
    (checked : checkAccess t .load .scalar false [⟨va.toNat, 8, 0⟩] = .ok (r, [(⟨va.toNat, 8, 0⟩, .device off)])) :
    loadX d va 8 sgn ord t = match r.readReg r.cur.unit off with
      | some v => .ok (r.setX d v)
      | none => trapWith cWindow va.toNat := by
  have form := deviceForm_register (e := ⟨va.toNat, 8, 0⟩) (off := off) ((checkAccess_keeps checked).me ▸ above) rfl
  simp only [loadX, reserveX_register hd, checked, form, except_ok_bind, deviceValue]
  cases r.readReg r.cur.unit off with
  | some v => exact lateX_register hd
  | none => rfl

/-! ## Stores -/

/-- How a store to a register ends (R212). -/
def RegWrite.ends (va : Nat) : RegWrite → Exec State
  | .done t => .ok t
  | .privilege => trapWith cPrivilege va
  | .unassigned => trapWith cWindow va

theorem storePoison_device : storePoison r [(e, .device off)] = .ok () := rfl
theorem checkTags_device (a : Acc) (info : Word) : checkTags r a info [(e, .device off)] = .ok () := rfl
theorem storeAsks_device (kind mode : Nat) (a : Acc) (y : El × Nat) : storeAsks kind mode a [((e, .device off), y)] = [] := rfl

/-- A store whose place is a register writes it once its release has acted. -/
theorem storeX_device {va v : Word} {ord : OrdFld} (asks : t.me.asks = []) (above : t.me.priv ≠ .u)
    (checked : checkAccess t .store .scalar true [⟨va.toNat, 8, 0⟩] = .ok (r, [(⟨va.toNat, 8, 0⟩, .device off)]))
    (ordered : r.orderedOk ord = true) :
    storeX va v 8 ord t = ((r.orderedAt ord).writeReg r.cur.unit off v).ends va.toNat := by
  have fresh : performed (.wait .asks id) t = none := by rw [performed, asks]; rfl
  have form := deviceForm_register (e := ⟨va.toNat, 8, 0⟩) (off := off) ((checkAccess_keeps checked).me ▸ above) rfl
  have cur : (r.orderedAt ord).cur = r.cur := State.cur_of_rest (r.orderedAt_keeps ord).1.rest
  have value : w64 (v.toNat % 2 ^ (8 * 8)) = v := by
    rw [Nat.mod_eq_of_lt v.isLt]
    exact BitVec.ofNat_toNat ..
  have none_asked : answers 4 [] r = .ok [] := rfl
  unfold storeX storeAll
  rw [fresh]
  simp only [List.map_cons, List.map_nil, checked, except_ok_bind, form, storePoison_device, checkTags_device, List.zip_cons_cons,
    List.zip_nil_right, storeAsks_device, ite_self, none_asked, releaseGate_ok ordered, cur, value]
  cases (r.orderedAt ord).writeReg r.cur.unit off v <;> rfl

end

end Sys2Proof.Machine

namespace Sys2Proof.Proofs

open Sys2Proof.Machine

/-- Settles O11: a load or a store of a register is what reading or writing the register answers. -/
theorem deviceRegisters : Obligations.DeviceRegisters := by
  refine ⟨fun i x s t r a b c v off hi hb hd checked wide above => ?_, fun i x s t r a b c off hi hb checked wide above ordered => ?_⟩
  · obtain ⟨run, -⟩ := exec_loadOp (s := s) hi
    rw [Access.el, wide] at checked ⊢
    have loads := loadX_device (sgn := x.signed) (ord := x.ord) hd above checked
    rw [run, wide]
    refine ⟨fun value => issue_ok hb ?_, fun unassigned => issue_trap hb ?_⟩
    · rw [loads, value]
    · rw [loads, unassigned]
      rfl
  · obtain ⟨run, -⟩ := exec_storeOp (s := s) hi
    rw [Access.el, wide] at checked ⊢
    have stores := storeX_device (v := c) hb.asks above checked ordered
    rw [run, wide]
    refine ⟨fun t' written => issue_ok hb ?_, fun refused => issue_trap hb ?_, fun unassigned => issue_trap hb ?_⟩
    · rw [stores, written]
      rfl
    · rw [stores, refused]
      rfl
    · rw [stores, unassigned]
      rfl

end Sys2Proof.Proofs

/-! PROOFS. Errors of storage, records that wait for q7, the grant of the matrix array (R78, R179, R180, R208, R232, R235, R394). -/

namespace Sys2Proof.Machine

/-- Two updates of a core that agree there are one. -/
theorem State.modCore_congr {s : State} {u : Nat} {f g : Core → Core} (h : f (s.core u) = g (s.core u)) :
    s.modCore u f = s.modCore u g := congrArg (s.setCore u) h

/-! ## Records (R78) -/

/-- A record changes q7 and what waits for it only. -/
theorem Core.pushQ7_eq (k : Core) (foreign : Bool) (l : List Word) :
    ∃ places waits, k.pushQ7 foreign l = { k with q7 := places, q7waiting := waits } := by
  simp only [Core.pushQ7]
  split_ifs <;> exact ⟨_, _, rfl⟩

theorem State.core_record (s : State) (c : Nat) (l : List Word) :
    ∃ places waits, (s.record c l).core c = { s.core c with q7 := places, q7waiting := waits } := by
  obtain ⟨places, waits, pushed⟩ := (s.core c).pushQ7_eq false l
  exact ⟨places, waits, (State.core_modCore_self ..).trans pushed⟩

@[simp] theorem State.poisoned_record (s : State) (c pa : Nat) (l : List Word) : (s.record c l).poisoned pa = s.poisoned pa := rfl

/-- The oldest waiting record, where its kind has a place. -/
theorem Core.admitQ7_first {k : Core} {x : Q7Rec} {l : List Q7Rec} (waits : k.q7waiting = x :: l)
    (room : (k.q7.filter fun r => r.foreign == x.foreign).length < if x.foreign then 16 else 48) :
    k.admitQ7 = { k with q7 := k.q7 ++ [x], q7waiting := l } := by
  have oldest : (k.q7waiting.find? fun y => decide ((k.q7.filter fun r => r.foreign == y.foreign).length <
      if y.foreign then q7Foreign else q7Own)) = some x := by
    rw [waits]
    exact List.find?_cons_of_pos (decide_eq_true room)
  simp only [Core.admitQ7, oldest, waits, List.erase_cons_head]

/-! ## Errors of storage (R232, R235) -/

theorem exec_uncorrectableError {u : Nat} (hu : u < 1024) (space a : Nat) (s : State) :
    exec (.uncorrectableError space u a) s = .next (s.storageError space u a) :=
  coreEvent_next hu (fun s => s.storageError space u a) s

@[simp] theorem State.poisoned_poisonLine (s : State) (pa src : Nat) : (s.poisonLine pa src).poisoned pa = true := by
  simp [State.poisoned, State.poisonLine]

/-- A core that has dropped a block from its data cache. -/
def State.dropBlock (s : State) (u b : Nat) : State := s.modCore u fun c => { c with cache := c.cache.del b }

theorem State.tag_dropBlock (s : State) (u b : Nat) : (((s.dropBlock u b).core u).block b).tag = .i := by
  simp [State.dropBlock, Core.block, Map.at]

/-- An error in a block of a data cache: the block is dropped, and the line of a dirty one poisoned. -/
theorem State.storageError_cache {s : State} {u a : Nat}
    (held : ((s.core u).block (blockOf a)).tag = .ro ∨ ((s.core u).block (blockOf a)).tag = .rw) :
    s.storageError 1 u a = if ((s.core u).block (blockOf a)).dirty = 0 then s.dropBlock u (blockOf a)
      else ((s.dropBlock u (blockOf a)).poisonLine (blockOf a) 1).record u
        (poisonRecord ((s.dropBlock u (blockOf a)).partIdOf u) 15 1 (blockOf a)) := by
  have here : (!(((s.core u).block (blockOf a)).tag == .ro || ((s.core u).block (blockOf a)).tag == .rw)) = false := by
    rcases held with held | held <;> simp [held]
  simp only [State.storageError, here, Bool.false_eq_true, if_false]
  rfl

/-- After it the block is gone, and its line is poisoned where the block was dirty. -/
theorem State.storageError_cache_keeps {s : State} {u a : Nat}
    (held : ((s.core u).block (blockOf a)).tag = .ro ∨ ((s.core u).block (blockOf a)).tag = .rw) :
    (((s.storageError 1 u a).core u).block (blockOf a)).tag = .i ∧ (s.storageError 1 u a).poisoned (blockOf a) =
      (s.poisoned (blockOf a) || decide (((s.core u).block (blockOf a)).dirty ≠ 0)) ∧ (s.storageError 1 u a).mem = s.mem := by
  rw [State.storageError_cache held]
  split
  · next clean => exact ⟨s.tag_dropBlock .., by rw [clean]; exact (Bool.or_false _).symm, rfl⟩
  · next dirty =>
    refine ⟨?_, by simp [dirty], rfl⟩
    obtain ⟨places, waits, after⟩ := ((s.dropBlock u (blockOf a)).poisonLine (blockOf a) 1).core_record u
      (poisonRecord ((s.dropBlock u (blockOf a)).partIdOf u) 15 1 (blockOf a))
    rw [after]
    exact s.tag_dropBlock ..

theorem State.storageError_local {s : State} {space u a : Nat} (hs : space = 3 ∨ space = 4) (h : localExtent a ≠ none) :
    s.storageError space u a = s.modCore u fun k => { k with sramPoison := k.sramPoison.put (a / 64) true } := by
  have inside : (localExtent a).isSome = true := Option.isSome_iff_ne_none.mpr h
  rcases hs with rfl | rfl <;> exact if_pos inside

theorem State.storageError_accumulator {s : State} {u a : Nat} (h : a < 8) :
    ((s.storageError 5 u a).core u).accPoison.at a false = true ∧ ((s.storageError 5 u a).core u).acc = (s.core u).acc := by
  have error : s.storageError 5 u a = (s.record u (poisonRecord (s.partIdOf u) 15 5 a)).modCore u fun k =>
      { k with accPoison := k.accPoison.put a true } := if_neg (Nat.not_le.mpr h)
  obtain ⟨places, waits, after⟩ := s.core_record u (poisonRecord (s.partIdOf u) 15 5 a)
  rw [error, State.core_modCore_self, after]
  exact ⟨Map.at_put_self .., rfl⟩

/-! ## The grant of the array (R179, R180, R208, R394) -/

/-- A search whose candidates are one answer or none finds it. -/
theorem findSome_of_single {α β : Type} {f : α → Option β} {r : Option β} {l : List α} (all : ∀ a ∈ l, f a = none ∨ f a = r)
    (found : ∃ a ∈ l, f a = r) : l.findSome? f = r := by
  induction l with
  | nil => obtain ⟨a, ha, -⟩ := found; cases ha
  | cons b l ih =>
    obtain ⟨a, ha, hr⟩ := found
    rw [List.findSome?_cons]
    cases hb : f b with
    | some x =>
      have only := all b (List.mem_cons_self ..)
      rw [hb] at only
      simpa using only
    | none =>
      rcases List.mem_cons.mp ha with rfl | ha
      · rw [← hr, hb]
        exact List.findSome?_eq_none_iff.mpr fun c hc => (all c (List.mem_cons_of_mem _ hc)).elim id fun h => h.trans (hr.symm.trans hb)
      · exact ih (fun c hc => all c (List.mem_cons_of_mem _ hc)) ⟨a, ha, hr⟩

section
variable {k : Core} {q time : Nat} {o : MatOp} {l : List MatOp}

/-- Where one requester alone has operations, its oldest is granted if it may start. -/
theorem Core.grantee_single (hq : q < 17) (queue : k.array.queues.at q [] = o :: l)
    (others : ∀ r, r ≠ q → k.array.queues.at r [] = []) : k.grantee time =
      if o.accepted < time && !(q = 16 && (k.stop.reached || k.appHeld o)) then some (q, o) else none := by
  have turn : (k.array.last + 1 + (q + 16 * (k.array.last + 1)) % 17) % 17 = q := by omega
  refine findSome_of_single (fun i _ => ?_) ⟨(q + 16 * (k.array.last + 1)) % 17, List.mem_range.mpr (Nat.mod_lt _ (by decide)), ?_⟩
  · by_cases mine : (k.array.last + 1 + i) % 17 = q
    · right
      simp only [mine, queue]
    · left
      simp only [others _ mine]
  · simp only [turn, queue]

theorem Core.arrayGrant_some {t : Nat} (free : k.array.running = none) (h : k.grantee time = some (q, o))
    (ht : t = o.occupancy) : k.arrayGrant time =
      { k with array := ⟨k.array.queues.put q ((k.array.queues.at q []).drop 1), some (q, o, time + t), q⟩ } := by
  rw [Core.arrayGrant, free, h, ht]

theorem Core.arrayGrant_none (h : k.grantee time = none) : k.arrayGrant time = k := by
  simp only [Core.arrayGrant, h]
  split <;> simp_all

end

/-- The cycles of R180, by the kind. -/
theorem MatOp.occupancy_eq (o : MatOp) : o.occupancy = match o.kind with
    | .mzero _ => 16
    | .mst f _ _ => if f = 3 then 96 else 64
    | .ttrn _ _ => if fld o.ctx 4 3 < 2 then 32 else 64
    | _ => 64 := by
  cases kind : o.kind with
  | mst f acc n =>
    simp only [MatOp.occupancy, kind]
    split <;> simp_all
  | ttrn d a =>
    simp only [MatOp.occupancy, kind]
    exact if_congr Nat.lt_succ_iff.symm rfl rfl
  | _ => simp only [MatOp.occupancy, kind]

section
variable {s : State} {u : Nat} (hu : u < 1024) (active : s.fenced (s.partIdOf u) = false)
include hu active

theorem exec_arrayGrant : exec (.arrayGrant u) s = .next (s.modCore u fun k => k.arrayGrant s.time) :=
  (coreEvent_next hu (fun s => if s.fenced (s.partIdOf u) then s else s.modCore u fun k => k.arrayGrant s.time) s).trans
    (congrArg _ (if_neg (ne_true_of_eq_false active)))

/-- A free array takes the oldest operation of the one requester that has any, if nothing holds the match unit's back. -/
theorem exec_arrayGrant_takes {q n : Nat} {o : MatOp} {l : List MatOp} (hq : q < 17)
    (may : q = 16 → (s.core u).stop.reached = false ∧ (s.core u).appHeld o = false) (free : (s.core u).array.running = none)
    (queue : (s.core u).array.queues.at q [] = o :: l) (earlier : o.accepted < s.time)
    (others : ∀ r, r ≠ q → (s.core u).array.queues.at r [] = []) (hn : n = o.occupancy) : exec (.arrayGrant u) s =
      .next (s.modCore u fun k => { k with array := ⟨k.array.queues.put q l, some (q, o, s.time + n), q⟩ }) := by
  have unheld : (decide (q = 16) && ((s.core u).stop.reached || (s.core u).appHeld o)) = false := by
    by_cases unit : q = 16
    · simp [may unit]
    · simp [unit]
  have starts : (decide (o.accepted < s.time) && !(decide (q = 16) && ((s.core u).stop.reached || (s.core u).appHeld o))) = true := by
    simp [unheld, earlier]
  have granted := Core.arrayGrant_some free ((Core.grantee_single (time := s.time) hq queue others).trans (if_pos starts)) hn
  rw [queue] at granted
  exact (exec_arrayGrant hu active).trans (congrArg _ (State.modCore_congr granted))

/-- The match unit's operation stays while its core stops or a DTLD holds its table back. -/
theorem exec_arrayGrant_stays {o : MatOp} {l : List MatOp} (queue : (s.core u).array.queues.at 16 [] = o :: l)
    (others : ∀ r, r ≠ 16 → (s.core u).array.queues.at r [] = [])
    (held : (s.core u).stop.reached = true ∨ (s.core u).appHeld o = true) :
    exec (.arrayGrant u) s = .next (s.modCore u fun k => k) := by
  have stays : (decide (o.accepted < s.time) && !(decide (16 = 16) && ((s.core u).stop.reached || (s.core u).appHeld o))) = false := by
    rcases held with stop | table
    · simp [stop]
    · simp [table]
  have kept := Core.arrayGrant_none
    ((Core.grantee_single (time := s.time) (by decide) queue others).trans (if_neg (ne_true_of_eq_false stays)))
  exact (exec_arrayGrant hu active).trans (congrArg _ (State.modCore_congr kept))

end

end Sys2Proof.Machine

/-! PROOFS. Rounding keeps the sign: a value rounded to nearest is never the infinity of the other sign (R146, R147, R182). -/

namespace Sys2Proof.Machine

theorem lt_two_pow_bitLen (m : Nat) : m < 2 ^ bitLen m := by
  unfold bitLen
  split
  · next zero => simp [zero]
  · exact Nat.lt_log2_self

/-- A number rounded at a place that leaves it n bits is 2^n at most. -/
theorem roundAt_le {rm m n : Nat} {neg : Bool} {e q : Int} (h : e + bitLen m - n ≤ q) : (roundAt rm neg m e q).1 ≤ 2 ^ n := by
  have bound := lt_two_pow_bitLen m
  unfold roundAt
  split
  · next shifts =>
    calc m * 2 ^ (e - q).toNat ≤ 2 ^ bitLen m * 2 ^ (e - q).toNat := Nat.mul_le_mul_right _ bound.le
      _ = 2 ^ (bitLen m + (e - q).toNat) := (Nat.pow_add ..).symm
      _ ≤ 2 ^ n := Nat.pow_le_pow_right (by decide) (by omega)
  · next cut =>
    have quotient : m / 2 ^ (q - e).toNat < 2 ^ n := by
      refine Nat.div_lt_of_lt_mul (bound.trans_le ?_)
      rw [← Nat.pow_add]
      exact Nat.pow_le_pow_right (by decide) (by omega)
    have rounded (up : Bool) : (if up then m / 2 ^ (q - e).toNat + 1 else m / 2 ^ (q - e).toNat) ≤ 2 ^ n := by
      cases up
      · exact quotient.le
      · exact quotient
    exact rounded _

section
variable {f : Fmt}

theorem Fmt.sign_false : f.sign false = 0 := rfl

/-- Every pattern of a sign lies in its half. -/
theorem Fmt.top_lt : f.top * 2 ^ f.fbits + 2 ^ f.fbits = 2 ^ (f.ebits + f.fbits) := by
  rw [← Nat.succ_mul, Fmt.top, Nat.succ_eq_add_one, Nat.sub_add_cancel Nat.one_le_two_pow, Nat.pow_add]

theorem Fmt.inf_false_lt : f.inf false < 2 ^ (f.ebits + f.fbits) := by
  have top := f.top_lt
  have positive := Nat.two_pow_pos f.fbits
  rw [Fmt.inf, Fmt.sign_false]
  omega

theorem Fmt.le_inf_true : 2 ^ (f.ebits + f.fbits) ≤ f.inf true := Nat.le_add_right ..

/-- What rounding to nearest gives: an infinity, a subnormal pattern, or one of an exponent and a fraction. -/
theorem Fmt.round_nearest (neg : Bool) {m : Nat} (e : Int) (hm : m ≠ 0) : ∃ (n : Nat) (q : Int), n ≤ 2 ^ (f.fbits + 1) ∧
    (f.round ⟨0, false⟩ neg m e).1 =
      if 2 ^ f.fbits ≤ n && q + f.fbits > f.emax then f.inf neg
      else if n < 2 ^ f.fbits then f.sign neg + n
      else f.sign neg + (q + f.fbits + f.bias).toNat * 2 ^ f.fbits + (n - 2 ^ f.fbits) := by
  let lowest : Int := f.emin - f.fbits
  let q : Int := if e + bitLen m - 1 - f.fbits < lowest then lowest else e + bitLen m - 1 - f.fbits
  let n := (roundAt 0 neg m e q).1
  have bound : n ≤ 2 ^ (f.fbits + 1) := by
    refine roundAt_le ?_
    simp only [q]
    split <;> push_cast <;> omega
  let carry := n == 2 ^ (f.fbits + 1)
  refine ⟨if carry then n / 2 else n, if carry then q + 1 else q, ?_, ?_⟩
  · split
    · exact (Nat.div_le_self ..).trans bound
    · exact bound
  · simp only [Fmt.round, hm, if_false, Bool.false_and, Bool.false_eq_true]
    rw [apply_ite Prod.fst, apply_ite Prod.fst]

/-- Rounded to nearest, a positive value lies below the sign bit, and a negative one has it. -/
theorem Fmt.round_false_lt (hb : 1 ≤ f.ebits) (m : Nat) (e : Int) : (f.round ⟨0, false⟩ false m e).1 < 2 ^ (f.ebits + f.fbits) := by
  by_cases hm : m = 0
  · rw [Fmt.round, if_pos hm]
    exact Nat.two_pow_pos _
  · obtain ⟨n, q, bound, eq⟩ := f.round_nearest false e hm
    have top := f.top_lt
    have positive := Nat.two_pow_pos f.fbits
    rw [eq]
    split
    · exact f.inf_false_lt
    split
    · rw [Fmt.sign_false]
      omega
    · next fits _ =>
      have exponent : (q + f.fbits + f.bias).toNat + 1 ≤ f.top := by
        have half : 2 ^ f.ebits = 2 * 2 ^ (f.ebits - 1) := by rw [← Nat.pow_succ', Nat.succ_eq_add_one, Nat.sub_add_cancel hb]
        have whole := Nat.two_pow_pos (f.ebits - 1)
        have low : q + f.fbits ≤ f.bias := by
          by_contra high
          exact fits (Bool.and_eq_true_iff.mpr ⟨decide_eq_true (by omega), decide_eq_true (not_le.mp high)⟩)
        simp only [Fmt.top, Fmt.bias] at low ⊢
        omega
      have fraction := Nat.mul_le_mul_right (2 ^ f.fbits) exponent
      rw [Nat.add_mul, Nat.one_mul] at fraction
      rw [Nat.pow_succ] at bound
      rw [Fmt.sign_false]
      omega

theorem Fmt.le_round_true (m : Nat) (e : Int) : 2 ^ (f.ebits + f.fbits) ≤ (f.round ⟨0, false⟩ true m e).1 := by
  by_cases hm : m = 0
  · rw [Fmt.round, if_pos hm]
    exact Nat.le_refl _
  · obtain ⟨n, q, -, eq⟩ := f.round_nearest true e hm
    rw [eq]
    split
    · exact f.le_inf_true
    split
    · exact Nat.le_add_right ..
    · rw [Nat.add_assoc]
      exact Nat.le_add_right ..

/-- So it is never the infinity of the other sign. -/
theorem Fmt.round_ne_inf (hb : 1 ≤ f.ebits) (neg : Bool) (m : Nat) (e : Int) : (f.round ⟨0, false⟩ neg m e).1 ≠ f.inf (!neg) := by
  cases neg
  · exact Nat.ne_of_lt ((f.round_false_lt hb m e).trans_le f.le_inf_true)
  · exact Nat.ne_of_gt (f.inf_false_lt.trans_le (f.le_round_true m e))

end

end Sys2Proof.Machine

/-! PROOFS. Bytes written one after another, and the words of an accumulator (R168, R169, R177). -/

namespace Sys2Proof.Machine

/-! ## Runs of bytes -/

/-- Byte b of the n bytes read at an address. -/
theorem Memory.read_byte (m : Memory) (a : Nat) {n b : Nat} (hb : b < n) : m.read a n / 256 ^ b % 256 = (m.byte (a + b)).toNat := by
  induction n generalizing a b with
  | zero => omega
  | succ n ih =>
    have lt := (m.byte a).isLt
    cases b with
    | zero =>
      rw [Memory.read, Nat.pow_zero, Nat.div_one, Nat.add_mul_mod_self_left]
      exact Nat.mod_eq_of_lt lt
    | succ b =>
      have low : ((m.byte a).toNat + 256 * m.read (a + 1) n) / 256 = m.read (a + 1) n := by omega
      rw [Memory.read, Nat.pow_succ', ← Nat.div_div_eq_div_mul, low, ih (a + 1) (Nat.lt_of_succ_lt_succ hb)]
      congr 2
      omega

theorem Memory.read_one (m : Memory) (a : Nat) : m.read a 1 = (m.byte a).toNat := by
  rw [Memory.read, Memory.read]
  omega

/-- A run of n bytes from an address, written from its lowest byte upward. -/
def Memory.setRun (m : Memory) (a n : Nat) (g : Nat → Byte) : Memory := (List.range n).foldl (fun m b => m.setByte (a + b) (g b)) m

theorem Memory.byte_setRun (m : Memory) (a n : Nat) (g : Nat → Byte) (o : Nat) :
    (m.setRun a n g).byte o = if a ≤ o ∧ o < a + n then g (o - a) else m.byte o := by
  unfold Memory.setRun
  induction n with
  | zero => rw [if_neg (by omega)]; rfl
  | succ n ih =>
    rw [List.range_succ, List.foldl_append, List.foldl_cons, List.foldl_nil, Memory.byte_setByte, ih]
    by_cases last : o = a + n
    · rw [if_pos last, if_pos (by omega), last, Nat.add_sub_cancel_left]
    · rw [if_neg last]
      exact if_congr (by omega) rfl rfl

theorem Memory.byte_setRun_at (m : Memory) (a : Nat) {n b : Nat} (g : Nat → Byte) (hb : b < n) :
    (m.setRun a n g).byte (a + b) = g b := by
  rw [Memory.byte_setRun, if_pos (by omega), Nat.add_sub_cancel_left]

theorem Memory.byte_setRun_other (m : Memory) {a n o : Nat} (g : Nat → Byte) (h : o < a ∨ a + n ≤ o) :
    (m.setRun a n g).byte o = m.byte o := by
  rw [Memory.byte_setRun, if_neg (by omega)]

/-- The bytes of values of a width are one run, byte k being byte k % width of value k / width. -/
theorem flatMap_bytes (w n : Nat) (f : Nat → Nat) (hw : 0 < w) :
    ((List.range n).flatMap fun i => (List.range w).map fun b => (i * w + b, f i / 256 ^ b % 256)) =
      (List.range (n * w)).map fun k => (k, f (k / w) / 256 ^ (k % w) % 256) := by
  induction n with
  | zero => rw [Nat.zero_mul]; rfl
  | succ n ih =>
    rw [List.range_succ, List.flatMap_append, ih, Nat.succ_mul, List.range_add, List.map_append, List.flatMap_singleton, List.map_map]
    congr 1
    refine List.map_congr_left fun b hb => ?_
    have low : b < w := List.mem_range.mp hb
    have index : (n * w + b) / w = n := by rw [Nat.mul_comm, Nat.mul_add_div hw, Nat.div_eq_of_lt low, Nat.add_zero]
    have rest : (n * w + b) % w = b := by rw [Nat.mul_comm, Nat.mul_add_mod, Nat.mod_eq_of_lt low]
    simp only [Function.comp_apply, index, rest]

/-! ## The slots that an operation writes (R168, R322) -/

/-- Marking slots written changes nothing else. -/
theorem Core.foldl_touch_keeps (l : List Nat) (g : Nat → Nat) (k : Core) :
    (l.foldl (fun k i => k.touch (g i)) k).sram = k.sram ∧ (l.foldl (fun k i => k.touch (g i)) k).threads = k.threads := by
  induction l generalizing k with
  | nil => exact ⟨rfl, rfl⟩
  | cons i l ih =>
    obtain ⟨sram, -, threads, -⟩ := k.touch_keeps (g i)
    exact ⟨(ih _).1.trans sram, (ih _).2.trans threads⟩

@[simp] theorem Core.threads_writeSlots (k : Core) (n count : Nat) (l : List (Nat × Nat)) :
    (k.writeSlots n count l).threads = k.threads := (Core.foldl_touch_keeps ..).2

theorem Core.sram_writeSlots (k : Core) (n count len : Nat) (g : Nat → Nat) :
    (k.writeSlots n count ((List.range len).map fun b => (b, g b))).sram =
      k.sram.setRun (slotData n) len fun b => BitVec.ofNat 8 (g b) := by
  have sram := (Core.foldl_touch_keeps (List.range count) (fun i => slotData (n + i)) k).1
  simp only [Core.writeSlots, List.foldl_map, sram]
  rfl

theorem Core.sram_writeSlots_elements (k : Core) (n count : Nat) {w : Nat} (hw : 0 < w) (f : Nat → Nat) :
    (k.writeSlots n count (elementBytes w f)).sram =
      k.sram.setRun (slotData n) (4096 * w) fun b => BitVec.ofNat 8 (f (b / w) / 256 ^ (b % w) % 256) := by
  rw [elementBytes, flatMap_bytes w 4096 f hw, Core.sram_writeSlots]

/-- Byte b of the element at a row and a column. -/
theorem Memory.byte_elements (m : Memory) (a : Nat) {w i j b : Nat} (f : Nat → Nat) (hi : i < 64) (hj : j < 64) (hb : b < w) :
    ((m.setRun a (4096 * w) fun b => BitVec.ofNat 8 (f (b / w) / 256 ^ (b % w) % 256)).byte (a + (w * (64 * i + j) + b))).toNat =
      f (64 * i + j) / 256 ^ b % 256 := by
  have last : w * (64 * i + j) + b < 4096 * w := by
    calc w * (64 * i + j) + b < w * (64 * i + j) + w := by omega
      _ = w * (64 * i + j + 1) := by ring
      _ ≤ w * 4096 := Nat.mul_le_mul_left _ (by omega)
      _ = 4096 * w := Nat.mul_comm ..
  have index : (w * (64 * i + j) + b) / w = 64 * i + j := by rw [Nat.mul_add_div (by omega), Nat.div_eq_of_lt hb, Nat.add_zero]
  have rest : (w * (64 * i + j) + b) % w = b := by rw [Nat.mul_add_mod, Nat.mod_eq_of_lt hb]
  rw [Memory.byte_setRun_at _ _ _ last, index, rest, BitVec.toNat_ofNat, Nat.mod_mod]

@[simp] theorem Core.sram_markRange (k : Core) (lo n : Nat) (bad : Bool) : (k.markRange lo n bad).sram = k.sram := rfl
@[simp] theorem Core.threads_markRange (k : Core) (lo n : Nat) (bad : Bool) : (k.markRange lo n bad).threads = k.threads := rfl

/-! ## Accumulators -/

theorem Map.look_append {α : Type} (m n : Map α) (j : Nat) : Map.look (m ++ n) j = (m.look j).or (n.look j) := by
  induction m with
  | nil => rfl
  | cons e m ih =>
    obtain ⟨k, v⟩ := e
    simp only [List.cons_append, Map.look]
    split
    · rfl
    · exact ih

theorem Map.look_none {α : Type} {m : Map α} {j : Nat} (h : ∀ e ∈ m, e.1 ≠ j) : m.look j = none := by
  induction m with
  | nil => rfl
  | cons e m ih =>
    obtain ⟨k, v⟩ := e
    rw [Map.look, if_neg (h (k, v) (List.mem_cons_self ..)).symm]
    exact ih fun e he => h e (List.mem_cons_of_mem _ he)

/-- The listed values of a run of keys; a zero is not listed. -/
def Map.run {α : Type} (base n : Nat) (zero : Nat → Prop) [DecidablePred zero] (g : Nat → α) : Map α :=
  (List.range n).filterMap fun i => if zero i then none else some (base + i, g i)

theorem Map.look_run {α : Type} (base : Nat) {n i : Nat} (zero : Nat → Prop) [DecidablePred zero] (g : Nat → α) (hi : i < n) :
    (Map.run base n zero g).look (base + i) = if zero i then none else some (g i) := by
  induction n with
  | zero => omega
  | succ n ih =>
    have grows : Map.run base (n + 1) zero g = Map.run base n zero g ++ if zero n then [] else [(base + n, g n)] := by
      rw [Map.run, List.range_succ, List.filterMap_append]
      split <;> simp_all [Map.run]
    rw [grows, Map.look_append]
    by_cases last : i = n
    · subst last
      have below : (Map.run base i zero g).look (base + i) = none := Map.look_none fun e he => by
        obtain ⟨j, hj, hje⟩ := List.mem_filterMap.mp he
        have low := List.mem_range.mp hj
        split at hje
        · cases hje
        · cases hje
          simp only
          omega
      rw [below]
      split
      · rfl
      · exact if_pos rfl
    · rw [ih (by omega)]
      have apart : Map.look (if zero n then [] else [(base + n, g n)]) (base + i) = none := by
        split
        · rfl
        · exact if_neg (by omega)
      rw [apart]
      exact Option.or_none

/-- The words of an accumulator that is replaced whole. -/
theorem Core.accWord_setAcc (k : Core) (acc : Nat) (f : Nat → Nat → Nat) {i j : Nat} (hi : i < 64) (hj : j < 64) :
    (k.setAcc acc f).accWord acc i j = f i j % 2 ^ 32 := by
  have row : (64 * i + j) / 64 = i := by omega
  have column : (64 * i + j) % 64 = j := by omega
  have listed : (k.setAcc acc f).acc = k.acc.filter (fun e => e.1 < 4096 * acc) ++
      Map.run (4096 * acc) 4096 (fun n => f (n / 64) (n % 64) = 0) (fun n => BitVec.ofNat 32 (f (n / 64) (n % 64))) ++
      k.acc.filter fun e => 4096 * acc + 4096 ≤ e.1 := rfl
  have below : Map.look (k.acc.filter fun e => e.1 < 4096 * acc) (4096 * acc + (64 * i + j)) = none := Map.look_none fun e he => by
    have key := of_decide_eq_true (List.mem_filter.mp he).2
    omega
  have above : Map.look (k.acc.filter fun e => 4096 * acc + 4096 ≤ e.1) (4096 * acc + (64 * i + j)) = none :=
    Map.look_none fun e he => by
      have key := of_decide_eq_true (List.mem_filter.mp he).2
      omega
  rw [Core.accWord, accKey, Nat.add_assoc, Map.at, listed, Map.look_append, Map.look_append, below, above,
    Map.look_run _ _ _ (by omega), row, column, Option.none_or, Option.or_none]
  split
  · next zero => rw [zero]; rfl
  · exact BitVec.toNat_ofNat ..

end Sys2Proof.Machine

/-! PROOFS. What the operations of the matrix array leave in the tile slots and in the accumulators (R161, R169, R170, R182, R184). -/

namespace Sys2Proof.Machine

/-! ## Elements of four bits (R169) -/

/-- Of two elements of four bits in a byte, the one at an even place is the low one. -/
theorem nibble_of_pair {g : Nat → Nat} (small : ∀ y, g y < 16) (y : Nat) :
    (BitVec.ofNat 8 (g (2 * (y / 2)) + g (2 * (y / 2) + 1) * 16)).toNat / 16 ^ (y % 2) % 16 = g y := by
  have low := small (2 * (y / 2))
  have high := small (2 * (y / 2) + 1)
  rw [BitVec.toNat_ofNat]
  rcases Nat.mod_two_eq_zero_or_one y with even | odd
  · have place : 2 * (y / 2) = y := by omega
    rw [place] at low ⊢
    rw [even, Nat.pow_zero]
    omega
  · have place : 2 * (y / 2) + 1 = y := by omega
    rw [place] at high ⊢
    rw [odd, Nat.pow_one]
    omega

theorem Core.code_byte (k : Core) (n r c : Nat) : k.code 0 n r c = (k.sram.byte (slotData n + (r * 64 + c))).toNat := Memory.read_one ..

theorem Core.code_nibble (k : Core) (n r c : Nat) :
    k.code 1 n r c = (k.sram.byte (slotData n + (r * 64 + c) / 2)).toNat / 16 ^ (c % 2) % 16 := by
  rw [Core.code, Memory.read_one]
  rcases Nat.mod_two_eq_zero_or_one c with even | odd
  · rw [even]; rfl
  · rw [odd]; rfl

theorem Core.code_half (k : Core) {kind : Nat} (h : 2 ≤ kind) (n r c : Nat) :
    k.code kind n r c = k.sram.read (slotData n + 2 * (r * 64 + c)) 2 := by
  obtain ⟨e, rfl⟩ := Nat.exists_eq_add_of_le' h
  rfl

/-! ## TTRN (R184) -/

/-- The element that TTRN puts at place i of its destination. -/
def Core.transposed (k : Core) (ctx : Word) (a i : Nat) : Nat := k.code (ctxAKind ctx) a (i % 64) (i / 64)

section
variable {k : Core} {ctx : Word} {d a : Nat}

/-- The side entry that TTRN of a code kind copies. -/
def Core.sideOf (k : Core) (a : Nat) : Memory := k.sram.slice (slotSide a) 0x80 0

theorem Core.wf_sideOf (wf : k.sram.wf = true) : (k.sideOf a).wf = true := Memory.wf_slice _ _ _ wf

theorem Core.byte_sideOf {o : Nat} (ho : o < 128) : (k.sideOf a).byte o = k.sram.byte (slotSide a + o) := by
  rw [Core.sideOf, Memory.byte_slice, if_pos ho]

theorem Core.sram_ttrn_bytes (h : ctxAKind ctx = 0) : (k.ttrnEffect ctx d a).sram =
    (k.sram.setRun (slotData d) 4096 fun b => BitVec.ofNat 8 (k.transposed ctx a b)).paste (slotSide d) 0x80 (k.sideOf a) := by
  have data := k.sram_writeSlots d 1 4096 (k.transposed ctx a)
  unfold Core.transposed at data ⊢
  rw [h] at data ⊢
  rw [← data]
  simp only [Core.ttrnEffect, h]
  rfl

theorem Core.sram_ttrn_nibbles (h : ctxAKind ctx = 1) : (k.ttrnEffect ctx d a).sram =
    (k.sram.setRun (slotData d) 4096 fun b => BitVec.ofNat 8 (if b < 2048 then
      k.transposed ctx a (2 * b) + k.transposed ctx a (2 * b + 1) * 16 else 0)).paste (slotSide d) 0x80 (k.sideOf a) := by
  have data := k.sram_writeSlots d 1 4096 fun b => if b < 2048 then
    k.transposed ctx a (2 * b) + k.transposed ctx a (2 * b + 1) * 16 else 0
  unfold Core.transposed at data ⊢
  rw [h] at data ⊢
  rw [← data]
  simp only [Core.ttrnEffect, h]
  rfl

theorem Core.sram_ttrn_halves (h : 2 ≤ ctxAKind ctx) : (k.ttrnEffect ctx d a).sram =
    k.sram.setRun (slotData d) (4096 * 2) fun b => BitVec.ofNat 8 (k.transposed ctx a (b / 2) / 256 ^ (b % 2) % 256) := by
  have data := k.sram_writeSlots_elements d 2 (Nat.zero_lt_two) (k.transposed ctx a)
  obtain ⟨e, he⟩ := Nat.exists_eq_add_of_le' h
  unfold Core.transposed at data ⊢
  rw [he] at data ⊢
  rw [← data]
  simp only [Core.ttrnEffect, he]
  rfl

/-- A place of the data of a slot lies below every side entry. -/
theorem data_below_side {n m o : Nat} (hn : n < 512) (ho : o < 4096) : slotData n + o < slotSide m := by
  rw [slotData_eq, slotSide_eq]
  omega

theorem Memory.byte_paste_data {m run : Memory} {n e o : Nat} (wf : run.wf = true) (hn : n < 512) (ho : o < 4096) :
    (m.paste (slotSide e) 0x80 run).byte (slotData n + o) = m.byte (slotData n + o) := by
  have apart := data_below_side (m := e) hn ho
  rw [Memory.byte_paste _ _ _ _ _ wf, if_neg (by omega)]

section
variable (hd : d < 512) (wf : k.sram.wf = true)
include hd wf

/-- TTRN of 8-bit elements. -/
theorem Core.byte_ttrn_bytes (h : ctxAKind ctx = 0) {i j : Nat} (hi : i < 64) (hj : j < 64) :
    (k.ttrnEffect ctx d a).sram.byte (slotData d + (64 * i + j)) = k.sram.byte (slotData a + (64 * j + i)) := by
  have row : (64 * i + j) / 64 = i := by omega
  have column : (64 * i + j) % 64 = j := by omega
  rw [Core.sram_ttrn_bytes h, Memory.byte_paste_data (Core.wf_sideOf wf) hd (by omega), Memory.byte_setRun_at _ _ _ (by omega),
    Core.transposed, h, row, column, Core.code_byte, Nat.mul_comm j]
  exact BitVec.ofNat_toNat ..

/-- TTRN of 4-bit elements. -/
theorem Core.byte_ttrn_nibbles (h : ctxAKind ctx = 1) {i j : Nat} (hi : i < 64) (hj : j < 64) :
    ((k.ttrnEffect ctx d a).sram.byte (slotData d + (64 * i + j) / 2)).toNat / 16 ^ (j % 2) % 16 =
      (k.sram.byte (slotData a + (64 * j + i) / 2)).toNat / 16 ^ (i % 2) % 16 := by
  have row : (64 * i + j) / 64 = i := by omega
  have column : (64 * i + j) % 64 = j := by omega
  have small (y : Nat) : k.transposed ctx a y < 16 := by
    rw [Core.transposed, h, Core.code_nibble]
    exact Nat.mod_lt _ (by decide)
  have parity : j % 2 = (64 * i + j) % 2 := by omega
  rw [Core.sram_ttrn_nibbles h, Memory.byte_paste_data (Core.wf_sideOf wf) hd (by omega), Memory.byte_setRun_at _ _ _ (by omega),
    if_pos (by omega), parity, nibble_of_pair small, Core.transposed, h, row, column, Core.code_nibble, Nat.mul_comm j]

/-- Its elements fill the first half of the slot. -/
theorem Core.byte_ttrn_nibbles_rest (h : ctxAKind ctx = 1) {o : Nat} (low : 2048 ≤ o) (high : o < 4096) :
    (k.ttrnEffect ctx d a).sram.byte (slotData d + o) = 0 := by
  rw [Core.sram_ttrn_nibbles h, Memory.byte_paste_data (Core.wf_sideOf wf) hd high, Memory.byte_setRun_at _ _ _ high,
    if_neg (by omega)]
  rfl

end

/-- The side entry of a code kind goes with its tile. -/
theorem Core.byte_ttrn_side (wf : k.sram.wf = true) (h : ctxAKind ctx < 2) {o : Nat} (ho : o < 128) :
    (k.ttrnEffect ctx d a).sram.byte (slotSide d + o) = k.sram.byte (slotSide a + o) := by
  have pasted : ∃ m : Memory, (k.ttrnEffect ctx d a).sram = m.paste (slotSide d) 0x80 (k.sideOf a) := by
    rcases Nat.lt_succ_iff_lt_or_eq.mp h with zero | one
    · exact ⟨_, Core.sram_ttrn_bytes (Nat.lt_one_iff.mp zero)⟩
    · exact ⟨_, Core.sram_ttrn_nibbles one⟩
  obtain ⟨m, pasted⟩ := pasted
  rw [pasted, Memory.byte_paste _ _ _ _ _ (Core.wf_sideOf wf), if_pos (by omega), Nat.add_sub_cancel_left, Core.byte_sideOf ho]

/-- TTRN of 16-bit elements. -/
theorem Core.byte_ttrn_halves (h : 2 ≤ ctxAKind ctx) {i j b : Nat} (hi : i < 64) (hj : j < 64) (hb : b < 2) :
    (k.ttrnEffect ctx d a).sram.byte (slotData d + (2 * (64 * i + j) + b)) = k.sram.byte (slotData a + (2 * (64 * j + i) + b)) := by
  have row : (64 * i + j) / 64 = i := by omega
  have column : (64 * i + j) % 64 = j := by omega
  refine BitVec.eq_of_toNat_eq ?_
  rw [Core.sram_ttrn_halves h, Memory.byte_elements _ _ _ hi hj hb, Core.transposed, row, column, Core.code_half _ h,
    Memory.read_byte _ _ hb, Nat.mul_comm j, Nat.add_assoc]

theorem Core.byte_ttrn_halves_other (h : 2 ≤ ctxAKind ctx) (hd : d < 511) (o : Nat) :
    (k.ttrnEffect ctx d a).sram.byte (slotSide d + o) = k.sram.byte (slotSide d + o) := by
  have above : slotData d + 4096 * 2 ≤ slotSide d + o := by
    rw [slotData_eq, slotSide_eq]
    omega
  rw [Core.sram_ttrn_halves h, Memory.byte_setRun_other _ _ (.inr above)]

end

/-! ## MST (R182) -/

/-- The accumulator word at a place of a tile. -/
def Core.wordAt (k : Core) (acc i : Nat) : Nat := k.accWord acc (i / 64) (i % 64)

theorem Core.wordAt_place (k : Core) (acc : Nat) {i j : Nat} (hj : j < 64) : k.wordAt acc (64 * i + j) = k.accWord acc i j := by
  have row : (64 * i + j) / 64 = i := by omega
  have column : (64 * i + j) % 64 = j := by omega
  rw [Core.wordAt, row, column]

theorem Core.threads_mstEffect (k : Core) (ctx : Word) (fmt acc n : Nat) : (k.mstEffect ctx fmt acc n).1.threads = k.threads := by
  simp only [Core.mstEffect]
  split
  · simp only [Core.threads_markRange, Core.threads_writeSlots]
  split
  · simp only [Core.threads_markRange, Core.threads_writeSlots]
  · simp only [Core.threads_markRange, Core.threads_writeSlots]

section
variable {k : Core} {ctx : Word} {acc n : Nat}

theorem Core.mstEffect_words : k.mstEffect ctx 0 acc n =
    ((k.writeSlots n 4 (elementBytes 4 (k.wordAt acc))).markRange (slotData n) 0x4000 false, 0) := by
  simp only [Core.mstEffect, if_true]
  rfl

/-- MST in FP32. -/
theorem Core.byte_mst_words {i j b : Nat} (hi : i < 64) (hj : j < 64) (hb : b < 4) :
    ((k.mstEffect ctx 0 acc n).1.sram.byte (slotData n + (4 * (64 * i + j) + b))).toNat = k.accWord acc i j / 256 ^ b % 256 := by
  rw [Core.mstEffect_words, Core.sram_markRange, Core.sram_writeSlots_elements _ _ _ (by decide),
    Memory.byte_elements _ _ _ hi hj hb, Core.wordAt_place _ _ hj]

/-- A value of FP32 in a narrower format, rounded to nearest. -/
def narrowed (F : Fmt) : FVal → Nat
  | .nan _ => F.nan
  | .inf n => F.inf n
  | .fin n g e => (F.round ⟨0, false⟩ n g e).1

/-- A word saturates where it is finite and its narrower form is an infinity. -/
theorem narrow_eq {F : Fmt} (hF : 1 ≤ F.ebits) (w : Nat) : narrow F w = (narrowed F (fmtS.unpack false w),
    (fmtS.unpack false w).isFin &&
      (narrowed F (fmtS.unpack false w) == F.inf true || narrowed F (fmtS.unpack false w) == F.inf false)) := by
  unfold narrow
  cases fmtS.unpack false w with
  | nan q => rfl
  | inf q => rfl
  | fin q g e =>
    cases q with
    | false =>
      have other : (F.round ⟨0, false⟩ false g e).1 ≠ F.inf true := F.round_ne_inf hF false g e
      simp [narrowed, FVal.isFin, beq_false_of_ne other]
    | true =>
      have other : (F.round ⟨0, false⟩ true g e).1 ≠ F.inf false := F.round_ne_inf hF true g e
      simp [narrowed, FVal.isFin, beq_false_of_ne other]

section
variable {f : Nat} {F : Fmt} (hF : f = 1 ∧ F = fmtBF ∨ f = 2 ∧ F = fmtH)
include hF

theorem Core.mstEffect_narrow : k.mstEffect ctx f acc n =
    ((k.writeSlots n 2 (elementBytes 2 fun i => (narrow F (k.wordAt acc i)).1)).markRange (slotData n) 0x2000 false,
      (List.range 4096).countP fun i => (narrow F (k.wordAt acc i)).2) := by
  rcases hF with ⟨rfl, rfl⟩ | ⟨rfl, rfl⟩
  · simp only [Core.mstEffect, if_true, Nat.one_ne_zero, OfNat.one_ne_ofNat, if_false]
    rfl
  · simp only [Core.mstEffect, Nat.reduceEqDiff, OfNat.ofNat_ne_zero, if_false]
    rfl

/-- MST rounded to BF16 or FP16. -/
theorem Core.byte_mst_halves {i j b : Nat} (hi : i < 64) (hj : j < 64) (hb : b < 2) :
    ((k.mstEffect ctx f acc n).1.sram.byte (slotData n + (2 * (64 * i + j) + b))).toNat =
      narrowed F (fmtS.unpack false (k.accWord acc i j)) / 256 ^ b % 256 := by
  have wide : 1 ≤ F.ebits := by rcases hF with ⟨-, rfl⟩ | ⟨-, rfl⟩ <;> decide
  rw [Core.mstEffect_narrow hF, Core.sram_markRange, Core.sram_writeSlots_elements _ _ _ (by decide),
    Memory.byte_elements _ _ (fun i => (narrow F (k.wordAt acc i)).1) hi hj hb, Core.wordAt_place _ _ hj, narrow_eq wide]

theorem Core.count_mst_halves : (k.mstEffect ctx f acc n).2 = (List.range 4096).countP fun i =>
    (fmtS.unpack false (k.wordAt acc i)).isFin && (narrowed F (fmtS.unpack false (k.wordAt acc i)) == F.inf true ||
      narrowed F (fmtS.unpack false (k.wordAt acc i)) == F.inf false) := by
  have wide : 1 ≤ F.ebits := by rcases hF with ⟨-, rfl⟩ | ⟨-, rfl⟩ <;> decide
  simp only [Core.mstEffect_narrow hF, narrow_eq wide]

end

end

end Sys2Proof.Machine

/-! PROOFS. MST with codes and scales (R159, R169, R170, R182). -/

namespace Sys2Proof.Machine

section
variable (k : Core) (ctx : Word) (acc : Nat)

/-- The scale of a block of 32 of a row of an accumulator (R159). -/
def Core.blockScale (i b : Nat) : Int := (k.bscale (ctxOTab ctx) ((List.range 32).map fun r =>
  fmtS.unpack false (k.accWord acc i (32 * b + r)))).1

/-- The value of an element under the scale of its block (R182). -/
def Core.scaledValue (i j : Nat) : FVal := if k.blockScale ctx acc i (j / 32) = -128 then .fin false 0 0
  else (fmtS.unpack false (k.accWord acc i j)).scaleBy (-(k.blockScale ctx acc i (j / 32)))

/-- Its code, and whether a finite value has none near it (R157). -/
def Core.elementCode (i j : Nat) : Nat := (k.enc (ctxOTab ctx) (ctxO4 ctx) (k.scaledValue ctx acc i j)).1
def Core.saturates (i j : Nat) : Bool := (k.scaledValue ctx acc i j).isFin &&
  (k.enc (ctxOTab ctx) (ctxO4 ctx) (k.scaledValue ctx acc i j)).2 == fOF

/-- The blocks in order, each with its scale and its codes. -/
theorem Core.codeTile_eq : k.codeTile ctx acc = (List.range 128).map fun n => (n, k.blockScale ctx acc (n / 2) (n % 2),
    (List.range 32).map fun q => (k.elementCode ctx acc (n / 2) (32 * (n % 2) + q), k.saturates ctx acc (n / 2) (32 * (n % 2) + q))) := by
  refine List.map_congr_left fun n _ => ?_
  simp only [Nat.mul_comm (n % 2) 32, List.map_map]
  refine congrArg (fun l => (n, k.blockScale ctx acc (n / 2) (n % 2), l)) (List.map_congr_left fun q hq => ?_)
  have low : q < 32 := List.mem_range.mp hq
  have block : (32 * (n % 2) + q) / 32 = n % 2 := by omega
  rw [Core.elementCode, Core.saturates, Core.scaledValue, block]
  rfl

end

theorem getD_map_range {α : Type} (f : Nat → α) (x : α) {n i : Nat} (h : i < n) : ((List.range n).map f).getD i x = f i := by
  simp [List.getD_eq_getElem?_getD, h]

section
variable {k : Core} {ctx : Word} {acc n : Nat}

/-- The code that the tile holds at place i. -/
def Core.codeAt (k : Core) (ctx : Word) (acc i : Nat) : Nat :=
  (((k.codeTile ctx acc).getD (i / 64 * 2 + i % 64 / 32) (0, 0, [])).2.2.getD (i % 32) (0, false)).1

theorem Core.codeAt_eq {i : Nat} (hi : i < 4096) : k.codeAt ctx acc i = k.elementCode ctx acc (i / 64) (i % 64) := by
  have row : (i / 64 * 2 + i % 64 / 32) / 2 = i / 64 := by omega
  have column : 32 * ((i / 64 * 2 + i % 64 / 32) % 2) + i % 32 = i % 64 := by omega
  rw [Core.codeAt, Core.codeTile_eq, getD_map_range _ _ (by omega), getD_map_range _ _ (Nat.mod_lt _ (by decide)), row, column]

/-- The data of the tile, byte by byte. -/
def Core.codeByte (k : Core) (ctx : Word) (acc b : Nat) : Nat :=
  if ctxO4 ctx then (if b < 2048 then k.codeAt ctx acc (2 * b) % 16 + k.codeAt ctx acc (2 * b + 1) % 16 * 16 else 0)
  else k.codeAt ctx acc b

/-- The local memory after MST with codes: the data of the tile, then its scales. -/
theorem Core.sram_mst_codes : (k.mstEffect ctx 3 acc n).1.sram =
    (k.sram.setRun (slotData n) 4096 fun b => BitVec.ofNat 8 (k.codeByte ctx acc b)).setRun (slotSide n) 128 fun b =>
      BitVec.ofInt 8 (k.blockScale ctx acc (b / 2) (b % 2)) := by
  have bytes : (if ctxO4 ctx then (List.range 4096).map fun b =>
      (b, if b < 2048 then k.codeAt ctx acc (2 * b) % 16 + k.codeAt ctx acc (2 * b + 1) % 16 * 16 else 0)
      else (List.range 4096).map fun b => (b, k.codeAt ctx acc b)) = (List.range 4096).map fun b => (b, k.codeByte ctx acc b) := by
    cases four : ctxO4 ctx
    · simp only [Core.codeByte, four, Bool.false_eq_true, if_false]
    · simp only [Core.codeByte, four, if_true]
  have effect : (k.mstEffect ctx 3 acc n).1.sram = (k.codeTile ctx acc).foldl
      (fun m x => m.setByte (slotSide n + x.1) (BitVec.ofInt 8 x.2.1))
      (k.writeSlots n 1 (if ctxO4 ctx then (List.range 4096).map fun b =>
        (b, if b < 2048 then k.codeAt ctx acc (2 * b) % 16 + k.codeAt ctx acc (2 * b + 1) % 16 * 16 else 0)
        else (List.range 4096).map fun b => (b, k.codeAt ctx acc b))).sram := by
    simp only [Core.mstEffect, OfNat.ofNat_ne_zero, if_false, if_true, Core.sram_markRange, Core.codeAt]
  rw [effect, bytes, Core.sram_writeSlots, Core.codeTile_eq, List.foldl_map]
  rfl

section
variable (hn : n < 512) {i j : Nat} (hi : i < 64) (hj : j < 64)
include hn hi hj

theorem Core.byte_mst_codes (bytes : ctxO4 ctx = false) :
    ((k.mstEffect ctx 3 acc n).1.sram.byte (slotData n + (64 * i + j))).toNat = k.elementCode ctx acc i j % 256 := by
  have row : (64 * i + j) / 64 = i := by omega
  have column : (64 * i + j) % 64 = j := by omega
  have below := data_below_side (m := n) hn (show 64 * i + j < 4096 by omega)
  rw [Core.sram_mst_codes, Memory.byte_setRun_other _ _ (.inl below), Memory.byte_setRun_at _ _ _ (by omega), Core.codeByte, bytes]
  rw [if_neg Bool.false_ne_true, Core.codeAt_eq (by omega), row, column]
  exact BitVec.toNat_ofNat ..

theorem Core.nibble_mst_codes (four : ctxO4 ctx = true) :
    ((k.mstEffect ctx 3 acc n).1.sram.byte (slotData n + (64 * i + j) / 2)).toNat / 16 ^ (j % 2) % 16 =
      k.elementCode ctx acc i j % 16 := by
  have row : (64 * i + j) / 64 = i := by omega
  have column : (64 * i + j) % 64 = j := by omega
  have parity : j % 2 = (64 * i + j) % 2 := by omega
  have below := data_below_side (m := n) hn (show (64 * i + j) / 2 < 4096 by omega)
  rw [Core.sram_mst_codes, Memory.byte_setRun_other _ _ (.inl below), Memory.byte_setRun_at _ _ _ (by omega), Core.codeByte, four,
    if_pos rfl, if_pos (by omega), parity,
    nibble_of_pair (g := fun y => k.codeAt ctx acc y % 16) (fun y => Nat.mod_lt _ (by decide)) (64 * i + j),
    Core.codeAt_eq (by omega), row, column]

end

theorem Core.byte_mst_codes_rest (hn : n < 512) (four : ctxO4 ctx = true) {o : Nat} (low : 2048 ≤ o) (high : o < 4096) :
    (k.mstEffect ctx 3 acc n).1.sram.byte (slotData n + o) = 0 := by
  have below := data_below_side (m := n) hn high
  rw [Core.sram_mst_codes, Memory.byte_setRun_other _ _ (.inl below), Memory.byte_setRun_at _ _ _ high, Core.codeByte, four,
    if_pos rfl, if_neg (by omega)]
  rfl

theorem Core.byte_mst_scales {i b : Nat} (hi : i < 64) (hb : b < 2) :
    (k.mstEffect ctx 3 acc n).1.sram.byte (slotSide n + (2 * i + b)) = BitVec.ofInt 8 (k.blockScale ctx acc i b) := by
  have row : (2 * i + b) / 2 = i := by omega
  have block : (2 * i + b) % 2 = b := by omega
  rw [Core.sram_mst_codes, Memory.byte_setRun_at _ _ _ (by omega), row, block]

end

end Sys2Proof.Machine

/-! PROOFS. The end of an operation of the matrix array (R161, R177, R178, R181 to R184). -/

namespace Sys2Proof.Machine

/-! ## MATRIX_RETIRE -/

/-- A core whose array is free. -/
def Core.arrayFreed (k : Core) : Core := { k with array := { k.array with running := none } }

/-- A thread that waited for matrix operations looks again (R176, R177). -/
def Thread.afterMatrix (t : Thread) : Thread := if t.tstate == .waiting && t.wait == .matrix then t.resumed else t

theorem Thread.pending_afterMatrix (t : Thread) : t.afterMatrix.pending = t.pending := by
  unfold Thread.afterMatrix
  split <;> rfl

section
variable {s : State} {u q done : Nat} {o : MatOp}

/-- The device once the operation that its array runs has retired. -/
def State.afterRetire (s : State) (u q : Nat) (o : MatOp) : State :=
  let r := (s.retire u q o).modCore u Core.arrayFreed
  if q = 16 then r else r.modCoreThread u q Thread.afterMatrix

theorem exec_matrixRetire (hu : u < 1024) (running : (s.core u).array.running = some (q, o, done)) (due : done ≤ s.time) :
    exec (.matrixRetire u) s = .next (s.afterRetire u q o) := by
  change execMatrixRetire u s = _
  rw [execMatrixRetire, coreEvent_next hu, running]
  exact congrArg _ (if_pos due)

/-- The array is free and the slot's thread may go on; nothing else of the core changes, nor what is still to come to the thread. -/
theorem State.core_afterRetire : ∃ threads, (s.afterRetire u q o).core u =
    { (s.retire u q o).core u with threads, array := { ((s.retire u q o).core u).array with running := none } } := by
  unfold State.afterRetire
  split
  · exact ⟨_, State.core_modCore_self ..⟩
  · rw [State.modCoreThread, State.modThread, State.core_setThread, if_pos ⟨rfl, rfl⟩, State.core_modCore_self]
    exact ⟨_, rfl⟩

theorem State.pending_afterRetire : ((s.afterRetire u q o).coreThread u q).pending = ((s.retire u q o).coreThread u q).pending := by
  have thread := State.coreThread_modCore (f := Core.arrayFreed) (fun _ => rfl) (s.retire u q o) u u q
  unfold State.afterRetire
  split
  · rw [thread]
  · rw [State.coreThread_modCoreThread_self, Thread.pending_afterMatrix, thread]

/-- What the end of an operation shows: the array is free, and the rest is as the operation left it. -/
theorem matrixRetire_ends (hu : u < 1024) (running : (s.core u).array.running = some (q, o, done)) (due : done ≤ s.time) :
    ∃ t, exec (.matrixRetire u) s = .next t ∧ (t.core u).array.running = none ∧
      (t.core u).sram = ((s.retire u q o).core u).sram ∧ (t.core u).acc = ((s.retire u q o).core u).acc ∧
      (t.coreThread u q).pending = ((s.retire u q o).coreThread u q).pending := by
  obtain ⟨threads, core⟩ := s.core_afterRetire (u := u) (q := q) (o := o)
  refine ⟨_, exec_matrixRetire hu running due, ?_, ?_, ?_, State.pending_afterRetire⟩
  all_goals rw [core]

end

/-! ## What each kind leaves -/

section
variable {s : State} {u q late at' : Nat} {ctx : Word}

theorem State.retire_mzero (acc : Nat) :
    ((s.retire u q ⟨.mzero acc, ctx, late, at', none⟩).core u).acc = ((s.core u).setAcc acc fun _ _ => 0).acc ∧
      ((s.retire u q ⟨.mzero acc, ctx, late, at', none⟩).core u).sram = (s.core u).sram := by
  simp only [State.retire, State.core_setCore_self]
  exact ⟨trivial, rfl⟩

theorem Core.poisonSlots_clean {k : Core} (clean : k.sramPoison = []) (n count : Nat) : k.poisonSlots n count = none := by
  simp [Core.poisonSlots, Core.poisonRange, clean, Map.at]

theorem State.retire_mld {acc m : Nat} (clean : (s.core u).sramPoison = []) :
    ((s.retire u q ⟨.mld acc m, ctx, late, at', none⟩).core u).acc =
        ((s.core u).setAcc acc fun i j => (s.core u).sram.read (slotData m + 4 * (i * 64 + j)) 4).acc ∧
      ((s.retire u q ⟨.mld acc m, ctx, late, at', none⟩).core u).sram = (s.core u).sram := by
  simp only [State.retire, Core.poisonSlots_clean clean, State.core_setCore_self]
  exact ⟨trivial, rfl⟩

theorem Core.mmaPoison_clean {k : Core} (clean : k.sramPoison = []) (a b : Nat) (tr : Bool) : k.mmaPoison ctx a b tr = none := by
  simp [Core.mmaPoison, Core.poisonOperand, clean]

theorem State.retire_mma {acc a b : Nat} {clear tr : Bool} (clean : (s.core u).sramPoison = []) (pure : (s.core u).accPoison = []) :
    ((s.retire u q ⟨.mma acc a b clear tr, ctx, late, at', none⟩).core u).acc = ((s.core u).mma ctx acc a b clear tr).acc ∧
      ((s.retire u q ⟨.mma acc a b clear tr, ctx, late, at', none⟩).core u).sram = (s.core u).sram := by
  have unmarked : ((s.core u).accPoison.at acc false && !clear) = false := by simp [pure, Map.at]
  simp only [State.retire, Core.mmaPoison_clean clean, unmarked, Bool.false_eq_true, if_false, State.core_setCore_self]
  exact ⟨trivial, rfl⟩

theorem Core.accWord_of_acc {k k' : Core} (h : k'.acc = k.acc) (acc i j : Nat) : k'.accWord acc i j = k.accWord acc i j := by
  rw [Core.accWord, Core.accWord, h]

/-- The products of a row and a column, in the two blocks of 32 in which they are added (R161). -/
theorem Core.accWord_mma (k : Core) {acc a b i j : Nat} {clear tr : Bool} (hi : i < 64) (hj : j < 64) :
    (k.mma ctx acc a b clear tr).accWord acc i j =
      blockSum (blockSum (if clear then 0 else k.accWord acc i j)
        ((List.range 32).map fun q => mulExact (k.aVal ctx a i q) (k.bVal ctx tr b q j)))
        ((List.range 32).map fun q => mulExact (k.aVal ctx a i (q + 32)) (k.bVal ctx tr b (q + 32) j)) % 2 ^ 32 := by
  have halves : (List.range 64).map (fun q => mulExact (k.aVal ctx a i q) (k.bVal ctx tr b q j)) =
      ((List.range 32).map fun q => mulExact (k.aVal ctx a i q) (k.bVal ctx tr b q j)) ++
        (List.range 32).map fun q => mulExact (k.aVal ctx a i (q + 32)) (k.bVal ctx tr b (q + 32) j) := by
    rw [show 64 = 32 + 32 from rfl, List.range_add, List.map_append, List.map_map]
    simp only [Function.comp_def, Nat.add_comm 32]
  have length (f : Nat → FVal) : ((List.range 32).map f).length = 32 := by simp
  rw [Core.mma, Core.accWord_setAcc _ _ _ hi hj, getD_map_range _ _ hi, getD_map_range _ _ hj, List.zipWith_map, List.zipWith_self,
    halves]
  dsimp only
  rw [List.take_left' (length _), List.drop_left' (length _)]

theorem State.retire_mst {fmt acc m : Nat} (pure : (s.core u).accPoison.at acc false = false) :
    s.retire u q ⟨.mst fmt acc m, ctx, late, at', none⟩ = (s.setCore u ((s.core u).mstEffect ctx fmt acc m).1).modCoreThread u q
      fun t => t.settle late (.ready (w64 ((s.core u).mstEffect ctx fmt acc m).2)) := by
  simp only [State.retire, pure, Bool.false_eq_true, if_false]

theorem State.sram_retire_mst {fmt acc m : Nat} (pure : (s.core u).accPoison.at acc false = false) :
    ((s.retire u q ⟨.mst fmt acc m, ctx, late, at', none⟩).core u).sram = ((s.core u).mstEffect ctx fmt acc m).1.sram := by
  rw [State.retire_mst pure, State.modCoreThread, State.modThread, State.core_setThread, if_pos ⟨rfl, rfl⟩, State.core_setCore_self]
  rfl

theorem State.pending_retire_mst {fmt acc m : Nat} (pure : (s.core u).accPoison.at acc false = false) :
    ((s.retire u q ⟨.mst fmt acc m, ctx, late, at', none⟩).coreThread u q).pending =
      ((s.coreThread u q).settle late (.ready (w64 ((s.core u).mstEffect ctx fmt acc m).2))).pending := by
  have thread : (s.setCore u ((s.core u).mstEffect ctx fmt acc m).1).coreThread u q = s.coreThread u q := by
    have threads := (s.core u).threads_mstEffect ctx fmt acc m
    simp only [State.coreThread, State.thread, Bool.false_eq_true, if_false, State.core_setCore_self, Core.thread, threads]
  rw [State.retire_mst pure, State.coreThread_modCoreThread_self, thread]

theorem State.sram_retire_ttrn {d a : Nat} : ((s.retire u q ⟨.ttrn d a, ctx, late, at', none⟩).core u).sram =
    ((s.core u).ttrnEffect ctx d a).sram := by
  simp only [State.retire]
  split
  · next off _ =>
    obtain ⟨places, waits, after⟩ := State.core_record (s.setCore u _) u (poisonRecord ((s.setCore u _).partIdOf u) 15 4 off)
    rw [after, State.core_setCore_self]
    split <;> rfl
  · rw [State.core_setCore_self]
    split <;> rfl

end

section
variable {s : State} {u q late at' done : Nat} {ctx : Word} (hu : u < 1024) (due : done ≤ s.time)
include hu due

/-- MST of a clean accumulator ends with its tile in the slots and its count ready (R178, R182). -/
theorem matrixRetire_mst {fmt acc m : Nat} (running : (s.core u).array.running = some (q, ⟨.mst fmt acc m, ctx, late, at', none⟩, done))
    (pure : (s.core u).accPoison.at acc false = false) : ∃ t, exec (.matrixRetire u) s = .next t ∧ (t.core u).array.running = none ∧
      (t.coreThread u q).pending = ((s.coreThread u q).settle late (.ready (w64 ((s.core u).mstEffect ctx fmt acc m).2))).pending ∧
      ∀ o, t.byteAt (.sram u o) = ((s.core u).mstEffect ctx fmt acc m).1.sram.byte o := by
  obtain ⟨t, next, idle, sram, -, pending⟩ := matrixRetire_ends hu running due
  rw [State.pending_retire_mst pure] at pending
  rw [State.sram_retire_mst pure] at sram
  exact ⟨t, next, idle, pending, fun o => congrArg (fun m : Memory => m.byte o) sram⟩

/-- TTRN ends with its tile in the slots, whether or not it met poison (R181, R184). -/
theorem matrixRetire_ttrn {d a : Nat} (running : (s.core u).array.running = some (q, ⟨.ttrn d a, ctx, late, at', none⟩, done)) :
    ∃ t, exec (.matrixRetire u) s = .next t ∧ (t.core u).array.running = none ∧
      ∀ o, t.byteAt (.sram u o) = ((s.core u).ttrnEffect ctx d a).sram.byte o := by
  obtain ⟨t, next, idle, sram, -, -⟩ := matrixRetire_ends hu running due
  rw [State.sram_retire_ttrn] at sram
  exact ⟨t, next, idle, fun o => congrArg (fun m : Memory => m.byte o) sram⟩

end

end Sys2Proof.Machine

namespace Sys2Proof.Proofs

open Sys2Proof.Machine

/-- Settles O48: an error by the storage it lies in; a record and a grant by the search that finds the first; the end of an operation by
its kind, each byte and each word of what it writes in turn. -/
theorem coreEvents : Obligations.CoreEvents := by
  refine ⟨fun s u a hu => ⟨?memory, ?sliceDirty, ?sliceClean, ?cache, ?localMemory, ?accumulator⟩, ?record, ?grant, ?held,
    fun s u q late at' done ctx hu due => ⟨?mzero, ?mld, ?mma, ?words, ?halves, ?codes, ?ttrn⟩⟩
  case memory => exact ⟨_, exec_uncorrectableError hu .., s.poisoned_poisonLine .., rfl, rfl, rfl⟩
  case sliceDirty =>
    intro dirty
    refine ⟨_, (exec_uncorrectableError hu ..).trans (congrArg _ (if_pos dirty)), s.poisoned_poisonLine .., rfl, rfl, rfl⟩
  case sliceClean => exact fun clean => (exec_uncorrectableError hu ..).trans (congrArg _ (if_neg (ne_true_of_eq_false clean)))
  case cache => exact fun held => ⟨_, exec_uncorrectableError hu .., State.storageError_cache_keeps held⟩
  case localMemory =>
    intro space hs inside
    refine ⟨_, (exec_uncorrectableError hu ..).trans (congrArg _ (State.storageError_local hs inside)), ?_⟩
    rw [State.core_modCore_self]
    exact ⟨Map.at_put_self .., rfl⟩
  case accumulator => exact fun small => ⟨_, exec_uncorrectableError hu .., State.storageError_accumulator small⟩
  case record =>
    intro s u x l hu waits room
    exact (coreEvent_next hu (fun s => s.modCore u Core.admitQ7) s).trans
      (congrArg _ (State.modCore_congr (Core.admitQ7_first waits room)))
  case grant =>
    exact fun s u q n o l hu hq active may free queue earlier others hn =>
      exec_arrayGrant_takes hu active hq may free queue earlier others (hn.trans o.occupancy_eq.symm)
  case held => exact fun s u o l hu queue others held active => exec_arrayGrant_stays hu active queue others held
  case mzero =>
    intro acc running
    obtain ⟨t, next, idle, sram, words, -⟩ := matrixRetire_ends hu running due
    refine ⟨t, next, idle, sram.trans (State.retire_mzero acc).2, fun i j hi hj => ?_⟩
    rw [Core.accWord_of_acc (words.trans (State.retire_mzero acc).1), Core.accWord_setAcc _ _ _ hi hj, Nat.zero_mod]
  case mld =>
    intro acc m running clean
    obtain ⟨t, next, idle, sram, words, -⟩ := matrixRetire_ends hu running due
    refine ⟨t, next, idle, sram.trans (State.retire_mld clean).2, fun i j hi hj => ?_⟩
    rw [Core.accWord_of_acc (words.trans (State.retire_mld clean).1), Core.accWord_setAcc _ _ _ hi hj,
      Nat.mod_eq_of_lt (b := 2 ^ 32) (Memory.read_lt _ _ 4), slotData_eq, Nat.mul_comm i]
  case mma =>
    intro acc a b clear tr running clean pure
    obtain ⟨t, next, idle, sram, words, -⟩ := matrixRetire_ends hu running due
    refine ⟨t, next, idle, sram.trans (State.retire_mma clean pure).2, fun i j hi hj => ?_⟩
    rw [Core.accWord_of_acc (words.trans (State.retire_mma clean pure).1), Core.accWord_mma _ hi hj]
  case words =>
    intro acc m running pure _
    obtain ⟨t, next, idle, pending, bytes⟩ := matrixRetire_mst hu due running pure
    rw [Core.mstEffect_words] at pending
    refine ⟨t, next, idle, pending, fun i j b hi hj hb => ?_⟩
    rw [bytes, ← slotData_eq, Nat.add_assoc]
    exact Core.byte_mst_words hi hj hb
  case halves =>
    intro f F acc m hF running pure _ v hv
    obtain rfl : v = fun i j => narrowed F (fmtS.unpack false ((s.core u).accWord acc i j)) := by
      funext i j
      rw [hv]
      cases fmtS.unpack false ((s.core u).accWord acc i j) <;> rfl
    obtain ⟨t, next, idle, pending, bytes⟩ := matrixRetire_mst hu due running pure
    rw [Core.count_mst_halves hF] at pending
    refine ⟨t, next, idle, pending, fun i j b hi hj hb => ?_⟩
    rw [bytes, ← slotData_eq, Nat.add_assoc]
    exact Core.byte_mst_halves hF hi hj hb
  case codes =>
    intro acc m running pure _ hm sc c hsc hc
    obtain rfl : sc = (s.core u).blockScale ctx acc := funext fun i => funext fun b => hsc i b
    obtain rfl : c = (s.core u).elementCode ctx acc := funext fun i => funext fun j => hc i j
    obtain ⟨t, next, idle, -, bytes⟩ := matrixRetire_mst hu due running pure
    refine ⟨t, next, idle, fun i b hi hb => ?_, fun eight i j hi hj => ?_, fun four => ⟨fun i j hi hj => ?_, fun k low high => ?_⟩⟩
    · rw [bytes, ← slotSide_eq, Nat.add_assoc]
      exact Core.byte_mst_scales hi hb
    · rw [bytes, ← slotData_eq, Nat.add_assoc]
      exact Core.byte_mst_codes hm hi hj eight
    · rw [bytes, ← slotData_eq]
      exact Core.nibble_mst_codes hm hi hj four
    · rw [bytes, ← slotData_eq]
      exact Core.byte_mst_codes_rest hm four low high
  case ttrn =>
    intro d a running hd _ wf
    obtain ⟨t, next, idle, bytes⟩ := matrixRetire_ttrn hu due running
    have source (o : Nat) : s.byteAt (.sram u o) = (s.core u).sram.byte o := rfl
    refine ⟨t, next, idle, fun eight i j hi hj => ?_, fun four => ⟨fun i j hi hj => ?_, fun k low high => ?_⟩, fun code k hk => ?_,
      fun half last => ⟨fun i j b hi hj hb => ?_, fun k _ => ?_⟩⟩
    · rw [bytes, source, ← slotData_eq, ← slotData_eq, Nat.add_assoc, Nat.add_assoc]
      exact Core.byte_ttrn_bytes hd wf eight hi hj
    · rw [bytes, source, ← slotData_eq, ← slotData_eq]
      exact Core.byte_ttrn_nibbles hd wf four hi hj
    · rw [bytes, ← slotData_eq]
      exact Core.byte_ttrn_nibbles_rest hd wf four low high
    · rw [bytes, source, ← slotSide_eq, ← slotSide_eq]
      exact Core.byte_ttrn_side wf code hk
    · rw [bytes, source, ← slotData_eq, ← slotData_eq, Nat.add_assoc, Nat.add_assoc]
      exact Core.byte_ttrn_halves half hi hj hb
    · rw [bytes, source, ← slotSide_eq]
      exact Core.byte_ttrn_halves_other half last k

end Sys2Proof.Proofs

/-! PROOFS. BTAG and QSTAT (R241, R244, R384, R439). -/

namespace Sys2Proof.Machine

/-! ## BTAG (R241, R384) -/

/-- What a BTAG that may name its queue does: the dword that the next pop would return says how far past the label it goes. -/
def tagJump (n : Nat) (label : Word) (s : State) : Exec State :=
  match s.headOf n with
  | none => .error (.park .qempty (.queue n 1) id)
  | some h => .ok (s.setPc (label + w64 (8 * btagTag n h)))

section
variable {s t : State} {n : Nat} {off : Int} {x y z : Word} (hb : s.Begins usesNone x y z t)
include hb

theorem btag_outbound : exec (.btag 1 off) s = .next (s.takeTrap 0x0D 121 none) := issue_trap hb (n := cQueue) (v := 121) rfl

theorem btag_denied (user : s.me.priv = .u) : exec (.btag 7 off) s = .next (s.takeTrap 0x02 0 none) := by
  refine issue_trap hb (n := cPrivilege) (v := 0) ?_
  rw [hb.priv, user]
  rfl

variable (inbound : n ≠ 1) (may : n = 7 → s.me.priv ≠ .u)
include inbound may

theorem btag_looks : exec (.btag n off) s = .next (s.ends (tagJump n (s.pcRel off) t)) := by
  have inbound' : (n != 1) = true := bne_iff_ne.mpr inbound
  have may' : (n == 7 && t.me.priv == .u) = false := by
    rw [hb.priv]
    simpa using may
  refine (issue_begins hb).trans ?_
  simp only [inbound', may', Bool.not_false, must_true, except_ok_bind]
  rfl

theorem btag_empty (empty : t.pop n = none) :
    exec (.btag n off) s = .next (s.modMe fun h => h.parked .qempty (.queue n 1)) := by
  have head : t.headOf n = none := congrArg (Option.map Prod.fst) empty
  rw [btag_looks hb inbound may, tagJump, head]
  rfl

theorem btag_jumps {w : Word} {q : State} (next : t.pop n = some (w, q)) :
    exec (.btag n off) s = .next (t.setPc (s.pcRel off + w64 (8 * btagTag n w))) := by
  have head : t.headOf n = some w := congrArg (Option.map Prod.fst) next
  rw [btag_looks hb inbound may, tagJump, head]
  rfl

end

/-- Only q0 and q2 have a tag; the head of a record reads 0 in its place (R241). -/
theorem btagTag_eq (n : Nat) (w : Word) : btagTag n w = if n < 3 then fld w 19 16 else 0 := by
  by_cases h : n < 3
  · rw [btagTag, if_neg (Nat.not_le.mpr h), if_pos h]
  · rw [btagTag, if_pos (Nat.not_lt.mp h), if_neg h]

/-! ## QSTAT (R244, R439) -/

/-- What QSTAT counts in a core's slot, queue by queue (R244). -/
def State.queueCount (s : State) : Nat → Nat
  | 0 => s.me.queues.q0.length
  | 1 => 32 - (s.me.queues.q1.length + s.me.q1reserved)
  | 2 => if s.me.queues.q2claim ≠ [] then s.me.queues.q2claim.length else ((s.myCore.q2Next s.cur.slot).map (·.len)).getD 0
  | 3 => s.me.queues.q3.length
  | 4 => s.me.queues.q4.length
  | 5 => s.myCore.q5.length
  | 6 => s.myCore.q6.length
  | _ => s.myCore.q7.length

section
variable {s : State} {n : Nat}

theorem State.held_q2 (core : s.cur.pp = false) : s.held 2 = s.queueCount 2 := by
  rw [State.held, core, State.queueCount]
  cases s.myCore.q2Next s.cur.slot <;> rfl

theorem State.qstat_handler (handler : s.cur.pp = true) (n : Nat) : s.qstat n = if n = 0 then s.me.queues.q0.length else 0 :=
  if_pos handler

theorem State.qstat_core (core : s.cur.pp = false) (hn : n < 8) : s.qstat n = s.queueCount n := by
  refine (if_neg (by simp [core])).trans ?_
  match n, hn with
  | 0, _ | 4, _ => simp [State.held, core, State.queueCount]
  | 2, _ => exact State.held_q2 core
  | 1, _ | 3, _ | 5, _ | 6, _ | 7, _ => rfl

theorem qstat_gives {t : State} {d : Nat} {x y z : Word}
    (hb : s.Begins ⟨false, if n = 7 then .deque 127 else .none, .none, .dst d⟩ x y z t) (takes : t.takes d (w64 (t.qstat n))) :
    exec (.qstat d n) s = .next (s.gives false t d (w64 (t.qstat n))) :=
  (issue_begins hb).trans (congrArg _ (State.ends_putX takes))

end

end Sys2Proof.Machine

namespace Sys2Proof.Proofs

open Sys2Proof.Machine

/-- Settles O29: BTAG by its two checks, then by the next pop of its queue; QSTAT by the slot's kind, then by the queue. -/
theorem queueInstructions : Obligations.QueueInstructions := by
  intro s t n d off x y z hn
  refine ⟨fun hb _ => ⟨?_, ?_, fun inbound may => ⟨btag_empty hb inbound may, fun w q next => ?_⟩⟩, fun v hb takes => ⟨?_, ?_⟩⟩
  · rintro rfl
    exact btag_outbound hb
  · rintro rfl
    exact btag_denied hb
  · rw [btag_jumps hb inbound may next, btagTag_eq]
    rfl
  · intro handler hv
    obtain rfl : v = w64 (t.qstat n) := by rw [hv, State.qstat_handler (hb.cur ▸ handler)]
    exact qstat_gives hb takes
  · intro core hv
    obtain rfl : v = w64 (t.qstat n) := by
      rw [hv, State.qstat_core (hb.cur ▸ core) hn, ← hb.cur]
      rfl
    exact qstat_gives hb takes

end Sys2Proof.Proofs

/-! PROOFS. CPY and CWAIT (R245 to R250, R256, R388, R390). -/

namespace Sys2Proof.Machine

/-! ## CPY (R246 to R250, R388) -/

/-- What CPY does once its release has passed: the job takes a free entry. -/
def enterJob (d : Nat) (j : Job) (s : State) : Exec State :=
  match if s.jobRoom s.cur.unit s.cur.slot then s.myHem.freeEntry else none with
  | none => .error (.wait .jobRoom id)
  | some e => putX d (w64 (s.myHem.jobId e)) (s.modMyHem fun h => { h.setJob e j with jobOrder := h.jobOrder + 1 })

/-- The thread holds a STREAM job (R250). -/
def State.holdsStream (s : State) : Bool := (s.myHem.heldBy s.cur.unit s.cur.slot).any fun e => e.2.kind == 5

/-- What CPY does with a job whose descriptor it has read whole: the checks of R250, and the release. -/
def pushJob (d : Nat) (j : Job) (s : State) : Exec State := do
  match j.fault s.holdsStream with
  | some e => trapWith cEngine e
  | none => .ok ()
  let s ← gate true s
  enterJob d j s

/-- NDIM of a descriptor's first four dwords (R247). -/
def ndimOf (raw : Nat) : Nat := fld (w64 (raw / 2 ^ 128)) 3 0

/-- What CPY does with the first four dwords of its descriptor: NDIM, and the dimension entries (R247). -/
def readDims (d : Nat) (a tag : Word) (k raw : Nat) (s : State) : Exec State := do
  must (1 ≤ ndimOf raw && ndimOf raw ≤ 12) cEngine 0x101
  let (l, s) ← readNow .vload .vector (dwordEls (a + 32) (3 * ndimOf raw)) s
  pushJob d (s.newJob a tag k raw (l.map fun w => w64 w.2)) s

section
variable {s t r : State} {d a b k raw : Nat} {x y z : Word} {p : Place} {l : List (Place × Nat)} {j : Job}

theorem cpy_reads (hb : s.Begins (usesDAB d a b) x y z t)
    (read : readNow .vload .vector [⟨x.toNat, 32, 0⟩] t = .ok ([(p, raw)], r)) :
    exec (.cpy d a b k) s = .next (s.ends (readDims d x y k raw r)) := by
  refine (issue_begins hb).trans ?_
  rw [copyJob, read]
  simp only [except_ok_bind, List.map_cons, List.headD_cons, Nat.mul_zero, Nat.pow_zero, Nat.div_one]
  rfl

theorem readDims_range (h : ndimOf raw < 1 ∨ 12 < ndimOf raw) :
    readDims d x y k raw r = trapWith cEngine 0x101 := by
  have outside : (decide (1 ≤ ndimOf raw) && decide (ndimOf raw ≤ 12)) = false := by
    simp only [Bool.and_eq_false_iff, decide_eq_false_iff_not]
    omega
  rw [readDims, outside]
  rfl

theorem readDims_reads (one : 1 ≤ ndimOf raw) (twelve : ndimOf raw ≤ 12)
    (read : readNow .vload .vector (dwordEls (x + 32) (3 * ndimOf raw)) t = .ok (l, r)) :
    readDims d x y k raw t = pushJob d (r.newJob x y k raw (l.map fun w => w64 w.2)) r := by
  rw [readDims, decide_eq_true one, decide_eq_true twelve, read]
  rfl

theorem pushJob_fault {e : Nat} (h : j.fault r.holdsStream = some e) :
    pushJob d j r = trapWith cEngine e := by
  rw [pushJob, h]
  rfl

theorem pushJob_enters (h : j.fault r.holdsStream = none)
    (drained : r.drained true = true) : pushJob d j r = enterJob d j (r.releasedAt true) := by
  rw [pushJob, h, gate_drained drained]
  rfl

/-- A release leaves the jobs of every hem. -/
theorem State.jobRoom_releasedAt (s : State) (wide : Bool) (c n : Nat) : (s.releasedAt wide).jobRoom c n = s.jobRoom c n := by
  rw [State.jobRoom, State.hem_of_rest (s.releasedAt_keeps wide).1.rest]
  rfl

theorem State.cur_releasedAt (s : State) (wide : Bool) : (s.releasedAt wide).cur = s.cur :=
  State.cur_of_rest (s.releasedAt_keeps wide).1.rest

theorem State.myHem_releasedAt (s : State) (wide : Bool) : (s.releasedAt wide).myHem = s.myHem := (s.releasedAt_keeps wide).1.myHem

theorem enterJob_full (full : r.jobRoom r.cur.unit r.cur.slot = false) :
    enterJob d j (r.releasedAt true) = .error (.wait .jobRoom id) := by
  rw [enterJob, State.cur_releasedAt, State.jobRoom_releasedAt, full]
  rfl

theorem enterJob_takes {e : Nat} (room : r.jobRoom r.cur.unit r.cur.slot = true) (free : r.myHem.freeEntry = some e) :
    enterJob d j (r.releasedAt true) = putX d (w64 (r.myHem.jobId e)) ((r.releasedAt true).modMyHem fun h =>
      { h with jobs := h.jobs.put e j, jobOrder := h.jobOrder + 1 }) := by
  rw [enterJob, State.cur_releasedAt, State.jobRoom_releasedAt, room, State.myHem_releasedAt, free]
  rfl

end

/-! ## CWAIT (R256, R390) -/

/-- The state in which an ended job's record is off q3, and its entry is free (R256). -/
def State.consumed (s : State) (id : Nat) : State :=
  (s.modQueues fun q => { q with q3 := q.q3.filter fun r => r.job ≠ id }).modMyHem fun h => h.freeJob (jobEntry id)

/-- Neither q3 nor a hem's jobs take room in q1. -/
theorem State.roomFor_consumed {s : State} {d : Nat} (h : s.roomFor d) (id : Nat) : (s.consumed id).roomFor d := by
  intro q1
  simpa [State.consumed, State.q1Room, State.modQueues, Thread.q1reserved] using h q1

section
variable {s t : State} {d a : Nat} {x y z : Word} {j : Job} (hb : s.Begins (usesDA d a) x y z t)
include hb

theorem cwait_unheld (unheld : t.jobOf t.cur.unit t.cur.slot (fld x 15 0) = none) (takes : t.takes d 0x40) :
    exec (.cwait d a) s = .next (s.gives true t d 0x40) := by
  refine (issue_begins hb).trans ?_
  simp only [awaitJob, unheld]
  exact congrArg _ (State.ends_reserved takes)

variable (room : t.roomFor d) (held : t.jobOf t.cur.unit t.cur.slot (fld x 15 0) = some j)
include room held

theorem cwait_runs (runs : j.state.ended = false) :
    exec (.cwait d a) s = .next (s.modMe fun h => h.parked .jobwait (.jobEnd (fld x 15 0))) := by
  refine issue_park hb ?_
  simp only [awaitJob, reserveX_roomFor room, held, runs]
  rfl

theorem cwait_ended (ended : j.state.ended = true) {v : Word} (hv : v = w64 (j.state.kind + j.cause * 2 ^ 40 + fld x 15 0 * 2 ^ 48))
    (takes : (t.consumed (fld x 15 0)).takes d v) :
    exec (.cwait d a) s = .next (s.gives true (t.consumed (fld x 15 0)) d v) := by
  refine (issue_begins hb).trans ?_
  simp only [awaitJob, reserveX_roomFor room, held, ended]
  rw [← State.ends_lateX (State.roomFor_consumed room _) takes, hv]
  rfl

end

end Sys2Proof.Machine

namespace Sys2Proof.Proofs

open Sys2Proof.Machine

/-- Settles O31: CPY by its two reads, the fault of the job that they describe, then the entry that the job takes; CWAIT by the job that
the thread holds of the id. -/
theorem copyJobs : Obligations.CopyJobs := by
  refine ⟨fun s t r1 r2 d a b k n x y z p raw l hb read hn => ?_, fun s t d a x y z hb room => ⟨cwait_unheld hb, fun j held => ?_⟩⟩
  · subst hn
    rw [cpy_reads hb read]
    refine ⟨fun outside => ?_, fun one twelve dims j hj streams hs => ?_⟩
    · rw [readDims_range outside]
      rfl
    · subst hj hs
      rw [readDims_reads one twelve dims]
      refine ⟨fun e fault => ?_, fun good drained => ?_⟩
      · rw [pushJob_fault fault]
        rfl
      · rw [pushJob_enters good drained]
        refine ⟨fun full => ?_, fun e q v room free hq hv takes => ?_⟩
        · rw [enterJob_full full]
          rfl
        · subst hq hv
          rw [enterJob_takes room free]
          exact congrArg _ (State.ends_putX takes)
  · refine ⟨cwait_runs hb room held, fun q v ended hq hv takes => ?_⟩
    rw [← jobEntry_fld] at hq
    subst hq
    exact cwait_ended hb room held ended hv takes

end Sys2Proof.Proofs
